-- ==== Sys2Proof/Word.lean ====
section
/-!
DEFINITION. The word types of the QV1024 (00 R5, 01 R45) and the sparse map in which memory and every table keyed by a number
is held: keys strictly rising, no entry equal to what an unlisted key reads as.
-/

namespace Sys2Proof

/-- A scalar or mask register, a doubleword (02 R52). -/
abbrev Word := BitVec 64
/-- A byte of memory. -/
abbrev Byte := BitVec 8
/-- A vector register, a message, a record or an engine command: 64 bytes (01 R34, 08 R246). -/
abbrev Msg := BitVec 512
/-- A core: below 1024 the logical device core number (01 R23), from 1024 on the cores of the Mizzen column (01 R20, R25). -/
abbrev CoreId := Fin 1152
/-- A context of a core (01 R37). -/
abbrev CtxId := Fin 4

/-- A sparse map: the entries that differ from the default. -/
abbrev Sparse (α : Type) := List (Nat × α)

/-- What key `k` holds, `dflt` when nothing is listed. -/
def Sparse.get {α : Type} (dflt : α) (m : Sparse α) (k : Nat) : α :=
  match m with
  | [] => dflt
  | (j, v) :: r => if j = k then v else Sparse.get dflt r k

/-- Insert in rising order of keys. -/
def Sparse.insert {α : Type} (m : Sparse α) (k : Nat) (v : α) : Sparse α :=
  match m with
  | [] => [(k, v)]
  | (j, w) :: r => if k < j then (k, v) :: (j, w) :: r else (j, w) :: Sparse.insert r k v

/-- Drop what is listed under `k`. -/
def Sparse.erase {α : Type} (m : Sparse α) (k : Nat) : Sparse α :=
  m.filter (fun e => !(e.1 == k))

/-- Write `v` under `k`, keeping the canonical form. -/
def Sparse.set {α : Type} [DecidableEq α] (dflt : α) (m : Sparse α) (k : Nat) (v : α) : Sparse α :=
  if v = dflt then Sparse.erase m k else Sparse.insert (Sparse.erase m k) k v

/-- The canonical form: keys strictly rising and no entry equal to the default. -/
def Sparse.wf {α : Type} [DecidableEq α] (dflt : α) (m : Sparse α) : Bool :=
  match m with
  | [] => true
  | (k, v) :: r => decide (v ≠ dflt) && (r.all fun e => decide (k < e.1)) && Sparse.wf dflt r

end Sys2Proof
end

