-- ==== Sys2Proof/Machine/Bits.lean ====
section
/-!
DEFINITION. Bit fields, sign extension, byte order and the elements of a 512-bit register (00 R4, R5, R12; 05 R148).
-/

namespace Sys2Proof.Machine

/-- sext(x, n) of 00 R12 as a 64-bit word. -/
def sext (x : Word) (n : Nat) : Word := (x.setWidth n).signExtend 64

/-- zext(x, n) of 00 R12 as a 64-bit word. -/
def zext (x : Word) (n : Nat) : Word := (x.setWidth n).setWidth 64

/-- An address: bits [56:0], sign-extended from bit 56 (03 R96, 04 R136). -/
def va57 (x : Word) : Word := sext x 57

/-- The bits [hi:lo] of a number. -/
def bitsOf (x hi lo : Nat) : Nat := (x >>> lo) % 2 ^ (hi + 1 - lo)

/-- The bits [hi:lo] of a 512-bit record. -/
def Msg.field (m : Msg) (hi lo : Nat) : Nat := bitsOf m.toNat hi lo

/-- Word i of a message: bits [64 i + 63 : 64 i] (08 R246). -/
def Msg.word (m : Msg) (i : Nat) : Word := m.extractLsb' (64 * i) 64

/-- A message made of its words, word 0 first; words not given are 0. -/
def Msg.ofWords (ws : List Word) : Msg :=
  BitVec.ofNat 512 (ws.foldr (fun w acc => w.toNat + 2 ^ 64 * acc) 0)

/-- Word i replaced. -/
def Msg.setWord (m : Msg) (i : Nat) (w : Word) : Msg :=
  Msg.ofWords ((List.range 8).map fun j => if j = i then w else Msg.word m j)

/-- A number read as a two's-complement number of w bits (00 R5). -/
def toSigned (w x : Nat) : Int := if x % 2 ^ w < 2 ^ (w - 1) then ((x % 2 ^ w : Nat) : Int) else ((x % 2 ^ w : Nat) : Int) - 2 ^ w

/-- An integer reduced to its w-bit two's complement. -/
def ofSigned (w : Nat) (x : Int) : Nat := (x % (2 ^ w : Int)).toNat

/-- sat(x, lo, hi) of 00 R12. -/
def satInt (x lo hi : Int) : Int := if x < lo then lo else if hi < x then hi else x

/-- Little-endian: the number the bytes hold, lowest address first (00 R4). -/
def ofBytes (bs : List Byte) : Nat := bs.foldr (fun b acc => b.toNat + 256 * acc) 0

/-- The n bytes of a number, lowest address first. -/
def toBytes (n x : Nat) : List Byte :=
  match n with
  | 0 => []
  | k + 1 => BitVec.ofNat 8 x :: toBytes k (x / 256)

/-- Element i of width w of a vector register (05 R148). -/
def elem (v : Msg) (w i : Nat) : Nat := (v.toNat >>> (i * w)) % 2 ^ w

/-- Numbers laid side by side, w bits each, the first lowest. -/
def packElems (w : Nat) (xs : List Nat) : Nat := xs.foldr (fun x acc => x % 2 ^ w + 2 ^ w * acc) 0

/-- A vector register made of its elements. -/
def ofElems (w : Nat) (xs : List Nat) : Msg := BitVec.ofNat 512 (packElems w xs)

/-- Width in bits of an integer width code (05 R148). -/
def widthOf (w : BitVec 2) : Nat := 8 * 2 ^ w.toNat

/-- Elements per register at an integer width code. -/
def lanesOf (w : BitVec 2) : Nat := 64 / 2 ^ w.toNat

/-- The active elements are f i, the others keep their value (05 R149). -/
def maskedElems (w n : Nat) (k : Word) (old : Msg) (f : Nat → Nat) : Msg :=
  ofElems w ((List.range n).map fun i => if k.getLsbD i then f i else elem old w i)

/-- A mask whose bit i is p i below n and 0 from n on (05 R158). -/
def maskOf (n : Nat) (p : Nat → Bool) : Word :=
  BitVec.ofNat 64 (packElems 1 ((List.range n).map fun i => if p i then 1 else 0))

/-- Number of one bits. -/
def popCount (x : Word) : Nat := ((List.range 64).filter fun i => x.getLsbD i).length

/-- Number of zero bits above the highest one bit, 64 for 0 (04 R127). -/
def leadingZeros (x : Word) : Nat := if x = 0 then 64 else 63 - Nat.log2 x.toNat

/-- Index of the lowest one bit, 64 for 0 (04 R127, 05 R166). -/
def trailingZeros (x : Word) : Nat := ((List.range 64).find? fun i => x.getLsbD i).getD 64

/-- Bit i moved to bit 63 - i (04 R127). -/
def reverseBits (x : Word) : Word := maskOf 64 fun i => x.getLsbD (63 - i)

/-- The least upper power: smallest l with n ≤ 2^l. -/
def ceilLog2 (n : Nat) : Nat := if n ≤ 1 then 0 else Nat.log2 (n - 1) + 1

end Sys2Proof.Machine
end

