-- ==== Sys2Proof/Machine/Packets.lean ====
section
/-!
DEFINITION. What travels between the units of the package: messages, requests to homes, answers and records, each as plain
data. The operands of the event rows of the opcode table are made of these.
-/

namespace Sys2Proof

/-- A sender as a receiver tells senders apart (08 R259): a launch-relative core of a device, or the link die. -/
inductive Party where
  | core (dev : BitVec 1) (rel : BitVec 10)
  | linkDie
  deriving DecidableEq, Repr

/-- What travels beside the 64 bytes of a message (11 R356: a chain; 13 R407: a splice mark; 09 R308: an entry address). -/
inductive PacketKind where
  | plain
  | direct (pc : Word)
  | eval (cell chain0 chain1 chain2 : Word) (pa : Nat)
  | mark (core : CoreId) (entry : Nat)
  deriving DecidableEq, Repr

/-- One half of a pair of launches: its queue, and its place among that queue's paired launches (09 R303). -/
structure LaunchHalf where
  queue : BitVec 16
  index : Nat
  deriving DecidableEq, Repr

/-- A message or engine command on its way (08 R246, R256): the launch it belongs to, its destination core (launch-relative,
0x3FF the link die), its 64 bytes, its sender, what it carries beside, its partition (08 R268), the dimension order that compatibility mode
fixed at its injection (08 R269), and, of a packet of the peer package, the half of its launch there (09 R303). -/
structure Packet where
  lid : Nat
  dst : BitVec 10
  word : Msg
  src : Party
  kind : PacketKind
  part : BitVec 4 := 0
  yFirst : Bool := false
  half : Option LaunchHalf := none
  deriving DecidableEq, Repr

/-- The place of an ARED command: its launch, its tag, and which of the launch's commands with that tag it is (10 R344). -/
structure AredPlace where
  half : LaunchHalf
  tag : BitVec 16
  ord : Nat
  deriving DecidableEq, Repr

/-- What firmware installs for a partition (08 R268 to R270): its class entries, compatibility mode, and routing entries as router, number
and port. -/
structure PartTables where
  classes : List (BitVec 32)
  compat : Bool
  routes : List (Fin 288 × Nat × Fin 6)
  deriving DecidableEq, Repr

/-- A task record of a deque with its priority and the number of its returns (08 R254, R264). -/
structure Task where
  word : Msg
  prio : Nat
  returns : Nat
  deriving DecidableEq, Repr

/-- What a home performs for an issuer (07 R231, R232): the operand values are those of the issue. -/
inductive HomeKind where
  /-- An atomic of 07 R230 by its fn[3:0], with x[b], x[b+1] and the comparand x[d], x[d+1]. -/
  | amo (fn : BitVec 4) (b b1 cmp cmp1 : Word)
  /-- A reduction of 07 R234 by its fn[3:0] and width code. -/
  | red (fn : BitVec 4) (width : BitVec 5) (operand : Word)
  /-- SIGNAL (09 R316). -/
  | signal (value : Word)
  /-- DEPSET (09 R314). -/
  | depset (count : BitVec 32) (prio : BitVec 2) (task : BitVec 57)
  /-- DEPDEC (09 R315). -/
  | depdec
  /-- FURL with its furled word (11 R369). -/
  | furl (w : Word)
  /-- UNFURL with its value (11 R370). -/
  | unfurl (value : Word)
  /-- FCANCEL (11 R372). -/
  | fcancel
  /-- SLINK with the expected and the new link (13 R412). -/
  | slink (expected link : Word)
  deriving DecidableEq, Repr

/-- An operation on its way to a home: issuer with its device, destination register, addresses with the region attribute under which it was
issued, chain flag and ancestors (the issuer's ev.cell and first two ev.chain registers, 11 R357), and what to perform. -/
structure HomeOp where
  dev : BitVec 1
  core : CoreId
  ctx : CtxId
  d : BitVec 5
  va : Word
  pa : Nat
  attr : BitVec 2
  chain : Bool
  /-- The chain flag of the cell after the first one, which a 16-byte operation touches (11 R350). -/
  chain1 : Bool
  anc : Word × Word × Word
  issued : Nat
  kind : HomeKind
  deriving DecidableEq, Repr

/-- What a home answers to the issuer (07 R232, 11 R368): the values for x[d] and x[d+1], or a cause with its value. -/
inductive HomeAns where
  | value (d : BitVec 5) (v : Word)
  | pair (d : BitVec 5) (lo hi : Word)
  | status (d : BitVec 5) (v : Word) (cell : Word) (unfurl : Bool)
  | cause (c : BitVec 9) (v : Word)
  deriving DecidableEq, Repr

/-- What waits on a furled cell (11 R351). -/
inductive FurlWhat where
  | load
  | atomic
  | red (fn : BitVec 4) (width : BitVec 5) (operand : Word)
  | engine (unit : BitVec 3)
  deriving DecidableEq, Repr

/-- A request that met a cell (11 R350): issuer with its device, cell, chain flag, ancestors (11 R357) and cycle of issue. -/
structure FurlReq where
  dev : BitVec 1
  core : CoreId
  ctx : CtxId
  va : Word
  pa : Nat
  chain : Bool
  anc : Word × Word × Word
  what : FurlWhat
  issued : Nat
  deriving DecidableEq, Repr

/-- How a waiter wakes (11 R354): with the word of the cell or with a cause. -/
inductive FurlAns where
  | word (w : Word)
  | cause (c : BitVec 9)
  deriving DecidableEq, Repr

/-- A ring operation on its way to the descriptor's home (08 R280): 0 QPUSH, 1 QPOP, 2 QEOS. -/
structure RingOp where
  core : CoreId
  ctx : CtxId
  op : BitVec 2
  va : Word
  pa : Nat
  data : Msg
  a : BitVec 5
  c : BitVec 5
  lim : BitVec 5
  issued : Nat
  deriving DecidableEq, Repr

/-- The home's answer to a ring operation (08 R280, R281): `fault` a page of the ring that is not granted, `cause` a trap. -/
inductive RingAns where
  | done
  | fault (va : Word) (write : Bool)
  | cause (c : BitVec 9) (v : Word)
  | popped (data : Msg) (op : RingOp)
  | ended (op : RingOp)
  | parked (op : RingOp)
  deriving DecidableEq, Repr

/-- Who asks for a translation (06 R184, R199, 10 R325, 09 R285): `pref` a prefetch of a core with its pointer and its hint. -/
inductive Asker where
  | ctx (c : CoreId) (x : CtxId)
  | engine (c : CoreId) (u : BitVec 3)
  | link
  | slot (n : Fin 128)
  | pref (c : CoreId) (p : Word) (rep : Bool)
  deriving DecidableEq, Repr

/-- Who waits for a line of a read-shared region (06 R181): a core, or the router that tagged its read. -/
inductive Reader where
  | core (c : CoreId)
  | router (r : Fin 288)
  deriving DecidableEq, Repr

/-- The host's copy of a line (07 R223). -/
inductive HostCopy where
  | none | shared | exclusive
  deriving DecidableEq, Repr

/-- The states of a line in an L1 (07 R223). -/
inductive LineSt where
  | m | o | e | s | i | u
  deriving DecidableEq, Repr

/-- A contribution to a VREDG (07 R245). -/
structure Contribution where
  core : CoreId
  ctx : CtxId
  slice : Nat
  word : Bool
  data : Msg
  dst : BitVec 5
  deriving DecidableEq, Repr

/-- A translation (06 R183): a granted page of 2^log bytes. -/
structure Grant where
  pasid : BitVec 20
  va : Nat
  log : Nat
  pa : Nat
  write : Bool
  deriving DecidableEq, Repr

end Sys2Proof
end

