-- ==== Sys2Proof/Syntax.lean ====
section
/-!
DEFINITION. The instruction set: one constructor for every row of spec/opcode_table.json. The first 139 constructors are the
steps of the other agents of the package, with their operands as plain data; the other 293 are the instructions (02 R55 to R68),
with their operand fields as the encoding has them. The mnemonic of each is in LAWS.json. (Lean builds objects of the first 245
constructors only when it compiles code, so the decoder and the step are marked noncomputable; the kernel evaluates both.)
-/

namespace Sys2Proof

inductive Instr where
  /-- WATCHDOG: The handler cycle budget runs out and cause 0x005 aborts the handler. (R147) -/
  | watchdog (c : CoreId) (x : CtxId)
  /-- MX_LDB: Loads one macro's shadow bank from the scratchpad. (R330) -/
  | mxLdb (c : CoreId)
  /-- MX_MMA: Multiplies A rows by the active banks into the accumulator. (R332) -/
  | mxMma (c : CoreId)
  /-- MX_STC: Converts and stores accumulator words. (R335) -/
  | mxStc (c : CoreId)
  /-- MX_ZC: Zeroes a range of accumulator words. (R336) -/
  | mxZc (c : CoreId)
  /-- MX_MARK: Completes when all earlier MX commands have completed. (R336) -/
  | mxMark (c : CoreId)
  /-- CP_LIN: Linear byte copy in chunks. (R339) -/
  | cpLin (c : CoreId)
  /-- CP_2D: Two-dimensional strided copy. (R339) -/
  | cp2d (c : CoreId)
  /-- CP_GATH: Gather copy by an index array. (R339) -/
  | cpGath (c : CoreId)
  /-- TD_DEC: Decodes token-coded FP8 blocks into the scratchpad. (R340) -/
  | tdDec (c : CoreId)
  /-- GM_F2V: Computes a factor-to-variable Gaussian message. (R383) -/
  | gmF2v (c : CoreId)
  /-- GM_V2F: Removes an incoming message from a belief. (R384) -/
  | gmV2f (c : CoreId)
  /-- GM_BEL: Forms a belief from a prior and a list of messages. (R385) -/
  | gmBel (c : CoreId)
  /-- GM_MEAN: Solves for the mean of a belief. (R387) -/
  | gmMean (c : CoreId)
  /-- GM_DAMP: Applies damping of a new message into an old record. (R386) -/
  | gmDamp (c : CoreId)
  /-- SL_START: Loads splice registers and starts the splice unit. (R408) -/
  | slStart (c : CoreId)
  /-- SL_STOP: Stops the splice unit after the rewrite in progress. (R408) -/
  | slStop (c : CoreId)
  /-- SL_DRAIN: Completes when the splice unit has drained. (R408) -/
  | slDrain (c : CoreId)
  /-- LK_ARED: All-reduces a buffer across the pair. (R344) -/
  | lkAred (n : Nat)
  /-- LK_COPY: Copies bytes between host, own and peer memory via the link engine. (R343) -/
  | lkCopy (n : Nat)
  /-- ARED_CHUNK_EXCHANGE: A 4 KiB chunk from the partner arrives and is combined and written. (R344) -/
  | aredChunkExchange (n : AredPlace) (peer : List Byte)
  /-- ENGINE_COMMAND_ARRIVAL: A remote engine command arrives and is accepted into the input FIFO or refused. (R324) -/
  | engineCommandArrival (p : Packet)
  /-- COMPLETION_ELEMENT_ARRIVAL: A completion element reaches the commanding core's output FIFO, or a failure becomes a trap record. (R319) -/
  | completionElementArrival (lid : Nat) (dst : Party) (u : BitVec 3) (e : BitVec 128) (reply : Bool) (rel : BitVec 10)
  /-- REEF_WINDOW: At each 1 µs window start the governor sets the activity band and matrix allowances. (R337) -/
  | reefWindow (die : Fin 4)
  /-- MESSAGE_ARRIVAL: A message for a mailbox arrives and is dropped, refused or accepted. (R253) -/
  | messageArrival (p : Packet)
  /-- ISSUE_SLOT_HANDOFF: The core passes the issue slot to a ready context or starts new work chosen by priority. (R115) -/
  | issueSlotHandoff (c : CoreId)
  /-- SEND_COMMIT: A buffered message or task record is committed once its release and retry-buffer room allow. (R256) -/
  | sendCommit (c : CoreId) (x : CtxId)
  /-- DEQUE_RELOAD: A reload of spilled task records completes into the deque. (R264) -/
  | dequeReload (c : CoreId)
  /-- ACKNOWLEDGEMENT: An acknowledgement frees the message's retry-buffer entry. (R258) -/
  | acknowledgement (lid : Nat) (p : Party) (mid : BitVec 16)
  /-- NACK: A refusal reaches the sender, which sets the back-off. (R258) -/
  | nack (lid : Nat) (p : Party) (mid : BitVec 16) (counted : Bool)
  /-- RETRY_RESEND: The back-off expires and the refused message is resent. (R258) -/
  | retryResend (lid : Nat) (p : Party) (mid : BitVec 16)
  /-- STEAL_REQUEST: A core idle for 64 cycles draws a victim and sends one steal request. (R266) -/
  | stealRequest (c : CoreId)
  /-- STEAL_REQUEST_ARRIVAL: A steal request reaches the victim's deque and takes half its resident records. (R265) -/
  | stealRequestArrival (victim thief : CoreId)
  /-- STEAL_REPLY: Stolen task records reach the thief and are pushed onto its deque. (R265) -/
  | stealReply (thief : CoreId) (ts : List Task)
  /-- DRAIN_AND_SWAP: Firmware stops a partition's injection, drains it and installs new routes. (R270) -/
  | drainAndSwap (part : BitVec 4) (tables : PartTables)
  /-- ESCAPE_RECOVERY: A class queue head stalled for the recovery timeout is moved onto the escape queue. (R272) -/
  | escapeRecovery (router : Fin 288) (inp : Fin 5) (q : Fin 8)
  /-- PARTITION_DROP: A router drops a packet whose partition differs from its destination's. (R273) -/
  | partitionDrop (router : Fin 288) (p : Packet)
  /-- PARTITION_REFUSAL: A partition refusal reaches the sender, which drops the message with cause 0x0C5. (R273) -/
  | partitionRefusal (lid : Nat) (p : Party) (mid : BitVec 16)
  /-- FIREWALL_DROP: A packet crossing a Mizzen column without an admitting firewall entry is dropped and counted. (R440) -/
  | firewallDrop (router : Fin 288) (kind : Fin 7) (src dst : BitVec 11)
  /-- GETS: The home serves a device read request for a line. (R225) -/
  | gets (c : CoreId) (line : Nat)
  /-- GETM: The home serves a device ownership request for a line. (R225) -/
  | getm (c : CoreId) (line : Nat)
  /-- GETU: The home serves a device update-only request for a line. (R225) -/
  | getu (c : CoreId) (line : Nat) (op : BitVec 4) (w : BitVec 5)
  /-- U_PARTIAL: A U partial from an eviction or recall is combined into the home value. (R225) -/
  | uPartial (c : CoreId) (line : Nat)
  /-- HOST_READ: The home serves a host CXL.mem shared read. (R225) -/
  | hostRead (line : Nat)
  /-- HOST_READ_OWN: The home serves a host read for ownership. (R225) -/
  | hostReadOwn (line : Nat)
  /-- HOST_WRITE: The home writes a line for a host write or write-back. (R225) -/
  | hostWrite (line : Nat) (data : Msg) (keep : HostCopy)
  /-- BISNP_RESPONSE: The host's answer to a back-invalidate snoop reaches the home. (R225) -/
  | bisnpResponse (line : Nat) (data : Option Msg) (keep : HostCopy)
  /-- BISNP_REREAD: For an armed line the home re-reads a host exclusive copy on its timer. (R225) -/
  | bisnpReread (line : Nat)
  /-- SNOOP_SHARE: An L1 receives a snoop-share and downgrades its copy. (R224) -/
  | snoopShare (c : CoreId) (line : Nat)
  /-- SNOOP_INVALIDATE: An L1 receives a snoop-invalidate and drops its copy. (R224) -/
  | snoopInvalidate (c : CoreId) (line : Nat)
  /-- RECALL: An L1 receives a recall and sends its U partial home. (R226) -/
  | recallLine (line : Nat)
  /-- LINE_FILL: A line arrives at an L1 in its granted state. (R224) -/
  | lineFill (c : CoreId) (line : Nat) (st : LineSt)
  /-- HOST_SNPDATA: A host SnpData for a host-memory line causes snoop-share to device holders. (R227) -/
  | hostSnpdata (line : Nat)
  /-- HOST_SNPINV: A host SnpInv for a host-memory line causes snoop-invalidate to device holders. (R227) -/
  | hostSnpinv (line : Nat)
  /-- HOME_OPERATION: A home performs an atomic, reduction, SIGNAL, counter, furl or SLINK operation indivisibly. (R231) -/
  | homeOperation (op : HomeOp)
  /-- HOME_RESPONSE: The result or status of a home operation reaches its issuing context. (R232) -/
  | homeResponse (c : CoreId) (x : CtxId) (r : HomeAns)
  /-- MERGE_READ: A router allocates or absorbs into a merge entry for a read-shared read. (R181) -/
  | mergeRead (router : Fin 288) (line : Nat) (who : Reader)
  /-- MERGE_REPLY: The reply reaches the merge router and is delivered to every waiter. (R181) -/
  | mergeReply (router : Fin 288) (line : Nat)
  /-- ATS_RESPONSE: An ATS translation response arrives and installs the entry or raises a not-present fault. (R184) -/
  | atsResponse (who : Asker) (pasid : BitVec 20) (va : Word) (write : Bool)
  /-- PRI_RESPONSE: A PRI response retries the translation or turns the fault into cause 0x041. (R184) -/
  | priResponse (who : Asker) (pasid : BitVec 20) (va : Word) (g : Option Grant)
  /-- ATS_INVALIDATION: The host invalidates translations; the device completes accesses and replies. (R186) -/
  | atsInvalidation (pasid : BitVec 20) (va : Word) (log : Nat)
  /-- PASID_STOP: A PASID is stopped, its slots unmapped and its handlers aborted. (R188) -/
  | pasidStop (pasid : BitVec 20)
  /-- REGION_TABLE_DRAIN: Firmware drains a range and installs a new region table. (R180) -/
  | regionTableDrain (pasid : BitVec 20) (table : List (BitVec 128))
  /-- WAITA_ARM: The home arms a cleat entry and evaluates the condition. (R238) -/
  | waitaArm (c : CoreId) (x : CtxId)
  /-- WAITA_WAKE: A satisfied wake reaches the waiter, which becomes ready with status 0. (R238) -/
  | waitaWake (c : CoreId) (x : CtxId)
  /-- WAITA_EXPIRY: The wait limit passes and the waiter wakes with status 1. (R238) -/
  | waitaExpiry (c : CoreId) (x : CtxId)
  /-- WAITA_POLL: With no cleat entry free the interface re-reads the word every 1,024 cycles. (R241) -/
  | waitaPoll (c : CoreId) (x : CtxId)
  /-- BARRIER_NOTIFICATION: A dissemination notification reaches a member and may finish a round. (R244) -/
  | barrierNotification (g : Fin 256) (phase : BitVec 16) (round rank : Nat)
  /-- GATHER_REPORT: A gather-tree router receives an arrival report on a marked port. (R244) -/
  | gatherReport (g : Fin 256) (phase : BitVec 16) (rank : Nat)
  /-- BARRIER_COMPLETION: Phase completion reaches a member, releasing its waiting contexts. (R242) -/
  | barrierCompletion (g : Fin 256) (phase : BitVec 16) (c : CoreId)
  /-- VREDG_CONTRIBUTION: A slice contribution reaches the rank-0 member's interface. (R245) -/
  | vredgContribution (g : Fin 256) (phase : BitVec 16) (k : Contribution)
  /-- VREDG_RESULT: The reduced vector reaches each VREDG context. (R245) -/
  | vredgResult (g : Fin 256) (phase : BitVec 16)
  /-- RING_OP_AT_HOME: A ring operation is executed or parked at the descriptor's home. (R280) -/
  | ringOpAtHome (op : RingOp)
  /-- RING_ANSWER: A ring operation's answer reaches the issuing context. (R280) -/
  | ringAnswer (c : CoreId) (x : CtxId) (r : RingAns)
  /-- RING_RESEND: With the cleat table full the ring operation is resent every 1,024 cycles. (R280) -/
  | ringResend (c : CoreId) (x : CtxId)
  /-- RING_WAIT_EXPIRY: A ring operation waiting 2^lim cycles raises 0x0C0 or 0x0C1. (R281) -/
  | ringWaitExpiry (c : CoreId) (x : CtxId)
  /-- DOORBELL: A host doorbell write updates TAIL or sets ERR and maps the queue. (R284) -/
  | doorbell (q : BitVec 16) (tail : BitVec 32)
  /-- DIRECT_MESSAGE: A write covering offset 0x058 posts a direct host message. (R308) -/
  | directMessage (q : BitVec 16) (core pc arg1 arg2 : Option Word)
  /-- LAUNCH_RECORD_READ: A launch record and its argument block have been read and HEAD advances. (R285) -/
  | launchRecordRead (n : Fin 128)
  /-- SLOT_IDLE_TIMEOUT: A slot idle for the idle timeout is freed. (R286) -/
  | slotIdleTimeout (n : Fin 128)
  /-- GATE_READ: The launch unit reads a head's gate on doorbells and every 10 µs. (R304) -/
  | gateRead (n : Fin 128)
  /-- GANG_PLACEMENT: The scheduler places the ranked head or back-fill candidates on the grid. (R297) -/
  | gangPlacement
  /-- DEADLINE_PREEMPT: The aged deadline passes and eligible gangs are pre-empted. (R300) -/
  | deadlinePreempt
  /-- PREEMPTION_SAVED: The last context image of a pre-empted gang is written and its clusters free. (R302) -/
  | preemptionSaved (lid : Nat)
  /-- GANG_RESUME: A pre-empted gang's images are written back and its cores continue. (R435) -/
  | gangResume (lid : Nat)
  /-- RT_RESERVATION_MISS: A real-time head not placed within RTDELAY is counted as missed. (R301) -/
  | rtReservationMiss (n : Fin 128)
  /-- LAUNCH_COMPLETION: The first DONE reaching the launch unit completes the launch and writes CWORD. (R40) -/
  | launchCompletion (lid : Nat) (value : Word) (who : Option (CoreId × CtxId))
  /-- QUEUE_TEARDOWN: Firmware tears a queue down, aborting its launches and writing error completions. (R307) -/
  | queueTeardown (q : BitVec 16)
  /-- QUEUE_REGISTER: Firmware registers a queue descriptor or refuses it. (R283) -/
  | queueRegister (q : BitVec 16) (desc : Msg)
  /-- READY_QUEUE_SEND: The launch unit checks and sends the next ready record to its core. (R311) -/
  | readyQueueSend
  /-- READY_QUEUE_REOFFER: A released record is offered again every 1,024 cycles while the ready queue is full. (R311) -/
  | readyQueueReoffer (pa : Nat)
  /-- FURLED_REQUEST_AT_HOME: A load, atomic, reduction or engine read meets a non-VALUE cell at its home. (R350) -/
  | furledRequestAtHome (r : FurlReq)
  /-- EVALUATION_MESSAGE: The furled word reaches the first waiter's core, which builds and commits the evaluation message. (R356) -/
  | evaluationMessage (r : FurlReq) (w : Word)
  /-- RECORD_FAILURE_REPORT: A record failure reaches the home, which sets the cell ERROR with cause 0x103. (R358) -/
  | recordFailureReport (pa : Nat)
  /-- EVALUATION_FAILURE_REPORT: An evaluator's trap reaches the home, which fails an UNFURLING cell. (R362) -/
  | evaluationFailureReport (pa : Nat)
  /-- FURLED_WAKE: A wake with a value or cause reaches a waiting request. (R351) -/
  | furledWake (r : FurlReq) (a : FurlAns)
  /-- FURL_WAIT_LIMIT: A furled waiter reaches the wait limit and wakes with 0x101. (R355) -/
  | furlWaitLimit (r : FurlReq)
  /-- FURL_WAITER_RESEND: A refused furled request is resent every 1,024 cycles. (R352) -/
  | furlWaiterResend (r : FurlReq)
  /-- SPLICE_ANNIHILATE: The splice unit rewrites a pair by an ANNIHILATE rule. (R402) -/
  | spliceAnnihilate (c : CoreId)
  /-- SPLICE_COMMUTE: The splice unit rewrites a pair by a COMMUTE rule. (R402) -/
  | spliceCommute (c : CoreId)
  /-- SPLICE_ERASE: The splice unit rewrites a pair by an ERASE rule. (R402) -/
  | spliceErase (c : CoreId)
  /-- SPLICE_TEMPLATE: The splice unit rewrites a pair from a template. (R402) -/
  | spliceTemplate (c : CoreId)
  /-- SPLICE_HANDLER: The splice unit sends a pair to a handler by message. (R406) -/
  | spliceHandler (c : CoreId)
  /-- SPLICE_ENGINE: The splice unit issues an engine command for a pair and parks node A. (R407) -/
  | spliceEngine (c : CoreId)
  /-- ENGINE_RULE_ELEMENT: An engine-rule element arrives and the result node is wired in. (R407) -/
  | engineRuleElement (c : CoreId) (n : Nat) (e : BitVec 128)
  /-- BAG_RELOAD: A reload of spilled pairs completes into the bag. (R399) -/
  | bagReload (c : CoreId)
  /-- SPLICE_STEAL: An idle splice unit requests pairs from a victim's bag. (R400) -/
  | spliceSteal (c : CoreId)
  /-- BAG_STEAL_ARRIVAL: A steal request reaches a bag and takes half its resident pairs. (R400) -/
  | bagStealArrival (victim thief : CoreId)
  /-- TRAP_RECORD_ARRIVAL: A trap record enters the core's trap queue or goes to the Mizzen fault service. (R421) -/
  | trapRecordArrival (c : CoreId) (lid : Nat) (r : Msg)
  /-- MIGRATION_FORWARD: A migrated core's forwarding entry passes an arrival to the destination. (R437) -/
  | migrationForward (c : CoreId) (p : Packet)
  /-- MAP_ACKNOWLEDGED: All interfaces acknowledge the new map and the forwarding entry is freed. (R437) -/
  | mapAcknowledged (c : CoreId)
  /-- STAY_LINK_TRAINED: The stay link trains with a peer of a different device number. (R32) -/
  | stayLinkTrained (peerDev : BitVec 1) (base : BitVec 57)
  /-- STAY_LINK_LOSS: A trained stay link fails or is lost, which is device-fatal. (R341) -/
  | stayLinkLoss
  /-- DEVICE_FATAL_ERROR: An uncorrectable error stops all cores, logs the error and signals the host. (R424) -/
  | deviceFatalError (kind : BitVec 4) (loc : BitVec 9) (addr : BitVec 57)
  /-- FUNCTION_RESET: A function-level or CXL reset empties queues and resets registers. (R426) -/
  | functionReset
  /-- POWER_ON: The boot core checks the rigging table, releases the dies, trains memory and starts firmware. (R446) -/
  | powerOn (table : BitVec 1024) (sigOk imgOk : Bool)
  /-- READY_BIT_SET: A function becomes usable and sets its bit in the ready map. (R446) -/
  | readyBitSet (n : Fin 334)
  /-- POWER_MEASUREMENT: Every 10 µs package power is measured and dispatch may be held. (R449) -/
  | powerMeasurement (watts : Nat)
  /-- MATRIX_CAP_UPDATE: Every 100 µs the matrix share cap is set to keep power within the cap. (R449) -/
  | matrixCapUpdate (estimate : Nat)
  /-- THERMAL_STEP: Every 10 ms above 100 °C the cap falls, and below 95 °C it returns. (R450) -/
  | thermalStep (celsius : Nat)
  /-- THERMAL_TRIP: A die reaching 110 °C triggers a device-fatal thermal trip. (R450) -/
  | thermalTrip (celsius : Nat)
  /-- GET_VERSION: SPDM GET_VERSION request over DOE. (R443) -/
  | getVersion (req : List Byte)
  /-- GET_CAPABILITIES: SPDM GET_CAPABILITIES request. (R443) -/
  | getCapabilities (req : List Byte)
  /-- NEGOTIATE_ALGORITHMS: SPDM NEGOTIATE_ALGORITHMS request. (R443) -/
  | negotiateAlgorithms (req : List Byte)
  /-- GET_DIGESTS: SPDM GET_DIGESTS request. (R443) -/
  | getDigests (req : List Byte)
  /-- GET_CERTIFICATE: SPDM GET_CERTIFICATE request. (R443) -/
  | getCertificate (req : List Byte)
  /-- CHALLENGE: SPDM CHALLENGE request. (R443) -/
  | challenge (req : List Byte)
  /-- GET_MEASUREMENTS: SPDM GET_MEASUREMENTS reports the measurement blocks as of its last dword. (R445) -/
  | getMeasurements (req : List Byte)
  /-- READBACK_LATCH: A read of word 0 of a multi-word entry latches the whole entry. (R448) -/
  | readbackLatch (addr : BitVec 36)
  /-- ERROR_LOG_CLEAR: A write of 1 clears W1C bits of an error-log entry. (R425) -/
  | errorLogClear (n : Fin 64) (bits : BitVec 128)
  /-- POWER_CAP_WRITE: A host write sets the power cap in the global power register. (R449) -/
  | powerCapWrite (v : Word)
  /-- REGISTER_WRITE: A write to a register without its own row updates its RW fields. (R6) -/
  | registerWrite (addr : BitVec 36) (v : Word)
  /-- ILLEGAL_INSTRUCTION: An encoding with major 0, a reserved major, an unlisted selector, a nonzero reserved field or a bad scope or register pair raises 0x001 with no effect. (R70) -/
  | illegalInstruction (c : CoreId) (x : CtxId) (enc : Word)
  /-- INSTRUCTION_FETCH_FAULT: A translation or permission fault on the halfword at pc, or at pc + 2, raises 0x040 as a fault or 0x041 as a trap before any instruction is decoded. (R70) -/
  | instructionFetchFault (c : CoreId) (x : CtxId) (va : Word) (cause : BitVec 9)
  /-- CHILD_LAUNCH_REQUEST: A LAUNCH request reaches the launch unit, which checks the record and appends it to the slot's child list or refuses it with 0x0CD or 0x0CE. (R313) -/
  | childLaunchRequest (c : CoreId) (x : CtxId) (rec : Msg) (r : Word)
  /-- LAUNCH_ANSWER: The launch unit's answer reaches the core whose LAUNCH holds its issue slot, completing the LAUNCH or raising its cause. (R313) -/
  | launchAnswer (c : CoreId) (x : CtxId) (cause : BitVec 9) (r : Word)
  /-- MIGRATION_IMAGE_INSTALLED: The streamed core and network-interface image finishes arriving at the destination, which installs it, takes its cluster for the launch and sets the source's forwarding entry. (R437) -/
  | migrationImageInstalled (src dst : CoreId)
  /-- ARED_PARTNER_ENDED: A waiting LK.ARED learns that its partner's launch completed or was torn down and fails with 0x0D1. (R344) -/
  | aredPartnerEnded (n : LaunchHalf)
  /-- LINK_LEVEL_RETRY: A stay-link flit error that FEC cannot correct is recovered by link-level retry, replaying the flits. (R341) -/
  | linkLevelRetry
  /-- ADD: Writes the wrapping 64-bit sum of two registers. (R122) -/
  | add (d : BitVec 5) (a : BitVec 5) (b : BitVec 5)
  /-- SUB: Writes the wrapping 64-bit difference of two registers. (R122) -/
  | sub (d : BitVec 5) (a : BitVec 5) (b : BitVec 5)
  /-- AND: Writes the bitwise AND of two registers. (R122) -/
  | and (d : BitVec 5) (a : BitVec 5) (b : BitVec 5)
  /-- OR: Writes the bitwise OR of two registers. (R122) -/
  | or (d : BitVec 5) (a : BitVec 5) (b : BitVec 5)
  /-- XOR: Writes the bitwise XOR of two registers. (R122) -/
  | xor (d : BitVec 5) (a : BitVec 5) (b : BitVec 5)
  /-- ANDN: Writes x[a] AND NOT x[b]. (R122) -/
  | andn (d : BitVec 5) (a : BitVec 5) (b : BitVec 5)
  /-- SLL: Shifts x[a] left by x[b][5:0]. (R122) -/
  | sll (d : BitVec 5) (a : BitVec 5) (b : BitVec 5)
  /-- SRL: Shifts x[a] right logically by x[b][5:0]. (R122) -/
  | srl (d : BitVec 5) (a : BitVec 5) (b : BitVec 5)
  /-- SRA: Shifts x[a] right arithmetically by x[b][5:0]. (R122) -/
  | sra (d : BitVec 5) (a : BitVec 5) (b : BitVec 5)
  /-- ROL: Rotates x[a] left by x[b][5:0]. (R122) -/
  | rol (d : BitVec 5) (a : BitVec 5) (b : BitVec 5)
  /-- ROR: Rotates x[a] right by x[b][5:0]. (R122) -/
  | ror (d : BitVec 5) (a : BitVec 5) (b : BitVec 5)
  /-- MIN: Writes the signed minimum of two registers. (R122) -/
  | min (d : BitVec 5) (a : BitVec 5) (b : BitVec 5)
  /-- MAX: Writes the signed maximum of two registers. (R122) -/
  | max (d : BitVec 5) (a : BitVec 5) (b : BitVec 5)
  /-- MINU: Writes the unsigned minimum of two registers. (R122) -/
  | minu (d : BitVec 5) (a : BitVec 5) (b : BitVec 5)
  /-- MAXU: Writes the unsigned maximum of two registers. (R122) -/
  | maxu (d : BitVec 5) (a : BitVec 5) (b : BitVec 5)
  /-- SLT: Writes 1 if x[a] is signed-less than x[b]. (R122) -/
  | slt (d : BitVec 5) (a : BitVec 5) (b : BitVec 5)
  /-- SLTU: Writes 1 if x[a] is unsigned-less than x[b]. (R122) -/
  | sltu (d : BitVec 5) (a : BitVec 5) (b : BitVec 5)
  /-- SEQ: Writes 1 if the registers are equal. (R122) -/
  | seq (d : BitVec 5) (a : BitVec 5) (b : BitVec 5)
  /-- SNE: Writes 1 if the registers differ. (R122) -/
  | sne (d : BitVec 5) (a : BitVec 5) (b : BitVec 5)
  /-- CSEL: Writes x[a] if the old x[d] is nonzero, else x[b]. (R122) -/
  | csel (d : BitVec 5) (a : BitVec 5) (b : BitVec 5)
  /-- ADDI: Adds a sign-extended 15-bit immediate. (R123) -/
  | addi (d : BitVec 5) (a : BitVec 5) (i : BitVec 15)
  /-- ANDI: ANDs with a sign-extended 15-bit immediate. (R123) -/
  | andi (d : BitVec 5) (a : BitVec 5) (i : BitVec 15)
  /-- ORI: ORs with a zero-extended 15-bit immediate. (R123) -/
  | ori (d : BitVec 5) (a : BitVec 5) (i : BitVec 15)
  /-- XORI: XORs with a zero-extended 15-bit immediate. (R123) -/
  | xori (d : BitVec 5) (a : BitVec 5) (i : BitVec 15)
  /-- SLLI: Shifts left by an immediate amount. (R124) -/
  | slli (d : BitVec 5) (a : BitVec 5) (s : BitVec 6)
  /-- SRLI: Shifts right logically by an immediate amount. (R124) -/
  | srli (d : BitVec 5) (a : BitVec 5) (s : BitVec 6)
  /-- SRAI: Shifts right arithmetically by an immediate amount. (R124) -/
  | srai (d : BitVec 5) (a : BitVec 5) (s : BitVec 6)
  /-- RORI: Rotates right by an immediate amount. (R124) -/
  | rori (d : BitVec 5) (a : BitVec 5) (s : BitVec 6)
  /-- SLTI: Signed compare with a 12-bit immediate. (R124) -/
  | slti (d : BitVec 5) (a : BitVec 5) (i : BitVec 12)
  /-- SLTIU: Unsigned compare with a sign-extended 12-bit immediate. (R124) -/
  | sltiu (d : BitVec 5) (a : BitVec 5) (i : BitVec 12)
  /-- SEQI: Tests equality with a 12-bit immediate. (R124) -/
  | seqi (d : BitVec 5) (a : BitVec 5) (i : BitVec 12)
  /-- SNEI: Tests inequality with a 12-bit immediate. (R124) -/
  | snei (d : BitVec 5) (a : BitVec 5) (i : BitVec 12)
  /-- LIU: Loads a sign-extended 20-bit immediate times 4096. (R125) -/
  | liu (d : BitVec 5) (i : BitVec 20)
  /-- ADRP: Adds a page-scaled immediate to the page of the instruction's own address. (R125) -/
  | adrp (d : BitVec 5) (i : BitVec 20)
  /-- MUL: Writes the low 64 bits of the product. (R126) -/
  | mul (d : BitVec 5) (a : BitVec 5) (b : BitVec 5)
  /-- MULHU: Writes the high 64 bits of the unsigned product. (R126) -/
  | mulhu (d : BitVec 5) (a : BitVec 5) (b : BitVec 5)
  /-- MULH: Writes the high 64 bits of the signed product. (R126) -/
  | mulh (d : BitVec 5) (a : BitVec 5) (b : BitVec 5)
  /-- MULHUS: Writes the high 64 bits of unsigned x[a] times signed x[b]. (R126) -/
  | mulhus (d : BitVec 5) (a : BitVec 5) (b : BitVec 5)
  /-- DIVU: Writes the unsigned quotient. (R126) -/
  | divu (d : BitVec 5) (a : BitVec 5) (b : BitVec 5)
  /-- DIV: Writes the signed quotient truncated toward zero. (R126) -/
  | div (d : BitVec 5) (a : BitVec 5) (b : BitVec 5)
  /-- REMU: Writes the unsigned remainder. (R126) -/
  | remu (d : BitVec 5) (a : BitVec 5) (b : BitVec 5)
  /-- REM: Writes the remainder of the truncated signed quotient. (R126) -/
  | rem (d : BitVec 5) (a : BitVec 5) (b : BitVec 5)
  /-- MOD: Writes the remainder of the floored signed quotient. (R126) -/
  | mod (d : BitVec 5) (a : BitVec 5) (b : BitVec 5)
  /-- CLZ: Counts leading zero bits. (R127) -/
  | clz (d : BitVec 5) (a : BitVec 5)
  /-- CTZ: Counts trailing zero bits. (R127) -/
  | ctz (d : BitVec 5) (a : BitVec 5)
  /-- POPC: Counts one bits. (R127) -/
  | popc (d : BitVec 5) (a : BitVec 5)
  /-- BREV: Reverses the bit order. (R127) -/
  | brev (d : BitVec 5) (a : BitVec 5)
  /-- EXT_B: Sign-extends the low byte. (R127) -/
  | extB (d : BitVec 5) (a : BitVec 5)
  /-- EXT_H: Sign-extends the low halfword. (R127) -/
  | extH (d : BitVec 5) (a : BitVec 5)
  /-- EXT_W: Sign-extends the low word. (R127) -/
  | extW (d : BitVec 5) (a : BitVec 5)
  /-- EXT_BU: Zero-extends the low byte. (R127) -/
  | extBu (d : BitVec 5) (a : BitVec 5)
  /-- EXT_HU: Zero-extends the low halfword. (R127) -/
  | extHu (d : BitVec 5) (a : BitVec 5)
  /-- EXT_WU: Zero-extends the low word. (R127) -/
  | extWu (d : BitVec 5) (a : BitVec 5)
  /-- BFX: Extracts a signed bit field. (R128) -/
  | bfx (d : BitVec 5) (a : BitVec 5) (b : BitVec 5)
  /-- BFXU: Extracts an unsigned bit field. (R128) -/
  | bfxu (d : BitVec 5) (a : BitVec 5) (b : BitVec 5)
  /-- BFI: Inserts a bit field into x[d]. (R128) -/
  | bfi (d : BitVec 5) (a : BitVec 5) (b : BitVec 5)
  /-- PTAG: Sets a pointer's format code and block log. (R129) -/
  | ptag (d : BitVec 5) (a : BitVec 5) (f : BitVec 4) (l : BitVec 3)
  /-- PADD: Adds a byte count to a pointer's address with overflow check. (R130) -/
  | padd (d : BitVec 5) (a : BitVec 5) (b : BitVec 5)
  /-- PCHK: Tests a pointer against format rules and the region table. (R131) -/
  | pchk (d : BitVec 5) (a : BitVec 5)
  /-- FADD: Scalar floating-point add. (R133) -/
  | fadd (d : BitVec 5) (a : BitVec 5) (b : BitVec 5) (p : BitVec 1)
  /-- FSUB: Scalar floating-point subtract. (R133) -/
  | fsub (d : BitVec 5) (a : BitVec 5) (b : BitVec 5) (p : BitVec 1)
  /-- FMUL: Scalar floating-point multiply. (R133) -/
  | fmul (d : BitVec 5) (a : BitVec 5) (b : BitVec 5) (p : BitVec 1)
  /-- FDIV: Scalar floating-point divide. (R133) -/
  | fdiv (d : BitVec 5) (a : BitVec 5) (b : BitVec 5) (p : BitVec 1)
  /-- FSQRT: Scalar floating-point square root. (R133) -/
  | fsqrt (d : BitVec 5) (a : BitVec 5) (p : BitVec 1)
  /-- FMIN: Scalar minimumNumber. (R133) -/
  | fmin (d : BitVec 5) (a : BitVec 5) (b : BitVec 5) (p : BitVec 1)
  /-- FMAX: Scalar maximumNumber. (R133) -/
  | fmax (d : BitVec 5) (a : BitVec 5) (b : BitVec 5) (p : BitVec 1)
  /-- FMA: Scalar fused multiply-add into x[d]. (R133) -/
  | fma (d : BitVec 5) (a : BitVec 5) (b : BitVec 5) (p : BitVec 1)
  /-- FEQ: Floating-point equality compare. (R134) -/
  | feq (d : BitVec 5) (a : BitVec 5) (b : BitVec 5) (p : BitVec 1)
  /-- FLT: Floating-point less-than compare. (R134) -/
  | flt (d : BitVec 5) (a : BitVec 5) (b : BitVec 5) (p : BitVec 1)
  /-- FLE: Floating-point less-or-equal compare. (R134) -/
  | fle (d : BitVec 5) (a : BitVec 5) (b : BitVec 5) (p : BitVec 1)
  /-- FCLASS: Writes the class word of a floating-point operand. (R134) -/
  | fclass (d : BitVec 5) (a : BitVec 5) (p : BitVec 1)
  /-- FTOI: Converts floating point to INT64. (R134) -/
  | ftoi (d : BitVec 5) (a : BitVec 5) (p : BitVec 1)
  /-- FTOIU: Converts floating point to UINT64. (R134) -/
  | ftoiu (d : BitVec 5) (a : BitVec 5) (p : BitVec 1)
  /-- ITOF: Converts a signed integer to floating point. (R134) -/
  | itof (d : BitVec 5) (a : BitVec 5) (p : BitVec 1)
  /-- IUTOF: Converts an unsigned integer to floating point. (R134) -/
  | iutof (d : BitVec 5) (a : BitVec 5) (p : BitVec 1)
  /-- FTOF: Converts between FP32 and FP64. (R134) -/
  | ftof (d : BitVec 5) (a : BitVec 5) (p : BitVec 1)
  /-- BEQ: Branches if equal. (R137) -/
  | beq (a : BitVec 5) (b : BitVec 5) (o : BitVec 15)
  /-- BNE: Branches if not equal. (R137) -/
  | bne (a : BitVec 5) (b : BitVec 5) (o : BitVec 15)
  /-- BLT: Branches if signed less. (R137) -/
  | blt (a : BitVec 5) (b : BitVec 5) (o : BitVec 15)
  /-- BGE: Branches if signed greater or equal. (R137) -/
  | bge (a : BitVec 5) (b : BitVec 5) (o : BitVec 15)
  /-- BLTU: Branches if unsigned less. (R137) -/
  | bltu (a : BitVec 5) (b : BitVec 5) (o : BitVec 15)
  /-- BGEU: Branches if unsigned greater or equal. (R137) -/
  | bgeu (a : BitVec 5) (b : BitVec 5) (o : BitVec 15)
  /-- JAL: Jumps pc-relative and writes the link. (R138) -/
  | jal (d : BitVec 5) (o : BitVec 20)
  /-- JALR: Jumps to a register plus offset and writes the link. (R139) -/
  | jalr (d : BitVec 5) (a : BitVec 5) (i : BitVec 15)
  /-- LOOP: Arms a hardware loop with a count from a register. (R140) -/
  | loop (a : BitVec 5) (o : BitVec 15)
  /-- LOOPI: Arms a hardware loop with an immediate count. (R140) -/
  | loopi (c : BitVec 9) (o : BitVec 15)
  /-- END: Ends the handler, committing its buffered sends and freeing the context. (R143) -/
  | endTask
  /-- YIELD: Gives up the issue slot leaving the context ready. (R144) -/
  | yield
  /-- DONE: Completes the launch with the value x[a] and ends the handler. (R145) -/
  | done (a : BitVec 5)
  /-- NOP: Occupies one issue cycle with no effect. (R146) -/
  | nop
  /-- END_16: 16-bit form of END. (R55) -/
  | end16
  /-- YIELD_16: 16-bit form of YIELD. (R55) -/
  | yield16
  /-- NOP_16: 16-bit form of NOP. (R55) -/
  | nop16
  /-- MV_16: 16-bit register move, expanding to addi xd, xa, 0. (R55) -/
  | mv16 (d : BitVec 4) (a : BitVec 4)
  /-- LI_16: 16-bit load of a 7-bit signed immediate. (R55) -/
  | li16 (d : BitVec 4) (i : BitVec 7)
  /-- ADDI_16: 16-bit add of a 7-bit immediate to xd. (R55) -/
  | addi16 (d : BitVec 4) (i : BitVec 7)
  /-- ADD_16: 16-bit add into xd. (R55) -/
  | add16 (d : BitVec 4) (a : BitVec 4)
  /-- SUB_16: 16-bit subtract into xd. (R55) -/
  | sub16 (d : BitVec 4) (a : BitVec 4)
  /-- AND_16: 16-bit AND into xd. (R55) -/
  | and16 (d : BitVec 4) (a : BitVec 4)
  /-- ANDI_16: 16-bit AND with a 7-bit immediate. (R55) -/
  | andi16 (d : BitVec 4) (i : BitVec 7)
  /-- SLLI_16: 16-bit shift left by an immediate. (R55) -/
  | slli16 (d : BitVec 4) (s : BitVec 6)
  /-- SRLI_16: 16-bit logical shift right by an immediate. (R55) -/
  | srli16 (d : BitVec 4) (s : BitVec 6)
  /-- SRAI_16: 16-bit arithmetic shift right by an immediate. (R55) -/
  | srai16 (d : BitVec 4) (s : BitVec 6)
  /-- LD_D_16: 16-bit doubleword load with a scaled offset. (R55) -/
  | ldD16 (d : BitVec 4) (a : BitVec 4) (o : BitVec 3)
  /-- ST_D_16: 16-bit doubleword store with a scaled offset. (R55) -/
  | stD16 (d : BitVec 4) (a : BitVec 4) (o : BitVec 3)
  /-- BEQZ_16: 16-bit branch if zero. (R55) -/
  | beqz16 (a : BitVec 4) (o : BitVec 7)
  /-- BNEZ_16: 16-bit branch if nonzero. (R55) -/
  | bnez16 (a : BitVec 4) (o : BitVec 7)
  /-- J_16: 16-bit jump without link. (R55) -/
  | j16 (o : BitVec 11)
  /-- LD_B: Loads a sign-extended byte. (R195) -/
  | ldB (d : BitVec 5) (b : BitVec 5) (i : BitVec 12)
  /-- LD_H: Loads a sign-extended halfword. (R195) -/
  | ldH (d : BitVec 5) (b : BitVec 5) (i : BitVec 12)
  /-- LD_W: Loads a sign-extended word. (R195) -/
  | ldW (d : BitVec 5) (b : BitVec 5) (i : BitVec 12)
  /-- LD_D: Loads a doubleword. (R195) -/
  | ldD (d : BitVec 5) (b : BitVec 5) (i : BitVec 12)
  /-- LD_BU: Loads a zero-extended byte. (R195) -/
  | ldBu (d : BitVec 5) (b : BitVec 5) (i : BitVec 12)
  /-- LD_HU: Loads a zero-extended halfword. (R195) -/
  | ldHu (d : BitVec 5) (b : BitVec 5) (i : BitVec 12)
  /-- LD_WU: Loads a zero-extended word. (R195) -/
  | ldWu (d : BitVec 5) (b : BitVec 5) (i : BitVec 12)
  /-- ST_B: Stores a byte. (R195) -/
  | stB (d : BitVec 5) (b : BitVec 5) (i : BitVec 12)
  /-- ST_H: Stores a halfword. (R195) -/
  | stH (d : BitVec 5) (b : BitVec 5) (i : BitVec 12)
  /-- ST_W: Stores a word. (R195) -/
  | stW (d : BitVec 5) (b : BitVec 5) (i : BitVec 12)
  /-- ST_D: Stores a doubleword. (R195) -/
  | stD (d : BitVec 5) (b : BitVec 5) (i : BitVec 12)
  /-- LD_ACQ: Loads with acquire ordering at the named scope. (R198) -/
  | ldAcq (d : BitVec 5) (b : BitVec 5) (s : BitVec 4) (z : BitVec 3)
  /-- ST_REL: Stores with release ordering at the named scope. (R198) -/
  | stRel (d : BitVec 5) (b : BitVec 5) (s : BitVec 4) (z : BitVec 3)
  /-- FENCE: Orders the context's accesses at a scope as acquire, release, both or sequentially consistent. (R235) -/
  | fence (s : BitVec 4) (o : BitVec 3)
  /-- PREF: Prefetches a line, replicating read-shared lines when the hint is set. (R199) -/
  | pref (b : BitVec 5) (r : BitVec 1)
  /-- IFENCE: Discards the fetch buffer and the L1 instruction cache. (R193) -/
  | ifence
  /-- VLD: Loads 64 contiguous bytes into a vector. (R204) -/
  | vld (v : BitVec 5) (a : BitVec 5) (k : BitVec 3) (w : BitVec 2)
  /-- VST: Stores a vector to 64 contiguous bytes. (R204) -/
  | vst (v : BitVec 5) (a : BitVec 5) (k : BitVec 3) (w : BitVec 2)
  /-- VLDS: Strided vector load. (R205) -/
  | vlds (v : BitVec 5) (a : BitVec 5) (b : BitVec 5) (k : BitVec 3) (w : BitVec 2)
  /-- VSTS: Strided vector store. (R205) -/
  | vsts (v : BitVec 5) (a : BitVec 5) (b : BitVec 5) (k : BitVec 3) (w : BitVec 2)
  /-- VLDG: Gather load of 16 elements. (R206) -/
  | vldg (v : BitVec 5) (a : BitVec 5) (b : BitVec 5) (k : BitVec 3) (w : BitVec 2)
  /-- VSTG: Scatter store of 16 elements. (R206) -/
  | vstg (v : BitVec 5) (a : BitVec 5) (b : BitVec 5) (k : BitVec 3) (w : BitVec 2)
  /-- VLDT: Scratchpad row or column tile load with clipping. (R207) -/
  | vldt (v : BitVec 5) (a : BitVec 5) (k : BitVec 3) (w : BitVec 2) (c : BitVec 1)
  /-- VSTT: Scratchpad row or column tile store with clipping. (R207) -/
  | vstt (v : BitVec 5) (a : BitVec 5) (k : BitVec 3) (w : BitVec 2) (c : BitVec 1)
  /-- VLDF: Formatted load of 16 elements with optional block scale. (R208) -/
  | vldf (v : BitVec 5) (a : BitVec 5) (b : BitVec 5) (k : BitVec 3) (f : BitVec 4)
  /-- VSTF: Formatted store of 16 elements with optional block scale. (R209) -/
  | vstf (v : BitVec 5) (a : BitVec 5) (b : BitVec 5) (k : BitVec 3) (f : BitVec 4)
  /-- AMOADD_W: Atomic 32-bit add returning the old value. (R230) -/
  | amoaddW (d : BitVec 5) (a : BitVec 5) (b : BitVec 5) (s : BitVec 4) (o : BitVec 2)
  /-- AMOADD_D: Atomic 64-bit add. (R230) -/
  | amoaddD (d : BitVec 5) (a : BitVec 5) (b : BitVec 5) (s : BitVec 4) (o : BitVec 2)
  /-- AMOAND_D: Atomic 64-bit AND. (R230) -/
  | amoandD (d : BitVec 5) (a : BitVec 5) (b : BitVec 5) (s : BitVec 4) (o : BitVec 2)
  /-- AMOOR_D: Atomic 64-bit OR. (R230) -/
  | amoorD (d : BitVec 5) (a : BitVec 5) (b : BitVec 5) (s : BitVec 4) (o : BitVec 2)
  /-- AMOXOR_D: Atomic 64-bit XOR. (R230) -/
  | amoxorD (d : BitVec 5) (a : BitVec 5) (b : BitVec 5) (s : BitVec 4) (o : BitVec 2)
  /-- AMOMIN_D: Atomic signed minimum. (R230) -/
  | amominD (d : BitVec 5) (a : BitVec 5) (b : BitVec 5) (s : BitVec 4) (o : BitVec 2)
  /-- AMOMAX_D: Atomic signed maximum. (R230) -/
  | amomaxD (d : BitVec 5) (a : BitVec 5) (b : BitVec 5) (s : BitVec 4) (o : BitVec 2)
  /-- AMOMINU_D: Atomic unsigned minimum. (R230) -/
  | amominuD (d : BitVec 5) (a : BitVec 5) (b : BitVec 5) (s : BitVec 4) (o : BitVec 2)
  /-- AMOMAXU_D: Atomic unsigned maximum. (R230) -/
  | amomaxuD (d : BitVec 5) (a : BitVec 5) (b : BitVec 5) (s : BitVec 4) (o : BitVec 2)
  /-- AMOSWAP_W: Atomic 32-bit swap. (R230) -/
  | amoswapW (d : BitVec 5) (a : BitVec 5) (b : BitVec 5) (s : BitVec 4) (o : BitVec 2)
  /-- AMOSWAP_D: Atomic 64-bit swap. (R230) -/
  | amoswapD (d : BitVec 5) (a : BitVec 5) (b : BitVec 5) (s : BitVec 4) (o : BitVec 2)
  /-- AMOCAS_W: Atomic 32-bit compare-and-swap. (R230) -/
  | amocasW (d : BitVec 5) (a : BitVec 5) (b : BitVec 5) (s : BitVec 4) (o : BitVec 2)
  /-- AMOCAS_D: Atomic 64-bit compare-and-swap. (R230) -/
  | amocasD (d : BitVec 5) (a : BitVec 5) (b : BitVec 5) (s : BitVec 4) (o : BitVec 2)
  /-- AMOCAS2_Q: Atomic 128-bit compare-and-swap on register pairs. (R230) -/
  | amocas2Q (d : BitVec 5) (a : BitVec 5) (b : BitVec 5) (s : BitVec 4) (o : BitVec 2)
  /-- FAMOADD_F32: Atomic FP32 add. (R230) -/
  | famoaddF32 (d : BitVec 5) (a : BitVec 5) (b : BitVec 5) (s : BitVec 4) (o : BitVec 2)
  /-- REDADD: Reduction add at memory without return. (R234) -/
  | redadd (w : BitVec 5) (a : BitVec 5) (b : BitVec 5) (s : BitVec 4) (o : BitVec 2)
  /-- REDAND: Reduction AND at memory. (R234) -/
  | redand (w : BitVec 5) (a : BitVec 5) (b : BitVec 5) (s : BitVec 4) (o : BitVec 2)
  /-- REDOR: Reduction OR at memory. (R234) -/
  | redor (w : BitVec 5) (a : BitVec 5) (b : BitVec 5) (s : BitVec 4) (o : BitVec 2)
  /-- REDXOR: Reduction XOR at memory. (R234) -/
  | redxor (w : BitVec 5) (a : BitVec 5) (b : BitVec 5) (s : BitVec 4) (o : BitVec 2)
  /-- REDMIN: Reduction signed minimum at memory. (R234) -/
  | redmin (w : BitVec 5) (a : BitVec 5) (b : BitVec 5) (s : BitVec 4) (o : BitVec 2)
  /-- REDMAX: Reduction signed maximum at memory. (R234) -/
  | redmax (w : BitVec 5) (a : BitVec 5) (b : BitVec 5) (s : BitVec 4) (o : BitVec 2)
  /-- REDMINU: Reduction unsigned minimum at memory. (R234) -/
  | redminu (w : BitVec 5) (a : BitVec 5) (b : BitVec 5) (s : BitVec 4) (o : BitVec 2)
  /-- REDMAXU: Reduction unsigned maximum at memory. (R234) -/
  | redmaxu (w : BitVec 5) (a : BitVec 5) (b : BitVec 5) (s : BitVec 4) (o : BitVec 2)
  /-- WAITA: Arms a wait on a memory word condition and suspends the context. (R238) -/
  | waita (d : BitVec 5) (a : BitVec 5) (b : BitVec 5) (s : BitVec 4) (w : BitVec 2)
  /-- BAR: Arrives at the group barrier phase and waits for its completion. (R243) -/
  | bar (n : BitVec 2)
  /-- BARA: Arrives at the group barrier phase and continues. (R243) -/
  | bara (n : BitVec 2)
  /-- BARW: Waits for the phase of the context's last arrival to complete. (R243) -/
  | barw (n : BitVec 2)
  /-- VREDG: Arrives at a barrier phase contributing a vector slice to a group reduction. (R245) -/
  | vredg (a : BitVec 5) (b : BitVec 5) (c : BitVec 5) (t : BitVec 4) (n : BitVec 2)
  /-- SEND: Checks a message header and places the message in the send buffer. (R275) -/
  | send (a : BitVec 5)
  /-- SPAWN: Places a task record in the send buffer for the core's own deque. (R275) -/
  | spawn (a : BitVec 5)
  /-- FLUSH: Commits the context's buffered sends and makes the handler non-restartable. (R276) -/
  | flush
  /-- CLSEN: Enables a message class on the core. (R277) -/
  | clsen (n : BitVec 6)
  /-- CLSDIS: Disables a message class on the core. (R277) -/
  | clsdis (n : BitVec 6)
  /-- CLSPEND: Reads the class pending bits. (R277) -/
  | clspend (d : BitVec 5)
  /-- QPUSH: Pushes an element onto a ring at its home. (R280) -/
  | qpush (a : BitVec 5) (b : BitVec 5) (l : BitVec 5)
  /-- QPOP: Pops an element or reports end of stream from a ring. (R280) -/
  | qpop (a : BitVec 5) (b : BitVec 5) (c : BitVec 5) (l : BitVec 5)
  /-- QEOS: Pushes an end-of-stream token onto a ring. (R280) -/
  | qeos (b : BitVec 5) (l : BitVec 5)
  /-- LAUNCH: Reads a launch record and appends it to the slot's child list. (R313) -/
  | launch (a : BitVec 5)
  /-- DEPSET: Defines a dependency counter at its home. (R314) -/
  | depset (a : BitVec 5) (b : BitVec 5) (c : BitVec 5) (p : BitVec 2)
  /-- DEPDEC: Decrements a dependency counter at its home without waiting. (R315) -/
  | depdec (a : BitVec 5)
  /-- SIGNAL: Writes a doubleword at its home as a release. (R316) -/
  | signal (a : BitVec 5) (b : BitVec 5) (s : BitVec 4)
  /-- ENQ: Checks and issues an engine command to a local or remote engine FIFO. (R321) -/
  | enq (a : BitVec 5)
  /-- DEQ: Pops a completion element from a unit's output FIFO, waiting if one is reserved. (R322) -/
  | deq (a : BitVec 5) (u : BitVec 3)
  /-- EPOLL: Reads a unit's FIFO occupancy and state without waiting. (R323) -/
  | epoll (a : BitVec 5) (u : BitVec 3)
  /-- FURL: Writes a furled word and sets the cell FURLED at its home. (R369) -/
  | furl (d : BitVec 5) (a : BitVec 5) (b : BitVec 5) (p : BitVec 2)
  /-- UNFURL: Completes an evaluation by writing the value and waking waiters. (R370) -/
  | unfurl (d : BitVec 5) (a : BitVec 5) (b : BitVec 5)
  /-- FPEEK: Reads a cell's raw word. (R371) -/
  | fpeek (d : BitVec 5) (a : BitVec 5)
  /-- FTAG: Reads a cell's tag. (R371) -/
  | ftag (d : BitVec 5) (a : BitVec 5)
  /-- FCANCEL: Forces a cell to VALUE, waking waiters with cause 0x105. (R372) -/
  | fcancel (d : BitVec 5) (a : BitVec 5)
  /-- SPOP: Takes the top pair of the pair bag. (R411) -/
  | spop (d : BitVec 5)
  /-- SPUSH: Pushes a pair onto the pair bag. (R411) -/
  | spush (a : BitVec 5) (b : BitVec 5)
  /-- SALLOC: Takes a node from the core's free list. (R411) -/
  | salloc (d : BitVec 5)
  /-- SFREE: Returns a node to the core's free list. (R411) -/
  | sfree (a : BitVec 5)
  /-- SLINK: Compare-and-swap of a link at a port. (R412) -/
  | slink (d : BitVec 5) (a : BitVec 5) (b : BitVec 5)
  /-- SREAD: Reads a doubleword at its home as an acquire. (R413) -/
  | sread (d : BitVec 5) (a : BitVec 5)
  /-- VADD: Vector wrapping add. (R155) -/
  | vadd (d : BitVec 5) (a : BitVec 5) (b : BitVec 5) (k : BitVec 3) (w : BitVec 2)
  /-- VSUB: Vector wrapping subtract. (R155) -/
  | vsub (d : BitVec 5) (a : BitVec 5) (b : BitVec 5) (k : BitVec 3) (w : BitVec 2)
  /-- VADD_SAT: Vector signed saturating add. (R155) -/
  | vaddSat (d : BitVec 5) (a : BitVec 5) (b : BitVec 5) (k : BitVec 3) (w : BitVec 2)
  /-- VSUB_SAT: Vector signed saturating subtract. (R155) -/
  | vsubSat (d : BitVec 5) (a : BitVec 5) (b : BitVec 5) (k : BitVec 3) (w : BitVec 2)
  /-- VADDU_SAT: Vector unsigned saturating add. (R155) -/
  | vadduSat (d : BitVec 5) (a : BitVec 5) (b : BitVec 5) (k : BitVec 3) (w : BitVec 2)
  /-- VSUBU_SAT: Vector unsigned saturating subtract. (R155) -/
  | vsubuSat (d : BitVec 5) (a : BitVec 5) (b : BitVec 5) (k : BitVec 3) (w : BitVec 2)
  /-- VMUL: Vector low multiply. (R155) -/
  | vmul (d : BitVec 5) (a : BitVec 5) (b : BitVec 5) (k : BitVec 3) (w : BitVec 2)
  /-- VMULH: Vector signed high multiply. (R155) -/
  | vmulh (d : BitVec 5) (a : BitVec 5) (b : BitVec 5) (k : BitVec 3) (w : BitVec 2)
  /-- VMULHU: Vector unsigned high multiply. (R155) -/
  | vmulhu (d : BitVec 5) (a : BitVec 5) (b : BitVec 5) (k : BitVec 3) (w : BitVec 2)
  /-- VMIN: Vector signed minimum. (R155) -/
  | vmin (d : BitVec 5) (a : BitVec 5) (b : BitVec 5) (k : BitVec 3) (w : BitVec 2)
  /-- VMAX: Vector signed maximum. (R155) -/
  | vmax (d : BitVec 5) (a : BitVec 5) (b : BitVec 5) (k : BitVec 3) (w : BitVec 2)
  /-- VMINU: Vector unsigned minimum. (R155) -/
  | vminu (d : BitVec 5) (a : BitVec 5) (b : BitVec 5) (k : BitVec 3) (w : BitVec 2)
  /-- VMAXU: Vector unsigned maximum. (R155) -/
  | vmaxu (d : BitVec 5) (a : BitVec 5) (b : BitVec 5) (k : BitVec 3) (w : BitVec 2)
  /-- VABS: Vector absolute value. (R155) -/
  | vabs (d : BitVec 5) (a : BitVec 5) (k : BitVec 3) (w : BitVec 2)
  /-- VAND: Vector AND. (R156) -/
  | vand (d : BitVec 5) (a : BitVec 5) (b : BitVec 5) (k : BitVec 3) (w : BitVec 2)
  /-- VOR: Vector OR. (R156) -/
  | vor (d : BitVec 5) (a : BitVec 5) (b : BitVec 5) (k : BitVec 3) (w : BitVec 2)
  /-- VXOR: Vector XOR. (R156) -/
  | vxor (d : BitVec 5) (a : BitVec 5) (b : BitVec 5) (k : BitVec 3) (w : BitVec 2)
  /-- VANDN: Vector AND NOT. (R156) -/
  | vandn (d : BitVec 5) (a : BitVec 5) (b : BitVec 5) (k : BitVec 3) (w : BitVec 2)
  /-- VNOT: Vector NOT. (R156) -/
  | vnot (d : BitVec 5) (a : BitVec 5) (k : BitVec 3) (w : BitVec 2)
  /-- VSLL: Vector shift left. (R156) -/
  | vsll (d : BitVec 5) (a : BitVec 5) (b : BitVec 5) (k : BitVec 3) (w : BitVec 2)
  /-- VSRL: Vector logical shift right. (R156) -/
  | vsrl (d : BitVec 5) (a : BitVec 5) (b : BitVec 5) (k : BitVec 3) (w : BitVec 2)
  /-- VSRA: Vector arithmetic shift right. (R156) -/
  | vsra (d : BitVec 5) (a : BitVec 5) (b : BitVec 5) (k : BitVec 3) (w : BitVec 2)
  /-- VSEL: Selects each element from va or vb by the mask. (R156) -/
  | vsel (d : BitVec 5) (a : BitVec 5) (b : BitVec 5) (k : BitVec 3) (w : BitVec 2)
  /-- VCEQ: Vector equality compare into a mask. (R158) -/
  | vceq (d : BitVec 3) (a : BitVec 5) (b : BitVec 5) (k : BitVec 3) (w : BitVec 2)
  /-- VCNE: Vector inequality compare into a mask. (R158) -/
  | vcne (d : BitVec 3) (a : BitVec 5) (b : BitVec 5) (k : BitVec 3) (w : BitVec 2)
  /-- VCLT: Vector signed less-than compare into a mask. (R158) -/
  | vclt (d : BitVec 3) (a : BitVec 5) (b : BitVec 5) (k : BitVec 3) (w : BitVec 2)
  /-- VCLE: Vector signed less-or-equal compare into a mask. (R158) -/
  | vcle (d : BitVec 3) (a : BitVec 5) (b : BitVec 5) (k : BitVec 3) (w : BitVec 2)
  /-- VCLTU: Vector unsigned less-than compare into a mask. (R158) -/
  | vcltu (d : BitVec 3) (a : BitVec 5) (b : BitVec 5) (k : BitVec 3) (w : BitVec 2)
  /-- VCLEU: Vector unsigned less-or-equal compare into a mask. (R158) -/
  | vcleu (d : BitVec 3) (a : BitVec 5) (b : BitVec 5) (k : BitVec 3) (w : BitVec 2)
  /-- VFCEQ: Vector FP equality compare into a mask. (R158) -/
  | vfceq (d : BitVec 3) (a : BitVec 5) (b : BitVec 5) (k : BitVec 3) (w : BitVec 2)
  /-- VFCLT: Vector FP less-than compare into a mask. (R158) -/
  | vfclt (d : BitVec 3) (a : BitVec 5) (b : BitVec 5) (k : BitVec 3) (w : BitVec 2)
  /-- VFCLE: Vector FP less-or-equal compare into a mask. (R158) -/
  | vfcle (d : BitVec 3) (a : BitVec 5) (b : BitVec 5) (k : BitVec 3) (w : BitVec 2)
  /-- VFCUN: Vector FP unordered compare into a mask. (R158) -/
  | vfcun (d : BitVec 3) (a : BitVec 5) (b : BitVec 5) (k : BitVec 3) (w : BitVec 2)
  /-- VFADD: Vector FP add. (R159) -/
  | vfadd (d : BitVec 5) (a : BitVec 5) (b : BitVec 5) (k : BitVec 3) (w : BitVec 2)
  /-- VFSUB: Vector FP subtract. (R159) -/
  | vfsub (d : BitVec 5) (a : BitVec 5) (b : BitVec 5) (k : BitVec 3) (w : BitVec 2)
  /-- VFMUL: Vector FP multiply. (R159) -/
  | vfmul (d : BitVec 5) (a : BitVec 5) (b : BitVec 5) (k : BitVec 3) (w : BitVec 2)
  /-- VFMA: Vector FP fused multiply-add. (R159) -/
  | vfma (d : BitVec 5) (a : BitVec 5) (b : BitVec 5) (k : BitVec 3) (w : BitVec 2)
  /-- VFNMA: Vector FP fused negated multiply-add. (R159) -/
  | vfnma (d : BitVec 5) (a : BitVec 5) (b : BitVec 5) (k : BitVec 3) (w : BitVec 2)
  /-- VFMIN: Vector FP minimumNumber. (R159) -/
  | vfmin (d : BitVec 5) (a : BitVec 5) (b : BitVec 5) (k : BitVec 3) (w : BitVec 2)
  /-- VFMAX: Vector FP maximumNumber. (R159) -/
  | vfmax (d : BitVec 5) (a : BitVec 5) (b : BitVec 5) (k : BitVec 3) (w : BitVec 2)
  /-- VFABS: Vector FP absolute value. (R159) -/
  | vfabs (d : BitVec 5) (a : BitVec 5) (k : BitVec 3) (w : BitVec 2)
  /-- VFNEG: Vector FP negation. (R159) -/
  | vfneg (d : BitVec 5) (a : BitVec 5) (k : BitVec 3) (w : BitVec 2)
  /-- VFRCPE: Vector reciprocal estimate. (R160) -/
  | vfrcpe (d : BitVec 5) (a : BitVec 5) (k : BitVec 3) (w : BitVec 2)
  /-- VFRSQRTE: Vector reciprocal square-root estimate. (R160) -/
  | vfrsqrte (d : BitVec 5) (a : BitVec 5) (k : BitVec 3) (w : BitVec 2)
  /-- VFCLASS: Vector FP classification. (R161) -/
  | vfclass (d : BitVec 5) (a : BitVec 5) (k : BitVec 3) (w : BitVec 2)
  /-- VPERM: Vector permute by index vector. (R162) -/
  | vperm (d : BitVec 5) (a : BitVec 5) (b : BitVec 5) (k : BitVec 3) (w : BitVec 2)
  /-- VBCAST: Broadcasts a scalar register to vector elements. (R162) -/
  | vbcast (d : BitVec 5) (a : BitVec 5) (k : BitVec 3) (w : BitVec 2)
  /-- VEXT: Extracts one vector element to a scalar register. (R162) -/
  | vext (d : BitVec 5) (a : BitVec 5) (b : BitVec 5) (w : BitVec 2)
  /-- VINS: Inserts a scalar into one vector element. (R162) -/
  | vins (d : BitVec 5) (a : BitVec 5) (b : BitVec 5) (w : BitVec 2)
  /-- VSLIDEUP: Slides vector elements up by a count. (R162) -/
  | vslideup (d : BitVec 5) (a : BitVec 5) (b : BitVec 5) (k : BitVec 3) (w : BitVec 2)
  /-- VSLIDEDN: Slides vector elements down by a count. (R162) -/
  | vslidedn (d : BitVec 5) (a : BitVec 5) (b : BitVec 5) (k : BitVec 3) (w : BitVec 2)
  /-- VZIPLO: Interleaves the low halves of two vectors. (R162) -/
  | vziplo (d : BitVec 5) (a : BitVec 5) (b : BitVec 5) (k : BitVec 3) (w : BitVec 2)
  /-- VZIPHI: Interleaves the high halves of two vectors. (R162) -/
  | vziphi (d : BitVec 5) (a : BitVec 5) (b : BitVec 5) (k : BitVec 3) (w : BitVec 2)
  /-- VUNZIPLO: De-interleaves even elements. (R162) -/
  | vunziplo (d : BitVec 5) (a : BitVec 5) (b : BitVec 5) (k : BitVec 3) (w : BitVec 2)
  /-- VUNZIPHI: De-interleaves odd elements. (R162) -/
  | vunziphi (d : BitVec 5) (a : BitVec 5) (b : BitVec 5) (k : BitVec 3) (w : BitVec 2)
  /-- VREDADD: Integer sum of active elements into a scalar. (R163) -/
  | vredadd (d : BitVec 5) (a : BitVec 5) (k : BitVec 3) (w : BitVec 2)
  /-- VREDMIN: Signed minimum of active elements. (R163) -/
  | vredmin (d : BitVec 5) (a : BitVec 5) (k : BitVec 3) (w : BitVec 2)
  /-- VREDMAX: Signed maximum of active elements. (R163) -/
  | vredmax (d : BitVec 5) (a : BitVec 5) (k : BitVec 3) (w : BitVec 2)
  /-- VREDMINU: Unsigned minimum of active elements. (R163) -/
  | vredminu (d : BitVec 5) (a : BitVec 5) (k : BitVec 3) (w : BitVec 2)
  /-- VREDMAXU: Unsigned maximum of active elements. (R163) -/
  | vredmaxu (d : BitVec 5) (a : BitVec 5) (k : BitVec 3) (w : BitVec 2)
  /-- VFREDADD: FP sum of active elements by the slice-order tree. (R164) -/
  | vfredadd (d : BitVec 5) (a : BitVec 5) (k : BitVec 3) (w : BitVec 2)
  /-- VFREDMIN: FP minimumNumber over active elements. (R164) -/
  | vfredmin (d : BitVec 5) (a : BitVec 5) (k : BitVec 3) (w : BitVec 2)
  /-- VFREDMAX: FP maximumNumber over active elements. (R164) -/
  | vfredmax (d : BitVec 5) (a : BitVec 5) (k : BitVec 3) (w : BitVec 2)
  /-- VDOT4: Signed 4-way byte dot product accumulated per lane. (R165) -/
  | vdot4 (d : BitVec 5) (a : BitVec 5) (b : BitVec 5) (k : BitVec 3)
  /-- VDOT4U: Unsigned 4-way byte dot product accumulated per lane. (R165) -/
  | vdot4u (d : BitVec 5) (a : BitVec 5) (b : BitVec 5) (k : BitVec 3)
  /-- KAND: Mask AND. (R166) -/
  | kand (d : BitVec 3) (a : BitVec 3) (b : BitVec 3)
  /-- KOR: Mask OR. (R166) -/
  | kor (d : BitVec 3) (a : BitVec 3) (b : BitVec 3)
  /-- KXOR: Mask XOR. (R166) -/
  | kxor (d : BitVec 3) (a : BitVec 3) (b : BitVec 3)
  /-- KNOT: Mask NOT. (R166) -/
  | knot (d : BitVec 3) (a : BitVec 3)
  /-- KPOPC: Counts one bits of a mask. (R166) -/
  | kpopc (d : BitVec 5) (a : BitVec 3)
  /-- KFIRST: Index of the lowest set mask bit. (R166) -/
  | kfirst (d : BitVec 5) (a : BitVec 3)
  /-- KANY: Tests whether a mask is nonzero. (R166) -/
  | kany (d : BitVec 5) (a : BitVec 3)
  /-- KMOV: Copies a mask. (R166) -/
  | kmov (d : BitVec 3) (a : BitVec 3)
  /-- KFROMX: Copies a scalar register to a mask. (R166) -/
  | kfromx (d : BitVec 3) (a : BitVec 5)
  /-- KTOX: Copies a mask to a scalar register. (R166) -/
  | ktox (d : BitVec 5) (a : BitVec 3)
  /-- VADDI: Vector add of a 5-bit immediate. (R157) -/
  | vaddi (d : BitVec 5) (a : BitVec 5) (i : BitVec 5) (k : BitVec 3) (w : BitVec 2)
  /-- VANDI: Vector AND with a 5-bit immediate. (R157) -/
  | vandi (d : BitVec 5) (a : BitVec 5) (i : BitVec 5) (k : BitVec 3) (w : BitVec 2)
  /-- VORI: Vector OR with a 5-bit immediate. (R157) -/
  | vori (d : BitVec 5) (a : BitVec 5) (i : BitVec 5) (k : BitVec 3) (w : BitVec 2)
  /-- VXORI: Vector XOR with a 5-bit immediate. (R157) -/
  | vxori (d : BitVec 5) (a : BitVec 5) (i : BitVec 5) (k : BitVec 3) (w : BitVec 2)
  /-- VSLLI: Vector shift left by an immediate. (R157) -/
  | vslli (d : BitVec 5) (a : BitVec 5) (i : BitVec 5) (k : BitVec 3) (w : BitVec 2)
  /-- VSRLI: Vector logical shift right by an immediate. (R157) -/
  | vsrli (d : BitVec 5) (a : BitVec 5) (i : BitVec 5) (k : BitVec 3) (w : BitVec 2)
  /-- VSRAI: Vector arithmetic shift right by an immediate. (R157) -/
  | vsrai (d : BitVec 5) (a : BitVec 5) (i : BitVec 5) (k : BitVec 3) (w : BitVec 2)
  /-- VCEQI: Vector equality compare with an immediate into a mask. (R157) -/
  | vceqi (d : BitVec 3) (a : BitVec 5) (i : BitVec 5) (k : BitVec 3) (w : BitVec 2)
  /-- VCLTI: Vector signed less-than compare with an immediate into a mask. (R157) -/
  | vclti (d : BitVec 3) (a : BitVec 5) (i : BitVec 5) (k : BitVec 3) (w : BitVec 2)
  /-- VMOVI: Writes an immediate into active elements. (R157) -/
  | vmovi (d : BitVec 5) (i : BitVec 5) (k : BitVec 3) (w : BitVec 2)
  /-- CVT: Converts one scalar between element formats. (R106) -/
  | cvt (d : BitVec 5) (a : BitVec 5) (s : BitVec 4) (f : BitVec 4)
  /-- VCVT: Converts vector elements between formats. (R107) -/
  | vcvt (d : BitVec 5) (a : BitVec 5) (s : BitVec 4) (k : BitVec 3) (f : BitVec 4)
  /-- VPACK: Narrows a vector and shifts the group into the destination's top. (R108) -/
  | vpack (d : BitVec 5) (a : BitVec 5) (s : BitVec 4) (f : BitVec 4)
  /-- VUNPK: Widens one group of source elements. (R109) -/
  | vunpk (d : BitVec 5) (a : BitVec 5) (s : BitVec 4) (g : BitVec 3) (f : BitVec 4)
  /-- BSCALE: Accumulates an E8M0 block scale over FP32 lanes. (R110) -/
  | bscale (d : BitVec 5) (a : BitVec 5) (k : BitVec 3) (f : BitVec 4)
  /-- BALIGN_EXP: Accumulates a block exponent over FP32 lanes. (R111) -/
  | balignExp (d : BitVec 5) (a : BitVec 5) (k : BitVec 3)
  /-- BALIGN_Q8: Writes block-fixed 8-bit integers for FP32 lanes. (R112) -/
  | balignQ8 (d : BitVec 5) (a : BitVec 5) (b : BitVec 5) (k : BitVec 3)
  /-- BALIGN_Q16: Writes block-fixed 16-bit integers for FP32 lanes. (R112) -/
  | balignQ16 (d : BitVec 5) (a : BitVec 5) (b : BitVec 5) (k : BitVec 3)
  /-- CSRR: Reads a control register. (R429) -/
  | csrr (d : BitVec 5) (r : BitVec 12)
  /-- CSRW: Writes a control register and returns the old value. (R429) -/
  | csrw (d : BitVec 5) (a : BitVec 5) (r : BitVec 12)
  /-- CSRSET: Sets bits of a control register. (R429) -/
  | csrset (d : BitVec 5) (a : BitVec 5) (r : BitVec 12)
  /-- CSRCLR: Clears bits of a control register. (R429) -/
  | csrclr (d : BitVec 5) (a : BitVec 5) (r : BitVec 12)
  /-- TRAP: Raises software cause 0x1C0 plus n with value x[a]. (R430) -/
  | trap (a : BitVec 5) (n : BitVec 6)
  /-- TLBINV: Removes TLB entries mapping an address. (R431) -/
  | tlbinv (a : BitVec 5)
  /-- ICLEAN: Discards one line from the instruction cache and fetch buffer. (R432) -/
  | iclean (a : BitVec 5)
  /-- MIGRATE: Firmware moves a logical core's work to another core. (R436) -/
  | migrate (d : BitVec 5) (a : BitVec 5)
  /-- MGRD: Firmware reads the management window. (R441) -/
  | mgrd (d : BitVec 5) (a : BitVec 5)
  /-- MGWR: Firmware writes the management window. (R441) -/
  | mgwr (d : BitVec 5) (a : BitVec 5)
  /-- RTSWAP: Commits a firmware hand-over to a staged image. (R442) -/
  | rtswap (d : BitVec 5) (a : BitVec 5)
  deriving DecidableEq, Repr

end Sys2Proof
end

