-- ==== Sys2Proof/WellFormed.lean ====
section
/-!
DEFINITION. Which instructions are well formed: the conditions of 02 R70, item 3, that bear on the value of an operand field
rather than on the form of the word. A step of another agent of the package has no encoding.
-/

namespace Sys2Proof

/-- Why the bits of an instruction are refused with cause 0x001 (02 R70). -/
inductive DecodeError where
  | illegalMajor
  | reservedMajor
  | unlistedSelector
  | reservedField
  | badScope
  | badPair
  | badFormat
  | badLoopOffset
  | truncated
  | noEncoding
  deriving DecidableEq, Repr

/-- A condition on an operand field and the name under which its violation is refused. -/
def rule (c : Prop) [Decidable c] (e : DecodeError) : Option DecodeError :=
  if c then none else some e

/-- Width in bits of an element of a format code (03 R97, R103); 0 for a code without elements of one width. -/
def formatBits (f : BitVec 4) : Nat :=
  match f.toNat with
  | 1 => 8 | 2 => 8 | 3 => 4 | 4 => 8 | 5 => 8 | 6 => 16 | 7 => 16 | 8 => 32 | 9 => 16 | 10 => 32 | 13 => 64
  | _ => 0

/-- The format codes 0x1 to 0xA and 0xD that the conversions take (02 R67, 03 R103). -/
def convertible (f : BitVec 4) : Bool := formatBits f != 0

/-- The first condition an instruction breaks (02 R61, R63, R64, R66, R67; 03 R103, R108, R109; 04 R129). -/
def Instr.check (i : Instr) : Option DecodeError :=
  match i with
  | .add _ _ _ => none
  | .sub _ _ _ => none
  | .and _ _ _ => none
  | .or _ _ _ => none
  | .xor _ _ _ => none
  | .andn _ _ _ => none
  | .sll _ _ _ => none
  | .srl _ _ _ => none
  | .sra _ _ _ => none
  | .rol _ _ _ => none
  | .ror _ _ _ => none
  | .min _ _ _ => none
  | .max _ _ _ => none
  | .minu _ _ _ => none
  | .maxu _ _ _ => none
  | .slt _ _ _ => none
  | .sltu _ _ _ => none
  | .seq _ _ _ => none
  | .sne _ _ _ => none
  | .csel _ _ _ => none
  | .addi _ _ _ => none
  | .andi _ _ _ => none
  | .ori _ _ _ => none
  | .xori _ _ _ => none
  | .slli _ _ _ => none
  | .srli _ _ _ => none
  | .srai _ _ _ => none
  | .rori _ _ _ => none
  | .slti _ _ _ => none
  | .sltiu _ _ _ => none
  | .seqi _ _ _ => none
  | .snei _ _ _ => none
  | .liu _ _ => none
  | .adrp _ _ => none
  | .mul _ _ _ => none
  | .mulhu _ _ _ => none
  | .mulh _ _ _ => none
  | .mulhus _ _ _ => none
  | .divu _ _ _ => none
  | .div _ _ _ => none
  | .remu _ _ _ => none
  | .rem _ _ _ => none
  | .mod _ _ _ => none
  | .clz _ _ => none
  | .ctz _ _ => none
  | .popc _ _ => none
  | .brev _ _ => none
  | .extB _ _ => none
  | .extH _ _ => none
  | .extW _ _ => none
  | .extBu _ _ => none
  | .extHu _ _ => none
  | .extWu _ _ => none
  | .bfx _ _ _ => none
  | .bfxu _ _ _ => none
  | .bfi _ _ _ => none
  | .ptag _ _ f l => rule (f ≠ 14) .badFormat <|> rule (f ≠ 15 ∨ l = 0) .badFormat
  | .padd _ _ _ => none
  | .pchk _ _ => none
  | .fadd _ _ _ _ => none
  | .fsub _ _ _ _ => none
  | .fmul _ _ _ _ => none
  | .fdiv _ _ _ _ => none
  | .fsqrt _ _ _ => none
  | .fmin _ _ _ _ => none
  | .fmax _ _ _ _ => none
  | .fma _ _ _ _ => none
  | .feq _ _ _ _ => none
  | .flt _ _ _ _ => none
  | .fle _ _ _ _ => none
  | .fclass _ _ _ => none
  | .ftoi _ _ _ => none
  | .ftoiu _ _ _ => none
  | .itof _ _ _ => none
  | .iutof _ _ _ => none
  | .ftof _ _ _ => none
  | .beq _ _ _ => none
  | .bne _ _ _ => none
  | .blt _ _ _ => none
  | .bge _ _ _ => none
  | .bltu _ _ _ => none
  | .bgeu _ _ _ => none
  | .jal _ _ => none
  | .jalr _ _ _ => none
  | .loop _ o => rule (2 ≤ o.toNat) .badLoopOffset
  | .loopi _ o => rule (2 ≤ o.toNat) .badLoopOffset
  | .endTask => none
  | .yield => none
  | .done _ => none
  | .nop => none
  | .end16 => none
  | .yield16 => none
  | .nop16 => none
  | .mv16 _ _ => none
  | .li16 _ _ => none
  | .addi16 _ _ => none
  | .add16 _ _ => none
  | .sub16 _ _ => none
  | .and16 _ _ => none
  | .andi16 _ _ => none
  | .slli16 _ _ => none
  | .srli16 _ _ => none
  | .srai16 _ _ => none
  | .ldD16 _ _ _ => none
  | .stD16 _ _ _ => none
  | .beqz16 _ _ => none
  | .bnez16 _ _ => none
  | .j16 _ => none
  | .ldB _ _ _ => none
  | .ldH _ _ _ => none
  | .ldW _ _ _ => none
  | .ldD _ _ _ => none
  | .ldBu _ _ _ => none
  | .ldHu _ _ _ => none
  | .ldWu _ _ _ => none
  | .stB _ _ _ => none
  | .stH _ _ _ => none
  | .stW _ _ _ => none
  | .stD _ _ _ => none
  | .ldAcq _ _ s z => rule (s.toNat ≤ 8) .badScope <|> rule (z.toNat ≤ 6) .unlistedSelector
  | .stRel _ _ s z => rule (s.toNat ≤ 8) .badScope <|> rule (z.toNat ≤ 3) .unlistedSelector
  | .fence s o => rule (s.toNat ≤ 8) .badScope <|> rule (o.toNat ≤ 3) .unlistedSelector
  | .pref _ _ => none
  | .ifence => none
  | .vld _ _ _ w => rule (w ≠ 3) .unlistedSelector
  | .vst _ _ _ w => rule (w ≠ 3) .unlistedSelector
  | .vlds _ _ _ _ w => rule (w ≠ 3) .unlistedSelector
  | .vsts _ _ _ _ w => rule (w ≠ 3) .unlistedSelector
  | .vldg _ _ _ _ w => rule (w ≠ 3) .unlistedSelector
  | .vstg _ _ _ _ w => rule (w ≠ 3) .unlistedSelector
  | .vldt _ _ _ w _ => rule (w ≠ 3) .unlistedSelector
  | .vstt _ _ _ w _ => rule (w ≠ 3) .unlistedSelector
  | .vldf _ _ _ _ _ => none
  | .vstf _ _ _ _ _ => none
  | .amoaddW _ _ _ s _ => rule (s.toNat ≤ 8) .badScope
  | .amoaddD _ _ _ s _ => rule (s.toNat ≤ 8) .badScope
  | .amoandD _ _ _ s _ => rule (s.toNat ≤ 8) .badScope
  | .amoorD _ _ _ s _ => rule (s.toNat ≤ 8) .badScope
  | .amoxorD _ _ _ s _ => rule (s.toNat ≤ 8) .badScope
  | .amominD _ _ _ s _ => rule (s.toNat ≤ 8) .badScope
  | .amomaxD _ _ _ s _ => rule (s.toNat ≤ 8) .badScope
  | .amominuD _ _ _ s _ => rule (s.toNat ≤ 8) .badScope
  | .amomaxuD _ _ _ s _ => rule (s.toNat ≤ 8) .badScope
  | .amoswapW _ _ _ s _ => rule (s.toNat ≤ 8) .badScope
  | .amoswapD _ _ _ s _ => rule (s.toNat ≤ 8) .badScope
  | .amocasW _ _ _ s _ => rule (s.toNat ≤ 8) .badScope
  | .amocasD _ _ _ s _ => rule (s.toNat ≤ 8) .badScope
  | .amocas2Q d _ b s _ => rule (s.toNat ≤ 8) .badScope <|> rule (d.toNat % 2 = 0 ∧ b.toNat % 2 = 0) .badPair
  | .famoaddF32 _ _ _ s _ => rule (s.toNat ≤ 8) .badScope
  | .redadd w _ _ s o => rule (s.toNat ≤ 8) .badScope <|> rule (w.toNat ≤ 2) .unlistedSelector <|> rule (o = 0 ∨ o = 2) .unlistedSelector
  | .redand w _ _ s o => rule (s.toNat ≤ 8) .badScope <|> rule (w.toNat ≤ 1) .unlistedSelector <|> rule (o = 0 ∨ o = 2) .unlistedSelector
  | .redor w _ _ s o => rule (s.toNat ≤ 8) .badScope <|> rule (w.toNat ≤ 1) .unlistedSelector <|> rule (o = 0 ∨ o = 2) .unlistedSelector
  | .redxor w _ _ s o => rule (s.toNat ≤ 8) .badScope <|> rule (w.toNat ≤ 1) .unlistedSelector <|> rule (o = 0 ∨ o = 2) .unlistedSelector
  | .redmin w _ _ s o => rule (s.toNat ≤ 8) .badScope <|> rule (w.toNat ≤ 1) .unlistedSelector <|> rule (o = 0 ∨ o = 2) .unlistedSelector
  | .redmax w _ _ s o => rule (s.toNat ≤ 8) .badScope <|> rule (w.toNat ≤ 1) .unlistedSelector <|> rule (o = 0 ∨ o = 2) .unlistedSelector
  | .redminu w _ _ s o => rule (s.toNat ≤ 8) .badScope <|> rule (w.toNat ≤ 1) .unlistedSelector <|> rule (o = 0 ∨ o = 2) .unlistedSelector
  | .redmaxu w _ _ s o => rule (s.toNat ≤ 8) .badScope <|> rule (w.toNat ≤ 1) .unlistedSelector <|> rule (o = 0 ∨ o = 2) .unlistedSelector
  | .waita _ _ b s w => rule (s.toNat ≤ 8) .badScope <|> rule (w.toNat ≤ 1) .unlistedSelector <|> rule (b ≠ 31) .badPair
  | .bar _ => none
  | .bara _ => none
  | .barw _ => none
  | .vredg _ _ _ t _ => rule (t.toNat ≤ 1) .unlistedSelector
  | .send _ => none
  | .spawn _ => none
  | .flush => none
  | .clsen _ => none
  | .clsdis _ => none
  | .clspend _ => none
  | .qpush _ _ _ => none
  | .qpop _ _ _ _ => none
  | .qeos _ _ => none
  | .launch _ => none
  | .depset _ _ _ _ => none
  | .depdec _ => none
  | .signal _ _ s => rule (s.toNat ≤ 8) .badScope
  | .enq _ => none
  | .deq _ u => rule (1 ≤ u.toNat ∧ u.toNat ≤ 5) .unlistedSelector
  | .epoll _ u => rule (1 ≤ u.toNat ∧ u.toNat ≤ 5) .unlistedSelector
  | .furl _ _ _ _ => none
  | .unfurl _ _ _ => none
  | .fpeek _ _ => none
  | .ftag _ _ => none
  | .fcancel _ _ => none
  | .spop d => rule (d.toNat % 2 = 0) .badPair
  | .spush _ _ => none
  | .salloc _ => none
  | .sfree _ => none
  | .slink _ _ _ => none
  | .sread _ _ => none
  | .vadd _ _ _ _ w => rule (w ≠ 3) .unlistedSelector
  | .vsub _ _ _ _ w => rule (w ≠ 3) .unlistedSelector
  | .vaddSat _ _ _ _ w => rule (w ≠ 3) .unlistedSelector
  | .vsubSat _ _ _ _ w => rule (w ≠ 3) .unlistedSelector
  | .vadduSat _ _ _ _ w => rule (w ≠ 3) .unlistedSelector
  | .vsubuSat _ _ _ _ w => rule (w ≠ 3) .unlistedSelector
  | .vmul _ _ _ _ w => rule (w ≠ 3) .unlistedSelector
  | .vmulh _ _ _ _ w => rule (w ≠ 3) .unlistedSelector
  | .vmulhu _ _ _ _ w => rule (w ≠ 3) .unlistedSelector
  | .vmin _ _ _ _ w => rule (w ≠ 3) .unlistedSelector
  | .vmax _ _ _ _ w => rule (w ≠ 3) .unlistedSelector
  | .vminu _ _ _ _ w => rule (w ≠ 3) .unlistedSelector
  | .vmaxu _ _ _ _ w => rule (w ≠ 3) .unlistedSelector
  | .vabs _ _ _ w => rule (w ≠ 3) .unlistedSelector
  | .vand _ _ _ _ w => rule (w ≠ 3) .unlistedSelector
  | .vor _ _ _ _ w => rule (w ≠ 3) .unlistedSelector
  | .vxor _ _ _ _ w => rule (w ≠ 3) .unlistedSelector
  | .vandn _ _ _ _ w => rule (w ≠ 3) .unlistedSelector
  | .vnot _ _ _ w => rule (w ≠ 3) .unlistedSelector
  | .vsll _ _ _ _ w => rule (w ≠ 3) .unlistedSelector
  | .vsrl _ _ _ _ w => rule (w ≠ 3) .unlistedSelector
  | .vsra _ _ _ _ w => rule (w ≠ 3) .unlistedSelector
  | .vsel _ _ _ _ w => rule (w ≠ 3) .unlistedSelector
  | .vceq _ _ _ _ w => rule (w ≠ 3) .unlistedSelector
  | .vcne _ _ _ _ w => rule (w ≠ 3) .unlistedSelector
  | .vclt _ _ _ _ w => rule (w ≠ 3) .unlistedSelector
  | .vcle _ _ _ _ w => rule (w ≠ 3) .unlistedSelector
  | .vcltu _ _ _ _ w => rule (w ≠ 3) .unlistedSelector
  | .vcleu _ _ _ _ w => rule (w ≠ 3) .unlistedSelector
  | .vfceq _ _ _ _ w => rule (w ≠ 3) .unlistedSelector
  | .vfclt _ _ _ _ w => rule (w ≠ 3) .unlistedSelector
  | .vfcle _ _ _ _ w => rule (w ≠ 3) .unlistedSelector
  | .vfcun _ _ _ _ w => rule (w ≠ 3) .unlistedSelector
  | .vfadd _ _ _ _ w => rule (w ≠ 3) .unlistedSelector
  | .vfsub _ _ _ _ w => rule (w ≠ 3) .unlistedSelector
  | .vfmul _ _ _ _ w => rule (w ≠ 3) .unlistedSelector
  | .vfma _ _ _ _ w => rule (w ≠ 3) .unlistedSelector
  | .vfnma _ _ _ _ w => rule (w ≠ 3) .unlistedSelector
  | .vfmin _ _ _ _ w => rule (w ≠ 3) .unlistedSelector
  | .vfmax _ _ _ _ w => rule (w ≠ 3) .unlistedSelector
  | .vfabs _ _ _ w => rule (w ≠ 3) .unlistedSelector
  | .vfneg _ _ _ w => rule (w ≠ 3) .unlistedSelector
  | .vfrcpe _ _ _ w => rule (w ≠ 3) .unlistedSelector
  | .vfrsqrte _ _ _ w => rule (w ≠ 3) .unlistedSelector
  | .vfclass _ _ _ w => rule (w ≠ 3) .unlistedSelector
  | .vperm _ _ _ _ w => rule (w ≠ 3) .unlistedSelector
  | .vbcast _ _ _ w => rule (w ≠ 3) .unlistedSelector
  | .vext _ _ _ w => rule (w ≠ 3) .unlistedSelector
  | .vins _ _ _ w => rule (w ≠ 3) .unlistedSelector
  | .vslideup _ _ _ _ w => rule (w ≠ 3) .unlistedSelector
  | .vslidedn _ _ _ _ w => rule (w ≠ 3) .unlistedSelector
  | .vziplo _ _ _ _ w => rule (w ≠ 3) .unlistedSelector
  | .vziphi _ _ _ _ w => rule (w ≠ 3) .unlistedSelector
  | .vunziplo _ _ _ _ w => rule (w ≠ 3) .unlistedSelector
  | .vunziphi _ _ _ _ w => rule (w ≠ 3) .unlistedSelector
  | .vredadd _ _ _ w => rule (w ≠ 3) .unlistedSelector
  | .vredmin _ _ _ w => rule (w ≠ 3) .unlistedSelector
  | .vredmax _ _ _ w => rule (w ≠ 3) .unlistedSelector
  | .vredminu _ _ _ w => rule (w ≠ 3) .unlistedSelector
  | .vredmaxu _ _ _ w => rule (w ≠ 3) .unlistedSelector
  | .vfredadd _ _ _ w => rule (w ≠ 3) .unlistedSelector
  | .vfredmin _ _ _ w => rule (w ≠ 3) .unlistedSelector
  | .vfredmax _ _ _ w => rule (w ≠ 3) .unlistedSelector
  | .vdot4 _ _ _ _ => none
  | .vdot4u _ _ _ _ => none
  | .kand _ _ _ => none
  | .kor _ _ _ => none
  | .kxor _ _ _ => none
  | .knot _ _ => none
  | .kpopc _ _ => none
  | .kfirst _ _ => none
  | .kany _ _ => none
  | .kmov _ _ => none
  | .kfromx _ _ => none
  | .ktox _ _ => none
  | .vaddi _ _ _ _ w => rule (w ≠ 3) .unlistedSelector
  | .vandi _ _ _ _ w => rule (w ≠ 3) .unlistedSelector
  | .vori _ _ _ _ w => rule (w ≠ 3) .unlistedSelector
  | .vxori _ _ _ _ w => rule (w ≠ 3) .unlistedSelector
  | .vslli _ _ _ _ w => rule (w ≠ 3) .unlistedSelector
  | .vsrli _ _ _ _ w => rule (w ≠ 3) .unlistedSelector
  | .vsrai _ _ _ _ w => rule (w ≠ 3) .unlistedSelector
  | .vceqi _ _ _ _ w => rule (w ≠ 3) .unlistedSelector
  | .vclti _ _ _ _ w => rule (w ≠ 3) .unlistedSelector
  | .vmovi _ _ _ w => rule (w ≠ 3) .unlistedSelector
  | .cvt _ _ s f => rule (convertible s ∧ convertible f) .badFormat
  | .vcvt _ _ s _ f => rule (convertible s ∧ convertible f) .badFormat
  | .vpack _ _ s f => rule (convertible s ∧ convertible f) .badFormat <|> rule (formatBits f < formatBits s) .badFormat
  | .vunpk _ _ s g f => rule (convertible s ∧ convertible f) .badFormat <|> rule (formatBits s < formatBits f) .badFormat <|> rule (g.toNat < formatBits f / formatBits s) .badFormat
  | .bscale _ _ _ f => rule (f ∈ [1, 3, 4, 5, 6, 7, 9]) .badFormat
  | .balignExp _ _ _ => none
  | .balignQ8 _ _ _ _ => none
  | .balignQ16 _ _ _ _ => none
  | .csrr _ _ => none
  | .csrw _ _ _ => none
  | .csrset _ _ _ => none
  | .csrclr _ _ _ => none
  | .trap _ _ => none
  | .tlbinv _ => none
  | .iclean _ => none
  | .migrate _ _ => none
  | .mgrd _ _ => none
  | .mgwr _ _ => none
  | .rtswap _ _ => none
  | .watchdog _ _ => some .noEncoding
  | .mxLdb _ => some .noEncoding
  | .mxMma _ => some .noEncoding
  | .mxStc _ => some .noEncoding
  | .mxZc _ => some .noEncoding
  | .mxMark _ => some .noEncoding
  | .cpLin _ => some .noEncoding
  | .cp2d _ => some .noEncoding
  | .cpGath _ => some .noEncoding
  | .tdDec _ => some .noEncoding
  | .gmF2v _ => some .noEncoding
  | .gmV2f _ => some .noEncoding
  | .gmBel _ => some .noEncoding
  | .gmMean _ => some .noEncoding
  | .gmDamp _ => some .noEncoding
  | .slStart _ => some .noEncoding
  | .slStop _ => some .noEncoding
  | .slDrain _ => some .noEncoding
  | .lkAred _ => some .noEncoding
  | .lkCopy _ => some .noEncoding
  | .aredChunkExchange _ _ => some .noEncoding
  | .engineCommandArrival _ => some .noEncoding
  | .completionElementArrival _ _ _ _ _ _ => some .noEncoding
  | .reefWindow _ => some .noEncoding
  | .messageArrival _ => some .noEncoding
  | .issueSlotHandoff _ => some .noEncoding
  | .sendCommit _ _ => some .noEncoding
  | .dequeReload _ => some .noEncoding
  | .acknowledgement _ _ _ => some .noEncoding
  | .nack _ _ _ _ => some .noEncoding
  | .retryResend _ _ _ => some .noEncoding
  | .stealRequest _ => some .noEncoding
  | .stealRequestArrival _ _ => some .noEncoding
  | .stealReply _ _ => some .noEncoding
  | .drainAndSwap _ _ => some .noEncoding
  | .escapeRecovery _ _ _ => some .noEncoding
  | .partitionDrop _ _ => some .noEncoding
  | .partitionRefusal _ _ _ => some .noEncoding
  | .firewallDrop _ _ _ _ => some .noEncoding
  | .gets _ _ => some .noEncoding
  | .getm _ _ => some .noEncoding
  | .getu _ _ _ _ => some .noEncoding
  | .uPartial _ _ => some .noEncoding
  | .hostRead _ => some .noEncoding
  | .hostReadOwn _ => some .noEncoding
  | .hostWrite _ _ _ => some .noEncoding
  | .bisnpResponse _ _ _ => some .noEncoding
  | .bisnpReread _ => some .noEncoding
  | .snoopShare _ _ => some .noEncoding
  | .snoopInvalidate _ _ => some .noEncoding
  | .recallLine _ => some .noEncoding
  | .lineFill _ _ _ => some .noEncoding
  | .hostSnpdata _ => some .noEncoding
  | .hostSnpinv _ => some .noEncoding
  | .homeOperation _ => some .noEncoding
  | .homeResponse _ _ _ => some .noEncoding
  | .mergeRead _ _ _ => some .noEncoding
  | .mergeReply _ _ => some .noEncoding
  | .atsResponse _ _ _ _ => some .noEncoding
  | .priResponse _ _ _ _ => some .noEncoding
  | .atsInvalidation _ _ _ => some .noEncoding
  | .pasidStop _ => some .noEncoding
  | .regionTableDrain _ _ => some .noEncoding
  | .waitaArm _ _ => some .noEncoding
  | .waitaWake _ _ => some .noEncoding
  | .waitaExpiry _ _ => some .noEncoding
  | .waitaPoll _ _ => some .noEncoding
  | .barrierNotification _ _ _ _ => some .noEncoding
  | .gatherReport _ _ _ => some .noEncoding
  | .barrierCompletion _ _ _ => some .noEncoding
  | .vredgContribution _ _ _ => some .noEncoding
  | .vredgResult _ _ => some .noEncoding
  | .ringOpAtHome _ => some .noEncoding
  | .ringAnswer _ _ _ => some .noEncoding
  | .ringResend _ _ => some .noEncoding
  | .ringWaitExpiry _ _ => some .noEncoding
  | .doorbell _ _ => some .noEncoding
  | .directMessage _ _ _ _ _ => some .noEncoding
  | .launchRecordRead _ => some .noEncoding
  | .slotIdleTimeout _ => some .noEncoding
  | .gateRead _ => some .noEncoding
  | .gangPlacement => some .noEncoding
  | .deadlinePreempt => some .noEncoding
  | .preemptionSaved _ => some .noEncoding
  | .gangResume _ => some .noEncoding
  | .rtReservationMiss _ => some .noEncoding
  | .launchCompletion _ _ _ => some .noEncoding
  | .queueTeardown _ => some .noEncoding
  | .queueRegister _ _ => some .noEncoding
  | .readyQueueSend => some .noEncoding
  | .readyQueueReoffer _ => some .noEncoding
  | .furledRequestAtHome _ => some .noEncoding
  | .evaluationMessage _ _ => some .noEncoding
  | .recordFailureReport _ => some .noEncoding
  | .evaluationFailureReport _ => some .noEncoding
  | .furledWake _ _ => some .noEncoding
  | .furlWaitLimit _ => some .noEncoding
  | .furlWaiterResend _ => some .noEncoding
  | .spliceAnnihilate _ => some .noEncoding
  | .spliceCommute _ => some .noEncoding
  | .spliceErase _ => some .noEncoding
  | .spliceTemplate _ => some .noEncoding
  | .spliceHandler _ => some .noEncoding
  | .spliceEngine _ => some .noEncoding
  | .engineRuleElement _ _ _ => some .noEncoding
  | .bagReload _ => some .noEncoding
  | .spliceSteal _ => some .noEncoding
  | .bagStealArrival _ _ => some .noEncoding
  | .trapRecordArrival _ _ _ => some .noEncoding
  | .migrationForward _ _ => some .noEncoding
  | .mapAcknowledged _ => some .noEncoding
  | .stayLinkTrained _ _ => some .noEncoding
  | .stayLinkLoss => some .noEncoding
  | .deviceFatalError _ _ _ => some .noEncoding
  | .functionReset => some .noEncoding
  | .powerOn _ _ _ => some .noEncoding
  | .readyBitSet _ => some .noEncoding
  | .powerMeasurement _ => some .noEncoding
  | .matrixCapUpdate _ => some .noEncoding
  | .thermalStep _ => some .noEncoding
  | .thermalTrip _ => some .noEncoding
  | .getVersion _ => some .noEncoding
  | .getCapabilities _ => some .noEncoding
  | .negotiateAlgorithms _ => some .noEncoding
  | .getDigests _ => some .noEncoding
  | .getCertificate _ => some .noEncoding
  | .challenge _ => some .noEncoding
  | .getMeasurements _ => some .noEncoding
  | .readbackLatch _ => some .noEncoding
  | .errorLogClear _ _ => some .noEncoding
  | .powerCapWrite _ => some .noEncoding
  | .registerWrite _ _ => some .noEncoding
  | .illegalInstruction _ _ _ => some .noEncoding
  | .instructionFetchFault _ _ _ _ => some .noEncoding
  | .childLaunchRequest _ _ _ _ => some .noEncoding
  | .launchAnswer _ _ _ _ => some .noEncoding
  | .migrationImageInstalled _ _ => some .noEncoding
  | .aredPartnerEnded _ => some .noEncoding
  | .linkLevelRetry => some .noEncoding

/-- An instruction that a word or halfword encodes. -/
def Instr.wellFormed (i : Instr) : Bool := i.check.isNone

end Sys2Proof
end

