-- ==== Sys2Proof/Machine/Flags.lean ====
section
/-!
DEFINITION. Number formats, rounding and the floating-point flags (03 R76 to R84, R105; 04 R132 to R135; 05 R159 to R164).
Arithmetic is exact on numbers m times 2^e; fpRound is the one place where a value is rounded to a format.
-/

namespace Sys2Proof.Machine

/-- The flags NV, DZ, OF, UF, NX at their places in fmt (03 R79). -/
abbrev Flags := BitVec 5

def flagNV : Flags := 0x10
def flagDZ : Flags := 0x08
def flagOF : Flags := 0x04
def flagUF : Flags := 0x02
def flagNX : Flags := 0x01

/-- A floating-point format (03 R77, R78): exponent and mantissa bits, the exponent field and mantissa of its greatest finite
value, and whether it has infinities. -/
structure Fp where
  eb : Nat
  mb : Nat
  top : Nat
  topM : Nat
  hasInf : Bool
  deriving DecidableEq, Repr

def fp16 : Fp := { eb := 5, mb := 10, top := 30, topM := 1023, hasInf := true }
def bf16 : Fp := { eb := 8, mb := 7, top := 254, topM := 127, hasInf := true }
def fp32 : Fp := { eb := 8, mb := 23, top := 254, topM := 0x7FFFFF, hasInf := true }
def fp64 : Fp := { eb := 11, mb := 52, top := 2046, topM := 0xFFFFFFFFFFFFF, hasInf := true }
/-- FP8E4 under the reading XT (03 R78). -/
def fp8e4 (xt : Bool) : Fp :=
  if xt then { eb := 4, mb := 3, top := 14, topM := 7, hasInf := true } else { eb := 4, mb := 3, top := 15, topM := 6, hasInf := false }
/-- FP8E5 under the reading XT (03 R78). -/
def fp8e5 (xt : Bool) : Fp :=
  if xt then { eb := 5, mb := 2, top := 30, topM := 3, hasInf := true } else { eb := 5, mb := 2, top := 31, topM := 2, hasInf := false }

def Fp.bias (f : Fp) : Nat := 2 ^ (f.eb - 1) - 1
def Fp.width (f : Fp) : Nat := 1 + f.eb + f.mb

/-- An operand: a NaN, an infinity, or a finite number ±m · 2^e. -/
inductive FVal where
  | nan (sig : Bool)
  | inf (neg : Bool)
  | fin (neg : Bool) (m : Nat) (e : Int)
  deriving DecidableEq, Repr

/-- The sign field of an encoding. -/
def Fp.signOf (f : Fp) (x : Nat) : Bool := bitsOf x (f.eb + f.mb) (f.eb + f.mb) == 1

/-- The value of an encoding (03 R77, R78, R84). -/
def Fp.value (f : Fp) (x : Nat) : FVal :=
  let m := bitsOf x (f.mb - 1) 0
  let e := bitsOf x (f.eb + f.mb - 1) f.mb
  if f.top < e ∨ (e = f.top ∧ f.topM < m) then
    if f.hasInf ∧ m = 0 then .inf (f.signOf x) else .nan (decide (7 ≤ f.mb ∧ m < 2 ^ (f.mb - 1)))
  else if e = 0 then .fin (f.signOf x) m (1 - (f.bias : Int) - f.mb)
  else .fin (f.signOf x) (2 ^ f.mb + m) ((e : Int) - f.bias - f.mb)

/-- The encoding with a sign bit added. -/
def Fp.withSign (f : Fp) (neg : Bool) (x : Nat) : Nat := if neg then 2 ^ (f.eb + f.mb) + x else x

def Fp.inf (f : Fp) (neg : Bool) : Nat := f.withSign neg ((2 ^ f.eb - 1) * 2 ^ f.mb)
/-- The canonical NaN (03 R77, R84); 0x7F for FP8. -/
def Fp.nan (f : Fp) : Nat := if f.mb < 7 then 0x7F else (2 ^ f.eb - 1) * 2 ^ f.mb + 2 ^ (f.mb - 1)
def Fp.maxFinite (f : Fp) (neg : Bool) : Nat := f.withSign neg (f.top * 2 ^ f.mb + f.topM)
def Fp.zero (f : Fp) (neg : Bool) : Nat := f.withSign neg 0

/-- m · 2^-sh rounded to an integer in mode rm (03 R79), and whether that was inexact; with sticky the number is a little more
than m. -/
def roundInt (rm : BitVec 2) (neg sticky : Bool) (m : Nat) (sh : Int) : Nat × Bool :=
  match sh with
  | .negSucc k => (m <<< (k + 1), sticky)
  | .ofNat k =>
    let n := m >>> k
    let r := 2 * (m % 2 ^ k)
    let inexact := sticky || r != 0
    let up :=
      if rm = 0 then decide (2 ^ k < r) || (decide (r = 2 ^ k) && (sticky || n % 2 == 1))
      else if rm = 1 then false
      else if rm = 2 then inexact && !neg
      else inexact && neg
    (if up then n + 1 else n, inexact)

/-- What an overflow gives in mode rm: an infinity or the greatest finite value (IEEE 754-2019). -/
def Fp.overflow (f : Fp) (rm : BitVec 2) (neg : Bool) : Nat :=
  if rm = 1 ∨ (rm = 2 ∧ neg) ∨ (rm = 3 ∧ !neg) then f.maxFinite neg else f.inf neg

/-- round_fmt (00 R12, 03 R83): ±m · 2^e, a little more with sticky, rounded to f in mode rm, with the flags it sets. -/
def Fp.round (f : Fp) (rm : BitVec 2) (neg : Bool) (m : Nat) (e : Int) (sticky : Bool) : Nat × Flags :=
  if m = 0 then (f.zero neg, 0)
  else
    let msb : Int := e + Nat.log2 m
    let emin : Int := 1 - f.bias
    let q0 : Int := max (msb - f.mb) (emin - f.mb)
    let r := roundInt rm neg sticky m (q0 - e)
    let n := if r.1 = 2 ^ (f.mb + 1) then 2 ^ f.mb else r.1
    let q := if r.1 = 2 ^ (f.mb + 1) then q0 + 1 else q0
    let qmax : Int := (f.top : Int) - f.bias - f.mb
    if qmax < q ∨ (q = qmax ∧ 2 ^ f.mb + f.topM < n) then (f.overflow rm neg, flagOF ||| flagNX)
    else
      let bits := if n < 2 ^ f.mb then n else (q + f.mb + f.bias).toNat * 2 ^ f.mb + (n - 2 ^ f.mb)
      let tiny := decide (msb < emin - 1) ||
        (decide (msb = emin - 1) && decide ((roundInt rm neg sticky m (msb - f.mb - e)).1 < 2 ^ (f.mb + 1)))
      (f.withSign neg bits, (if r.2 then flagNX else 0) ||| (if r.2 && tiny then flagUF else 0))

/-- Whether an operand is a signalling NaN (03 R84). -/
def FVal.isSig (v : FVal) : Bool := match v with
  | .nan s => s
  | _ => false

def FVal.isNan (v : FVal) : Bool := match v with
  | .nan _ => true
  | _ => false

/-- NV when one of the operands is signalling. -/
def sigFlag (vs : List FVal) : Flags := if vs.any FVal.isSig then flagNV else 0

/-- The invalid result. -/
def Fp.invalid (f : Fp) : Nat × Flags := (f.nan, flagNV)

/-- A finite operand as an integer multiple of 2^e, for e no greater than its own exponent. -/
def scaled (neg : Bool) (m : Nat) (e e0 : Int) : Int :=
  let a : Int := ((m <<< (e - e0).toNat : Nat) : Int)
  if neg then -a else a

/-- An exact sum ±m1 2^e1 ± m2 2^e2 rounded once; an exact zero takes the common sign, else minus only toward minus infinity. -/
def Fp.sum (f : Fp) (rm : BitVec 2) (n1 : Bool) (m1 : Nat) (e1 : Int) (n2 : Bool) (m2 : Nat) (e2 : Int) : Nat × Flags :=
  let e := min e1 e2
  let t := scaled n1 m1 e1 e + scaled n2 m2 e2 e
  if t = 0 then (f.zero (if n1 = n2 then n1 else rm == 3), 0) else f.round rm (decide (t < 0)) t.natAbs e false

/-- Addition (04 R133, 05 R159). -/
def Fp.add (f : Fp) (rm : BitVec 2) (a b : FVal) : Nat × Flags :=
  match a, b with
  | .nan _, _ => (f.nan, sigFlag [a, b])
  | _, .nan _ => (f.nan, sigFlag [a, b])
  | .inf x, .inf y => if x = y then (f.inf x, 0) else f.invalid
  | .inf x, _ => (f.inf x, 0)
  | _, .inf y => (f.inf y, 0)
  | .fin n1 m1 e1, .fin n2 m2 e2 => f.sum rm n1 m1 e1 n2 m2 e2

/-- The sign changed. -/
def FVal.negate (v : FVal) : FVal := match v with
  | .nan s => .nan s
  | .inf n => .inf (!n)
  | .fin n m e => .fin (!n) m e

def Fp.sub (f : Fp) (rm : BitVec 2) (a b : FVal) : Nat × Flags := f.add rm a b.negate

/-- Multiplication. -/
def Fp.mul (f : Fp) (rm : BitVec 2) (a b : FVal) : Nat × Flags :=
  match a, b with
  | .nan _, _ => (f.nan, sigFlag [a, b])
  | _, .nan _ => (f.nan, sigFlag [a, b])
  | .inf x, .inf y => (f.inf (xor x y), 0)
  | .inf x, .fin y m _ => if m = 0 then f.invalid else (f.inf (xor x y), 0)
  | .fin x m _, .inf y => if m = 0 then f.invalid else (f.inf (xor x y), 0)
  | .fin n1 m1 e1, .fin n2 m2 e2 => f.round rm (xor n1 n2) (m1 * m2) (e1 + e2) false

/-- Division; a nonzero finite value over zero gives an infinity and DZ (04 R133). -/
def Fp.div (f : Fp) (rm : BitVec 2) (a b : FVal) : Nat × Flags :=
  match a, b with
  | .nan _, _ => (f.nan, sigFlag [a, b])
  | _, .nan _ => (f.nan, sigFlag [a, b])
  | .inf _, .inf _ => f.invalid
  | .inf x, .fin y _ _ => (f.inf (xor x y), 0)
  | .fin x _ _, .inf y => (f.zero (xor x y), 0)
  | .fin n1 m1 e1, .fin n2 m2 e2 =>
    if m2 = 0 then (if m1 = 0 then f.invalid else (f.inf (xor n1 n2), flagDZ))
    else
      let k := f.mb + 4 + Nat.log2 m2
      let num := m1 <<< k
      f.round rm (xor n1 n2) (num / m2) (e1 - e2 - k) (num % m2 != 0)

/-- The integer square root, bit by bit from bit b - 1 down. -/
def isqrtFrom (n b r : Nat) : Nat :=
  match b with
  | 0 => r
  | k + 1 => if (r + 2 ^ k) * (r + 2 ^ k) ≤ n then isqrtFrom n k (r + 2 ^ k) else isqrtFrom n k r

def isqrt (n : Nat) : Nat := isqrtFrom n (Nat.log2 n / 2 + 1) 0

/-- Square root (04 R133). -/
def Fp.sqrt (f : Fp) (rm : BitVec 2) (a : FVal) : Nat × Flags :=
  match a with
  | .nan _ => (f.nan, sigFlag [a])
  | .inf n => if n then f.invalid else (f.inf false, 0)
  | .fin n m e =>
    if m = 0 then (f.zero n, 0)
    else if n then f.invalid
    else
      let k := 2 * (f.mb + 4) + (if e % 2 = 0 then 0 else 1)
      let t := m <<< k
      let r := isqrt t
      f.round rm false r ((e - k) / 2) (r * r != t)

/-- An infinite product added to c. -/
def Fp.fmaInf (f : Fp) (neg : Bool) (c : FVal) : Nat × Flags :=
  match c with
  | .nan _ => (f.nan, sigFlag [c])
  | .inf z => if z = neg then (f.inf neg, 0) else f.invalid
  | .fin _ _ _ => (f.inf neg, 0)

/-- Fused multiply-add a · b + c with one rounding; infinity times zero is invalid even beside a quiet NaN (04 R133). -/
def Fp.fma (f : Fp) (rm : BitVec 2) (a b c : FVal) : Nat × Flags :=
  match a, b with
  | .nan _, _ => (f.nan, sigFlag [a, b, c])
  | _, .nan _ => (f.nan, sigFlag [a, b, c])
  | .inf x, .inf y => f.fmaInf (xor x y) c
  | .inf x, .fin y m _ => if m = 0 then f.invalid else f.fmaInf (xor x y) c
  | .fin x m _, .inf y => if m = 0 then f.invalid else f.fmaInf (xor x y) c
  | .fin n1 m1 e1, .fin n2 m2 e2 =>
    match c with
    | .nan _ => (f.nan, sigFlag [c])
    | .inf z => (f.inf z, 0)
    | .fin n3 m3 e3 => f.sum rm (xor n1 n2) (m1 * m2) (e1 + e2) n3 m3 e3
/-- Strictly less, on the extended reals; zeros are equal; no NaN. -/
def FVal.lt (a b : FVal) : Bool :=
  match a, b with
  | .nan _, _ => false
  | _, .nan _ => false
  | .inf x, .inf y => x && !y
  | .inf x, .fin _ _ _ => x
  | .fin _ _ _, .inf y => !y
  | .fin n1 m1 e1, .fin n2 m2 e2 => decide (scaled n1 m1 e1 (min e1 e2) < scaled n2 m2 e2 (min e1 e2))

/-- Equal on the extended reals; false for a NaN. -/
def FVal.eqv (a b : FVal) : Bool := !a.isNan && !b.isNan && !a.lt b && !b.lt a

def FVal.isNeg (v : FVal) : Bool := match v with
  | .nan _ => false
  | .inf n => n
  | .fin n _ _ => n

/-- minimumNumber (or maximumNumber with big) of two encodings (04 R133). -/
def Fp.minmax (f : Fp) (big : Bool) (x y : Nat) : Nat × Flags :=
  let a := f.value x
  let b := f.value y
  let fl := sigFlag [a, b]
  if a.isNan then (if b.isNan then (f.nan, fl) else (y, fl))
  else if b.isNan then (x, fl)
  else
    let aLess := a.lt b || (a.eqv b && a.isNeg && !b.isNeg)
    ((if aLess = big then y else x), fl)

/-- The class word (04 R135). -/
def Fp.classWord (f : Fp) (x : Nat) : Nat :=
  let neg := if f.signOf x then 0x40 else 0
  match f.value x with
  | .nan s => neg + 0x10 + (if s then 0x20 else 0)
  | .inf _ => neg + 0x08
  | .fin _ m e =>
    neg + (if m = 0 then 0x01 else if m < 2 ^ f.mb then 0x02 else 0x04)
      + (if m = 0 ∨ 0 ≤ e ∨ m % 2 ^ (-e).toNat = 0 then 0x80 else 0)

/-- A value rounded to an integer between lo and hi: 0 and NV for a NaN, saturation and NV out of range, NX when inexact
(03 R105, 04 R134). -/
def FVal.toInt (rm : BitVec 2) (v : FVal) (lo hi : Int) : Int × Flags :=
  match v with
  | .nan _ => (0, flagNV)
  | .inf n => (if n then lo else hi, flagNV)
  | .fin n m e =>
    let r := roundInt rm n false m (-e)
    let i : Int := if n then -(r.1 : Int) else r.1
    if i < lo ∨ hi < i then (satInt i lo hi, flagNV) else (i, if r.2 then flagNX else 0)

/-- An integer as a value. -/
def FVal.ofInt (i : Int) : FVal := .fin (decide (i < 0)) i.natAbs 0

/-- The value times 2^k, exactly. -/
def FVal.scale (v : FVal) (k : Int) : FVal := match v with
  | .fin n m e => .fin n m (e + k)
  | v => v

/-- A value rounded to f (03 R105, last case; 00 R12). -/
def Fp.ofVal (f : Fp) (rm : BitVec 2) (v : FVal) : Nat × Flags :=
  match v with
  | .nan s => (f.nan, if s then flagNV else 0)
  | .inf n => (f.inf n, 0)
  | .fin n m e => f.round rm n m e false

/-- The floating-point format of a format code (03 R97). -/
def fpOfCode (code : BitVec 4) (xt : Bool) : Option Fp :=
  match code.toNat with
  | 4 => some (fp8e4 xt)
  | 5 => some (fp8e5 xt)
  | 6 => some fp16
  | 7 => some bf16
  | 8 => some fp32
  | 13 => some fp64
  | _ => none

/-- Whether an integer format code is unsigned: only UINT8 (03 R76). -/
def unsignedCode (code : BitVec 4) : Bool := code == 2

def intMin (code : BitVec 4) : Int := if unsignedCode code then 0 else -(2 ^ (formatBits code - 1) : Int)
def intMax (code : BitVec 4) : Int := if unsignedCode code then 255 else 2 ^ (formatBits code - 1) - 1

/-- The value of an element of a format (03 R76, R77). -/
def codeValue (code : BitVec 4) (xt : Bool) (x : Nat) : FVal :=
  match fpOfCode code xt with
  | some f => f.value x
  | none => .ofInt (if unsignedCode code then ((x % 256 : Nat) : Int) else toSigned (formatBits code) x)

/-- convert of 03 R105 from the exact value v; fromInt marks an integer source, which sets no flag in an integer destination. -/
def convertVal (rm : BitVec 2) (satd xt fromInt : Bool) (v : FVal) (df : BitVec 4) : Nat × Flags :=
  match fpOfCode df xt with
  | none =>
    let r := v.toInt rm (intMin df) (intMax df)
    (ofSigned (formatBits df) r.1, if fromInt then 0 else r.2)
  | some f =>
    if f.mb < 7 then
      match v with
      | .inf n =>
        if f.hasInf then (f.inf n, 0) else (if satd then f.maxFinite n else if xt then f.inf n else 0x7F, flagNX)
      | .nan s => (f.nan, if s then flagNV else 0)
      | .fin n m e =>
        let r := f.round rm n m e false
        if r.2 &&& flagOF = 0 then r
        else (if satd then f.maxFinite n else if xt then f.inf n else 0x7F, flagOF ||| flagNX)
    else f.ofVal rm v

/-- convert(x, SF, DF) of 03 R105. -/
def convert (rm : BitVec 2) (satd xt : Bool) (sf df : BitVec 4) (x : Nat) : Nat × Flags :=
  convertVal rm satd xt (fpOfCode sf xt).isNone (codeValue sf xt x) df

/-- floor(log2(|x|)) of a nonzero finite value. -/
def FVal.exponent (v : FVal) : Int := match v with
  | .fin _ m e => e + Nat.log2 m
  | _ => 0

/-- The reciprocal estimate of 05 R160. -/
def Fp.rcpe (f : Fp) (x : Nat) : Nat × Flags :=
  match f.value x with
  | .nan s => (f.nan, if s then flagNV else 0)
  | .inf n => (f.zero n, 0)
  | .fin n m e =>
    if m = 0 then (f.inf n, flagDZ)
    else
      let et : Int := -(e + ceilLog2 m)
      let t := 2 ^ (7 - et - e).toNat / m
      let r := f.round 1 n t (et - 7) false
      (if r.2 &&& flagOF = 0 then r.1 else f.inf n, 0)

/-- The reciprocal square-root estimate of 05 R160. -/
def Fp.rsqrte (f : Fp) (x : Nat) : Nat × Flags :=
  match f.value x with
  | .nan s => (f.nan, if s then flagNV else 0)
  | .inf n => if n then f.invalid else (f.zero false, 0)
  | .fin n m e =>
    if m = 0 then (f.inf n, flagDZ)
    else if n then f.invalid
    else
      let et : Int := -(e + ceilLog2 m) / 2
      let t := isqrt (2 ^ (14 - 2 * et - e).toNat / m)
      let r := f.round 1 false t (et - 7) false
      (if r.2 &&& flagOF = 0 then r.1 else f.inf false, 0)

/-- One combine of the slice-order tree (03 R100) with an operation on present operands. -/
def combineOpt {α : Type} (op : α → α → α) (a b : Option α) : Option α :=
  match a, b with
  | none, b => b
  | a, none => a
  | some x, some y => some (op x y)

/-- One level of the tree: neighbours combined. -/
def treeLevel {α : Type} (op : α → α → α) (xs : List (Option α)) : List (Option α) :=
  match xs with
  | a :: b :: r => combineOpt op a b :: treeLevel op r
  | [a] => [a]
  | [] => []

/-- The tree of 03 R100: levels until one node is left; fuel is a number of levels. -/
def treeReduce {α : Type} (op : α → α → α) (fuel : Nat) (xs : List (Option α)) : Option α :=
  match fuel with
  | 0 => xs.headD none
  | k + 1 => treeReduce op k (treeLevel op xs)

/-- round_ne_fp32(a + b) of 03 R100, with no flags. -/
def addF32ne (a b : Nat) : Nat := (fp32.add 0 (fp32.value a) (fp32.value b)).1

/-- Every NaN result is the canonical NaN (03 R84), also where a reduction has a single present operand (log 16). -/
def Fp.canon (f : Fp) (x : Nat) : Nat := if (f.value x).isNan then f.nan else x

/-- The slice-order reduction of FP32 contributions (03 R100): +0 when all are absent. -/
def sliceSum (xs : List (Option Nat)) : Nat := fp32.canon ((treeReduce addF32ne (ceilLog2 xs.length) xs).getD 0)

end Sys2Proof.Machine
end

