-- ==== Sys2Proof/Config.lean ====
section
/-!
DEFINITION. What the spec leaves open, as opaque constants: no proof can see their values, so a statement holds whatever they
are. Those applied to a Nat take the counter State.tick, which every use advances, so that each use is a fresh value.
-/

namespace Sys2Proof.Config

/-- 06 R192: an un-fenced fetch sees the old or the new copy of a line (log 13). -/
opaque fetchSeesNew : Nat → Nat → Bool

/-- 06 R180: what a device read of a read-shared byte returns after a store outside the drain (log 15). -/
opaque staleByte : Nat → Nat → Byte

/-- 06 R185: PHASE on the first pass over a notification ring, which the spec does not state (log 21). -/
opaque firstPhase : Bool

/-- 14 R443: SHA-256 of a byte string (log 10). -/
opaque sha256 : List Byte → BitVec 256

/-- 14 R443: RSASSA-PSS signature by the device key over a byte string (log 10). -/
opaque sign : Nat → List Byte → List Byte

/-- 14 R443: the certificate chain held in flash (log 10). -/
opaque certificateChain : List Byte

/-- 14 R444: SHA-256 of the boot ROM (log 10). -/
opaque bootRomDigest : BitVec 256

/-- 14 R449: the power manager's choice of matrix share, in 64ths, from the estimate and the cap (log 9). -/
opaque matrixShare : Nat → Nat → Nat → Nat

/-- 10 R318, R335, R336, R344: RESULT or PROGRESS of an element where the spec states none (log 25). -/
opaque unstated : Nat → BitVec 32

/-- 03 R87, 10 R340: the integer that a NaN or an infinity of a block aligns to, which is not used (log 26). -/
opaque nanInteger : Nat → Nat → Byte

/-- 14 R434: a byte of the header, context, engine, metadata or bank part of a saved image, whose layout within its part the spec does
not give (log 31): by the counter, the core and the offset. -/
opaque imageByte : Nat → Nat → Nat → Byte

/-- 14 R442: what the staged-image descriptor in these bytes of firmware memory, whose layout the spec does not give, says: digest,
version, role map, and whether its signature and digest hold (log 10). -/
opaque stagedDigest : List Byte → BitVec 256
opaque stagedVersion : List Byte → BitVec 32
opaque stagedRoles : List Byte → BitVec 128
opaque stagedGood : List Byte → Bool

/-- 14 R444: the version of an image set (log 10). -/
opaque imageVersion : BitVec 256 → BitVec 32

/-- 14 R443: the bytes of an SPDM 1.2 response of a kind with a content; the spec names the standard and not the format (log 10). -/
opaque spdmResponse : Nat → List Byte → List Byte

/-- 14 R449: the cap that a write of a value outside 350 to 600 W leaves (log 9). -/
opaque openCap : Word → Nat

end Sys2Proof.Config
end

