-- ==== Sys2Proof/Machine/State.lean ====
section
/-!
DEFINITION. The state of one QV1024 package as plain data: what spec/ gives the machine (INVENTORY.md, State), the events in
flight and the order of moves. State.reset is the package right after a function reset (14 R426).
-/

namespace Sys2Proof.Machine

/-- A memory: the bytes that are not zero (log 5). -/
abbrev Mem := Sparse Byte

/-- Why the machine stops. -/
inductive Fault where
  /-- Raised by step when the package has no power and no POWER_ON is next (14 R446). Safe: nothing runs then. -/
  | poweredOff
  deriving DecidableEq, Repr

/-- Instructions without a meaning. -/
inductive Refusal where
  /-- Raised by exec for a row of the opcode table that has no meaning yet. Safe. -/
  | notModelled (mnemonic : String)
  deriving DecidableEq, Repr

/-- Where a waited-for word lies (07 R239). -/
inductive WaitTarget where
  | scratch (o : Nat)
  | phys (pa : Nat)
  deriving DecidableEq, Repr

/-- A WAITA in progress (07 R237, R238): the waiter's device, the region attribute of its word, and the value that has satisfied it while its
gang was saved (15 R454). -/
structure WaitaOp where
  dev : BitVec 1
  d : BitVec 5
  va : Word
  target : WaitTarget
  attr : BitVec 2
  cmp : BitVec 3
  dword : Bool
  value : Word
  mask : Word
  scope : BitVec 4
  limit : BitVec 5
  issued : Nat
  polled : Bool
  met : Option Nat
  deriving DecidableEq, Repr

/-- Why a context is suspended (01 R36). -/
inductive Wait where
  | waita (w : WaitaOp)
  /-- A barrier of group slot `slot`: released when `phase` completes; `again` re-executes the instruction then (07 R242). -/
  | barrier (slot : Fin 4) (phase : BitVec 16) (again : Bool)
  | vredg (slot : Fin 4) (phase : BitVec 16)
  | ring (op : RingOp)
  | furled
  /-- An atomic that met cells, with the operation its core sends again after the wake (11 R351). -/
  | atomic (op : HomeOp)
  | fault (va : Word)
  | deq (u : BitVec 3)
  deriving DecidableEq, Repr

/-- The status of a context (04 R114, R115). `stalled` holds the issue slot and waits for an answer; `flushing` holds it, and `ending` has
executed END, until its entries are committed (08 R256, R276). -/
inductive Status where
  | free
  | ready
  | running
  | stalled
  | flushing
  | suspended (w : Wait)
  | ending
  deriving DecidableEq, Repr

/-- Where the record that started a handler stands (08 R254, 14 R421). -/
inductive TrigSrc where
  | mailbox | deque | trapq
  deriving DecidableEq, Repr

/-- What started a handler (08 R254, 14 R420). -/
structure Trigger where
  word : Msg
  kind : PacketKind
  src : TrigSrc
  prio : Nat
  returns : Nat
  pc : Word
  deriving DecidableEq, Repr

/-- A context (04 R114, R119; 14 R427). -/
structure Ctx where
  status : Status
  pc : Word
  x : Vector Word 32
  v : Vector Msg 32
  k : Vector Word 8
  fmt : Word
  budget : BitVec 32
  /-- The cycle in which it gained the issue slot: while it holds the slot wdog.USED is what has passed since (04 R147). -/
  since : Nat
  /-- wdog.USED of the last holding, once the slot is given up (04 R120). -/
  used : Nat
  /-- The cycle from which its next instruction can issue (04 R117). -/
  busy : Nat
  /-- The length of a YIELD that falls through when the context gains the slot again, or 0 (04 R142). -/
  falls : Nat
  lstat : BitVec 2
  lc0 : Word
  ls0 : Word
  le0 : Word
  lc1 : Word
  ls1 : Word
  le1 : Word
  tcause : Word
  tpc : Word
  tval : Word
  tmsg : Word
  evCell : Word
  evChain0 : Word
  evChain1 : Word
  evChain2 : Word
  trigger : Option Trigger
  nonRestart : Bool
  arrived : Vector (Option (BitVec 16)) 4
  /-- Cells this instruction waits on, and the answers it has (11 R351). -/
  asked : List Nat
  answers : List (Nat × FurlAns)
  deriving DecidableEq, Repr

/-- A free context: registers zero, fmt at 03 R79's and wdog at 04 R120's reset values (log 11). -/
def Ctx.reset : Ctx :=
  { status := .free, pc := 0, x := Vector.replicate 32 0, v := Vector.replicate 32 0, k := Vector.replicate 8 0
    fmt := 0x400, budget := 0x1000000, since := 0, used := 0, busy := 0, falls := 0, lstat := 0, lc0 := 0, ls0 := 0, le0 := 0, lc1 := 0, ls1 := 0, le1 := 0
    tcause := 0, tpc := 0, tval := 0, tmsg := 0, evCell := 0, evChain0 := 0, evChain1 := 0, evChain2 := 0
    trigger := none, nonRestart := false, arrived := Vector.replicate 4 none, asked := [], answers := [] }

/-- A mailbox entry (08 R253, R254): held until the handler it started ends. -/
structure MailEntry where
  word : Msg
  kind : PacketKind
  pc : Word
  prio : Nat
  returns : Nat
  started : Option CtxId
  deriving DecidableEq, Repr

/-- A trap-queue entry (14 R421). -/
structure TrapEntry where
  word : Msg
  pc : Word
  started : Option CtxId
  deriving DecidableEq, Repr

/-- A send-buffer entry (08 R255). -/
structure SendEntry where
  ctx : CtxId
  word : Msg
  task : Bool
  deriving DecidableEq, Repr

/-- A retry-buffer entry (08 R258): counted refusals, last back-off, whether it waits to be resent, and since when; and whether it waits for
the injection of its partition (08 R270). -/
structure RetryEntry where
  pkt : Packet
  refusals : Nat
  backoff : Nat
  held : Bool
  since : Nat
  barred : Bool
  deriving DecidableEq, Repr

/-- An address of an engine. -/
inductive EAddr where
  | sp (c : CoreId) (o : Int)
  | mem (va : Word)
  deriving DecidableEq, Repr

/-- Where a running engine command stands (10 R325): the units it has completed, the page it waits for and whether the host has denied it
(06 R184), the furled cells it waits for with the answers it has (11 R351), and the lines whose exclusive host copy it waits for (07 R225);
what it has read, and what it has still to write before it ends with its RESULT and PROGRESS (12 R390, 13 R405). -/
structure Run where
  progress : Nat
  fault : Option Word
  denied : Bool
  asked : List Nat
  answers : List (Nat × FurlAns)
  lines : List Nat
  words : List (EAddr × List Byte)
  outs : List (EAddr × List Byte)
  final : Option (BitVec 32 × BitVec 32)
  deriving DecidableEq, Repr

def Run.start : Run :=
  { progress := 0, fault := none, denied := false, asked := [], answers := [], lines := [], words := [], outs := [], final := none }

/-- A unit's FIFOs (10 R321 to R325). The head of `inq` is the running command. -/
structure EngineQ where
  inq : List Packet
  run : Run
  out : List (BitVec 128)
  reserved : Nat
  deriving DecidableEq, Repr

def EngineQ.empty : EngineQ := { inq := [], run := Run.start, out := [], reserved := 0 }

/-- A macro bank (10 R327): stored row j, column c at key 128 j + c. -/
structure Bank where
  cells : Sparse Int
  int4 : Bool
  sparse : BitVec 2
  float : Bool
  signed : Bool
  eb : Sparse Int
  nanCols : List Nat
  masks : List (BitVec 16)
  deriving DecidableEq, Repr

/-- The dense INT8 tile of zeros that every bank is at launch (10 R327). -/
def Bank.zero : Bank :=
  { cells := [], int4 := false, sparse := 0, float := false, signed := true, eb := [], nanCols := [], masks := [] }

/-- The matrix engine's storage (10 R327, R329). -/
structure Matrix where
  active : Vector Bank 4
  shadow : Vector Bank 4
  acc : Sparse (BitVec 32)
  deriving DecidableEq, Repr

def Matrix.zero : Matrix :=
  { active := Vector.replicate 4 Bank.zero, shadow := Vector.replicate 4 Bank.zero, acc := [] }

/-- A port of a node (13 R391). -/
structure Port where
  node : Word
  port : BitVec 2
  deriving DecidableEq, Repr

/-- An entry of the engine-wait table (13 R407): its place, node A, the headers, the far end of A.aux1 (16 R455), the result node's type
and payload selector, its element once that has arrived, and whether it is held for want of a node. -/
structure EngWait where
  slot : Nat
  a : Word
  hdrA : Word
  hdrB : Word
  far : Option Port
  rtype : BitVec 10
  rpay : BitVec 2
  elem : Option (BitVec 128)
  held : Bool
  deriving DecidableEq, Repr

/-- Where a rewrite stands in steps 2 to 7 of 13 R402: nodes to allocate, or to give back when there are too few; the node to write; the command of an ENGINE rule to
issue, with what its element needs (R407); ports to free; the redirection of interface port i (R403), or of an earlier port whose far
end has moved; and the settling of interface port i (R404): following REDIR links, the CAS, the join of the two live ends, and the
freeing write. -/
inductive RwStep where
  | alloc
  | giveBack (ns : List Word)
  | build (n : Nat)
  | issue (w : Msg) (wait : EngWait)
  | free (ps : List Port)
  | redirect (i : Nat)
  | repair (i : Nat) (q : Port) (old : Word)
  | live (i : Nat) (x : Option Port)
  | settle (i : Nat) (t : Option Port)
  | liveFar (i : Nat) (t g : Option Port)
  | join (i : Nat) (u v : Option Port) (second : Bool)
  | freePort (i : Nat) (p : Port)
  | finish
  deriving DecidableEq, Repr

/-- A rewrite in progress (13 R402): its rule kind, or the engine element it serves; the pair; the headers of the new nodes and the nodes
allocated; the consumed nodes with their arities; the interface ports with the far ends they name, and those whose far end was another
one at step 1; the wiring; the ports of new nodes; the REDIR links written; the wires pushed; and the pairs to be pushed. -/
structure Rewrite where
  kind : BitVec 3
  via : Option (Nat × BitVec 128)
  pair : Word × Word
  headers : List Word
  nodes : List Word
  gone : List Port
  cons : List (Word × Nat)
  ifs : List (Port × Option Port)
  wires : List (Port × Port)
  news : List Port
  step : RwStep
  marks : List (Port × Word)
  pushed : List (Option Port)
  queue : List (Word × Word)
  deriving DecidableEq, Repr

/-- The splice unit of a core (13 R394 to R408). The bag is kept oldest pair first; `taking` is the pair whose step 1 is under way. -/
structure Splice where
  free : Word
  rules : Word
  spill : Word
  count : BitVec 32
  run : Bool
  limit : Nat
  bag : List (Word × Word)
  spilled : Nat
  pend : List (Word × Nat)
  engw : List EngWait
  taking : Option (Word × Word)
  rewrite : Option Rewrite
  wait : Run
  stealing : Bool
  /-- The cycle of its last work (13 R400). -/
  since : Nat
  deriving DecidableEq, Repr

def Splice.reset : Splice :=
  { free := 0, rules := 0, spill := 0, count := 0, run := false, limit := 0, bag := [], spilled := 0, pend := [], engw := []
    taking := none, rewrite := none, wait := Run.start, stealing := false, since := 0 }

/-- A second-level TLB entry with its request counter (06 R185). -/
structure Tlb2 where
  grant : Grant
  count : Nat
  deriving DecidableEq, Repr

/-- What a core keeps of its launch (09 R292). -/
structure Ident where
  lid : Option Nat
  rel : BitVec 10
  hbase : BitVec 57
  nhlog : Nat
  pasid : BitVec 20
  grp : Word
  ext : Vector (BitVec 64) 4
  org : Vector (BitVec 64) 4
  stack : Word
  budget : BitVec 32
  xt : Bool
  deriving DecidableEq, Repr

def Ident.reset : Ident :=
  { lid := none, rel := 0, hbase := 0, nhlog := 0, pasid := 0, grp := 0, ext := Vector.replicate 4 0, org := Vector.replicate 4 0
    stack := 0, budget := 0x1000000, xt := false }

/-- The network interface of a core (08). Lists are oldest first; the deque's top is its last record. -/
structure Net where
  mailbox : List MailEntry
  trapq : List TrapEntry
  sendBuf : List SendEntry
  retryBuf : List RetryEntry
  deque : List Task
  spilled : Nat
  reloading : Bool
  spillRet : List Nat
  nacks : List (BitVec 3 × Party × BitVec 16)
  mid : BitVec 16
  lfsr : BitVec 16
  stealing : Bool
  clsen : Word
  refusing : Bool
  /-- Ring operations that found the cleat table full (08 R280). -/
  rings : List RingOp
  deriving DecidableEq, Repr

def Net.reset : Net :=
  { mailbox := [], trapq := [], sendBuf := [], retryBuf := [], deque := [], spilled := 0, reloading := false, spillRet := [], nacks := []
    mid := 0, lfsr := 0xFFFF, stealing := false, clsen := 0xFFFFFFFFFFFFFFFF, refusing := false, rings := [] }

/-- A logical core (01 R27, R45). -/
structure Core where
  ident : Ident
  ctxs : Vector Ctx 4
  slot : Option CtxId
  last : CtxId
  /-- The last holder gave up the slot by YIELD (04 R115). -/
  yielded : Bool
  /-- The cycle from which the core can issue again after its last instruction (04 R114, R117). -/
  next : Nat
  sp : Mem
  phase : Vector (BitVec 16) 4
  arrived : Vector Bool 4
  net : Net
  mx : EngineQ
  cp : EngineQ
  td : EngineQ
  gm : EngineQ
  sl : EngineQ
  matrix : Matrix
  splice : Splice
  tlb1 : List Grant
  icache : List (Nat × List Byte)
  deriving DecidableEq, Repr

def Core.reset : Core :=
  { ident := Ident.reset, ctxs := Vector.replicate 4 Ctx.reset, slot := none, last := 3, yielded := false, next := 0, sp := [], phase := Vector.replicate 4 0
    arrived := Vector.replicate 4 false, net := Net.reset, mx := EngineQ.empty, cp := EngineQ.empty, td := EngineQ.empty
    gm := EngineQ.empty, sl := EngineQ.empty, matrix := Matrix.zero, splice := Splice.reset, tlb1 := [], icache := [] }

/-- A cleat-table entry (07 R240, 11 R353): a WAITA of a context of a device, a parked ring operation (with HEAD before and after the end tokens
that it has removed, 08 R281), a furled loader, or one of a gang that is saved
(09 R302). -/
inductive Cleat where
  | waita (dev : BitVec 1) (c : CoreId) (x : CtxId) (pa : Nat)
  | ring (op : RingOp) (ate : Option (Nat × Nat))
  | furl (r : FurlReq) (first waiting : Bool) (ord : Nat)
  | saved (lid : Nat) (k : Cleat)
  deriving DecidableEq, Repr

/-- A merge-table entry (06 R181): the line and its waiters, the original requester first. -/
structure Merge where
  line : Nat
  waiters : List Reader
  deriving DecidableEq, Repr

/-- A cluster of the logical grid (01 R25). A replica that its slice holds stands with the launch that made it (06 R182). -/
structure Cluster where
  cleat : List Cleat
  tlb2 : List Tlb2
  replicas : List (Nat × Nat)
  deriving DecidableEq, Repr

def Cluster.reset : Cluster := { cleat := [], tlb2 := [], replicas := [] }

/-- A router of the physical mesh: merge table (06 R181), routing-table entries that firmware has written (08 R268), recoveries by input
(08 R272), dropped packets (08 R273), and the firewall of a Mizzen column with its drops (14 R440). -/
structure Router where
  merge : List Merge
  routes : Sparse (Option (Fin 6))
  recoveries : Vector Nat 5
  drops : Nat
  fireDrops : Nat
  firewall : Vector (BitVec 64) 16
  deriving DecidableEq, Repr

def Router.reset : Router :=
  { merge := [], routes := [], recoveries := Vector.replicate 5 0, drops := 0, fireDrops := 0, firewall := Vector.replicate 16 0 }

/-- A holder of a line in U with its partial (07 R223, 15 R452). -/
structure UHolder where
  core : CoreId
  part : Msg
  deriving DecidableEq, Repr

/-- What a way of an L1 data cache holds (06 R172): a line in the state that Line gives; a line of a read-shared region; or a line of a
private region of its core, with its bytes and whether they have been stored to. -/
inductive Held1 where
  | tracked
  | shared
  | own (data : Msg) (dirty : Bool)
  deriving DecidableEq, Repr

/-- A valid way of a set of an L1 data cache. -/
structure Way where
  line : Nat
  way : Fin 8
  what : Held1
  deriving DecidableEq, Repr

/-- An L1 data cache (06 R172): its valid ways, and the replacement tree of each set, bit n the n-th node. -/
structure L1 where
  ways : List Way
  plru : Sparse (BitVec 8)
  deriving DecidableEq, Repr

def L1.empty : L1 := { ways := [], plru := [] }

/-- The directory entry of a line (07 R223): the owner with the state that its L1 has, the sharer vector by cluster, the U holders with
their operation and width, whether a core of the peer package holds a copy (07 R227), the host's copy with the cycle at which an armed line
is read again (07 R225), whether a back-invalidate snoop is under way, and whether the slice of a line of host memory holds it exclusively
(07 R227). -/
structure Line where
  owner : Option (CoreId × LineSt)
  sharers : BitVec 256
  u : List UHolder
  uop : BitVec 4
  uw : BitVec 5
  peer : Bool
  host : HostCopy
  reread : Nat
  snooping : Bool
  own : Bool
  deriving DecidableEq, Repr

/-- A line no cache holds. -/
def Line.empty : Line :=
  { owner := none, sharers := 0, u := [], uop := 0, uw := 0, peer := false, host := .none, reread := 0, snooping := false, own := false }

/-- A launch record that is the head of a slot (09 R285, R296, R298, R304, R305), with its group descriptors (mode and members, R294),
the cycle of its doorbell, that in which it became the head, that in which it became eligible, and that of the last read of its gate. -/
structure Head where
  record : Msg
  args : Msg
  descs : List (Nat × List (BitVec 10))
  child : Bool
  place : Nat
  arrived : Nat
  since : Nat
  eligibleAt : Option Nat
  gateOpen : Bool
  gateAt : Nat
  orphan : Bool
  missed : Bool
  deriving DecidableEq, Repr

/-- A head as the scheduler sees it (09 R296): that of a slot, or a launch that awaits resumption. -/
inductive HeadRef where
  | slot (n : Fin 128)
  | saved (lid : Nat)
  deriving DecidableEq, Repr

/-- The blocked head, with the cycle in which it became eligible, its aged deadline and its projected placement (09 R298): logical
clusters. -/
structure Blocked where
  who : HeadRef
  since : Nat
  deadline : Nat
  projected : List Nat
  tried : Bool
  deriving DecidableEq, Repr

/-- What the launch unit still owes: a completion word; the completion word that a record names; or the end of a queue's teardown
(09 R307 steps 3 and 4). -/
inductive OwedWhat where
  | word | record | unmap
  deriving DecidableEq, Repr

/-- A completion word that waits for its page (09 R289, R306), with the vector to raise after it; those of a queue's teardown are paid in
order. -/
structure Owed where
  what : OwedWhat
  seq : Option (BitVec 16)
  pasid : BitVec 20
  va : Word
  value : Word
  vector : Option (BitVec 11)
  deriving DecidableEq, Repr

/-- A migration under way (14 R436): source, destination, and the firmware context with its register. -/
structure Migration where
  src : CoreId
  dst : CoreId
  core : CoreId
  ctx : CtxId
  d : BitVec 5
  deriving DecidableEq, Repr

/-- A hardware slot (09 R286). `taken` is a ring record that has been read with its argument block, its index and the cycle of its doorbell,
while the rest of what it needs is read (R285); `aside` a ring record that was the head until a child record came before it (R313). -/
structure Slot where
  queue : Option (BitVec 16)
  lastBell : Nat
  idleSince : Nat
  children : List (Msg × Nat)
  taken : Option (Msg × Msg × Nat × Nat)
  aside : Option Head
  head : Option Head
  drops : Nat
  deriving DecidableEq, Repr

def Slot.reset : Slot := { queue := none, lastBell := 0, idleSince := 0, children := [], taken := none, aside := none, head := none, drops := 0 }

/-- Whether a launch runs, is being saved, is saved, or is written back (09 R302, 14 R433, R435). -/
inductive Phase where
  | running | saving | saved | resuming
  deriving DecidableEq, Repr

/-- A placed launch (09 R292, R302, R303). `cores` maps launch-relative numbers to logical cores. Of a saved gang, `kept` holds its
waits armed at homes, and `inbox` what has been sent to it since. -/
structure Launch where
  lid : Nat
  queue : BitVec 16
  record : Msg
  args : Msg
  pasid : BitVec 20
  cores : List CoreId
  groups : List (Fin 256)
  phase : Phase
  images : List Core
  kept : List (CoreId × CtxId × WaitaOp)
  inbox : List Instr
  startedAt : Nat
  enteredAt : Nat
  backfill : Option (HeadRef × Nat)
  missed : Bool
  pairIndex : Option Nat
  areds : Sparse Nat
  partnerEnded : Bool
  /-- The context whose DONE reached the launch unit first, while its operations are not yet performed (01 R40). -/
  doneBy : Option (CoreId × CtxId)
  deriving DecidableEq, Repr

/-- A group-table entry (09 R294, R295) with the state of its barrier (07 R242 to R245): members are launch-relative, in rank
order; `heard` holds the notifications received as (phase, round, rank). -/
structure Group where
  lid : Nat
  desc : Nat
  members : List (BitVec 10)
  gather : Bool
  arrivedAt : List (BitVec 16 × Nat)
  heard : List (BitVec 16 × Nat × Nat)
  contribs : List (BitVec 16 × Contribution)
  deriving DecidableEq, Repr

/-- A released task record (09 R311). -/
structure Ready where
  lid : Nat
  core : CoreId
  word : Msg
  prio : Nat
  cycle : Nat
  counter : Nat
  va : Word
  deriving DecidableEq, Repr

/-- A counter release that waits for room on the ready queue or for its record's page (09 R311): the priority and the address of the record
as the counter gave them, and the record once the home has read it. -/
structure Held where
  core : CoreId
  lid : Nat
  pa : Nat
  va : Word
  cycle : Nat
  prio : Nat
  task : Word
  record : Option Msg
  deriving DecidableEq, Repr

/-- A running command of the link engine, and, for an ARED that has passed the checks of its taking and has a partner, its place among
those of its tag (10 R324, R343, R344). -/
structure LinkCmd where
  pkt : Packet
  ord : Option Nat
  run : Run
  deriving DecidableEq, Repr

/-- A notification ring of a PASID (06 R185): physical addresses of its records and of the word that holds the index host software
advances, its size as a logarithm, the records written and the records dropped. -/
structure NoteRing where
  base : Nat
  indexAt : Nat
  log : Nat
  written : Nat
  overflow : Nat
  deriving DecidableEq, Repr

/-- A PASID's address space: region table, class-table partition, rings, stop mark (06 R177, R185, R188, 08 R268). -/
structure Space where
  table : List (BitVec 128)
  partition : BitVec 4
  notes : Option NoteRing
  stopped : Bool
  deriving DecidableEq, Repr

def Space.reset : Space := { table := [], partition := 0, notes := none, stopped := false }

/-- A partition (08 R250, R268 to R270): its class table, whether it runs in compatibility mode, and whether its injection is stopped, with
the packets that were in the mesh then. -/
structure Partition where
  classes : List (BitVec 32)
  compat : Bool
  stopped : Bool
  inside : List Instr
  deriving DecidableEq, Repr

def Partition.reset : Partition := { classes := [], compat := false, stopped := false, inside := [] }

/-- A die's Reef governor (10 R337) in macro-cycles: those used in the running window, in all and by core; the activity of the last window
with its empty slots and the cycles held back; the bounds of the running one, with the engines that its upper bound is divided among, the
share of each, and those held with the cycle since when. -/
structure Reef where
  used : Nat
  byCore : Sparse Nat
  activity : Nat
  floor : Nat
  bound : List CoreId
  share : Nat
  held : List (CoreId × Nat)
  heldCycles : Nat
  emptySlots : Nat
  deriving DecidableEq, Repr

def Reef.reset : Reef :=
  { used := 0, byCore := [], activity := 0, floor := 0, bound := [], share := 0, held := [], heldCycles := 0, emptySlots := 0 }

/-- A staged firmware image (14 R442, R444): digest, version and new role map of its descriptor, and whether its signature and its
digest hold. -/
structure Staged where
  digest : BitVec 256
  version : BitVec 32
  rolemap : BitVec 128
  good : Bool
  deriving DecidableEq, Repr

/-- Power, thermal and attestation state (14 R442 to R450). -/
structure Mgmt where
  rigging : BitVec 1024
  readyMap : BitVec 334
  refusedReqs : Nat
  /-- Errors in device memory that were corrected (01 R30). -/
  corrected : Nat
  /-- Bytes of firmware memory for the network-interface parts of saved cores, and the pre-emptions refused for want of them (14 R434). -/
  saveRoom : Nat
  saveRefused : Nat
  errorLog : List (BitVec 128)
  powerCap : Nat
  thermalCut : Nat
  share : Nat
  estimate : Nat
  hold : Bool
  imageDigest : BitVec 256
  imageVersion : BitVec 32
  roles : BitVec 128
  staged : Option Staged
  handover : BitVec 2
  doeOut : List Byte
  doeLog : List Byte
  latch : BitVec 36 × List Word
  linkRetries : Nat
  /-- The uncorrectable internal error signalled to the host, and the boot error (14 R424, 01 R20). -/
  fatal : Bool
  bootError : Bool
  /-- Lines of device memory with uncorrectable data (14 R424). -/
  poisoned : List Nat
  deriving DecidableEq, Repr

/-- What the package answers to the host (07 R225, 09 R284, 14 R424, R446, R447): a line of data, a poisoned completion, a word of a
register or doorbell page, or an Unsupported Request. -/
inductive HostReply where
  | line (l : Nat) (d : Msg)
  | poisoned (l : Nat)
  | word (w : Word)
  | unsupported
  deriving DecidableEq, Repr

/-- Bits that both hardware and software write (00 R7): ERR and ORPHAN of a queue, VALID of an error-log entry, and OVF. -/
inductive HwBit where
  | err (q : BitVec 16)
  | orphan (q : BitVec 16)
  | valid (n : Nat)
  | overflow
  deriving DecidableEq, Repr

/-- What takes the requests of one cycle in ascending core number: a dependency counter (09 R310), the completion of a launch (01 R40). -/
inductive Served where
  | counter (pa : Nat)
  | launch (lid : Nat)
  deriving DecidableEq, Repr

/-- Acts of the host and of firmware that change the package and have no row in the opcode table: a notification ring is registered
(06 R185), a PASID is given its partition (08 R268), a firmware image is staged (14 R442), a memory error is corrected (01 R30), a doorbell
page is read (09 R284), or the management window over CXL.io, or read or written over the I3C sideband (01 R33, 14 R447); the boot core puts
firmware into its memory and starts it (14 R446, log 72); bytes are stored by the host or an I/O agent to host memory, or by the peer to
device memory (07 R221, 10 R341); and a fetch buffer reads a line ahead (06 R192). Of the peer package: a core loads a line (07 R227); a
WAITA arrives at its home, or a context no longer waits (07 R239, R240, 11 R354); a message is dropped (08 R259); its half of a paired launch
is placed or has ended (09 R303). -/
inductive Setup where
  | notes (pasid : BitVec 20) (ring : Option NoteRing)
  | partition (pasid : BitVec 20) (part : BitVec 4)
  | stage (g : Staged)
  | corrected
  | doorbellRead (q : BitVec 16)
  | windowRead (addr : BitVec 36)
  | sidebandRead (addr : BitVec 36)
  | sidebandWrite (addr : BitVec 36) (v : Word)
  | firmwareLoad (va : Word) (bs : List Byte)
  | firmwareStart (c : CoreId) (x : CtxId) (pc : Word)
  | fetchAhead (c : CoreId) (va : Word)
  | store (pa : Nat) (bs : List Byte)
  | peerLoad (line : Nat)
  | peerWait (c : CoreId) (x : CtxId) (w : WaitaOp)
  | peerGone (c : CoreId) (x : CtxId)
  | peerDropped (p : Packet)
  | peerHalf (h : LaunchHalf) (cores : Option (List CoreId))
  deriving DecidableEq, Repr

/-- Who moves next (log 3): a core issues, the n-th event in flight takes place, an event comes from outside or from a unit that acts
by itself, an act of host or firmware takes place, or n cycles pass. -/
inductive Move where
  | issue (c : CoreId)
  | deliver (n : Nat)
  | input (i : Instr)
  | setup (a : Setup)
  | pass (n : Nat)
  deriving DecidableEq, Repr

/-- One QV1024 package. -/
structure State where
  tick : Nat
  pending : List Instr
  /-- Events that found a buffer full, a copy out or a unit busy; they are in flight again after the next issue (log 3). -/
  parked : List Instr
  sched : List Move
  /-- The cycle up to which timers have been looked at (log 3). -/
  checked : Nat
  stalls : List Nat
  cur : CoreId
  hot : CtxId
  cyc : Nat
  powered : Bool
  halted : Bool
  dev : BitVec 1
  hdmBase : Nat
  peerTrained : Bool
  /-- The base of the peer's device memory, which the package knows whether a peer is trained or not (01 R33). -/
  peerBase : BitVec 57
  /-- What leaves over the stay link, oldest first, as the events that it gives the peer (10 R341). -/
  peerOut : List Instr
  /-- The cleat tables of the peer's slices, by cluster, as far as waits and furled requests of this package or its peer are in them
  (07 R239, 11 R352). -/
  peerCleat : Sparse (List Cleat)
  /-- The peer's halves of paired launches that have been placed, with their cores (09 R303). -/
  peerPlaced : List (LaunchHalf × List CoreId)
  mem : Mem
  tags : Sparse (BitVec 2)
  stale : List Nat
  hostPages : List Grant
  spaces : Sparse Space
  partitions : Vector Partition 16
  lines : Sparse Line
  /-- The L1 data caches by core (06 R172). -/
  l1s : Sparse L1
  cores : Vector Core 1152
  clusters : Vector Cluster 288
  routers : Vector Router 288
  /-- Class queues marked escaped (08 R272): router, input, queue. -/
  escaped : List (Fin 288 × Fin 5 × Fin 8)
  linkq : List Packet
  lanes : Vector (Option LinkCmd) 4
  linkRetry : List RetryEntry
  linkNacks : List (BitVec 1 × Nat × BitVec 16)
  queues : Sparse (Option Msg)
  deadQueues : List (BitVec 16)
  /-- Accepted doorbells by queue, oldest first: TAIL and cycle (09 R298). -/
  bells : Sparse (List (BitVec 32 × Nat))
  /-- MSI-X vectors raised, oldest first (09 R305, R306). -/
  raised : List (BitVec 11)
  /-- Answers to the host, oldest first. -/
  toHost : List HostReply
  /-- The doublewords of the queues' direct windows (09 R308). -/
  direct : Sparse (BitVec 256)
  /-- The bits that hardware has set in the running cycle (00 R7). -/
  setAt : List (HwBit × Nat)
  /-- The requests that were taken in the running cycle, with their cores (01 R40, 09 R310). -/
  served : List (Served × CoreId × Nat)
  owed : List Owed
  blocked : Option Blocked
  migrations : List Migration
  /-- Forwarding entries: a source and its destination (14 R437). -/
  migrated : List (CoreId × CoreId)
  slots : Vector Slot 128
  waiting : List (BitVec 16 × Nat)
  launches : List Launch
  nextLid : Nat
  groups : Vector (Option Group) 256
  readyq : List Ready
  held : List Held
  luMid : BitVec 16
  pairCounts : Sparse Nat
  missed : Sparse Nat
  /-- The armed waits, in ascending core and context (07 R238 to R240). -/
  waits : List (CoreId × CtxId × WaitaOp)
  /-- Furled requests that a home refused, with the cycle of the refusal (11 R352). -/
  refused : List (FurlReq × Nat)
  /-- Evaluation failures whose cell's page is not granted: address space and address (11 R362). -/
  failures : List (BitVec 20 × Word)
  reef : Vector Reef 4
  mgmt : Mgmt
  /-- The teardown report of PASID stops (06 R188): contexts aborted with 0x048, and the address they waited for. -/
  torn : List (BitVec 20 × CoreId × CtxId × Word)
  deriving DecidableEq, Repr

/-- A rigging table that 14 R439 accepts: column 8 Mizzen, column 17 spare, Mizzen clusters 0 to 7 in roles 0 to 7, clusters 8 to
15 spare, every limit field 0, the magic number (log 7). -/
def riggingDefault : BitVec 1024 :=
  (0xFFFFFFFFFFFFFFFF7777777776543210#128).zeroExtend 1024 <<< 192
    ||| (0x800010000#1024 <<< 64) ||| 0x47474952#1024

/-- The field of a role map. -/
def roleField (m : BitVec 128) (i : Nat) : Nat := m.toNat / 2 ^ (4 * i) % 16

/-- The firewall registers that a role map gives the routers of the j-th Mizzen column, which stands at physical column p (14 R440, log 9): entry
i admits the traffic of the i-th cluster of the column, whose role names the kind, at its first core. -/
def firewallRegs (m : BitVec 128) (j p : Nat) : Vector (BitVec 64) 16 :=
  Vector.ofFn fun i =>
    let r := roleField m (16 * j + i.val)
    let kind := match r with
      | 0 => 57
      | 1 => 56
      | n => 56 + n
    if r < 7 then BitVec.ofNat 64 (2 ^ 63 + 2 ^ kind + 4 * (18 * i.val + p)) else 0

/-- Management state at the model's reset (log 7, 8, 9, 10). -/
def Mgmt.reset : Mgmt :=
  { rigging := riggingDefault, readyMap := (BitVec.allOnes 334) &&& ~~~(0x30#334), refusedReqs := 0, corrected := 0
    saveRoom := 0x4000000, saveRefused := 0, errorLog := [], powerCap := 600
    thermalCut := 0, share := 64, estimate := 0, hold := false, imageDigest := 0, imageVersion := 0
    roles := 0xFFFFFFFFFFFFFFFF7777777776543210#128, staged := none, handover := 0, doeOut := [], doeLog := []
    latch := (0, []), linkRetries := 0, fatal := false, bootError := false, poisoned := [] }

/-- The package right after a function reset (14 R426): every queue, slot, launch, trap queue and cleat entry empty, caches and
TLBs invalid, every register at its reset value. -/
def State.reset : State :=
  { tick := 0, pending := [], parked := [], sched := [], checked := 0, stalls := [], cur := 0, hot := 0, cyc := 0, powered := true, halted := false, dev := 0
    hdmBase := 0x4000000000, peerTrained := false, peerBase := 0x10000000000, peerOut := [], peerCleat := [], peerPlaced := [], mem := [], tags := [], stale := []
    hostPages := [], spaces := [], partitions := Vector.replicate 16 Partition.reset, lines := [], l1s := []
    cores := Vector.replicate 1152 Core.reset, clusters := Vector.replicate 288 Cluster.reset
    routers := Vector.ofFn fun (r : Fin 288) => if r.val % 18 = 8 then { Router.reset with firewall := firewallRegs Mgmt.reset.roles 0 8 } else Router.reset
    escaped := [], linkq := [], lanes := Vector.replicate 4 none, linkRetry := [], linkNacks := [], queues := []
    deadQueues := [], bells := [], raised := [], toHost := [], direct := [], setAt := [], served := [], owed := [], blocked := none
    migrations := [], migrated := []
    slots := Vector.replicate 128 Slot.reset, waiting := [], launches := [], nextLid := 0, groups := Vector.replicate 256 none
    readyq := [], held := [], luMid := 0, pairCounts := [], missed := [], waits := [], refused := [], failures := []
    reef := Vector.replicate 4 Reef.reset, mgmt := Mgmt.reset, torn := [] }

end Sys2Proof.Machine
end

