-- ==== Sys2Proof/Machine/Regs.lean ====
section
/-!
DEFINITION. Registers and the end of an instruction: the accessors through which every register of a context is read and
written (00 R11), the advance of the program counter with the loop check (04 R141), and the passing of time (04 R117, R147).
-/

namespace Sys2Proof.Machine

/-- What every meaning answers. -/
abbrev Out := Host.Outcome State Fault Refusal

/-- x[r]: x0 reads 0 (00 R11). -/
def Ctx.rx (c : Ctx) (r : BitVec 5) : Word := if r = 0 then 0 else c.x[r.toNat]'(r.isLt)

/-- x[r] written; a write to x0 is discarded (00 R11). -/
def Ctx.wx (c : Ctx) (r : BitVec 5) (v : Word) : Ctx := if r = 0 then c else { c with x := c.x.set r.toNat v (r.isLt) }

/-- v[r]. -/
def Ctx.rv (c : Ctx) (r : BitVec 5) : Msg := c.v[r.toNat]'(r.isLt)

/-- v[r] written. -/
def Ctx.wv (c : Ctx) (r : BitVec 5) (v : Msg) : Ctx := { c with v := c.v.set r.toNat v (r.isLt) }

/-- k[r]: k0 reads all ones (00 R11). -/
def Ctx.rk (c : Ctx) (r : BitVec 3) : Word := if r = 0 then 0xFFFFFFFFFFFFFFFF else c.k[r.toNat]'(r.isLt)

/-- k[r] written; a write to k0 is discarded (00 R11). -/
def Ctx.wk (c : Ctx) (r : BitVec 3) (v : Word) : Ctx := if r = 0 then c else { c with k := c.k.set r.toNat v (r.isLt) }

/-- Flags added to fmt; a set flag stays set (03 R83). -/
def Ctx.addFlags (c : Ctx) (f : Flags) : Ctx := { c with fmt := c.fmt ||| f.setWidth 64 }

/-- fmt.RM (03 R79). -/
def Ctx.rm (c : Ctx) : BitVec 2 := c.fmt.extractLsb' 11 2
/-- fmt.SATD (03 R79). -/
def Ctx.satd (c : Ctx) : Bool := c.fmt.getLsbD 10
/-- fmt.XT (03 R79). -/
def Ctx.xt (c : Ctx) : Bool := c.fmt.getLsbD 8

/-- A 4-bit register field of a 16-bit form (02 R55). -/
def reg16 (r : BitVec 4) : BitVec 5 := r.setWidth 5

/-- The inner loop's count at its end instruction (04 R141): the context and the next address. -/
def Ctx.loopEnd1 (c : Ctx) (next : Word) : Ctx × Word :=
  if c.lstat.getLsbD 1 ∧ c.pc = c.le1 then
    if c.lc1 - 1 ≠ 0 then ({ c with lc1 := c.lc1 - 1 }, c.ls1) else ({ c with lc1 := c.lc1 - 1, lstat := c.lstat &&& 1 }, next)
  else (c, next)

/-- The outer loop's count at its end instruction, when the inner loop has not taken the transfer; disarming it disarms the inner one
(04 R121, R141). -/
def Ctx.loopEnd0 (c : Ctx) (next : Word) : Ctx × Word :=
  if c.lstat.getLsbD 0 ∧ c.pc = c.le0 then
    if c.lc0 - 1 ≠ 0 then ({ c with lc0 := c.lc0 - 1 }, c.ls0) else ({ c with lc0 := c.lc0 - 1, lstat := 0 }, next)
  else (c, next)

/-- A loop whose body next has left is disarmed, the inner one with the outer one (04 R141). -/
def Ctx.loopLeave (c : Ctx) (next : Word) : Ctx :=
  let c1 := if c.lstat.getLsbD 1 ∧ (next.toInt < c.ls1.toInt ∨ c.le1.toInt < next.toInt) then { c with lstat := c.lstat &&& 1 } else c
  if c1.lstat.getLsbD 0 ∧ (next.toInt < c1.ls0.toInt ∨ c1.le0.toInt < next.toInt) then { c1 with lstat := 0 } else c1

/-- The end of an instruction of length len whose next address is next: the loop check of 04 R141 and the new pc. A transfer whose target
is the address after it falls through, as its next address says (log 53). What the instruction waited on is forgotten (11 R351). -/
def Ctx.retire (c : Ctx) (len : Nat) (next : Word) : Ctx :=
  let seq := va57 (c.pc + BitVec.ofNat 64 len)
  let r1 := if next = seq then c.loopEnd1 next else (c, next)
  let r0 := if next = seq ∧ r1.2 = seq then r1.1.loopEnd0 r1.2 else r1
  { r0.1.loopLeave r0.2 with pc := r0.2, asked := [], answers := [] }

/-- A core. -/
def State.coreAt (s : State) (c : CoreId) : Core := s.cores[c]

/-- A core changed. -/
def State.modCore (s : State) (c : CoreId) (f : Core → Core) : State := { s with cores := s.cores.set c (f s.cores[c]) }

/-- A context. -/
def State.ctxAt (s : State) (c : CoreId) (x : CtxId) : Ctx := (s.coreAt c).ctxs[x]

/-- A context changed. -/
def Core.modCtx (k : Core) (x : CtxId) (f : Ctx → Ctx) : Core := { k with ctxs := k.ctxs.set x (f k.ctxs[x]) }

def State.modCtx (s : State) (c : CoreId) (x : CtxId) (f : Ctx → Ctx) : State := s.modCore c fun k => k.modCtx x f

/-- The issuing core and context. -/
def State.core (s : State) : Core := s.coreAt s.cur
def State.ctx (s : State) : Ctx := s.ctxAt s.cur s.hot

/-- The issuing context changed. -/
def State.onCtx (s : State) (f : Ctx → Ctx) : State := s.modCtx s.cur s.hot f

/-- A limit field of the rigging table; 0 stands for its default (14 R438). -/
def State.rigging (s : State) (hi lo dflt : Nat) : Nat := if bitsOf s.mgmt.rigging.toNat hi lo = 0 then dflt else bitsOf s.mgmt.rigging.toNat hi lo

/-- An event put in flight. -/
def State.post (s : State) (i : Instr) : State := { s with pending := s.pending ++ [i] }

/-- Several events put in flight. -/
def State.postAll (s : State) (is : List Instr) : State := { s with pending := s.pending ++ is }

/-- An event that cannot take place yet. -/
def State.park (s : State) (i : Instr) : State := { s with parked := s.parked ++ [i] }

/-- A free value was used. -/
def State.tock (s : State) : State := { s with tick := s.tick + 1 }

/-- The issue cycles of an instruction, and the stall cycles that State.stalls gives it, keep its core from issuing (04 R114, R117,
R147; log 2). Every core issues in the cycle State.cyc; the cycle ends when none can issue in it any more (Moves). -/
def State.spend (s : State) (issue : Nat) : State :=
  let n := s.cyc + (issue + s.stalls.headD 0)
  ({ s with stalls := s.stalls.tail }).modCore s.cur fun k => { k.modCtx s.hot (fun c => { c with busy := n }) with next := n }

/-- Whether a context holds the issue slot (04 R114). -/
def Ctx.holdsSlot (c : Ctx) : Bool :=
  match c.status with
  | .running | .stalled | .flushing => true
  | _ => false

/-- wdog.USED: the cycles for which the context has held the issue slot since it last gained it (04 R120, R147). -/
def State.usedOf (s : State) (c : Ctx) : Nat := if c.holdsSlot then s.cyc - c.since else c.used

/-- The cycle in which the issue slot of a core changes hands: that of its last instruction is over by then (04 R114). -/
def State.handCycle (s : State) (k : Core) : Nat := max s.cyc k.next

/-- The address after an instruction of length len. -/
def Ctx.seq (c : Ctx) (len : Nat) : Word := va57 (c.pc + BitVec.ofNat 64 len)

/-- The issuing context's instruction of length len ends after issue cycles with its registers changed by f. -/
def ctxStep (len issue : Nat) (f : Ctx → Ctx) (s : State) : Out :=
  .next ((s.spend issue).onCtx fun c => (f c).retire len (c.seq len))

/-- The same for an instruction that names its next address. -/
def jumpStep (len issue : Nat) (f : Ctx → Ctx) (next : Word) (s : State) : Out :=
  .next ((s.spend issue).onCtx fun c => (f c).retire len next)

/-- The end of an instruction in a state that the instruction has already changed elsewhere. -/
def State.done (s : State) (len issue : Nat) (f : Ctx → Ctx) : Out := ctxStep len issue f s

end Sys2Proof.Machine
end

