-- ==== Sys2Proof/Machine/Scalar.lean ====
section
/-!
DEFINITION. Scalar integer instructions (04 R122 to R128) and their 16-bit forms (02 R55, R56). Arithmetic wraps, shift amounts are
modulo 64, and no flag is set.
-/

namespace Sys2Proof.Machine

/-- x[d] from x[a] and x[b]. -/
def aluRR (len : Nat) (f : Word → Word → Word) (d a b : BitVec 5) (s : State) : Out :=
  ctxStep len 1 (fun c => c.wx d (f (c.rx a) (c.rx b))) s

/-- x[d] from x[a] alone or with an immediate. -/
def aluR (len : Nat) (f : Word → Word) (d a : BitVec 5) (s : State) : Out :=
  ctxStep len 1 (fun c => c.wx d (f (c.rx a))) s

/-- A shift amount: bits [5:0] (04 R122). -/
def shamt (b : Word) : Nat := b.toNat % 64

def sllOp (a b : Word) : Word := a <<< shamt b
def srlOp (a b : Word) : Word := a >>> shamt b
def sraOp (a b : Word) : Word := a.sshiftRight (shamt b)
def rolOp (a b : Word) : Word := a.rotateLeft (shamt b)
def rorOp (a b : Word) : Word := a.rotateRight (shamt b)
def minOp (a b : Word) : Word := if b.slt a then b else a
def maxOp (a b : Word) : Word := if a.slt b then b else a
def minuOp (a b : Word) : Word := if b < a then b else a
def maxuOp (a b : Word) : Word := if a < b then b else a
/-- 1 or 0. -/
def boolWord (p : Bool) : Word := if p then 1 else 0
def sltOp (a b : Word) : Word := boolWord (a.slt b)
def sltuOp (a b : Word) : Word := boolWord (a.ult b)
def seqOp (a b : Word) : Word := boolWord (a == b)
def sneOp (a b : Word) : Word := boolWord (a != b)

/-! Multiplication and division (04 R126): no division raises a cause; a zero divisor gives all ones and the dividend. -/

def mulhuOp (a b : Word) : Word := BitVec.ofNat 64 (a.toNat * b.toNat / 2 ^ 64)
def mulhOp (a b : Word) : Word := BitVec.ofInt 64 (a.toInt * b.toInt / 2 ^ 64)
def mulhusOp (a b : Word) : Word := BitVec.ofInt 64 ((a.toNat : Int) * b.toInt / 2 ^ 64)
def divuOp (a b : Word) : Word := if b = 0 then 0xFFFFFFFFFFFFFFFF else BitVec.ofNat 64 (a.toNat / b.toNat)
def divOp (a b : Word) : Word := if b = 0 then 0xFFFFFFFFFFFFFFFF else BitVec.ofInt 64 (a.toInt.tdiv b.toInt)
def remuOp (a b : Word) : Word := if b = 0 then a else BitVec.ofNat 64 (a.toNat % b.toNat)
def remOp (a b : Word) : Word := if b = 0 then a else BitVec.ofInt 64 (a.toInt.tmod b.toInt)
def modOp (a b : Word) : Word := if b = 0 then a else BitVec.ofInt 64 (a.toInt.fmod b.toInt)

/-! Bit fields (04 R128): the position is x[b][5:0] and the length x[b][13:8], where 0 stands for 64. -/

def fieldPos (b : Word) : Nat := b.toNat % 64
def fieldLen (b : Word) : Nat := if bitsOf b.toNat 13 8 = 0 then 64 else bitsOf b.toNat 13 8
def bfxOp (a b : Word) : Word := sext (a.sshiftRight (fieldPos b)) (fieldLen b)
def bfxuOp (a b : Word) : Word := zext (a >>> fieldPos b) (fieldLen b)
def bfiOp (old a b : Word) : Word :=
  let m := BitVec.ofNat 64 ((2 ^ fieldLen b - 1) <<< fieldPos b)
  (old &&& ~~~m) ||| ((zext a (fieldLen b) <<< fieldPos b) &&& m)

/-- ADD (04 R122). -/
def execAdd (d a b : BitVec 5) (s : State) : Out := aluRR 4 (· + ·) d a b s
/-- SUB (04 R122). -/
def execSub (d a b : BitVec 5) (s : State) : Out := aluRR 4 (· - ·) d a b s
/-- AND (04 R122). -/
def execAnd (d a b : BitVec 5) (s : State) : Out := aluRR 4 (· &&& ·) d a b s
/-- OR (04 R122). -/
def execOr (d a b : BitVec 5) (s : State) : Out := aluRR 4 (· ||| ·) d a b s
/-- XOR (04 R122). -/
def execXor (d a b : BitVec 5) (s : State) : Out := aluRR 4 (· ^^^ ·) d a b s
/-- ANDN (04 R122). -/
def execAndn (d a b : BitVec 5) (s : State) : Out := aluRR 4 (fun a b => a &&& ~~~b) d a b s
/-- SLL (04 R122). -/
def execSll (d a b : BitVec 5) (s : State) : Out := aluRR 4 sllOp d a b s
/-- SRL (04 R122). -/
def execSrl (d a b : BitVec 5) (s : State) : Out := aluRR 4 srlOp d a b s
/-- SRA (04 R122). -/
def execSra (d a b : BitVec 5) (s : State) : Out := aluRR 4 sraOp d a b s
/-- ROL (04 R122). -/
def execRol (d a b : BitVec 5) (s : State) : Out := aluRR 4 rolOp d a b s
/-- ROR (04 R122). -/
def execRor (d a b : BitVec 5) (s : State) : Out := aluRR 4 rorOp d a b s
/-- MIN (04 R122). -/
def execMin (d a b : BitVec 5) (s : State) : Out := aluRR 4 minOp d a b s
/-- MAX (04 R122). -/
def execMax (d a b : BitVec 5) (s : State) : Out := aluRR 4 maxOp d a b s
/-- MINU (04 R122). -/
def execMinu (d a b : BitVec 5) (s : State) : Out := aluRR 4 minuOp d a b s
/-- MAXU (04 R122). -/
def execMaxu (d a b : BitVec 5) (s : State) : Out := aluRR 4 maxuOp d a b s
/-- SLT (04 R122). -/
def execSlt (d a b : BitVec 5) (s : State) : Out := aluRR 4 sltOp d a b s
/-- SLTU (04 R122). -/
def execSltu (d a b : BitVec 5) (s : State) : Out := aluRR 4 sltuOp d a b s
/-- SEQ (04 R122). -/
def execSeq (d a b : BitVec 5) (s : State) : Out := aluRR 4 seqOp d a b s
/-- SNE (04 R122). -/
def execSne (d a b : BitVec 5) (s : State) : Out := aluRR 4 sneOp d a b s
/-- MUL (04 R126). -/
def execMul (d a b : BitVec 5) (s : State) : Out := aluRR 4 (· * ·) d a b s
/-- MULHU (04 R126). -/
def execMulhu (d a b : BitVec 5) (s : State) : Out := aluRR 4 mulhuOp d a b s
/-- MULH (04 R126). -/
def execMulh (d a b : BitVec 5) (s : State) : Out := aluRR 4 mulhOp d a b s
/-- MULHUS (04 R126). -/
def execMulhus (d a b : BitVec 5) (s : State) : Out := aluRR 4 mulhusOp d a b s
/-- DIVU (04 R126). -/
def execDivu (d a b : BitVec 5) (s : State) : Out := aluRR 4 divuOp d a b s
/-- DIV (04 R126). -/
def execDiv (d a b : BitVec 5) (s : State) : Out := aluRR 4 divOp d a b s
/-- REMU (04 R126). -/
def execRemu (d a b : BitVec 5) (s : State) : Out := aluRR 4 remuOp d a b s
/-- REM (04 R126). -/
def execRem (d a b : BitVec 5) (s : State) : Out := aluRR 4 remOp d a b s
/-- MOD (04 R126). -/
def execMod (d a b : BitVec 5) (s : State) : Out := aluRR 4 modOp d a b s
/-- BFX (04 R128). -/
def execBfx (d a b : BitVec 5) (s : State) : Out := aluRR 4 bfxOp d a b s
/-- BFXU (04 R128). -/
def execBfxu (d a b : BitVec 5) (s : State) : Out := aluRR 4 bfxuOp d a b s
/-- CSEL (04 R122): the old x[d] is the condition. -/
def execCsel (d a b : BitVec 5) (s : State) : Out :=
  ctxStep 4 1 (fun c => c.wx d (if c.rx d ≠ 0 then c.rx a else c.rx b)) s
/-- BFI (04 R128). -/
def execBfi (d a b : BitVec 5) (s : State) : Out :=
  ctxStep 4 1 (fun c => c.wx d (bfiOp (c.rx d) (c.rx a) (c.rx b))) s
/-- ADDI (04 R123). -/
def execAddi (d a : BitVec 5) (i : BitVec 15) (s : State) : Out := aluR 4 (fun x => x + i.signExtend 64) d a s
/-- ANDI (04 R123). -/
def execAndi (d a : BitVec 5) (i : BitVec 15) (s : State) : Out := aluR 4 (fun x => x &&& i.signExtend 64) d a s
/-- ORI (04 R123). -/
def execOri (d a : BitVec 5) (i : BitVec 15) (s : State) : Out := aluR 4 (fun x => x ||| i.setWidth 64) d a s
/-- XORI (04 R123). -/
def execXori (d a : BitVec 5) (i : BitVec 15) (s : State) : Out := aluR 4 (fun x => x ^^^ i.setWidth 64) d a s
/-- SLLI (04 R124). -/
def execSlli (d a : BitVec 5) (sh : BitVec 6) (s : State) : Out := aluR 4 (fun x => sllOp x (sh.setWidth 64)) d a s
/-- SRLI (04 R124). -/
def execSrli (d a : BitVec 5) (sh : BitVec 6) (s : State) : Out := aluR 4 (fun x => srlOp x (sh.setWidth 64)) d a s
/-- SRAI (04 R124). -/
def execSrai (d a : BitVec 5) (sh : BitVec 6) (s : State) : Out := aluR 4 (fun x => sraOp x (sh.setWidth 64)) d a s
/-- RORI (04 R124). -/
def execRori (d a : BitVec 5) (sh : BitVec 6) (s : State) : Out := aluR 4 (fun x => rorOp x (sh.setWidth 64)) d a s
/-- SLTI (04 R124). -/
def execSlti (d a : BitVec 5) (i : BitVec 12) (s : State) : Out := aluR 4 (fun x => sltOp x (i.signExtend 64)) d a s
/-- SLTIU (04 R124). -/
def execSltiu (d a : BitVec 5) (i : BitVec 12) (s : State) : Out := aluR 4 (fun x => sltuOp x (i.signExtend 64)) d a s
/-- SEQI (04 R124). -/
def execSeqi (d a : BitVec 5) (i : BitVec 12) (s : State) : Out := aluR 4 (fun x => seqOp x (i.signExtend 64)) d a s
/-- SNEI (04 R124). -/
def execSnei (d a : BitVec 5) (i : BitVec 12) (s : State) : Out := aluR 4 (fun x => sneOp x (i.signExtend 64)) d a s
/-- The immediate of LIU and ADRP: sext(imm20, 20) × 4096 (02 R51). -/
def imm20 (i : BitVec 20) : Word := i.signExtend 64 <<< 12
/-- LIU (04 R125). -/
def execLiu (d : BitVec 5) (i : BitVec 20) (s : State) : Out := ctxStep 4 1 (fun c => c.wx d (imm20 i)) s
/-- ADRP (04 R125): pc is the instruction's own address. -/
def execAdrp (d : BitVec 5) (i : BitVec 20) (s : State) : Out :=
  ctxStep 4 1 (fun c => c.wx d ((c.pc &&& ~~~0xFFF) + imm20 i)) s
/-- CLZ (04 R127). -/
def execClz (d a : BitVec 5) (s : State) : Out := aluR 4 (fun x => BitVec.ofNat 64 (leadingZeros x)) d a s
/-- CTZ (04 R127). -/
def execCtz (d a : BitVec 5) (s : State) : Out := aluR 4 (fun x => BitVec.ofNat 64 (trailingZeros x)) d a s
/-- POPC (04 R127). -/
def execPopc (d a : BitVec 5) (s : State) : Out := aluR 4 (fun x => BitVec.ofNat 64 (popCount x)) d a s
/-- BREV (04 R127). -/
def execBrev (d a : BitVec 5) (s : State) : Out := aluR 4 (fun x => reverseBits x) d a s
/-- EXTB (04 R127). -/
def execExtB (d a : BitVec 5) (s : State) : Out := aluR 4 (fun x => sext x 8) d a s
/-- EXTH (04 R127). -/
def execExtH (d a : BitVec 5) (s : State) : Out := aluR 4 (fun x => sext x 16) d a s
/-- EXTW (04 R127). -/
def execExtW (d a : BitVec 5) (s : State) : Out := aluR 4 (fun x => sext x 32) d a s
/-- EXTBU (04 R127). -/
def execExtBu (d a : BitVec 5) (s : State) : Out := aluR 4 (fun x => zext x 8) d a s
/-- EXTHU (04 R127). -/
def execExtHu (d a : BitVec 5) (s : State) : Out := aluR 4 (fun x => zext x 16) d a s
/-- EXTWU (04 R127). -/
def execExtWu (d a : BitVec 5) (s : State) : Out := aluR 4 (fun x => zext x 32) d a s
/-- PTAG (04 R129): code 0xE, and a block log beside code 0xF, are refused by Instr.check. -/
def execPtag (d a : BitVec 5) (f : BitVec 4) (l : BitVec 3) (s : State) : Out :=
  aluR 4 (fun x => if f = 15 then f ++ x.extractLsb' 0 60 else f ++ l ++ x.extractLsb' 0 57) d a s

/-! The 16-bit forms: their expansions with length 2 (02 R55, R56). -/

/-- MV_16: addi xd, xa, 0. -/
def execMv16 (d a : BitVec 4) (s : State) : Out := aluR 2 (fun x => x) (reg16 d) (reg16 a) s
/-- LI_16: addi xd, x0, sext(imm7). -/
def execLi16 (d : BitVec 4) (i : BitVec 7) (s : State) : Out := aluR 2 (fun x => x + i.signExtend 64) (reg16 d) 0 s
/-- ADDI_16. -/
def execAddi16 (d : BitVec 4) (i : BitVec 7) (s : State) : Out := aluR 2 (fun x => x + i.signExtend 64) (reg16 d) (reg16 d) s
/-- ADD_16. -/
def execAdd16 (d a : BitVec 4) (s : State) : Out := aluRR 2 (· + ·) (reg16 d) (reg16 d) (reg16 a) s
/-- SUB_16. -/
def execSub16 (d a : BitVec 4) (s : State) : Out := aluRR 2 (· - ·) (reg16 d) (reg16 d) (reg16 a) s
/-- AND_16. -/
def execAnd16 (d a : BitVec 4) (s : State) : Out := aluRR 2 (· &&& ·) (reg16 d) (reg16 d) (reg16 a) s
/-- ANDI_16. -/
def execAndi16 (d : BitVec 4) (i : BitVec 7) (s : State) : Out := aluR 2 (fun x => x &&& i.signExtend 64) (reg16 d) (reg16 d) s
/-- SLLI_16. -/
def execSlli16 (d : BitVec 4) (sh : BitVec 6) (s : State) : Out := aluR 2 (fun x => sllOp x (sh.setWidth 64)) (reg16 d) (reg16 d) s
/-- SRLI_16. -/
def execSrli16 (d : BitVec 4) (sh : BitVec 6) (s : State) : Out := aluR 2 (fun x => srlOp x (sh.setWidth 64)) (reg16 d) (reg16 d) s
/-- SRAI_16. -/
def execSrai16 (d : BitVec 4) (sh : BitVec 6) (s : State) : Out := aluR 2 (fun x => sraOp x (sh.setWidth 64)) (reg16 d) (reg16 d) s

end Sys2Proof.Machine
end

