-- ==== Sys2Proof/Machine/Float.lean ====
section
/-!
DEFINITION. Scalar floating point (04 R132 to R135). An FP32 operand is bits [31:0]; an FP32 result is zero-extended.
-/

namespace Sys2Proof.Machine

/-- The format of the precision bit: .f32 or .f64 (04 R132). -/
def precFp (p : BitVec 1) : Fp := if p = 0 then fp32 else fp64

/-- The operand of precision p in a register (04 R132). -/
def fpBits (p : BitVec 1) (x : Word) : Nat := x.toNat % 2 ^ (precFp p).width

/-- A register written with a result, and its flags added (04 R132). -/
def Ctx.wf (c : Ctx) (d : BitVec 5) (r : Nat × Flags) : Ctx := (c.wx d (BitVec.ofNat 64 r.1)).addFlags r.2

/-- x[d] from the values of x[a] and x[b] in precision p. -/
def fpRR (op : Fp → BitVec 2 → FVal → FVal → Nat × Flags) (d a b : BitVec 5) (p : BitVec 1) (s : State) : Out :=
  ctxStep 4 1 (fun c => c.wf d (op (precFp p) c.rm ((precFp p).value (fpBits p (c.rx a))) ((precFp p).value (fpBits p (c.rx b))))) s

/-- Equality, with NV for a signalling NaN only (04 R134). -/
def fpEq (a b : FVal) : Nat × Flags := (if a.eqv b then 1 else 0, sigFlag [a, b])
/-- NV for any NaN (04 R134). -/
def nanFlag (a b : FVal) : Flags := if a.isNan || b.isNan then flagNV else 0
def fpLt (a b : FVal) : Nat × Flags := (if a.lt b then 1 else 0, nanFlag a b)
def fpLe (a b : FVal) : Nat × Flags := (if a.lt b || a.eqv b then 1 else 0, nanFlag a b)

/-- FADD (04 R133). -/
def execFadd (d a b : BitVec 5) (p : BitVec 1) (s : State) : Out := fpRR Fp.add d a b p s
/-- FSUB (04 R133). -/
def execFsub (d a b : BitVec 5) (p : BitVec 1) (s : State) : Out := fpRR Fp.sub d a b p s
/-- FMUL (04 R133). -/
def execFmul (d a b : BitVec 5) (p : BitVec 1) (s : State) : Out := fpRR Fp.mul d a b p s
/-- FDIV (04 R133). -/
def execFdiv (d a b : BitVec 5) (p : BitVec 1) (s : State) : Out := fpRR Fp.div d a b p s
/-- FSQRT (04 R133). -/
def execFsqrt (d a : BitVec 5) (p : BitVec 1) (s : State) : Out :=
  ctxStep 4 1 (fun c => c.wf d ((precFp p).sqrt c.rm ((precFp p).value (fpBits p (c.rx a))))) s
/-- FMIN (04 R133). -/
def execFmin (d a b : BitVec 5) (p : BitVec 1) (s : State) : Out :=
  ctxStep 4 1 (fun c => c.wf d ((precFp p).minmax false (fpBits p (c.rx a)) (fpBits p (c.rx b)))) s
/-- FMAX (04 R133). -/
def execFmax (d a b : BitVec 5) (p : BitVec 1) (s : State) : Out :=
  ctxStep 4 1 (fun c => c.wf d ((precFp p).minmax true (fpBits p (c.rx a)) (fpBits p (c.rx b)))) s
/-- FMA (04 R133): adds x[d]. -/
def execFma (d a b : BitVec 5) (p : BitVec 1) (s : State) : Out :=
  ctxStep 4 1 (fun c => c.wf d ((precFp p).fma c.rm ((precFp p).value (fpBits p (c.rx a))) ((precFp p).value (fpBits p (c.rx b)))
    ((precFp p).value (fpBits p (c.rx d))))) s
/-- FEQ (04 R134). -/
def execFeq (d a b : BitVec 5) (p : BitVec 1) (s : State) : Out := fpRR (fun _ _ x y => fpEq x y) d a b p s
/-- FLT (04 R134). -/
def execFlt (d a b : BitVec 5) (p : BitVec 1) (s : State) : Out := fpRR (fun _ _ x y => fpLt x y) d a b p s
/-- FLE (04 R134). -/
def execFle (d a b : BitVec 5) (p : BitVec 1) (s : State) : Out := fpRR (fun _ _ x y => fpLe x y) d a b p s
/-- FCLASS (04 R134, R135). -/
def execFclass (d a : BitVec 5) (p : BitVec 1) (s : State) : Out :=
  ctxStep 4 1 (fun c => c.wx d (BitVec.ofNat 64 ((precFp p).classWord (fpBits p (c.rx a))))) s

/-- A conversion to a 64-bit integer between lo and hi (04 R134). -/
def fpToInt (lo hi : Int) (d a : BitVec 5) (p : BitVec 1) (s : State) : Out :=
  ctxStep 4 1 (fun c =>
    let r := ((precFp p).value (fpBits p (c.rx a))).toInt c.rm lo hi
    c.wf d (ofSigned 64 r.1, r.2)) s

/-- FTOI (04 R134). -/
def execFtoi (d a : BitVec 5) (p : BitVec 1) (s : State) : Out := fpToInt (-(2 ^ 63)) (2 ^ 63 - 1) d a p s
/-- FTOIU (04 R134). -/
def execFtoiu (d a : BitVec 5) (p : BitVec 1) (s : State) : Out := fpToInt 0 (2 ^ 64 - 1) d a p s
/-- ITOF (04 R134). -/
def execItof (d a : BitVec 5) (p : BitVec 1) (s : State) : Out :=
  ctxStep 4 1 (fun c => c.wf d ((precFp p).ofVal c.rm (.ofInt (c.rx a).toInt))) s
/-- IUTOF (04 R134). -/
def execIutof (d a : BitVec 5) (p : BitVec 1) (s : State) : Out :=
  ctxStep 4 1 (fun c => c.wf d ((precFp p).ofVal c.rm (.ofInt (c.rx a).toNat))) s
/-- FTOF (04 R134): from the named precision to the other one. -/
def execFtof (d a : BitVec 5) (p : BitVec 1) (s : State) : Out :=
  ctxStep 4 1 (fun c => c.wf d ((precFp (~~~p)).ofVal c.rm ((precFp p).value (fpBits p (c.rx a))))) s

end Sys2Proof.Machine
end

