-- ==== Sys2Proof/Machine/Vector.lean ====
section
/-!
DEFINITION. Vector instructions of majors 0x30 to 0x36 and 0x38 (05 R148 to R165). All sources are read before the destination is
written (05 R150).
-/

namespace Sys2Proof.Machine

/-- The register whose active elements are f of the index, at width w bits and n elements (05 R149). -/
def vecElems (w n : Nat) (d : BitVec 5) (k : BitVec 3) (f : Ctx → Nat → Nat) (s : State) : Out :=
  ctxStep 4 1 (fun c => c.wv d (maskedElems w n (c.rk k) (c.rv d) (f c))) s

/-- v[d] element by element from v[a] and v[b]; f takes the width. -/
def vecRR (f : Nat → Nat → Nat → Nat) (d a b : BitVec 5) (k : BitVec 3) (w : BitVec 2) (s : State) : Out :=
  vecElems (widthOf w) (lanesOf w) d k (fun c i => f (widthOf w) (elem (c.rv a) (widthOf w) i) (elem (c.rv b) (widthOf w) i)) s

/-- v[d] element by element from v[a] and an immediate (05 R157). -/
def vecRI (f : Nat → Nat → Nat → Nat) (imm : Nat) (d a : BitVec 5) (k : BitVec 3) (w : BitVec 2) (s : State) : Out :=
  vecElems (widthOf w) (lanesOf w) d k (fun c i => f (widthOf w) (elem (c.rv a) (widthOf w) i) imm) s

/-- k[d] from a comparison of the active elements; the other bits become 0 (05 R158). -/
def vecCmp (p : Nat → Nat → Nat → Bool) (d : BitVec 3) (a b : BitVec 5) (k : BitVec 3) (w : BitVec 2) (s : State) : Out :=
  ctxStep 4 1 (fun c => c.wk d (maskOf (lanesOf w) fun i =>
    (c.rk k).getLsbD i && p (widthOf w) (elem (c.rv a) (widthOf w) i) (elem (c.rv b) (widthOf w) i))) s

/-- sext(imm5, 5) at width w (05 R157). -/
def imm5 (i : BitVec 5) (w : BitVec 2) : Nat := ofSigned (widthOf w) i.toInt

def satS (w : Nat) (x : Int) : Nat := ofSigned w (satInt x (-(2 ^ (w - 1))) (2 ^ (w - 1) - 1))
def satU (w : Nat) (x : Int) : Nat := ofSigned w (satInt x 0 (2 ^ w - 1))
def vmulhOp (w a b : Nat) : Nat := ofSigned w (toSigned w a * toSigned w b / 2 ^ w)
def vsraOp (w a b : Nat) : Nat := ofSigned w (toSigned w a / 2 ^ (b % w))
def notBits (w a : Nat) : Nat := 2 ^ w - 1 - a
def vmaxOp (w a b : Nat) : Nat := if toSigned w a < toSigned w b then b else a
def vminOp (w a b : Nat) : Nat := if toSigned w b < toSigned w a then b else a

/-- VADD (05 R155). -/
def execVadd (d a b : BitVec 5) (k : BitVec 3) (w : BitVec 2) (s : State) : Out := vecRR (fun _ a b => a + b) d a b k w s
/-- VSUB (05 R155). -/
def execVsub (d a b : BitVec 5) (k : BitVec 3) (w : BitVec 2) (s : State) : Out := vecRR (fun w a b => a + 2 ^ w - b) d a b k w s
/-- VADDSAT (05 R155). -/
def execVaddSat (d a b : BitVec 5) (k : BitVec 3) (w : BitVec 2) (s : State) : Out := vecRR (fun w a b => satS w (toSigned w a + toSigned w b)) d a b k w s
/-- VSUBSAT (05 R155). -/
def execVsubSat (d a b : BitVec 5) (k : BitVec 3) (w : BitVec 2) (s : State) : Out := vecRR (fun w a b => satS w (toSigned w a - toSigned w b)) d a b k w s
/-- VADDUSAT (05 R155). -/
def execVadduSat (d a b : BitVec 5) (k : BitVec 3) (w : BitVec 2) (s : State) : Out := vecRR (fun w a b => satU w ((a : Int) + b)) d a b k w s
/-- VSUBUSAT (05 R155). -/
def execVsubuSat (d a b : BitVec 5) (k : BitVec 3) (w : BitVec 2) (s : State) : Out := vecRR (fun w a b => satU w ((a : Int) - b)) d a b k w s
/-- VMUL (05 R155). -/
def execVmul (d a b : BitVec 5) (k : BitVec 3) (w : BitVec 2) (s : State) : Out := vecRR (fun _ a b => a * b) d a b k w s
/-- VMULH (05 R155). -/
def execVmulh (d a b : BitVec 5) (k : BitVec 3) (w : BitVec 2) (s : State) : Out := vecRR (vmulhOp) d a b k w s
/-- VMULHU (05 R155). -/
def execVmulhu (d a b : BitVec 5) (k : BitVec 3) (w : BitVec 2) (s : State) : Out := vecRR (fun w a b => a * b / 2 ^ w) d a b k w s
/-- VMIN (05 R155). -/
def execVmin (d a b : BitVec 5) (k : BitVec 3) (w : BitVec 2) (s : State) : Out := vecRR (vminOp) d a b k w s
/-- VMAX (05 R155). -/
def execVmax (d a b : BitVec 5) (k : BitVec 3) (w : BitVec 2) (s : State) : Out := vecRR (vmaxOp) d a b k w s
/-- VMINU (05 R155). -/
def execVminu (d a b : BitVec 5) (k : BitVec 3) (w : BitVec 2) (s : State) : Out := vecRR (fun _ a b => min a b) d a b k w s
/-- VMAXU (05 R155). -/
def execVmaxu (d a b : BitVec 5) (k : BitVec 3) (w : BitVec 2) (s : State) : Out := vecRR (fun _ a b => max a b) d a b k w s
/-- VABS (05 R155). -/
def execVabs (d a : BitVec 5) (k : BitVec 3) (w : BitVec 2) (s : State) : Out := vecRI (fun w a _ => (toSigned w a).natAbs) 0 d a k w s
/-- VAND (05 R156). -/
def execVand (d a b : BitVec 5) (k : BitVec 3) (w : BitVec 2) (s : State) : Out := vecRR (fun _ a b => a &&& b) d a b k w s
/-- VOR (05 R156). -/
def execVor (d a b : BitVec 5) (k : BitVec 3) (w : BitVec 2) (s : State) : Out := vecRR (fun _ a b => a ||| b) d a b k w s
/-- VXOR (05 R156). -/
def execVxor (d a b : BitVec 5) (k : BitVec 3) (w : BitVec 2) (s : State) : Out := vecRR (fun _ a b => a ^^^ b) d a b k w s
/-- VANDN (05 R156). -/
def execVandn (d a b : BitVec 5) (k : BitVec 3) (w : BitVec 2) (s : State) : Out := vecRR (fun w a b => a &&& notBits w b) d a b k w s
/-- VSLL (05 R156). -/
def execVsll (d a b : BitVec 5) (k : BitVec 3) (w : BitVec 2) (s : State) : Out := vecRR (fun w a b => a <<< (b % w)) d a b k w s
/-- VSRL (05 R156). -/
def execVsrl (d a b : BitVec 5) (k : BitVec 3) (w : BitVec 2) (s : State) : Out := vecRR (fun w a b => a >>> (b % w)) d a b k w s
/-- VSRA (05 R156). -/
def execVsra (d a b : BitVec 5) (k : BitVec 3) (w : BitVec 2) (s : State) : Out := vecRR (vsraOp) d a b k w s
/-- VNOT (05 R156). -/
def execVnot (d a : BitVec 5) (k : BitVec 3) (w : BitVec 2) (s : State) : Out := vecRI (fun w a _ => notBits w a) 0 d a k w s
/-- VSEL (05 R156): the mask chooses the source of every element. -/
def execVsel (d a b : BitVec 5) (k : BitVec 3) (w : BitVec 2) (s : State) : Out :=
  ctxStep 4 1 (fun c => c.wv d (maskedElems (widthOf w) (lanesOf w) (c.rk k) (c.rv b) (fun i => elem (c.rv a) (widthOf w) i))) s
/-- VCEQ (05 R158). -/
def execVceq (d : BitVec 3) (a b : BitVec 5) (k : BitVec 3) (w : BitVec 2) (s : State) : Out := vecCmp (fun _ a b => a == b) d a b k w s
/-- VCNE (05 R158). -/
def execVcne (d : BitVec 3) (a b : BitVec 5) (k : BitVec 3) (w : BitVec 2) (s : State) : Out := vecCmp (fun _ a b => a != b) d a b k w s
/-- VCLT (05 R158). -/
def execVclt (d : BitVec 3) (a b : BitVec 5) (k : BitVec 3) (w : BitVec 2) (s : State) : Out := vecCmp (fun w a b => decide (toSigned w a < toSigned w b)) d a b k w s
/-- VCLE (05 R158). -/
def execVcle (d : BitVec 3) (a b : BitVec 5) (k : BitVec 3) (w : BitVec 2) (s : State) : Out := vecCmp (fun w a b => decide (toSigned w a ≤ toSigned w b)) d a b k w s
/-- VCLTU (05 R158). -/
def execVcltu (d : BitVec 3) (a b : BitVec 5) (k : BitVec 3) (w : BitVec 2) (s : State) : Out := vecCmp (fun _ a b => decide (a < b)) d a b k w s
/-- VCLEU (05 R158). -/
def execVcleu (d : BitVec 3) (a b : BitVec 5) (k : BitVec 3) (w : BitVec 2) (s : State) : Out := vecCmp (fun _ a b => decide (a ≤ b)) d a b k w s
/-- VADDI (05 R157). -/
def execVaddi (d a : BitVec 5) (i : BitVec 5) (k : BitVec 3) (w : BitVec 2) (s : State) : Out := vecRI (fun _ a b => a + b) (imm5 i w) d a k w s
/-- VANDI (05 R157). -/
def execVandi (d a : BitVec 5) (i : BitVec 5) (k : BitVec 3) (w : BitVec 2) (s : State) : Out := vecRI (fun _ a b => a &&& b) (imm5 i w) d a k w s
/-- VORI (05 R157). -/
def execVori (d a : BitVec 5) (i : BitVec 5) (k : BitVec 3) (w : BitVec 2) (s : State) : Out := vecRI (fun _ a b => a ||| b) (imm5 i w) d a k w s
/-- VXORI (05 R157). -/
def execVxori (d a : BitVec 5) (i : BitVec 5) (k : BitVec 3) (w : BitVec 2) (s : State) : Out := vecRI (fun _ a b => a ^^^ b) (imm5 i w) d a k w s
/-- VSLLI (05 R157). -/
def execVslli (d a : BitVec 5) (i : BitVec 5) (k : BitVec 3) (w : BitVec 2) (s : State) : Out := vecRI (fun w a b => a <<< (b % w)) (i.toNat) d a k w s
/-- VSRLI (05 R157). -/
def execVsrli (d a : BitVec 5) (i : BitVec 5) (k : BitVec 3) (w : BitVec 2) (s : State) : Out := vecRI (fun w a b => a >>> (b % w)) (i.toNat) d a k w s
/-- VSRAI (05 R157). -/
def execVsrai (d a : BitVec 5) (i : BitVec 5) (k : BitVec 3) (w : BitVec 2) (s : State) : Out := vecRI (vsraOp) (i.toNat) d a k w s
/-- A comparison with an immediate (05 R157, R158). -/
def vecCmpI (p : Nat → Nat → Nat → Bool) (d : BitVec 3) (a : BitVec 5) (i : BitVec 5) (k : BitVec 3) (w : BitVec 2) (s : State) : Out :=
  ctxStep 4 1 (fun c => c.wk d (maskOf (lanesOf w) fun j => (c.rk k).getLsbD j && p (widthOf w) (elem (c.rv a) (widthOf w) j) (imm5 i w))) s
/-- VCEQI (05 R157). -/
def execVceqi (d : BitVec 3) (a : BitVec 5) (i : BitVec 5) (k : BitVec 3) (w : BitVec 2) (s : State) : Out :=
  vecCmpI (fun _ a b => a == b) d a i k w s
/-- VCLTI (05 R157). -/
def execVclti (d : BitVec 3) (a : BitVec 5) (i : BitVec 5) (k : BitVec 3) (w : BitVec 2) (s : State) : Out :=
  vecCmpI (fun w a b => decide (toSigned w a < toSigned w b)) d a i k w s
/-- VMOVI (05 R157). -/
def execVmovi (d : BitVec 5) (i : BitVec 5) (k : BitVec 3) (w : BitVec 2) (s : State) : Out :=
  vecElems (widthOf w) (lanesOf w) d k (fun _ _ => imm5 i w) s

/-! Floating point (05 R159 to R161): the format code is 0 .bf16, 1 .f16, 2 .f32. -/

def vecFp (w : BitVec 2) : Fp := match w.toNat with
  | 0 => bf16
  | 1 => fp16
  | _ => fp32

/-- Elements per register in a format. -/
def Fp.lanes (f : Fp) : Nat := 512 / f.width

/-- All flags of a list of results. -/
def allFlags (rs : List (Nat × Flags)) : Flags := rs.foldl (fun a r => a ||| r.2) 0

/-- v[d] with its active elements computed by g, and the flags of the active elements only (03 R83, 05 R149). -/
def vecFpElems (d : BitVec 5) (k : BitVec 3) (w : BitVec 2) (g : Fp → Ctx → Nat → Nat × Flags) (s : State) : Out :=
  ctxStep 4 1 (fun c =>
    let f := vecFp w
    let rs := (List.range f.lanes).map fun i => if (c.rk k).getLsbD i then g f c i else (elem (c.rv d) f.width i, 0)
    (c.wv d (ofElems f.width (rs.map (·.1)))).addFlags (allFlags rs)) s

/-- The value of element i. -/
def vecVal (f : Fp) (v : Msg) (i : Nat) : FVal := f.value (elem v f.width i)

/-- VFADD (05 R159). -/
def execVfadd (d a b : BitVec 5) (k : BitVec 3) (w : BitVec 2) (s : State) : Out :=
  vecFpElems d k w (fun f c i => f.add c.rm (vecVal f (c.rv a) i) (vecVal f (c.rv b) i)) s
/-- VFSUB (05 R159). -/
def execVfsub (d a b : BitVec 5) (k : BitVec 3) (w : BitVec 2) (s : State) : Out :=
  vecFpElems d k w (fun f c i => f.sub c.rm (vecVal f (c.rv a) i) (vecVal f (c.rv b) i)) s
/-- VFMUL (05 R159). -/
def execVfmul (d a b : BitVec 5) (k : BitVec 3) (w : BitVec 2) (s : State) : Out :=
  vecFpElems d k w (fun f c i => f.mul c.rm (vecVal f (c.rv a) i) (vecVal f (c.rv b) i)) s
/-- VFMA (05 R159). -/
def execVfma (d a b : BitVec 5) (k : BitVec 3) (w : BitVec 2) (s : State) : Out :=
  vecFpElems d k w (fun f c i => f.fma c.rm (vecVal f (c.rv a) i) (vecVal f (c.rv b) i) (vecVal f (c.rv d) i)) s
/-- VFNMA (05 R159). -/
def execVfnma (d a b : BitVec 5) (k : BitVec 3) (w : BitVec 2) (s : State) : Out :=
  vecFpElems d k w (fun f c i => f.fma c.rm (vecVal f (c.rv a) i).negate (vecVal f (c.rv b) i) (vecVal f (c.rv d) i)) s
/-- VFMIN (05 R159). -/
def execVfmin (d a b : BitVec 5) (k : BitVec 3) (w : BitVec 2) (s : State) : Out :=
  vecFpElems d k w (fun f c i => f.minmax false (elem (c.rv a) f.width i) (elem (c.rv b) f.width i)) s
/-- VFMAX (05 R159). -/
def execVfmax (d a b : BitVec 5) (k : BitVec 3) (w : BitVec 2) (s : State) : Out :=
  vecFpElems d k w (fun f c i => f.minmax true (elem (c.rv a) f.width i) (elem (c.rv b) f.width i)) s
/-- The sign bit set to a value; a NaN becomes canonical, with no flag (05 R159). -/
def Fp.setSign (f : Fp) (x : Nat) (neg : Bool) : Nat :=
  if (f.value x).isNan then f.nan else f.withSign neg (x % 2 ^ (f.eb + f.mb))
/-- VFABS (05 R159). -/
def execVfabs (d a : BitVec 5) (k : BitVec 3) (w : BitVec 2) (s : State) : Out :=
  vecFpElems d k w (fun f c i => (f.setSign (elem (c.rv a) f.width i) false, 0)) s
/-- VFNEG (05 R159). -/
def execVfneg (d a : BitVec 5) (k : BitVec 3) (w : BitVec 2) (s : State) : Out :=
  vecFpElems d k w (fun f c i => (f.setSign (elem (c.rv a) f.width i) (!f.signOf (elem (c.rv a) f.width i)), 0)) s
/-- VFRCPE (05 R160). -/
def execVfrcpe (d a : BitVec 5) (k : BitVec 3) (w : BitVec 2) (s : State) : Out :=
  vecFpElems d k w (fun f c i => f.rcpe (elem (c.rv a) f.width i)) s
/-- VFRSQRTE (05 R160). -/
def execVfrsqrte (d a : BitVec 5) (k : BitVec 3) (w : BitVec 2) (s : State) : Out :=
  vecFpElems d k w (fun f c i => f.rsqrte (elem (c.rv a) f.width i)) s
/-- VFCLASS (05 R161). -/
def execVfclass (d a : BitVec 5) (k : BitVec 3) (w : BitVec 2) (s : State) : Out :=
  vecFpElems d k w (fun f c i => (f.classWord (elem (c.rv a) f.width i), 0)) s
/-- k[d] from a floating-point comparison of the active elements, with their flags even when k[d] is k0 (05 R158). -/
def vecFpCmp (p : FVal → FVal → Nat × Flags) (d : BitVec 3) (a b : BitVec 5) (k : BitVec 3) (w : BitVec 2) (s : State) : Out :=
  ctxStep 4 1 (fun c =>
    let f := vecFp w
    let rs := (List.range f.lanes).map fun i => if (c.rk k).getLsbD i then p (vecVal f (c.rv a) i) (vecVal f (c.rv b) i) else (0, 0)
    (c.wk d (BitVec.ofNat 64 (packElems 1 (rs.map (·.1))))).addFlags (allFlags rs)) s
/-- VFCEQ (05 R158). -/
def execVfceq (d : BitVec 3) (a b : BitVec 5) (k : BitVec 3) (w : BitVec 2) (s : State) : Out := vecFpCmp fpEq d a b k w s
/-- VFCLT (05 R158). -/
def execVfclt (d : BitVec 3) (a b : BitVec 5) (k : BitVec 3) (w : BitVec 2) (s : State) : Out := vecFpCmp fpLt d a b k w s
/-- VFCLE (05 R158). -/
def execVfcle (d : BitVec 3) (a b : BitVec 5) (k : BitVec 3) (w : BitVec 2) (s : State) : Out := vecFpCmp fpLe d a b k w s
/-- VFCUN (05 R158). -/
def execVfcun (d : BitVec 3) (a b : BitVec 5) (k : BitVec 3) (w : BitVec 2) (s : State) : Out := vecFpCmp (fun x y => (if x.isNan || y.isNan then 1 else 0, sigFlag [x, y])) d a b k w s

/-! Permutes (05 R162). -/

/-- VPERM. -/
def execVperm (d a b : BitVec 5) (k : BitVec 3) (w : BitVec 2) (s : State) : Out :=
  vecElems (widthOf w) (lanesOf w) d k (fun c i =>
    let j := elem (c.rv b) (widthOf w) i
    if j < lanesOf w then elem (c.rv a) (widthOf w) j else 0) s
/-- VBCAST. -/
def execVbcast (d a : BitVec 5) (k : BitVec 3) (w : BitVec 2) (s : State) : Out :=
  vecElems (widthOf w) (lanesOf w) d k (fun c _ => (c.rx a).toNat) s
/-- VEXT. -/
def execVext (d a b : BitVec 5) (w : BitVec 2) (s : State) : Out :=
  ctxStep 4 1 (fun c => c.wx d (if (c.rx b).toNat < lanesOf w then
    BitVec.ofInt 64 (toSigned (widthOf w) (elem (c.rv a) (widthOf w) (c.rx b).toNat)) else 0)) s
/-- VINS. -/
def execVins (d a b : BitVec 5) (w : BitVec 2) (s : State) : Out :=
  ctxStep 4 1 (fun c => c.wv d (ofElems (widthOf w) ((List.range (lanesOf w)).map fun i =>
    if i = (c.rx b).toNat then (c.rx a).toNat else elem (c.rv d) (widthOf w) i))) s
/-- VSLIDEUP: an element below the count is unchanged. -/
def execVslideup (d a b : BitVec 5) (k : BitVec 3) (w : BitVec 2) (s : State) : Out :=
  vecElems (widthOf w) (lanesOf w) d k (fun c i =>
    if (c.rx b).toNat ≤ i then elem (c.rv a) (widthOf w) (i - (c.rx b).toNat) else elem (c.rv d) (widthOf w) i) s
/-- VSLIDEDN. -/
def execVslidedn (d a b : BitVec 5) (k : BitVec 3) (w : BitVec 2) (s : State) : Out :=
  vecElems (widthOf w) (lanesOf w) d k (fun c i =>
    if i + (c.rx b).toNat < lanesOf w then elem (c.rv a) (widthOf w) (i + (c.rx b).toNat) else 0) s

/-- Element i of two registers interleaved from element h on. -/
def zipElem (w h : Nat) (a b : Msg) (i : Nat) : Nat := elem (if i % 2 = 0 then a else b) w (h + i / 2)

/-- Element i of the even (h = 0) or odd (h = 1) elements of v[a] followed by those of v[b]. -/
def unzipElem (w n h : Nat) (a b : Msg) (i : Nat) : Nat := if i < n / 2 then elem a w (2 * i + h) else elem b w (2 * i - n + h)

/-- VZIPLO. -/
def execVziplo (d a b : BitVec 5) (k : BitVec 3) (w : BitVec 2) (s : State) : Out := vecElems (widthOf w) (lanesOf w) d k (fun c i => zipElem (widthOf w) 0 (c.rv a) (c.rv b) i) s
/-- VZIPHI. -/
def execVziphi (d a b : BitVec 5) (k : BitVec 3) (w : BitVec 2) (s : State) : Out := vecElems (widthOf w) (lanesOf w) d k (fun c i => zipElem (widthOf w) (lanesOf w / 2) (c.rv a) (c.rv b) i) s
/-- VUNZIPLO. -/
def execVunziplo (d a b : BitVec 5) (k : BitVec 3) (w : BitVec 2) (s : State) : Out := vecElems (widthOf w) (lanesOf w) d k (fun c i => unzipElem (widthOf w) (lanesOf w) 0 (c.rv a) (c.rv b) i) s
/-- VUNZIPHI. -/
def execVunziphi (d a b : BitVec 5) (k : BitVec 3) (w : BitVec 2) (s : State) : Out := vecElems (widthOf w) (lanesOf w) d k (fun c i => unzipElem (widthOf w) (lanesOf w) 1 (c.rv a) (c.rv b) i) s

/-! Reductions and dot products (05 R163 to R165). -/

/-- The active elements of v[a], in order. -/
def activeElems (c : Ctx) (a : BitVec 5) (k : BitVec 3) (w n : Nat) : List Nat :=
  ((List.range n).filter fun i => (c.rk k).getLsbD i).map fun i => elem (c.rv a) w i

/-- x[d] from the active elements of v[a]. -/
def vecRed (g : Nat → List Nat → Int) (d a : BitVec 5) (k : BitVec 3) (w : BitVec 2) (s : State) : Out :=
  ctxStep 4 1 (fun c => c.wx d (BitVec.ofInt 64 (g (widthOf w) (activeElems c a k (widthOf w) (lanesOf w))))) s
/-- VREDADD (05 R163). -/
def execVredadd (d a : BitVec 5) (k : BitVec 3) (w : BitVec 2) (s : State) : Out := vecRed (fun w xs => (xs.map (toSigned w)).sum) d a k w s
/-- VREDMIN (05 R163). -/
def execVredmin (d a : BitVec 5) (k : BitVec 3) (w : BitVec 2) (s : State) : Out := vecRed (fun w xs => (xs.map (toSigned w)).foldl min (2 ^ (w - 1) - 1)) d a k w s
/-- VREDMAX (05 R163). -/
def execVredmax (d a : BitVec 5) (k : BitVec 3) (w : BitVec 2) (s : State) : Out := vecRed (fun w xs => (xs.map (toSigned w)).foldl max (-(2 ^ (w - 1)))) d a k w s
/-- VREDMINU (05 R163). -/
def execVredminu (d a : BitVec 5) (k : BitVec 3) (w : BitVec 2) (s : State) : Out := vecRed (fun w xs => ((xs.foldl min (2 ^ w - 1) : Nat) : Int)) d a k w s
/-- VREDMAXU (05 R163). -/
def execVredmaxu (d a : BitVec 5) (k : BitVec 3) (w : BitVec 2) (s : State) : Out := vecRed (fun _ xs => ((xs.foldl max 0 : Nat) : Int)) d a k w s
/-- VFREDADD (05 R164): the tree of 03 R100 over the elements in order, rounding in fmt.RM; a lone operand has no flags (log 60). -/
def execVfredadd (d a : BitVec 5) (k : BitVec 3) (w : BitVec 2) (s : State) : Out :=
  ctxStep 4 1 (fun c =>
    let f := vecFp w
    let xs := (List.range f.lanes).map fun i => if (c.rk k).getLsbD i then some (elem (c.rv a) f.width i, (0 : Flags)) else none
    let add := fun (p q : Nat × Flags) =>
      let r := f.add c.rm (f.value p.1) (f.value q.1)
      (r.1, p.2 ||| q.2 ||| r.2)
    let r := (treeReduce add (ceilLog2 f.lanes) xs).getD (0, 0)
    c.wf d (f.canon r.1, r.2)) s
/-- The least or greatest number of the active elements, the canonical NaN when there is none (05 R164). -/
def vecFpRed (big : Bool) (d a : BitVec 5) (k : BitVec 3) (w : BitVec 2) (s : State) : Out :=
  ctxStep 4 1 (fun c =>
    let f := vecFp w
    c.wf d ((activeElems c a k f.width f.lanes).foldl (fun p x =>
      let r := f.minmax big p.1 x
      (r.1, p.2 ||| r.2)) (f.nan, 0))) s
/-- VFREDMIN (05 R164). -/
def execVfredmin (d a : BitVec 5) (k : BitVec 3) (w : BitVec 2) (s : State) : Out := vecFpRed false d a k w s
/-- VFREDMAX (05 R164). -/
def execVfredmax (d a : BitVec 5) (k : BitVec 3) (w : BitVec 2) (s : State) : Out := vecFpRed true d a k w s

/-- The four byte products of a lane added to its accumulator (05 R165). -/
def dotLane (ext : Nat → Int) (acc : Nat) (a b : Msg) (i : Nat) : Nat :=
  ofSigned 32 ((List.range 4).foldl (fun t j => t + ext (elem a 8 (4 * i + j)) * ext (elem b 8 (4 * i + j))) (acc : Int))
/-- VDOT4 (05 R165). -/
def execVdot4 (d a b : BitVec 5) (k : BitVec 3) (s : State) : Out :=
  vecElems 32 16 d k (fun c i => dotLane (toSigned 8) (elem (c.rv d) 32 i) (c.rv a) (c.rv b) i) s
/-- VDOT4U (05 R165). -/
def execVdot4u (d a b : BitVec 5) (k : BitVec 3) (s : State) : Out :=
  vecElems 32 16 d k (fun c i => dotLane (fun x => (x : Int)) (elem (c.rv d) 32 i) (c.rv a) (c.rv b) i) s

end Sys2Proof.Machine
end

