-- ==== Sys2Proof/Machine/Convert.lean ====
section
/-!
DEFINITION. Mask instructions (05 R166) and the conversions of major 0x39 (03 R103 to R112).
-/

namespace Sys2Proof.Machine

/-- KAND (05 R166). -/
def execKand (d a b : BitVec 3) (s : State) : Out := ctxStep 4 1 (fun c => c.wk d (c.rk a &&& c.rk b)) s
/-- KOR (05 R166). -/
def execKor (d a b : BitVec 3) (s : State) : Out := ctxStep 4 1 (fun c => c.wk d (c.rk a ||| c.rk b)) s
/-- KXOR (05 R166). -/
def execKxor (d a b : BitVec 3) (s : State) : Out := ctxStep 4 1 (fun c => c.wk d (c.rk a ^^^ c.rk b)) s
/-- KNOT (05 R166). -/
def execKnot (d a : BitVec 3) (s : State) : Out := ctxStep 4 1 (fun c => c.wk d (~~~c.rk a)) s
/-- KMOV (05 R166). -/
def execKmov (d a : BitVec 3) (s : State) : Out := ctxStep 4 1 (fun c => c.wk d (c.rk a)) s
/-- KPOPC (05 R166). -/
def execKpopc (d : BitVec 5) (a : BitVec 3) (s : State) : Out := ctxStep 4 1 (fun c => c.wx d (BitVec.ofNat 64 (popCount (c.rk a)))) s
/-- KFIRST (05 R166). -/
def execKfirst (d : BitVec 5) (a : BitVec 3) (s : State) : Out := ctxStep 4 1 (fun c => c.wx d (BitVec.ofNat 64 (trailingZeros (c.rk a)))) s
/-- KANY (05 R166). -/
def execKany (d : BitVec 5) (a : BitVec 3) (s : State) : Out := ctxStep 4 1 (fun c => c.wx d (boolWord (c.rk a != 0))) s
/-- KTOX (05 R166). -/
def execKtox (d : BitVec 5) (a : BitVec 3) (s : State) : Out := ctxStep 4 1 (fun c => c.wx d (c.rk a)) s
/-- KFROMX (05 R166). -/
def execKfromx (d : BitVec 3) (a : BitVec 5) (s : State) : Out := ctxStep 4 1 (fun c => c.wk d (c.rx a)) s

/-- convert under a context's fmt (03 R105). -/
def Ctx.convert (c : Ctx) (sf df : BitVec 4) (x : Nat) : Nat × Flags := Machine.convert c.rm c.satd c.xt sf df x

/-- CVT (03 R106): sign-extended for INT4, INT8, INT16 and INT32, zero-extended for every other format. -/
def execCvt (d a : BitVec 5) (sf df : BitVec 4) (s : State) : Out :=
  ctxStep 4 1 (fun c =>
    let r := c.convert sf df ((c.rx a).toNat % 2 ^ formatBits sf)
    let v := if df ∈ [1, 3, 9, 10] then ofSigned 64 (toSigned (formatBits df) r.1) else r.1
    c.wf d (v, r.2)) s

/-- VCVT (03 R107): the low 512 ÷ max(ws, wd) elements, the rest of v[d] zero. -/
def execVcvt (d a : BitVec 5) (sf : BitVec 4) (k : BitVec 3) (df : BitVec 4) (s : State) : Out :=
  ctxStep 4 1 (fun c =>
    let n := 512 / max (formatBits sf) (formatBits df)
    let rs := (List.range n).map fun i =>
      if (c.rk k).getLsbD i then c.convert sf df (elem (c.rv a) (formatBits sf) i) else (elem (c.rv d) (formatBits df) i, 0)
    (c.wv d (ofElems (formatBits df) (rs.map (·.1)))).addFlags (allFlags rs)) s

/-- VPACK (03 R108): the narrowed group enters v[d] at its top. -/
def execVpack (d a : BitVec 5) (sf df : BitVec 4) (s : State) : Out :=
  ctxStep 4 1 (fun c =>
    let n := 512 / formatBits sf
    let rs := (List.range n).map fun i => c.convert sf df (elem (c.rv a) (formatBits sf) i)
    let g := ofElems (formatBits df) (rs.map (·.1))
    let z := n * formatBits df
    (c.wv d ((c.rv d >>> z) ||| (g <<< (512 - z)))).addFlags (allFlags rs)) s

/-- VUNPK (03 R109): group g of the source widened. -/
def execVunpk (d a : BitVec 5) (sf : BitVec 4) (g : BitVec 3) (df : BitVec 4) (s : State) : Out :=
  ctxStep 4 1 (fun c =>
    let n := 512 / formatBits df
    let rs := (List.range n).map fun i => c.convert sf df (elem (c.rv a) (formatBits sf) (g.toNat * n + i))
    (c.wv d (ofElems (formatBits df) (rs.map (·.1)))).addFlags (allFlags rs)) s

/-- The values of the active FP32 lanes of v[a]. -/
def activeF32 (c : Ctx) (a : BitVec 5) (k : BitVec 3) : List FVal := (activeElems c a k 32 16).map fp32.value

/-- Whether a value is a NaN or an infinity. -/
def FVal.special (v : FVal) : Bool := match v with
  | .fin _ _ _ => false
  | _ => true

def FVal.isZero (v : FVal) : Bool := match v with
  | .fin _ m _ => m == 0
  | _ => false

/-- Greatest unbiased exponent of a BSCALE target (03 R110). -/
def scaleEmax (f : BitVec 4) (xt : Bool) : Int :=
  match f.toNat with
  | 3 => 2
  | 1 => 6
  | 9 => 14
  | 6 => 15
  | 7 => 127
  | 4 => if xt then 7 else 8
  | _ => if xt then 15 else 16

/-- One lane of BSCALE (03 R110). -/
def bscaleLane (emax : Int) (sc : Nat) (v : FVal) : Nat :=
  if v.special then 0xFF
  else if v.isZero ∨ sc = 0xFF then sc
  else max sc (satInt (v.exponent - emax + 127) 0 254).toNat

/-- BSCALE (03 R110). -/
def execBscale (d a : BitVec 5) (k : BitVec 3) (f : BitVec 4) (s : State) : Out :=
  ctxStep 4 1 (fun c => c.wx d (BitVec.ofNat 64 ((activeF32 c a k).foldl (bscaleLane (scaleEmax f c.xt)) ((c.rx d).toNat % 256)))) s

/-- One lane of BALIGN_EXP (03 R111). -/
def balignLane (e : Int) (v : FVal) : Int := if v.special then 32767 else if v.isZero then e else max e v.exponent

/-- BALIGN_EXP (03 R111). -/
def execBalignExp (d a : BitVec 5) (k : BitVec 3) (s : State) : Out :=
  ctxStep 4 1 (fun c => c.wx d (BitVec.ofInt 64 ((activeF32 c a k).foldl balignLane (max (c.rx d).toInt (-127))))) s

/-- The block-fixed integer of 03 R87 at width w under the block exponent e. -/
def blockFixed (w : Nat) (e : Int) (v : FVal) : Int :=
  match v with
  | .fin n m x =>
    let r := (roundInt 0 n false m (-(x + w - 2 - e))).1
    satInt (if n then -(r : Int) else r) (-(2 ^ (w - 1) - 1)) (2 ^ (w - 1) - 1)
  | _ => 0

/-- balign.q8 and balign.q16 (03 R112): E from x[b]; a masked-off lane, and every lane of a NaN block, receives 0. -/
def balignQ (w : Nat) (d a b : BitVec 5) (k : BitVec 3) (s : State) : Out :=
  ctxStep 4 1 (fun c =>
    let e := max (c.rx b).toInt (-127)
    c.wv d (ofElems 32 ((List.range 16).map fun i =>
      if (c.rk k).getLsbD i ∧ e < 128 then ofSigned 32 (blockFixed w e (fp32.value (elem (c.rv a) 32 i))) else 0))) s
/-- BALIGN_Q8 (03 R112). -/
def execBalignQ8 (d a b : BitVec 5) (k : BitVec 3) (s : State) : Out := balignQ 8 d a b k s
/-- BALIGN_Q16 (03 R112). -/
def execBalignQ16 (d a b : BitVec 5) (k : BitVec 3) (s : State) : Out := balignQ 16 d a b k s

end Sys2Proof.Machine
end

