-- ==== Sys2Proof/Machine/Mesh.lean ====
section
/-!
DEFINITION. The physical package: the columns that the rigging table gives (01 R17, R20 to R25), the routers and the routes between them
(01 R19, 08 R268, R269), the mesh dies, the firewall of the Mizzen columns (14 R440) and the memory channels (06 R175).
-/

namespace Sys2Proof.Machine

/-! Columns (01 R20, R22, 14 R438). -/

/-- The physical columns with a role of COLROLE, in ascending order: 0 logical, 1 Mizzen, 2 spare, 3 defective. -/
def columnsWith (t : BitVec 1024) (role : Nat) : List Nat :=
  (List.range 18).filter fun p => bitsOf t.toNat (65 + 2 * p) (64 + 2 * p) == role

/-- The number of columns with a role. -/
def columnsOf (t : BitVec 1024) (role : Nat) : Nat := (columnsWith t role).length

/-- The Mizzen columns of the package: 1 or 2 (01 R20). -/
def State.mizzenColumns (s : State) : Nat := columnsOf s.mgmt.rigging 1

/-- Whether a core runs firmware: 64 cores for each Mizzen column, from 1024 on; the cores after them are dark (01 R20, R25; log 54). -/
def State.firmwareCore (s : State) (c : CoreId) : Bool := decide (1024 ≤ c.val ∧ c.val < 1024 + 64 * s.mizzenColumns)

/-- Whether a core is dark: it is never clocked (01 R20). -/
def State.darkCore (s : State) (c : CoreId) : Bool := decide (1024 + 64 * s.mizzenColumns ≤ c.val)

/-- The physical column and row of a cluster (01 R22): a logical one by its coordinates, then the Mizzen ones column by column, then the
dark ones. -/
def State.placeOf (s : State) (k : Fin 288) : Nat × Nat :=
  let t := s.mgmt.rigging
  if k.val < 256 then ((columnsWith t 0).getD (k.val % 16) 0, k.val / 16)
  else ((columnsWith t 1 ++ columnsWith t 2 ++ columnsWith t 3).getD ((k.val - 256) / 16) 0, k.val % 16)

/-- The number of the router at a physical column and row: rows of 18, as 01 R22 numbers clusters (log 54). -/
def routerAt (p : Nat × Nat) : Fin 288 := ⟨(p.2 * 18 + p.1) % 288, Nat.mod_lt _ (by decide)⟩

/-- The column and row of a router. -/
def placeAt (r : Fin 288) : Nat × Nat := (r.val % 18, r.val / 18)

/-- The router of a cluster (01 R25). -/
def State.routerOf (s : State) (k : Fin 288) : Fin 288 := routerAt (s.placeOf k)

/-- The cluster at a router. -/
def State.clusterAt (s : State) (r : Fin 288) : Option (Fin 288) := (List.finRange 288).find? fun k => s.routerOf k == r

/-- The mesh die of a column and row (01 R17). -/
def dieAt (p : Nat × Nat) : Fin 4 := ⟨(p.2 / 8 * 2 + p.1 / 9) % 4, Nat.mod_lt _ (by decide)⟩

/-- The cluster of a core (01 R22, R23). -/
def clusterOf (c : CoreId) : Fin 288 := ⟨c.val / 4, by omega⟩

/-- The mesh die that a core stands on. -/
def State.dieOf (s : State) (c : CoreId) : Fin 4 := dieAt (s.placeOf (clusterOf c))

/-! Routes (01 R19, 08 R268, R269). -/

/-- The numbers from x to y, both included, in that direction. -/
def span (x y : Nat) : List Nat :=
  if x ≤ y then (List.range (y + 1 - x)).map (· + x) else ((List.range (x + 1 - y)).map (· + y)).reverse

/-- The routers on the dimension-order route between two places, X first or Y first (08 R269). -/
def dimRoute (yFirst : Bool) (a b : Nat × Nat) : List (Nat × Nat) :=
  (if yFirst then (span a.2 b.2).map (fun y => (a.1, y)) ++ (span a.1 b.1).map (fun x => (x, b.2))
    else (span a.1 b.1).map (fun x => (x, a.2)) ++ (span a.2 b.2).map (fun y => (b.1, y))).dedup

/-- What a port of a router leads to: 0 its own cluster, 1 and 2 the lower and the higher column, 3 and 4 the lower and the higher row
(log 54). -/
def stepPort (p : Nat × Nat) (port : Nat) : Nat × Nat :=
  match port with
  | 1 => (p.1 - 1, p.2)
  | 2 => (p.1 + 1, p.2)
  | 3 => (p.1, p.2 - 1)
  | 4 => (p.1, p.2 + 1)
  | _ => p

/-- The input port by which a packet from a neighbouring router enters one. -/
def entryPort (src dst : Nat × Nat) : Fin 5 :=
  if src.1 < dst.1 then 1 else if dst.1 < src.1 then 2 else if src.2 < dst.2 then 3 else if dst.2 < src.2 then 4 else 0

/-- The first port of the X-first route. -/
def portX (a b : Nat × Nat) : Nat := if b.1 < a.1 then 1 else if a.1 < b.1 then 2 else if b.2 < a.2 then 3 else if a.2 < b.2 then 4 else 0

/-- The place of a destination of the routing tables: a logical cluster, a Mizzen cluster, or 288 for the link die, which the attach
router nearest to the source reaches (01 R18). -/
def State.destOf (s : State) (src : Nat × Nat) (dest : Nat) : Nat × Nat :=
  if h : dest < 288 then s.placeOf ⟨dest, h⟩ else (if src.1 ≤ 8 then 8 else 9, 15)

/-- The key of a routing-table entry (08 R268): partition, route set and destination. -/
def routeKey (part : BitVec 4) (rset dest : Nat) : Nat := part.toNat * 2048 + rset % 4 * 512 + dest % 512

/-- The output port that a router's table names (08 R268); what firmware has not written routes X first (log 54). -/
def State.portOf (s : State) (r : Fin 288) (part : BitVec 4) (rset dest : Nat) (at' goal : Nat × Nat) : Nat :=
  match Sparse.get none (s.routers[r]).routes (routeKey part rset dest) with
  | some p => p.val
  | none => portX at' goal

/-- The routers that the tables lead through. -/
def State.tableRoute (s : State) (part : BitVec 4) (rset dest : Nat) (goal : Nat × Nat) (fuel : Nat) (p : Nat × Nat) : List (Nat × Nat) :=
  match fuel with
  | 0 => [p]
  | n + 1 => if p = goal then [p] else p :: s.tableRoute part rset dest goal n (stepPort p (s.portOf (routerAt p) part rset dest p goal))

/-- The routers on a packet's way from a place to a destination in a partition (08 R268, R269): the tables', or dimension order in
compatibility mode. Every route is minimal, so none is longer than 34 routers (01 R19). -/
def State.route (s : State) (part : BitVec 4) (rset : Nat) (yFirst : Bool) (a : Nat × Nat) (dest : Nat) : List (Nat × Nat) :=
  let b := s.destOf a dest
  if (s.partitions[part.toNat]'(part.isLt)).compat then dimRoute yFirst a b else s.tableRoute part rset dest b 34 a

/-- The inputs that a route enters: its first router by the port of its own cluster. -/
def inputsOf (ps : List (Nat × Nat)) : List (Fin 288 × Fin 5) :=
  match ps with
  | [] => []
  | p :: r => (routerAt p, 0) :: (List.zip (p :: r) r).map fun e => (routerAt e.2, entryPort e.1 e.2)

/-! The firewall of the Mizzen columns (01 R42, 14 R440). -/

/-- Whether a router stands in a Mizzen column. -/
def State.mizzenRouter (s : State) (r : Fin 288) : Bool := (columnsWith s.mgmt.rigging 1).contains (placeAt r).1

/-- Whether a router's firewall admits a packet: an entry holds its destination or its source, together with its kind (14 R440). -/
def Router.admits (k : Router) (kind : Fin 7) (src dst : BitVec 11) : Bool :=
  k.firewall.toList.any fun e => e.getLsbD 63 && e.getLsbD (56 + kind.val) && (e.extractLsb' 0 11 == src || e.extractLsb' 0 11 == dst)

/-- The physical number of a core (14 R447). -/
def State.physCore (s : State) (c : CoreId) : BitVec 11 := BitVec.ofNat 11 (4 * (s.routerOf (clusterOf c)).val + c.val % 4)

/-- The router and the physical core of a role's service endpoint: the first core of the lowest cluster with that role (14 R439, log 9). -/
def State.endpoint (s : State) (role : Nat) : Option (Fin 288 × BitVec 11) :=
  ((List.range 32).find? fun i => roleField s.mgmt.roles i == role).map fun i =>
    let r := routerAt ((columnsWith s.mgmt.rigging 1).getD (i / 16) 0, i % 16)
    (r, BitVec.ofNat 11 (4 * r.val))

/-! Memory channels (06 R175). -/

/-- The memory channel of an offset in the package's device memory. -/
def channelAt (d : Nat) : Nat := bitsOf d 17 12 ^^^ bitsOf d 23 18 ^^^ bitsOf d 29 24 ^^^ bitsOf d 35 30 ^^^ bitsOf d 39 36

/-- The memory channel that stores an address of the package's device memory. -/
def State.channel (s : State) (pa : Nat) : Nat := channelAt (pa - s.hdmBase)

end Sys2Proof.Machine
end

