-- ==== Sys2Proof/Machine/Mem.lean ====
section
/-!
DEFINITION. Memory: bytes by physical address and by scratchpad offset (00 R4, 01 R33, 06 R170), the homes and the directory
with the states of L1 lines and update-only partials (06 R174, 07 R223 to R228, 15 R452), the waits armed on a word (07 R238 to
R240), region attributes (06 R177, R178) and translation (06 R183 to R187).
-/

namespace Sys2Proof.Machine

/-! Bytes. -/

/-- One byte of a memory: 0 where nothing is listed (log 5). -/
def Mem.byte (m : Mem) (a : Nat) : Byte := Sparse.get 0 m a

/-- n bytes from address a on. -/
def Mem.bytes (m : Mem) (a n : Nat) : List Byte := (List.range n).map fun i => m.byte (a + i)

/-- Bytes written from address a on. -/
def Mem.write (m : Mem) (a : Nat) (bs : List Byte) : Mem :=
  match bs with
  | [] => m
  | b :: r => Mem.write (Sparse.set 0 m a b) (a + 1) r

/-- The little-endian number in n bytes from address a on (00 R4). -/
def Mem.num (m : Mem) (a n : Nat) : Nat := ofBytes (m.bytes a n)

/-- Size of a scratchpad in bytes (06 R170). -/
def spSize : Nat := 393216

/-- Size of a package's device memory (01 R29, R33). -/
def hdmSize : Nat := 768 * 2 ^ 30

/-- Whether a physical address lies in the package's own device memory (01 R33). -/
def State.ownMem (s : State) (pa : Nat) : Bool := decide (s.hdmBase ≤ pa ∧ pa < s.hdmBase + hdmSize)

/-- Whether a physical address lies in the peer's device memory (01 R33, 14 R428). -/
def State.peerMem (s : State) (pa : Nat) : Bool :=
  s.peerTrained && decide (s.peerBase.toNat ≤ pa ∧ pa < s.peerBase.toNat + hdmSize)

/-- Whether a physical address lies in the range of a peer that is not trained (10 R342). -/
def State.noPeer (s : State) (pa : Nat) : Bool :=
  !s.peerTrained && decide (s.peerBase.toNat ≤ pa ∧ pa < s.peerBase.toNat + hdmSize)

/-- The physical addresses of firmware memory start above every host physical address (01 R26, log 19). -/
def firmwareBase : Nat := 2 ^ 57

/-- Whether a physical address lies in host memory (01 R33). -/
def State.hostMem (s : State) (pa : Nat) : Bool := !s.ownMem pa && !s.peerMem pa && decide (pa < firmwareBase)

/-- The home cluster of a byte address (06 R174): for the peer's memory that of the peer's slice, for host memory the slice of 06 R176, and for
firmware memory a Mizzen slice (01 R26, log 19). -/
def State.home (s : State) (pa : Nat) : Nat :=
  if firmwareBase ≤ pa then 256 + pa / 64 % (16 * max 1 s.mizzenColumns)
  else
    let d := if s.ownMem pa then pa - s.hdmBase else if s.peerMem pa then pa - s.peerBase.toNat else pa
    let l := d / 64
    (bitsOf l 7 0 ^^^ bitsOf l 15 8 ^^^ bitsOf l 23 16 ^^^ bitsOf l 31 24 ^^^ bitsOf l 33 32) % 256

/-! Furled-cell tags (01 R30, 11 R346): 0 VALUE, 1 FURLED, 2 UNFURLING, 3 ERROR. -/

/-- The tag of the cell that holds physical address pa. -/
def State.tag (s : State) (pa : Nat) : BitVec 2 := Sparse.get 0 s.tags (pa / 8)

def State.setTag (s : State) (pa : Nat) (t : BitVec 2) : State := { s with tags := Sparse.set 0 s.tags (pa / 8) t }

/-- Whether every cell of a line is VALUE (07 R228). -/
def State.lineValue (s : State) (l : Nat) : Bool := (List.range 8).all fun i => s.tag (64 * l + 8 * i) == 0

/-! Regions (06 R177, R178). -/

structure Region where
  attr : BitVec 2
  owner : Nat
  odev : BitVec 1
  index : Option Nat
  deriving DecidableEq, Repr

/-- What no entry covers is coherent (06 R178). -/
def Region.default : Region := { attr := 2, owner := 0, odev := 0, index := none }

/-- The lowest valid entry from index i on that covers page p. -/
def findRegion (es : List (BitVec 128)) (i p : Nat) : Region :=
  match es with
  | [] => Region.default
  | e :: r =>
    let n := e.toNat
    if bitsOf n 0 0 = 1 ∧ bitsOf n 56 12 ≤ p ∧ p ≤ bitsOf n 120 76 then
      { attr := BitVec.ofNat 2 (bitsOf n 75 74), owner := bitsOf n 11 2, odev := BitVec.ofNat 1 (bitsOf n 73 73), index := some i }
    else findRegion r (i + 1) p

def State.space (s : State) (pasid : BitVec 20) : Space := Sparse.get Space.reset s.spaces pasid.toNat

def State.setSpace (s : State) (pasid : BitVec 20) (p : Space) : State :=
  { s with spaces := Sparse.set Space.reset s.spaces pasid.toNat p }

/-- Bits [56:0] of an address. -/
def low57 (va : Word) : Nat := va.toNat % 2 ^ 57

/-- The region of an address in an address space. -/
def State.region (s : State) (pasid : BitVec 20) (va : Word) : Region := findRegion (s.space pasid).table 0 (low57 va / 4096)

/-- Whether a line lies in a read-shared region of an address space that maps it. -/
def State.readShared (s : State) (line : Nat) : Bool :=
  s.hostPages.any fun g => decide (g.pa ≤ 64 * line ∧ 64 * line < g.pa + 2 ^ g.log)
    && (s.region g.pasid (BitVec.ofNat 64 (g.va + (64 * line - g.pa)))).attr == 1

/-- A line of a read-shared region is stored to outside the drain: what devices read of it is unspecified from now on (06 R180). -/
def State.makeStale (s : State) (l : Nat) : State := if s.readShared l ∧ !s.stale.contains l then { s with stale := l :: s.stale } else s

/-- The lines of n bytes at an address. -/
def linesOf (pa n : Nat) : List Nat := if n = 0 then [] else if pa / 64 = (pa + n - 1) / 64 then [pa / 64] else [pa / 64, (pa + n - 1) / 64]

/-! L1 data caches (06 R172). -/

/-- Core c's L1. -/
def State.l1 (s : State) (c : CoreId) : L1 := Sparse.get L1.empty s.l1s c.val

def State.setL1 (s : State) (c : CoreId) (k : L1) : State := { s with l1s := Sparse.set L1.empty s.l1s c.val k }

/-- The way that holds a line. -/
def L1.find? (k : L1) (l : Nat) : Option Way := k.ways.find? fun w => w.line == l

/-- The bytes that core c's L1 holds of a line of its private regions. -/
def State.ownData (s : State) (c : CoreId) (l : Nat) : Option Msg :=
  ((s.l1 c).find? l).bind fun w => match w.what with
    | .own d _ => some d
    | _ => none

/-- A byte as core c's own accesses to its private regions see it (06 R179). -/
def State.ownByte (s : State) (c : CoreId) (a : Nat) : Byte :=
  match s.ownData c (a / 64) with
  | some d => BitVec.ofNat 8 (d.toNat >>> (8 * (a % 64)))
  | none => s.mem.byte a

/-- n such bytes. -/
def State.ownBytes (s : State) (c : CoreId) (a n : Nat) : List Byte := (List.range n).map fun i => s.ownByte c (a + i)

/-! Waits (07 R238). -/

/-- The condition of a WAITA on a value of the word (07 R238). -/
def WaitaOp.holds (w : WaitaOp) (v : Nat) : Bool :=
  let z := if w.dword then 64 else 32
  let m := w.mask.toNat % 2 ^ z
  let a := v &&& m
  let b := (w.value.toNat % 2 ^ z) &&& m
  match w.cmp.toNat with
  | 0 => a == b
  | 1 => a != b
  | 2 => decide (toSigned z a < toSigned z b)
  | 3 => decide (toSigned z b ≤ toSigned z a)
  | 4 => decide (a < b)
  | 5 => decide (b ≤ a)
  | 6 => a == m
  | _ => a != m

/-- Bytes of the word a WAITA waits on. -/
def WaitaOp.size (w : WaitaOp) : Nat := if w.dword then 8 else 4

/-- The waited word's value as it stands, that of a private region in its owner's L1 (07 R239): none where its cell is not VALUE, which
fails every comparison (07 R238). -/
def State.waitValue (s : State) (c : CoreId) (w : WaitaOp) : Option Nat :=
  match w.target with
  | .scratch o => some ((s.coreAt c).sp.num o w.size)
  | .phys pa =>
    if s.tag pa ≠ 0 ∧ w.attr = 3 then none
    else some (ofBytes (if w.attr = 0 then s.ownBytes c pa w.size else s.mem.bytes pa w.size))

/-- Whether the wait is satisfied now. -/
def State.waitHolds (s : State) (c : CoreId) (w : WaitaOp) : Bool :=
  match s.waitValue c w with
  | some v => w.holds v
  | none => false

/-- The cleat entry of a WAITA (07 R240). -/
def isWaita (d : BitVec 1) (c : CoreId) (x : CtxId) (k : Cleat) : Bool :=
  match k with
  | .waita d' c' x' _ => decide (d' = d ∧ c' = c ∧ x' = x)
  | _ => false

/-- The wait of a context of a device. -/
def isWait (d : BitVec 1) (c : CoreId) (x : CtxId) (e : CoreId × CtxId × WaitaOp) : Bool := decide (e.2.2.dev = d ∧ e.1 = c ∧ e.2.1 = x)

/-- Every cleat table changed. -/
def State.mapCleat (s : State) (f : List Cleat → List Cleat) : State :=
  { s with clusters := s.clusters.map (fun k => { k with cleat := f k.cleat })
           peerCleat := (s.peerCleat.map fun e => (e.1, f e.2)).filter fun e => !e.2.isEmpty }

/-- Every cleat table filtered. -/
def State.filterCleat (s : State) (p : Cleat → Bool) : State := s.mapCleat (·.filter p)

/-- The entries of all cleat tables. -/
def State.allCleat (s : State) : List Cleat := (s.clusters.toList.flatMap fun k => k.cleat) ++ s.peerCleat.flatMap (·.2)

/-- A wait no longer armed: out of the list and out of the cleat table. -/
def State.disarm (s : State) (d : BitVec 1) (c : CoreId) (x : CtxId) : State :=
  { s.filterCleat (fun k => !isWaita d c x k) with waits := s.waits.filter fun e => !isWait d c x e }

/-- An event that leaves for the peer package over a trained link (10 R341); a core of the peer stands in it by its
number in the launch (log 49). -/
def State.toPeer (s : State) (i : Instr) : State := if s.peerTrained then { s with peerOut := s.peerOut ++ [i] } else s

/-- What a home sends to a core of a device. -/
def State.answerTo (s : State) (d : BitVec 1) (i : Instr) : State := if d = s.dev then s.post i else s.toPeer i

/-- The satisfied ones of a list of waits are disarmed and their wakes leave in the order of the list (07 R238, R240). -/
def State.wakeAll (s : State) (ws : List (CoreId × CtxId × WaitaOp)) : State :=
  ws.foldl (fun t e =>
    if t.waitHolds e.1 e.2.2 then (t.disarm e.2.2.dev e.1 e.2.1).answerTo e.2.2.dev (.waitaWake e.1 e.2.1) else t) s

/-- The waits on a physical word that n bytes at pa touch. -/
def waitsOnPhys (ws : List (CoreId × CtxId × WaitaOp)) (pa n : Nat) : List (CoreId × CtxId × WaitaOp) :=
  ws.filter fun e => match e.2.2.target with
    | .phys q => decide (q < pa + n ∧ pa < q + e.2.2.size)
    | .scratch _ => false

/-- The waits of core c on a scratchpad word that n bytes at o touch. -/
def waitsOnSp (ws : List (CoreId × CtxId × WaitaOp)) (c : CoreId) (o n : Nat) : List (CoreId × CtxId × WaitaOp) :=
  ws.filter fun e => match e.2.2.target with
    | .scratch q => decide (e.1 = c ∧ q < o + n ∧ o < q + e.2.2.size)
    | .phys _ => false

/-- What is sent to a gang: in flight, or kept for the resumption of a gang that is saved (09 R302). -/
def State.toward (s : State) (gang : Option Nat) (i : Instr) : State :=
  match gang with
  | none => s.post i
  | some lid => { s with launches := s.launches.map fun l => if l.lid = lid then { l with inbox := l.inbox ++ [i] } else l }

/-- The cycle in which a wait expires (07 R238). -/
def WaitaOp.deadline (w : WaitaOp) : Nat := w.issued + 2 ^ w.limit.toNat

/-- The waits of a saved gang on n bytes at pa that hold before their limit are satisfied: the value is recorded and the entry kept until the
gang has resumed (15 R454). -/
def State.wakeKept (s : State) (pa n : Nat) : State :=
  { s with launches := s.launches.map fun l =>
      { l with kept := l.kept.map fun e =>
          if !(waitsOnPhys [e] pa n).isEmpty && e.2.2.met.isNone && decide (s.cyc ≤ e.2.2.deadline) && s.waitHolds e.1 e.2.2 then
            (e.1, e.2.1, { e.2.2 with met := s.waitValue e.1 e.2.2 })
          else e } }

/-- Bytes written at a physical address, by any path, after which the waits on them are evaluated (07 R238) and device reads of read-shared
bytes are unspecified (06 R180). -/
def State.put (s : State) (pa : Nat) (bs : List Byte) : State :=
  let t := (linesOf pa bs.length).foldl State.makeStale { s with mem := s.mem.write pa bs }
  (t.wakeAll (waitsOnPhys t.waits pa bs.length)).wakeKept pa bs.length

/-- A reduction or an atomic's arithmetic on values of z bits (07 R230, R234): 0 add, 1 and, 2 or, 3 xor, 4 min, 5 max, 6 minu,
7 maxu; width code 2 is FP32. -/
def redFn (fn : BitVec 4) (w : BitVec 5) (a b : Nat) : Nat :=
  let z := if w = 1 then 64 else 32
  match fn.toNat with
  | 0 => if w = 2 then addF32ne a b else (a + b) % 2 ^ z
  | 1 => a &&& b
  | 2 => a ||| b
  | 3 => a ^^^ b
  | 4 => if toSigned z b < toSigned z a then b else a
  | 5 => if toSigned z a < toSigned z b then b else a
  | 6 => min a b
  | _ => max a b

/-- Bytes of an element of a reduction width. -/
def redSize (w : BitVec 5) : Nat := if w = 1 then 8 else 4

/-! Waiters on furled cells (11 R352 to R354). -/

/-- The cluster whose slice is a physical address's home. -/
def State.homeCluster (s : State) (pa : Nat) : Fin 288 := ⟨s.home pa % 288, by omega⟩

/-- The cleat table of a home: that of the peer's slice for the peer's memory (06 R176, 07 R239). -/
def State.cleatAt (s : State) (pa : Nat) : List Cleat :=
  if s.peerMem pa then Sparse.get [] s.peerCleat (s.homeCluster pa).val else (s.clusters[s.homeCluster pa]).cleat

/-- The cleat table of a home changed. -/
def State.modCleat (s : State) (pa : Nat) (f : List Cleat → List Cleat) : State :=
  let h := s.homeCluster pa
  if s.peerMem pa then { s with peerCleat := Sparse.set [] s.peerCleat h.val (f (Sparse.get [] s.peerCleat h.val)) }
  else { s with clusters := s.clusters.set h { s.clusters[h] with cleat := f s.clusters[h].cleat } }

/-- Whether an entry waits on the cell that holds physical address pa. -/
def Cleat.onCell (pa : Nat) (k : Cleat) : Bool :=
  match k with
  | .furl r _ _ _ => r.pa / 8 == pa / 8
  | .saved _ k => k.onCell pa
  | _ => false

/-- The entries of a cell. -/
def State.furlEntries (s : State) (pa : Nat) : List Cleat := (s.cleatAt pa).filter (Cleat.onCell pa)

/-- The place of a request in the order of wakes: (DEV, CORE, CTX), the engine reads of a core after its contexts (11 R354). -/
def FurlReq.key (r : FurlReq) : Nat :=
  32768 * r.dev.toNat + 16 * r.core.val + match r.what with
    | .engine u => 4 + u.toNat
    | _ => r.ctx.val

/-- The waiting request of an entry, with the gang when it is saved. -/
def Cleat.waiter (k : Cleat) : Option (Option Nat × FurlReq) :=
  match k with
  | .furl r _ true _ => some (none, r)
  | .saved lid (.furl r _ true _) => some (some lid, r)
  | _ => none

/-- The waiting requests of entries, in the order of wakes (11 R354). -/
def wakeOrder (es : List Cleat) : List (Option Nat × FurlReq) :=
  (es.filterMap Cleat.waiter).insertionSort fun a b => FurlReq.key a.2 ≤ FurlReq.key b.2

/-- Contexts of core c that wait for a commit try again (08 R256). -/
def State.recommit (s : State) (c : CoreId) : State :=
  s.postAll ((List.finRange 4).filterMap fun x =>
    let k := s.ctxAt c x
    if k.status == .ending || k.status == .flushing then some (.sendCommit c x) else none)

/-- One waiter's wake: a reduction is applied to its word at the home (11 R351, R370), after which what waited for it goes on (08 R256);
any other answer leaves for its waiter. -/
def State.wakeOne (s : State) (a : FurlAns) (gang : Option Nat) (r : FurlReq) : State :=
  match r.what, a with
  | .red fn w operand, .word _ =>
    let t := s.put r.pa (toBytes (redSize w) (redFn fn w (s.mem.num r.pa (redSize w)) (operand.toNat % 2 ^ (8 * redSize w))))
    if r.dev = s.dev then t.recommit r.core else t
  | _, _ => if r.dev = s.dev then s.toward gang (.furledWake r a) else s.toPeer (.furledWake r a)

/-- Every waiter of a cell wakes and its entries are freed (11 R354). -/
def State.wakeFurl (s : State) (pa : Nat) (a : FurlAns) : State :=
  let es := s.furlEntries pa
  (wakeOrder es).foldl (fun t e => t.wakeOne a e.1 e.2) (s.modCleat pa fun ks => ks.filter fun k => !k.onCell pa)

/-- The cells that are not VALUE among those of n bytes at pa. -/
def State.openCells (s : State) (pa n : Nat) : List Nat :=
  if n = 0 ∨ s.tags.isEmpty then []
  else ((List.range ((pa + n - 1) / 8 + 1 - pa / 8)).map fun i => 8 * (pa / 8 + i)).filter fun c => s.tag c != 0

/-- BYTES STORED at a physical address: the cells they touch become VALUE, the waits on them are evaluated, and the waiters of
cells that were UNFURLING wake with the new word (11 R350). -/
def State.store (s : State) (pa : Nat) (bs : List Byte) : State :=
  let cs := s.openCells pa bs.length
  let t := (cs.foldl (fun t c => t.setTag c 0) s).put pa bs
  (cs.filter fun c => s.tag c == 2).foldl (fun t c => t.wakeFurl c (.word (BitVec.ofNat 64 (t.mem.num c 8)))) t

/-- Bytes stored in memory of a region: outside a furl-capable one there are no tags (11 R346). -/
def State.storeAt (s : State) (attr : BitVec 2) (pa : Nat) (bs : List Byte) : State := if attr = 3 then s.store pa bs else s.put pa bs

/-- What a context of a device waits for at homes is given up: its waits, its ring operation and its furled requests, whose FIRST entries
stay as markers (07 R240, 11 R354). -/
def keepCleat (own : Bool) (d : BitVec 1) (c : CoreId) (x : CtxId) (k : Cleat) : Option Cleat :=
  match k with
  | .waita _ _ _ _ => if isWaita d c x k then none else some k
  | .ring op _ => if own ∧ op.core = c ∧ op.ctx = x then none else some k
  | .furl r first _ ord =>
    (match r.what with
    | .load | .atomic => if r.dev = d ∧ r.core = c ∧ r.ctx = x then (if first then some (.furl r true false ord) else none) else some k
    | _ => some k)
  | .saved _ _ => some k

def State.forget (s : State) (d : BitVec 1) (c : CoreId) (x : CtxId) : State :=
  { s.mapCleat (·.filterMap (keepCleat (d == s.dev) d c x)) with
    waits := s.waits.filter fun e => !isWait d c x e
    refused := s.refused.filter fun e => match e.1.what with
      | .load | .atomic => !(decide (e.1.dev = d ∧ e.1.core = c ∧ e.1.ctx = x))
      | _ => true }

def State.dropWaits (s : State) (c : CoreId) (x : CtxId) : State := s.forget s.dev c x

/-- Bytes stored in a scratchpad (07 R239). -/
def State.storeSp (s : State) (c : CoreId) (o : Nat) (bs : List Byte) : State :=
  let t := s.modCore c fun k => { k with sp := k.sp.write o bs }
  t.wakeAll (waitsOnSp t.waits c o bs.length)

/-! Lines (07 R223 to R228). -/

def State.line (s : State) (l : Nat) : Line := Sparse.get Line.empty s.lines l

def State.setLine (s : State) (l : Nat) (e : Line) : State := { s with lines := Sparse.set Line.empty s.lines l e }

/-- Whether a way holds a line in a state that the directory knows. -/
def Way.tracks (w : Way) (l : Nat) : Bool := w.line == l && w.what == .tracked

/-- The copies of a line in the L1s of the cores that p names go to I (07 R224). -/
def State.dropFrom (s : State) (l : Nat) (p : Nat → Bool) : State :=
  { s with l1s := s.l1s.map fun e => if p e.1 then (e.1, { e.2 with ways := e.2.ways.filter fun w => !w.tracks l }) else e }

/-- The state of a line in core c's L1 (07 R223). -/
def State.l1State (s : State) (c : CoreId) (l : Nat) : LineSt :=
  if (s.l1 c).ways.any (·.tracks l) then
    let e := s.line l
    if e.u.any (fun h => h.core == c) then .u
    else match e.owner with
      | some (o, st) => if o = c then st else .s
      | none => .s
  else .i

/-- Whether core c's L1 holds the value of a line: in M, O, E or S, or of a region that no directory tracks. -/
def State.holds (s : State) (c : CoreId) (l : Nat) : Bool :=
  match (s.l1 c).find? l with
  | some w => w.what != .tracked || s.l1State c l != .u
  | none => false

/-- The identity of a reduction (15 R452). -/
def redIdentity (fn : BitVec 4) (w : BitVec 5) : Nat :=
  let z := if w = 1 then 64 else 32
  match fn.toNat with
  | 0 => if w = 2 then 2 ^ 31 else 0
  | 1 => 2 ^ z - 1
  | 2 => 0
  | 3 => 0
  | 4 => 2 ^ (z - 1) - 1
  | 5 => 2 ^ (z - 1)
  | 6 => 2 ^ z - 1
  | _ => 0

/-- A partial whose elements are all the identity (15 R452). -/
def identityPart (fn : BitVec 4) (w : BitVec 5) : Msg :=
  ofElems (8 * redSize w) ((List.range (64 / redSize w)).map fun _ => redIdentity fn w)

/-- One holder's partial combined with the line's bytes, element by element; an element at the identity changes nothing
(07 R226, 15 R452). -/
def combinePart (fn : BitVec 4) (w : BitVec 5) (v part : Msg) : Msg :=
  let z := 8 * redSize w
  ofElems z ((List.range (64 / redSize w)).map fun i =>
    if elem part z i = redIdentity fn w then elem v z i else redFn fn w (elem v z i) (elem part z i))

/-- The 64 bytes of a line as a number. -/
def State.lineData (s : State) (l : Nat) : Msg := BitVec.ofNat 512 (s.mem.num (64 * l) 64)

/-- Holders in ascending logical device core number. -/
def sortHolders (us : List UHolder) : List UHolder := us.insertionSort fun a b => a.core ≤ b.core

/-- A recall (07 R226): every partial is combined into the home value, in ascending core number, and no U copy is left. -/
def State.recall (s : State) (l : Nat) : State :=
  let e := s.line l
  if e.u.isEmpty then s
  else
    let v := (sortHolders e.u).foldl (fun v h => combinePart e.uop e.uw v h.part) (s.lineData l)
    ((s.dropFrom l fun c => e.u.any fun h => h.core.val == c).setLine l { e with u := [], uop := 0, uw := 0 }).store (64 * l) (toBytes 64 v.toNat)

/-- Whether an entry of a cleat table covers a line. -/
def Cleat.covers (l : Nat) (k : Cleat) : Bool :=
  match k with
  | .waita _ _ _ pa => pa / 64 == l
  | .ring op _ => op.pa / 64 == l
  | .furl r _ _ _ => r.pa / 64 == l
  | .saved _ k => k.covers l

/-- Whether an armed cleat entry covers a line (07 R223, R225, 15 R453). -/
def State.armed (s : State) (l : Nat) : Bool := (s.cleatAt (64 * l)).any fun k => k.covers l

/-! Replacement (06 R172): eight ways under a tree of seven bits, each naming the half that is older (log 68). -/

/-- The way that a tree names as the victim. -/
def plruVictim (t : BitVec 8) : Fin 8 :=
  let a := (t.getLsbD 0).toNat
  let b := (t.getLsbD (1 + a)).toNat
  let c := (t.getLsbD (3 + 2 * a + b)).toNat
  ⟨(4 * a + 2 * b + c) % 8, Nat.mod_lt _ (by decide)⟩

/-- A tree after a use of way w: the nodes on its path name the other halves. -/
def plruTouch (t : BitVec 8) (w : Fin 8) : BitVec 8 :=
  let a := w.val / 4
  let b := w.val / 2 % 2
  let put := fun (t : BitVec 8) (n bit : Nat) => if bit = 1 then t &&& ~~~(1#8 <<< n) else t ||| (1#8 <<< n)
  put (put (put t 0 a) (1 + a) b) (3 + 2 * a + b) (w.val % 2)

/-- The set of a line: 128 sets. -/
def setOf (l : Nat) : Nat := l % 128

/-- The ways of a line's set. -/
def L1.setWays (k : L1) (l : Nat) : List Way := k.ways.filter fun w => setOf w.line == setOf l

/-- The way that a new line takes: the lowest free one, else the victim. -/
def L1.wayFor (k : L1) (l : Nat) : Fin 8 :=
  ((List.finRange 8).find? fun n => !(k.setWays l).any fun w => w.way == n).getD (plruVictim (Sparse.get 0 k.plru (setOf l)))

/-- A use of a line. -/
def L1.use (k : L1) (l : Nat) : L1 :=
  match k.find? l with
  | some w => { k with plru := Sparse.set 0 k.plru (setOf l) (plruTouch (Sparse.get 0 k.plru (setOf l)) w.way) }
  | none => k

def State.useL1 (s : State) (c : CoreId) (l : Nat) : State := s.setL1 c ((s.l1 c).use l)

/-- A private line written back to its home when it has been stored to (06 R179). -/
def State.writeOwn (s : State) (w : Way) : State :=
  match w.what with
  | .own d true => { s.makeStale w.line with mem := s.mem.write (64 * w.line) (toBytes 64 d.toNat) }
  | _ => s

/-- EVICTION of a way of core c's L1 (07 R224): silent from S and E, a write-back from O and M, the partial sent home from U. -/
def State.evict (s : State) (c : CoreId) (w : Way) : State :=
  let st := s.l1State c w.line
  let t := (s.writeOwn w).setL1 c { s.l1 c with ways := (s.l1 c).ways.filter fun v => v.line != w.line }
  if w.what != .tracked then t
  else match st with
    | .m | .o => t.setLine w.line { t.line w.line with owner := none }
    | .u => t.post (.uPartial c w.line)
    | _ => t

/-- The private and read-shared lines that p names leave the L1s, the dirty ones for their homes. -/
def State.emptyL1s (s : State) (p : Nat → Way → Bool) : State :=
  let t := (s.l1s.flatMap fun e => e.2.ways.filter (p e.1)).foldl State.writeOwn s
  { t with l1s := t.l1s.map fun e => (e.1, { e.2 with ways := e.2.ways.filter fun w => !p e.1 w }) }

/-- A private line leaves core c's L1 for its home. -/
def State.dropOwn (s : State) (c : CoreId) (l : Nat) : State := s.emptyL1s fun d w => d == c.val && w.line == l && w.what != .tracked

/-- A line put into core c's L1, over what it held of the line or, in a full set, over the victim. -/
def State.fillL1 (s : State) (c : CoreId) (l : Nat) (what : Held1) : State :=
  match (s.l1 c).find? l with
  | some w =>
    let t := if w.what == .tracked || w.what == what then s else s.writeOwn w
    (t.setL1 c { t.l1 c with ways := (t.l1 c).ways.map fun v => if v.line = l then { v with what := what } else v }).useL1 c l
  | none =>
    let n := (s.l1 c).wayFor l
    let t := match ((s.l1 c).setWays l).find? (fun w => w.way == n) with
      | some w => s.evict c w
      | none => s
    (t.setL1 c { t.l1 c with ways := (t.l1 c).ways ++ [{ line := l, way := n, what := what }] }).useL1 c l

/-! Requests to the home (07 R224, R225). -/

/-- The directory's bit of a core's cluster. -/
def sharerBit (c : CoreId) : BitVec 256 := 1#256 <<< (c.val / 4)

/-- No device copy is left, and no host copy; the slice of a line of host memory holds it exclusively (07 R225, R227, atomic or store
performed at the home). -/
def State.claimHome (s : State) (l : Nat) : State :=
  let t := (s.recall l).dropFrom l fun _ => true
  t.setLine l { t.line l with owner := none, sharers := 0, peer := false, host := .none, reread := 0, snooping := false, own := s.hostMem (64 * l) }

/-- The owner of a line shares it: E to S, M to O; a copy that has been evicted silently is none (07 R224). -/
def State.shareOwner (s : State) (l : Nat) : State :=
  let e := s.line l
  match e.owner with
  | some (o, .e) => s.setLine l { e with owner := none, sharers := if s.l1State o l = .e then e.sharers ||| sharerBit o else e.sharers }
  | some (o, _) => s.setLine l { e with owner := some (o, .o) }
  | none => s

/-- Whether a GetS of core c is answered with E: the directory records no other device copy, no U holder and no host copy, no armed
entry covers the line, and a line of host memory has been read for ownership (07 R224, R225, R227). -/
def State.grantsE (s : State) (l : Nat) (c : CoreId) : Bool :=
  let e := s.line l
  (match e.owner with
    | some (o, _) => o == c
    | none => true) && e.sharers == 0 && !e.peer && e.u.isEmpty && e.host == .none && !s.armed l && (!s.hostMem (64 * l) || e.own)

/-- A device GetS (07 R224, R225). -/
def State.getS (s : State) (l : Nat) (c : CoreId) : State :=
  let t := s.recall l
  let u := if t.grantsE l c then t.setLine l { t.line l with owner := some (c, .e) }
    else (t.shareOwner l).setLine l { (t.shareOwner l).line l with sharers := ((t.shareOwner l).line l).sharers ||| sharerBit c }
  u.fillL1 c l .tracked

/-- A device GetM (07 R225): the requester owns the line, in M. -/
def State.getM (s : State) (l : Nat) (c : CoreId) : State :=
  let t := s.claimHome l
  if t.armed l then t else (t.setLine l { t.line l with owner := some (c, .m) }).fillL1 c l .tracked

/-- A device GetU (07 R225): U copies of another operation or width are recalled, other copies given up, the requester holds the
line in U with an identity partial (15 R452). -/
def State.getU (s : State) (l : Nat) (c : CoreId) (fn : BitVec 4) (w : BitVec 5) : State :=
  let e := s.line l
  let t := if e.uop = fn ∧ e.uw = w then s else s.recall l
  let us := (t.line l).u
  let u := (t.dropFrom l fun d => !us.any fun h => h.core.val == d).makeStale l
  let e' := { u.line l with owner := none, sharers := 0, peer := false, host := HostCopy.none, reread := 0, snooping := false, uop := fn, uw := w }
  (u.setLine l (if us.any (fun h => h.core == c) then e' else { e' with u := us ++ [{ core := c, part := identityPart fn w }] })).fillL1 c l .tracked

/-- The coherence actions of a load of line l by core c (07 R224, R228): a line with a cell that is not VALUE is served at its home. -/
def State.touchLoad (s : State) (c : CoreId) (l : Nat) : State :=
  if !s.lineValue l then s.recall l
  else if s.l1State c l = .i ∨ s.l1State c l = .u then s.getS l c
  else s.useL1 c l

/-- The coherence actions of a store (07 R224, R225, R228). -/
def State.touchStore (s : State) (c : CoreId) (l : Nat) : State :=
  if !s.lineValue l || s.armed l then s.claimHome l
  else match s.l1State c l with
    | .m => s.useL1 c l
    | .e => (s.setLine l { s.line l with owner := some (c, .m) }).useL1 c l
    | _ => s.getM l c

/-! Private and read-shared lines (06 R172, R179). -/

/-- A line of a private region in its owner's L1: filled from the home where it is not there. -/
def State.touchOwn (s : State) (c : CoreId) (l : Nat) : State :=
  match s.ownData c l with
  | some _ => s.useL1 c l
  | none =>
    let t := s.recall l
    t.fillL1 c l (.own (t.lineData l) false)

/-- A line of a read-shared region in core c's L1. -/
def State.touchShared (s : State) (c : CoreId) (l : Nat) : State := if s.holds c l then s.useL1 c l else s.fillL1 c l .shared

/-- A line with bytes put over its own. -/
def overlay (l pa : Nat) (bs : List Byte) (d : Msg) : Msg :=
  BitVec.ofNat 512 (ofBytes ((List.range 64).map fun i =>
    if pa ≤ 64 * l + i ∧ 64 * l + i < pa + bs.length then bs.getD (64 * l + i - pa) 0 else BitVec.ofNat 8 (d.toNat >>> (8 * i))))

/-- Bytes stored in a private region: into the owner's L1, after which the owner's waits on them are evaluated (06 R179, 07 R239). -/
def State.storeOwn (s : State) (c : CoreId) (pa : Nat) (bs : List Byte) : State :=
  let t := (linesOf pa bs.length).foldl (fun t l => t.touchOwn c l) s
  let u := t.setL1 c { t.l1 c with ways := (t.l1 c).ways.map fun w => match w.what with
    | .own d _ => if w.line ∈ linesOf pa bs.length then { w with what := .own (overlay w.line pa bs d) true } else w
    | _ => w }
  u.wakeAll ((waitsOnPhys u.waits pa bs.length).filter fun e => e.1 == c)

/-- A release at .device or wider: core c's dirty private lines are written back to their homes (06 R179). -/
def State.cleanOwn (s : State) (c : CoreId) : State :=
  let ws := (s.l1 c).ways.filter fun w => match w.what with
    | .own _ true => true
    | _ => false
  if ws.isEmpty then s
  else (ws.foldl State.writeOwn s).setL1 c { s.l1 c with ways := (s.l1 c).ways.map fun w => match w.what with
    | .own d _ => { w with what := .own d false }
    | _ => w }

/-- Whether the host must first give up an exclusive copy of one of the lines (07 R225, R227). -/
def State.hostHolds (s : State) (l : Nat) : Bool := (s.line l).host == .exclusive

/-- The back-invalidate snoop for a line is under way. -/
def State.snoopHost (s : State) (l : Nat) : State := s.setLine l { s.line l with snooping := true }

/-! Translation (06 R183 to R187). -/

/-- Whether a granted page translates an address. -/
def grantCovers (g : Grant) (pasid : BitVec 20) (va : Word) : Bool :=
  g.pasid == pasid && decide (g.va ≤ low57 va ∧ low57 va < g.va + 2 ^ g.log)

/-- The physical address under a grant. -/
def grantPhys (g : Grant) (va : Word) : Nat := g.pa + (low57 va - g.va)

/-- The first grant of a list that allows the access. -/
def findGrant (gs : List Grant) (pasid : BitVec 20) (va : Word) (write : Bool) : Option Grant :=
  gs.find? fun g => grantCovers g pasid va && (!write || g.write)

/-- A translation of core c's access: its TLBs (06 R183); firmware addresses its own memory (01 R26, log 19). -/
def State.translate (s : State) (c : CoreId) (va : Word) (write : Bool) : Option Nat :=
  if s.firmwareCore c then some (firmwareBase + low57 va)
  else
    let k := s.coreAt c
    match findGrant k.tlb1 k.ident.pasid va write with
    | some g => some (grantPhys g va)
    | none => (findGrant ((s.clusters[clusterOf c]).tlb2.map (·.grant)) k.ident.pasid va write).map (grantPhys · va)

/-- A translation by a unit that asks the host directly: the launch unit, the network interfaces and the engines (06 R183). -/
def State.hostPhys (s : State) (pasid : BitVec 20) (va : Word) (write : Bool) : Option Nat :=
  (findGrant s.hostPages pasid va write).map (grantPhys · va)

/-- Whether a unit's read is refused: the page lies in the range of a peer that is not trained (10 R342). -/
def State.vaRefused (s : State) (pasid : BitVec 20) (va : Word) : Bool := (s.hostPhys pasid va false).any s.noPeer

/-- The lines of n bytes at a virtual address that the host holds exclusively. -/
def State.heldLines (s : State) (pasid : BitVec 20) (va : Word) (n : Nat) : List Nat :=
  match s.hostPhys pasid va false with
  | some pa => (linesOf pa n).filter s.hostHolds
  | none => []

/-- Whether a unit's access must wait for an exclusive host copy (07 R225), and the snoops that ask for it. -/
def State.vaHeld (s : State) (pasid : BitVec 20) (va : Word) (n : Nat) : Bool := !(s.heldLines pasid va n).isEmpty
def State.snoopVa (s : State) (pasid : BitVec 20) (va : Word) (n : Nat) : State := (s.heldLines pasid va n).foldl State.snoopHost s

/-- The number in n bytes at a virtual address of an address space, read by a unit; none where the page is not granted or the read is
refused. A U line is recalled in the value read (07 R226). -/
def State.readVa (s : State) (pasid : BitVec 20) (va : Word) (n : Nat) : Option Nat :=
  if s.vaRefused pasid va then none else (s.hostPhys pasid va false).map fun pa => (s.recall (pa / 64)).mem.num pa n

/-- A number of n bytes stored by a unit at a virtual address; the line's other copies are given up first. Unchanged where the
page is not granted. -/
def State.writeVa (s : State) (pasid : BitVec 20) (va : Word) (n x : Nat) : State :=
  match s.hostPhys pasid va true with
  | some pa => if s.noPeer pa then s else (s.claimHome (pa / 64)).storeAt (s.region pasid va).attr pa (toBytes n x)
  | none => s

end Sys2Proof.Machine
end

