-- ==== Sys2Proof/Machine/Ops.lean ====
section
/-!
DEFINITION. What the units of a core do for its handlers: launches and their members (01 R34, 09 R288), the handler table (08
R249), the class table (08 R250), message counters (08 R247), the issue slot (04 R115), entry into the trap queue and taking a
trap (01 R41, 08 R254, 14 R419 to R422), and the resumption of a context after a recoverable fault (06 R184).
-/

namespace Sys2Proof.Machine

/-! Launches. -/

def State.launch? (s : State) (lid : Nat) : Option Launch := s.launches.find? fun l => l.lid == lid

/-- The launch of a core. -/
def State.launchOf (s : State) (c : CoreId) : Option Launch := (s.coreAt c).ident.lid.bind s.launch?

/-- A launch record's field (09 R288). -/
def Launch.field (l : Launch) (hi lo : Nat) : Nat := Msg.field l.record hi lo

/-- The core of a launch-relative number (01 R34). -/
def Launch.core? (l : Launch) (rel : Nat) : Option CoreId := l.cores[rel]?

/-- Number of cores of a launch: 4 × W × H. -/
def Launch.size (l : Launch) : Nat := l.cores.length

/-- A launch changed. -/
def State.modLaunch (s : State) (lid : Nat) (f : Launch → Launch) : State :=
  { s with launches := s.launches.map fun l => if l.lid = lid then f l else l }

/-- Error completions (09 R304). -/
def errTorn : Word := 0xFFFFFFFFFFFFFFFF
def errInvalid : Word := 0xFFFFFFFFFFFFFFFE
def errFault : Word := 0xFFFFFFFFFFFFFFFD

/-- The Mizzen fault service completes a launch with an error (09 R304, 14 R421, R422); the packet that asks it passes only where the
firewall of its column admits it (01 R42, 14 R440). -/
def State.faultService (s : State) (lid : Nat) : State :=
  match s.endpoint 0, (s.launch? lid).bind fun l => l.cores.head? with
  | some e, some c =>
    if (s.routers[e.1]).admits 1 (s.physCore c) e.2 then s.post (.launchCompletion lid errFault none)
    else s.post (.firewallDrop e.1 1 (s.physCore c) e.2)
  | _, _ => s

/-- A request of core c taken in this cycle. -/
def State.serve (s : State) (k : Served) (c : CoreId) : State := { s with served := (k, c, s.cyc) :: s.served.filter fun e => e.2.2 == s.cyc }

/-- Whether a request of core c comes too late for this cycle: one of a higher core has been taken in it. -/
def State.passedBy (s : State) (k : Served) (c : CoreId) : Bool := s.served.any fun e => e.1 == k && e.2.2 == s.cyc && decide (c < e.2.1)

/-! The handler table and the class table. -/

/-- The address of a handler's entry in the table of core c's launch. -/
def State.handlerVa (s : State) (c : CoreId) (hid : Nat) : Word := va57 ((s.coreAt c).ident.hbase.setWidth 64 + BitVec.ofNat 64 (8 * hid))

/-- Whether the host has yet to grant the page of a handler's entry, or holds its line exclusively: what needs the entry waits for it, as for any page that is not
present (06 R184, log 17). -/
def State.handlerAway (s : State) (c : CoreId) (hid : Nat) : Bool :=
  let i := (s.coreAt c).ident
  decide (hid < 2 ^ i.nhlog) && !(s.space i.pasid).stopped
    && ((s.hostPhys i.pasid (s.handlerVa c hid) false).isNone || s.vaHeld i.pasid (s.handlerVa c hid) 8)

/-- The host asked for its exclusive copy of the line of a handler's entry (07 R225). -/
def State.askHandler (s : State) (c : CoreId) (hid : Nat) : State := s.snoopVa (s.coreAt c).ident.pasid (s.handlerVa c hid) 8

/-- The class and the entry address of a handler id of core c, none for a bad handler (08 R249). -/
def State.handler (s : State) (c : CoreId) (hid : Nat) : Option (BitVec 6 × Word) :=
  let i := (s.coreAt c).ident
  if 2 ^ i.nhlog ≤ hid then none
  else
    match s.readVa i.pasid (s.handlerVa c hid) 8 with
    | none => none
    | some e => if bitsOf e 63 63 = 0 ∨ e % 2 = 1 then none else some (BitVec.ofNat 6 (bitsOf e 62 57), va57 (BitVec.ofNat 64 e))

/-- The partition of an address space (08 R268). -/
def State.partitionOf (s : State) (pasid : BitVec 20) : Partition := s.partitions[(s.space pasid).partition.toNat]'((s.space pasid).partition.isLt)

/-- A class-table entry (08 R250); an entry the runtime has not registered has VALID 0. -/
def State.classEntry (s : State) (pasid : BitVec 20) (cl : Nat) : BitVec 32 := (s.partitionOf pasid).classes.getD cl 0

def classValid (e : BitVec 32) : Bool := e.getLsbD 31
def classPrio (e : BitVec 32) : Nat := bitsOf e.toNat 1 0
def classReach (e : BitVec 32) : Nat := bitsOf e.toNat 5 2

/-- The priority of a message from its header (08 R252). -/
def State.prioOf (s : State) (c : CoreId) (word : Msg) : Nat :=
  classPrio (s.classEntry (s.coreAt c).ident.pasid (Msg.field word 63 58))

/-- A message's HID (08 R246). -/
def hidOf (m : Msg) : Nat := Msg.field m 57 46

/-! Events of the issue slot. -/

/-- The holder gives up the issue slot; the core will choose a new one (04 R115). -/
def State.freeSlot (s : State) (c : CoreId) : State :=
  (s.modCore c fun k =>
    let x := k.slot.getD k.last
    { k.modCtx x (fun q => if q.status = .free then q else { q with used := s.handCycle k - q.since }) with
      slot := none, last := x, yielded := false }).post (.issueSlotHandoff c)

/-- The slot given up when context x holds it. -/
def State.leaveSlot (s : State) (c : CoreId) (x : CtxId) : State := if (s.coreAt c).slot = some x then s.freeSlot c else s

/-- A core whose slot is free looks for work (04 R115). -/
def State.wakeCore (s : State) (c : CoreId) : State := if (s.coreAt c).slot = none then s.post (.issueSlotHandoff c) else s

/-- A suspended or stalled context becomes ready and its core looks for work (04 R115). -/
def State.makeReady (s : State) (c : CoreId) (x : CtxId) : State := (s.modCtx c x fun k => { k with status := .ready }).wakeCore c

/-- A context that stalled in its slot goes on. -/
def State.unstall (s : State) (c : CoreId) (x : CtxId) : State := s.modCtx c x fun k => { k with status := .running }

/-- The context suspends and gives up the slot (01 R36). -/
def State.suspend (s : State) (c : CoreId) (x : CtxId) (w : Wait) : State :=
  (s.modCtx c x fun k => { k with status := .suspended w }).leaveSlot c x

/-- The context holds the slot and waits for an answer (04 R114). -/
def State.stall (s : State) (c : CoreId) (x : CtxId) : State := s.modCtx c x fun k => { k with status := .stalled }

/-! Mailbox entries and tasks. -/

/-- The entry of the handler in context x: dropped, or returned to the head of its queue (08 R254). -/
def returnMail (es : List MailEntry) (x : CtxId) (back : Bool) : List MailEntry :=
  let mine := es.filter fun e => e.started == some x
  let rest := es.filter fun e => !(e.started == some x)
  if back then (mine.map fun e => { e with started := none, returns := e.returns + 1 }) ++ rest else rest

/-- Uncommitted sends of a context. -/
def State.sendsOf (s : State) (c : CoreId) (x : CtxId) : List SendEntry := (s.coreAt c).net.sendBuf.filter fun e => e.ctx == x

/-- Deque and spill area (08 R264): a push on top; when 32 are resident the oldest 16 are spilled, and a push with no room to
spill is dropped with 0x0CB. Answers the new state and whether the record was kept. -/
def State.spillAddr (s : State) (c : CoreId) (i : Nat) : Option Word :=
  (s.launchOf c).bind fun l =>
    let lg := l.field 445 441
    if lg = 0 ∨ 2 ^ lg ≤ i then none
    else some (va57 (BitVec.ofNat 64 (l.field 440 384 + (s.coreAt c).ident.rel.toNat * 2 ^ lg * 64 + 64 * i)))

/-- Whether the spill area has a record's slot whose page is not granted yet, or that the host holds: a spill waits for it. -/
def State.slotAway (s : State) (c : CoreId) (i : Nat) : Bool :=
  match s.spillAddr c i with
  | some va => (s.hostPhys (s.coreAt c).ident.pasid va true).isNone || s.vaHeld (s.coreAt c).ident.pasid va 64
  | none => false

/-- Whether a push must wait for the spill area (08 R264). -/
def State.spillAway (s : State) (c : CoreId) : Bool :=
  let n := (s.coreAt c).net
  decide (32 ≤ n.deque.length) && (List.range 16).any fun i => s.slotAway c (n.spilled + i)

/-- The oldest records written to the spill area, one after the other; none when the area is full, as one with fewer than 16 free places is
(log 73). -/
def State.spillTasks (s : State) (c : CoreId) (ts : List Task) : Option State :=
  match ts with
  | [] => some s
  | t :: r =>
    let n := (s.coreAt c).net.spilled
    (s.spillAddr c n).bind fun va =>
      let s1 := s.writeVa (s.coreAt c).ident.pasid va 64 t.word.toNat
      (s1.modCore c fun k => { k with net := { k.net with spilled := n + 1, spillRet := k.net.spillRet ++ [t.returns] } }).spillTasks c r

/-- A record pushed on top of the deque: a full one spills its oldest 16, and drops the record when the area is full. What is pushed back
or stolen while the area's page is not present stays resident (log 65). -/
def State.pushTask (s : State) (c : CoreId) (t : Task) : State × Bool :=
  let d := (s.coreAt c).net.deque
  let put := fun (s : State) (d : List Task) => s.modCore c fun k => { k with net := { k.net with deque := d ++ [t] } }
  if d.length < 32 || s.spillAway c then (put s d, true)
  else match s.spillTasks c (d.take 16) with
    | some s1 => (put s1 (d.drop 16), true)
    | none => (s, false)

/-! Message counters (08 R247, 09 R293). -/

def State.takeMid (s : State) (c : CoreId) : BitVec 16 × State :=
  ((s.coreAt c).net.mid, s.modCore c fun k => { k with net := { k.net with mid := k.net.mid + 1 } })

def State.takeLuMid (s : State) : BitVec 16 × State := (s.luMid, { s with luMid := s.luMid + 1 })

/-! Trap records (14 R419 to R422). -/

/-- A header of 08 R246. -/
def mkHeader (cl hid : Nat) (ddev : BitVec 1) (dcore unit : Nat) (mid : BitVec 16) (score : Nat) (sdev : BitVec 1) (xt : Bool)
    (rel reply : Nat) : Word :=
  BitVec.ofNat 64 (cl * 2 ^ 58 + hid * 2 ^ 46 + ddev.toNat * 2 ^ 45 + dcore * 2 ^ 35 + unit * 2 ^ 32 + mid.toNat * 2 ^ 16
    + score * 2 ^ 6 + sdev.toNat * 2 ^ 5 + (if xt then 16 else 0) + rel * 4 + reply * 2)

/-- What a trap record says of the handler concerned (14 R420). -/
structure Summary where
  mid : Nat
  hid : Nat
  ctx : Nat
  ret : Nat
  req : Bool
  nr : Bool
  origin : Nat
  unit : Nat
  cause : BitVec 9
  deriving DecidableEq, Repr

def Summary.word (u : Summary) : Word :=
  BitVec.ofNat 64 (u.mid * 2 ^ 48 + u.hid * 2 ^ 36 + u.ctx * 2 ^ 34 + u.ret * 2 ^ 32 + (if u.req then 2 ^ 31 else 0)
    + (if u.nr then 2 ^ 30 else 0) + u.origin * 2 ^ 27 + u.unit * 2 ^ 24 + u.cause.toNat)

/-- A summary of a cause that concerns no handler. -/
def Summary.report (origin unit : Nat) (cause : BitVec 9) : Summary :=
  { mid := 0, hid := 0xFFF, ctx := 0, ret := 0, req := false, nr := false, origin := origin, unit := unit, cause := cause }

/-- A trap record for a launch-relative core with its core XT, its header without CLASS, HID and MID, which are written as it enters
the trap queue; score is the reporting core. -/
def State.trapWord (s : State) (rel : Nat) (xt : Bool) (score : Nat) (u : Summary) (pc val aux trigger arg : Word) : Msg :=
  Msg.ofWords [mkHeader 0 0 s.dev rel 0 0 score s.dev xt 1 0, u.word, pc, val, aux, trigger,
    BitVec.ofNat 64 (rel + s.dev.toNat * 2 ^ 16 + (s.cyc % 2 ^ 32) * 2 ^ 32), arg]

/-- A trap record for core c. -/
def State.trapRecord (s : State) (c : CoreId) (score : Nat) (u : Summary) (pc val aux trigger arg : Word) : Msg :=
  s.trapWord (s.coreAt c).ident.rel.toNat (s.coreAt c).ident.xt score u pc val aux trigger arg

/-- A trap record at its core (14 R421, R422): into the trap queue with its CLASS, HID and MID, or to the Mizzen fault service when
the launch has no trap handler, the handler is bad or the queue is full. A record of the launch unit or the link die has its MID (09 R293). -/
def State.enterTrapq (s : State) (c : CoreId) (record : Msg) : State :=
  match s.launchOf c with
  | none => s
  | some l =>
    let thid := l.field 479 468
    match if l.field 480 480 = 1 then s.handler c thid else none with
    | none => s.faultService l.lid
    | some (cl, pc) =>
      if 16 ≤ (s.coreAt c).net.trapq.length then s.faultService l.lid
      else
        let linkMade := decide (4 ≤ bitsOf (Msg.word record 1).toNat 29 27)
        let r := if linkMade then (0, s) else s.takeMid c
        let h := Msg.word record 0 ||| BitVec.ofNat 64 (cl.toNat * 2 ^ 58 + thid * 2 ^ 46 + r.1.toNat * 2 ^ 16)
        (r.2.modCore c fun k => { k with net := { k.net with trapq := k.net.trapq ++
          [{ word := Msg.setWord record 0 h, pc := pc, started := none }] } }).wakeCore c

/-- The core a report about a message or task goes to (14 R421): its sender, or core 0 of the launch for a message of the launch unit.
None for a sender in the peer package. -/
def State.senderOf (s : State) (c : CoreId) (w : Msg) : Option CoreId :=
  let r := Msg.field w 15 6
  if r = 0x3FF then (s.launchOf c).bind fun l => l.core? 0
  else if Msg.field w 5 5 = s.dev.toNat then (s.launchOf c).bind fun l => l.core? r
  else none

/-- A report of core c's network interface about a message or task w that it drops: no handler is aborted (08 R253, R258, R263, R264, 14
R417, R419 to R421; log 33), which had been returned `ret` times. That about a message of the peer package leaves over the stay link. -/
def State.report (s : State) (c : CoreId) (w : Msg) (cause : BitVec 9) (val : Word) (ret : Nat := 0) : State :=
  let i := (s.coreAt c).ident
  let src := Msg.field w 15 6
  let record := fun (rel : Nat) => Msg.setWord
    (s.trapWord rel i.xt i.rel.toNat { Summary.report 1 0 cause with mid := Msg.field w 31 16, ret := ret } 0 val 0 (Msg.word w 0) (Msg.word w 1)) 6
    (BitVec.ofNat 64 (i.rel.toNat + s.dev.toNat * 2 ^ 16 + (s.cyc % 2 ^ 32) * 2 ^ 32))
  match s.senderOf c w, i.lid with
  | some q, lid =>
    let r := record (s.coreAt q).ident.rel.toNat
    if q = c then s.enterTrapq c r
    else match lid with
      | some lid => s.post (.trapRecordArrival q lid r)
      | none => s
  | none, some lid =>
    if src = 0x3FF ∨ Msg.field w 5 5 = s.dev.toNat then s
    else s.toPeer (.trapRecordArrival ⟨src % 1024, by omega⟩ lid (Msg.setWord (record src) 0 (Msg.word (record src) 0 ^^^ 0x200000000000)))
  | none, none => s

/-- A report from elsewhere to the core of a launch (14 R421): origin 3 home slice, 4 launch unit, 5 link die; w is the message it is
about, or 0. Records of the launch unit and the link die take their MID as they leave (09 R293). -/
def State.reportFrom (s : State) (lid : Nat) (c : CoreId) (origin : Nat) (w : Msg) (cause : BitVec 9) (val : Word) : State :=
  let rel := ((s.launch? lid).map fun l => l.cores.findIdx (· == c)).getD 0
  let xt := ((s.launch? lid).map fun l => l.field 481 481 == 1).getD false
  let m := if 4 ≤ origin then s.takeLuMid else (0, s)
  let r := s.trapWord rel xt (if origin = 3 then rel else 0x3FF)
    { Summary.report origin 0 cause with mid := Msg.field w 31 16 } 0 val 0 (Msg.word w 0) (Msg.word w 1)
  m.2.post (.trapRecordArrival c lid (Msg.setWord r 0 (Msg.word r 0 ||| BitVec.ofNat 64 (m.1.toNat * 2 ^ 16))))

/-! Ending a handler. -/

/-- What a context held is given back (08 R254 to R256): uncommitted sends are discarded, the entry of its message is dropped or
returned, its waits are disarmed, and the context is free. -/
def State.clearCtx (s : State) (c : CoreId) (x : CtxId) (back : Bool) : State :=
  let s1 := (s.dropWaits c x).modCore c fun k =>
    let n := k.net
    ({ k with net := { n with mailbox := returnMail n.mailbox x back, trapq := n.trapq.filter (fun e => !(e.started == some x))
                              sendBuf := n.sendBuf.filter fun e => !(e.ctx == x) } }).modCtx x fun _ => Ctx.reset
  s1.leaveSlot c x

/-- The cell a context evaluates (11 R349). -/
def Ctx.evaluates (k : Ctx) : Option Word := if k.evCell.getLsbD 0 then some (va57 (k.evCell &&& ~~~7)) else none

/-- An evaluation failure of a cell reported to its home (11 R362), as the host translates it; it is kept until its page is granted. -/
def State.evalFailure (s : State) (c : CoreId) (k : Ctx) : State :=
  let pasid := (s.coreAt c).ident.pasid
  match k.evaluates with
  | none => s
  | some va => match s.hostPhys pasid va false with
    | some pa => s.post (.evaluationFailureReport pa)
    | none => { s with failures := s.failures ++ [(pasid, va)] }

/-- The evaluation failures whose page has been granted since; those of a stopped address space are forgotten (06 R188). -/
def State.sendFailures (s : State) : State :=
  let known := fun (e : BitVec 20 × Word) => s.hostPhys e.1 e.2 false
  { s with failures := s.failures.filter fun e => (known e).isNone && !(s.space e.1).stopped }.postAll
    ((s.failures.filterMap known).map .evaluationFailureReport)

/-- Whether the message of a handler that traps with a cause is returned (01 R41, 08 R254, 04 R147, 11 R362). -/
def Ctx.returns (k : Ctx) (cause : BitVec 9) : Bool :=
  match k.trigger with
  | none => false
  | some t => !k.nonRestart && cause != 0x005 && decide (t.returns < 3) && t.src != .trapq && k.evaluates.isNone

/-- The summary of a trap in context x (14 R420). -/
def trapSummary (k : Ctx) (x : CtxId) (cause : BitVec 9) : Summary :=
  match k.trigger with
  | none => { Summary.report 0 0 cause with ctx := x.val, nr := k.nonRestart }
  | some t => { mid := Msg.field t.word 31 16, hid := hidOf t.word, ctx := x.val, ret := t.returns, req := k.returns cause
                nr := k.nonRestart, origin := 0, unit := 0, cause := cause }

/-- TAKING A TRAP (01 R41, 04 R147, 08 R254, 11 R362, 14 R417, R419 to R422): the handler in context x of core c is aborted with a
cause, its value and its auxiliary word. Its uncommitted sends are discarded; its message or task is returned when it is
restartable, was returned fewer than 3 times and is not an evaluator, and a task for which the deque has no room is dropped; an evaluator's failure is reported; the context is free and
the slot passes on; and the trap record enters the core's trap queue, or, when a trap record had started the handler, the Mizzen
fault service completes the launch. -/
def State.takeTrapAt (s : State) (c : CoreId) (x : CtxId) (cause : BitVec 9) (val aux : Word) : State :=
  let k := s.ctxAt c x
  let back := k.returns cause
  let trig := match k.trigger with
    | some t => (Msg.word t.word 0, Msg.word t.word 1)
    | none => (0, 0)
  let s1 := (s.evalFailure c k).clearCtx c x back
  let r : State × Bool := match k.trigger with
    | some t => if back && t.src == .deque then s1.pushTask c { word := t.word, prio := t.prio, returns := t.returns + 1 } else (s1, true)
    | none => (s1, true)
  let s2 := match k.trigger with
    | some t => if r.2 then r.1 else r.1.report c t.word 0x0CB (BitVec.ofNat 64 (Msg.field t.word 31 16)) t.returns
    | none => r.1
  let rec0 := s.trapRecord c (s.coreAt c).ident.rel.toNat { trapSummary k x cause with req := back && r.2 } k.pc val aux trig.1 trig.2
  match k.trigger with
  | some t => if t.src == .trapq then (match (s.coreAt c).ident.lid with
      | some lid => s2.faultService lid
      | none => s2) else s2.enterTrapq c rec0
  | none => s2

/-- The trap of the issuing context. -/
def State.takeTrap (s : State) (cause : BitVec 9) (val : Word) : State := s.takeTrapAt s.cur s.hot cause val 0

/-- An instruction that raises a trap: its issue cycle passes and the handler is aborted; nothing else of it happens (00 R13). -/
def trapStep (cause : BitVec 9) (val : Word) (s : State) : Out := .next ((s.spend 1).takeTrap cause val)

/-- RESUMPTION of a context suspended on a recoverable fault (06 R184): it becomes ready, with every register as before, and
re-executes its instruction. -/
def State.resumeFault (s : State) (c : CoreId) (x : CtxId) : State :=
  match (s.ctxAt c x).status with
  | .suspended (.fault _) => s.makeReady c x
  | _ => s

/-- The handler is no longer restartable (01 R41, 08 R257). -/
def Ctx.commit (k : Ctx) : Ctx := { k with nonRestart := true }

end Sys2Proof.Machine
end

