-- ==== Sys2Proof/Machine/Operands.lean ====
section
/-!
DEFINITION. Operand forms of memory accesses: the effective address (06 R167, R168), alignment, translation and attribute checks
in the order of 06 R196, the copy scoreboard (06 R189), and reading and writing the bytes of an access.
-/

namespace Sys2Proof.Machine

/-- Where an access goes (06 R167). -/
inductive Loc where
  | sp (o : Nat)
  | mem (va : Word)
  deriving DecidableEq, Repr

/-- Why an access does not go ahead: a trap with its cause and value; a page that neither TLB holds; a wait for a copy in flight
or for the host's copy of the lines listed. -/
inductive Stop where
  | trap (cause : BitVec 9) (val : Word)
  | miss (va : Word) (write : Bool)
  | busy (lines : List Nat)
  deriving DecidableEq, Repr

/-- eff(p, off) of 06 R167 for a core whose launch-relative number is rel: of a scratchpad pointer it is the sum that must be in range, where
03 R98 speaks of its OFFSET field as well (log 76). -/
def eff (rel : BitVec 10) (p : Word) (off : Int) : Except Stop Loc :=
  let f := p.extractLsb' 60 4
  if f = 15 then
    let o := (bitsOf p.toNat 18 0 : Int) + off
    if bitsOf p.toNat 48 19 ≠ 0 ∨ o < 0 ∨ (spSize : Int) ≤ o then .error (.trap 0x047 p)
    else if p.getLsbD 49 = false ∧ p.extractLsb' 50 10 ≠ rel then .error (.trap 0x047 p)
    else .ok (.sp o.toNat)
  else if f = 11 ∨ f = 12 ∨ f = 14 then .error (.trap 0x046 p)
  else .ok (.mem (va57 (p + BitVec.ofInt 64 off)))

/-- The address a cause names (06 R196). -/
def Loc.addr (l : Loc) : Word := match l with
  | .sp o => BitVec.ofNat 64 o
  | .mem va => va

/-- The address as a number for alignment. -/
def Loc.num (l : Loc) : Nat := match l with
  | .sp o => o
  | .mem va => low57 va

/-- An element of an access: its place, its bytes, its alignment. -/
structure Piece where
  loc : Loc
  len : Nat
  align : Nat
  deriving DecidableEq, Repr

/-- A resolved element: scratchpad offset or physical address, with its virtual address. -/
inductive Place where
  | sp (o : Nat)
  | phys (pa : Nat) (va : Word) (attr : BitVec 2)
  deriving DecidableEq, Repr

/-- Misalignment (06 R195, R202). -/
def Piece.aligned (p : Piece) : Except Stop Unit :=
  if p.loc.num % p.align = 0 then .ok () else .error (.trap 0x042 p.loc.addr)

/-- The pages a piece lies in: the addresses to translate (06 R204: a vector may cross a page). -/
def Piece.translated (s : State) (c : CoreId) (write : Bool) (p : Piece) : Except Stop Place :=
  match p.loc with
  | .sp o => .ok (.sp o)
  | .mem va =>
    match s.translate c va write with
    | none => .error (.miss va write)
    | some pa =>
      if s.noPeer pa then .error (.trap 0x041 va)
      else .ok (.phys pa va (if s.firmwareCore c then 2 else (s.region (s.coreAt c).ident.pasid va).attr))

/-- Attribute causes (06 R179): a core-owned region of another core, a store to a read-shared region. Firmware memory has none. -/
def Piece.permitted (s : State) (c : CoreId) (write : Bool) (p : Piece) : Except Stop Unit :=
  match p.loc with
  | .sp _ => .ok ()
  | .mem va =>
    let r := s.region (s.coreAt c).ident.pasid va
    if s.firmwareCore c then .ok ()
    else if r.attr = 0 ∧ (r.owner ≠ c.val ∨ r.odev ≠ s.dev) then .error (.trap 0x044 va)
    else if r.attr = 1 ∧ write then .error (.trap 0x043 va)
    else .ok ()

/-- The first error of a list of checks. -/
def firstError (xs : List (Except Stop Unit)) : Except Stop Unit :=
  match xs with
  | [] => .ok ()
  | .error e :: _ => .error e
  | .ok _ :: r => firstError r

/-- Every result, or the first error. -/
def allOk {α : Type} (xs : List (Except Stop α)) : Except Stop (List α) :=
  match xs with
  | [] => .ok []
  | .error e :: _ => .error e
  | .ok a :: r => (match allOk r with
    | .ok l => .ok (a :: l)
    | .error e => .error e)

/-- The checks of 06 R196 over all pieces of an access: alignment, translation, attributes, in that order (log 18). -/
def State.resolve (s : State) (c : CoreId) (write : Bool) (ps : List Piece) : Except Stop (List Place) := do
  firstError (ps.map Piece.aligned)
  let qs ← allOk (ps.map (Piece.translated s c write))
  firstError (ps.map (Piece.permitted s c write))
  return qs

/-! The copy scoreboard (06 R189, 10 R339). -/

/-- A scoreboard range: a byte interval of the scratchpad or of the 57-bit address space. -/
structure Range where
  sp : Bool
  lo : Nat
  hi : Nat
  deriving DecidableEq, Repr

/-- The bytes from a pointer on; a scratchpad pointer names the executing core by SELF or by its number (10 R324). -/
def rangeOf (p : Word) (len : Nat) : Range :=
  if p.extractLsb' 60 4 = 15 then { sp := true, lo := bitsOf p.toNat 18 0, hi := bitsOf p.toNat 18 0 + len }
  else { sp := false, lo := low57 p, hi := low57 p + len }

/-- The span of n bytes at a pointer and of further runs of n bytes up to k strides away, the stride a signed number. -/
def spanOf (p : Word) (n k : Nat) (stride : Int) : Range :=
  let r := rangeOf p 0
  let d := stride * k
  let lo := (r.lo : Int) + min 0 d
  let hi := (r.lo : Int) + n + max 0 d
  { r with lo := lo.toNat, hi := if n = 0 then lo.toNat else hi.toNat }

/-- Whether a pointer's bytes are this core's to guard: memory, or its own scratchpad (06 R168, R189). -/
def guards (rel : BitVec 10) (p : Word) : Bool := p.extractLsb' 60 4 != 15 || p.getLsbD 49 || p.extractLsb' 50 10 == rel

/-- Source (or index array) and destination ranges of a copy command executed by a core of number rel (10 R338, R339). -/
def copyRanges (rel : BitVec 10) (w : Msg) : List Range × List Range :=
  let keep := fun (p : Word) (r : Range) => if guards rel p then [r] else []
  let src := Msg.word w 1
  let dst := Msg.word w 2
  match hidOf w with
  | 1 =>
    let n := Msg.field w 231 192
    (keep src (rangeOf src n), keep dst (rangeOf dst n))
  | 2 =>
    let n := Msg.field w 223 192
    let k := Msg.field w 239 224
    (keep src (spanOf src n k (Msg.word w 4).toInt), keep dst (spanOf dst n k (Msg.word w 5).toInt))
  | 3 =>
    let idx := Msg.word w 3
    (keep idx (rangeOf idx (4 * Msg.field w 287 256)), keep dst (rangeOf dst (Msg.field w 287 256 * 2 ^ Msg.field w 290 288)))
  | _ => ([], [])

/-- Whether an element overlaps a range. -/
def Range.meets (r : Range) (p : Piece) : Bool :=
  match p.loc with
  | .sp o => r.sp && decide (r.lo < r.hi ∧ o < r.hi ∧ r.lo < o + p.len)
  | .mem va => !r.sp && decide (r.lo < r.hi ∧ low57 va < r.hi ∧ r.lo < low57 va + p.len)

/-- Whether an access must wait for a copy in flight (06 R189). -/
def State.scoreboard (s : State) (c : CoreId) (write : Bool) (ps : List Piece) : Bool :=
  (s.coreAt c).cp.inq.any fun pk =>
    let r := copyRanges (s.coreAt c).ident.rel pk.word
    ps.any fun p => r.2.any (·.meets p) || (write && r.1.any (·.meets p))

/-! Bytes of places. -/

/-- The lines of coherent memory that n bytes at a place touch; firmware memory has no directory entry (01 R26, log 19). -/
def Place.lines (p : Place) (n : Nat) : List Nat :=
  match p with
  | .sp _ => []
  | .phys pa _ attr => if (attr = 2 ∨ attr = 3) ∧ pa < firmwareBase then linesOf pa n else []

/-- The lines of a private region that n bytes at a place of core c need from their homes. -/
def State.ownLines (s : State) (c : CoreId) (p : Place) (n : Nat) : List Nat :=
  match p with
  | .phys pa _ 0 => (linesOf pa n).filter fun l => (s.ownData c l).isNone
  | _ => []

/-- The lines whose exclusive host copy must first come back (07 R225). -/
def State.hostLines (s : State) (c : CoreId) (ps : List Piece) (qs : List Place) : List Nat :=
  ((qs.zip ps).flatMap fun e => e.1.lines e.2.len ++ s.ownLines c e.1 e.2.len).filter s.hostHolds

/-- Whether an operation of a context has left it and not reached its home (07 R232): its later accesses wait for it (log 12). -/
def State.homeBusy (s : State) (c : CoreId) (x : CtxId) : Bool :=
  (s.pending ++ s.parked).any fun i => match i with
    | .homeOperation op => decide (op.dev = s.dev ∧ op.core = c ∧ op.ctx = x)
    | _ => false

/-- All of 06 R196 and the waits of 06 R189, 07 R225 and R232: the places of an access of context x that may go ahead now. The copy
scoreboard holds back loads, stores, atomics and reductions, as `board` says (log 34). -/
def State.reach (s : State) (c : CoreId) (x : CtxId) (write board : Bool) (ps : List Piece) : Except Stop (List Place) := do
  let qs ← s.resolve c write ps
  if (board && s.scoreboard c write ps) || s.homeBusy c x then .error (.busy [])
  else
    let ls := s.hostLines c ps qs
    if ls.isEmpty then return qs else .error (.busy ls)

/-- The places of a load or a store. -/
def State.access (s : State) (c : CoreId) (x : CtxId) (write : Bool) (ps : List Piece) : Except Stop (List Place) := s.reach c x write true ps

/-- The update-only partials of lines combined into their homes (07 R226). -/
def State.settle (s : State) (ls : List Nat) : State := ls.foldl State.recall s

/-- The bytes at a place: a byte of a read-shared region stored to outside the drain is unspecified (06 R180). -/
def State.readPlace (s : State) (c : CoreId) (p : Place) (n : Nat) : List Byte :=
  match p with
  | .sp o => (s.coreAt c).sp.bytes o n
  | .phys pa _ attr =>
    if attr = 1 then (List.range n).map fun i => if s.stale.contains ((pa + i) / 64) then Config.staleByte s.tick (pa + i) else s.mem.byte (pa + i)
    else if attr = 0 then s.ownBytes c pa n
    else (s.settle (p.lines n)).mem.bytes pa n

/-! Host pages (06 R185). -/

/-- PSZ of a page. -/
def pageSize (log : Nat) : Nat := if log < 16 then 0 else if log < 21 then 1 else if log < 30 then 2 else 3

/-- The notification record of 256 line requests of a cluster to a page. -/
def noteRecord (phase : Bool) (pasid : BitVec 20) (cluster : Nat) (dev : BitVec 1) (g : Grant) : Nat :=
  (if phase then 2 ^ 127 else 0) + pasid.toNat * 2 ^ 96 + cluster * 2 ^ 88 + dev.toNat * 2 ^ 87 + pageSize g.log * 2 ^ 85
    + (va57 (BitVec.ofNat 64 g.va)).toNat + 256

/-- The record written to the PASID's ring, or counted as dropped when the ring is full. -/
def State.notify (s : State) (cluster : Nat) (g : Grant) : State :=
  let p := s.space g.pasid
  match p.notes with
  | none => s
  | some r =>
    if 2 ^ r.log ≤ (r.written + 2 ^ 32 - s.mem.num r.indexAt 4) % 2 ^ 32 then
      s.setSpace g.pasid { p with notes := some { r with overflow := r.overflow + 1 } }
    else
      let rec0 := noteRecord (Config.firstPhase != (r.written / 2 ^ r.log % 2 == 1)) g.pasid cluster s.dev g
      (s.setSpace g.pasid { p with notes := some { r with written := r.written + 1 } }).store (r.base + 16 * (r.written % 2 ^ r.log)) (toBytes 16 rec0)

/-- Whether an access of core c to a line makes a line request of its cluster (06 R185): a load that misses in the L1, or a store that
does not own the line. -/
def State.requests (s : State) (c : CoreId) (write : Bool) (l : Nat) : Bool :=
  !s.holds c l || (write && (s.ownData c l).isNone && s.l1State c l != .m && s.l1State c l != .e)

/-- A line request of core c's cluster over the host port counted (06 R185). -/
def State.countLine (s : State) (c : CoreId) (pa : Nat) (va : Word) : State :=
  if !s.hostMem pa then s
  else
    let h := clusterOf c
    let pasid := (s.coreAt c).ident.pasid
    match (s.clusters[h]).tlb2.find? (fun e => grantCovers e.grant pasid va) with
    | none => s
    | some e =>
      let put := fun n => { s with clusters := s.clusters.set h { s.clusters[h] with
        tlb2 := s.clusters[h].tlb2.map fun f => if f.grant = e.grant then { f with count := n } else f } }
      if e.count + 1 = 256 then (put 0).notify h.val e.grant else put (e.count + 1)

/-- The line request of an access, if it makes one. -/
def State.countHost (s : State) (c : CoreId) (pa : Nat) (va : Word) (write : Bool) : State :=
  if s.requests c write (pa / 64) then s.countLine c pa va else s

/-- Whether a read of core c for a read-shared line is on its way (06 R181). -/
def State.readAsked (s : State) (c : CoreId) (l : Nat) : Bool :=
  ((s.pending ++ s.parked).any fun i => match i with
    | .mergeRead _ m (.core d) => m == l && d == c
    | .lineFill d m _ => m == l && d == c
    | _ => false)
  || s.routers.any fun r => r.merge.any fun m => m.line == l && m.waiters.contains (.core c)

/-- The core whose request a reader stands for: that of a tagged read is the first waiter of its entry. -/
def State.readerCore (s : State) (line : Nat) (who : Reader) : Option CoreId :=
  match who with
  | .core c => some c
  | .router r => ((s.routers[r]).merge.find? fun m => m.line == line).bind fun m => m.waiters.head?.bind fun w => match w with
    | .core c => some c
    | .router _ => none

/-- Whether a cluster's slice holds a replica of a line (06 R182). -/
def Cluster.replica (k : Cluster) (l : Nat) : Bool := k.replicas.any fun e => e.1 == l

/-- A load of a read-shared line (06 R172, R181, R182): from the L1, from the replica in the cluster's slice, or by a read, counted as the
line's request (06 R185), that the routers on the way to the home may merge; such a line has one value (log 55). -/
def State.askShared (s : State) (c : CoreId) (va : Word) (l : Nat) : State :=
  if s.holds c l then s.useL1 c l
  else if (s.clusters[clusterOf c]).replica l then s.fillL1 c l .shared
  else if s.readAsked c l then s
  else (s.countLine c (64 * l) va).post (.mergeRead (s.routerOf (clusterOf c)) l (.core c))

/-- The line requests and the coherence actions before an access of n bytes at a place (06 R172, R185, 07 R224). -/
def State.touchPlace (s : State) (c : CoreId) (write : Bool) (p : Place) (n : Nat) : State :=
  match p with
  | .sp _ => s
  | .phys pa va attr =>
    let t := s.countHost c pa va write
    if attr = 0 then (linesOf pa n).foldl (fun t l => t.touchOwn c l) t
    else if attr = 1 then (linesOf pa n).foldl (fun t l => t.askShared c va l) s
    else (p.lines n).foldl (fun t l => if write then t.touchStore c l else t.touchLoad c l) t

/-- Bytes stored at a place. -/
def State.writePlace (s : State) (c : CoreId) (p : Place) (bs : List Byte) : State :=
  match p with
  | .sp o => s.storeSp c o bs
  | .phys pa _ attr =>
    let t := s.touchPlace c true p bs.length
    if attr = 0 then t.storeOwn c pa bs else t.storeAt attr pa bs

/-- A release of the issuing core at a scope (06 R179): at .device and wider its dirty private lines go home. -/
def State.releaseAt (s : State) (scope : BitVec 4) : State := if 5 ≤ scope.toNat then s.cleanOwn s.cur else s

/-- Whether a furled request is a reduction of a context of a device. -/
def reducesFor (d : BitVec 1) (c : CoreId) (x : CtxId) (r : FurlReq) : Bool :=
  match r.what with
  | .red _ _ _ => decide (r.dev = d ∧ r.core = c ∧ r.ctx = x)
  | _ => false

/-- Whether a reduction of a context waits on a cell that is not VALUE (11 R351). -/
def State.redWaits (s : State) (c : CoreId) (x : CtxId) : Bool :=
  ((s.pending ++ s.parked).any fun i => match i with
    | .furledRequestAtHome r => reducesFor s.dev c x r
    | .furledWake r _ => reducesFor s.dev c x r
    | _ => false)
  || (s.refused.any fun e => reducesFor s.dev c x e.1)
  || s.allCleat.any fun e => match e.waiter with
    | some w => reducesFor s.dev c x w.2
    | none => false

/-- Whether an earlier operation of a context is not performed: a release waits for it (07 R215 to R217, R232; log 12). -/
def State.unperformed (s : State) (c : CoreId) (x : CtxId) : Bool := s.homeBusy c x || s.redWaits c x

/-- A release of the issuing context (07 R215): it waits for the earlier operations, and private lines go home. -/
def releasing (rel : Bool) (scope : BitVec 4) (go : State → Out) (s : State) : Out :=
  if !rel then go s
  else if s.unperformed s.cur s.hot then .next (s.spend 1)
  else go (s.releaseAt scope)

/-! What a context does at a stop. -/

/-- The issuing context at a stop (06 R184, R189): it traps; or it asks for the translation and stalls; or it stalls and tries
again, the host being asked for its copies. -/
def State.stopStep (st : Stop) (s : State) : Out :=
  match st with
  | .trap cause val => trapStep cause val s
  | .miss va write =>
    .next (((s.spend 1).stall s.cur s.hot).post (.atsResponse (.ctx s.cur s.hot) s.core.ident.pasid va write))
  | .busy ls => .next (ls.foldl State.snoopHost (s.spend 1))

/-! Loads, which may meet furled cells (11 R350, R351). -/

/-- The chain flag of a context for a cell (11 R350). -/
def Ctx.chainFlag (k : Ctx) (va : Word) : Bool :=
  [k.evCell, k.evChain0, k.evChain1, k.evChain2].any fun r => r.getLsbD 0 && decide (bitsOf r.toNat 56 3 = bitsOf va.toNat 56 3)

/-- What the evaluation of a cell that this context's access launches receives as its ancestors: zeros from a context that evaluates
nothing (11 R357). -/
def Ctx.ancestors (k : Ctx) : Word × Word × Word := if k.evCell.getLsbD 0 then (k.evCell, k.evChain0, k.evChain1) else (0, 0, 0)

/-- The furl-capable cells of n bytes at a place: physical and virtual address. -/
def Place.cells (p : Place) (n : Nat) : List (Nat × Word) :=
  match p with
  | .phys pa va 3 => (List.range ((pa + n - 1) / 8 + 1 - pa / 8)).map fun i => (8 * (pa / 8 + i), va57 ((va &&& ~~~7) + BitVec.ofNat 64 (8 * i)))
  | _ => []

/-- The answer a context has for a cell. -/
def answerOf (as : List (Nat × FurlAns)) (c : Nat) : Option FurlAns := (as.find? fun e => e.1 == c).map (·.2)

/-- What a load gives: the bytes of its elements; a stop; a cause with its cell; or cells that must first answer. -/
inductive Loaded where
  | bytes (bs : List (List Byte)) (qs : List Place)
  | stop (st : Stop)
  | cause (c : BitVec 9) (va : Word)
  | ask (cells : List (Nat × Word))
  deriving DecidableEq, Repr

/-- The bytes at a place, those of answered cells as answered (11 R351). -/
def State.readAnswered (s : State) (c : CoreId) (as : List (Nat × FurlAns)) (p : Place) (n : Nat) : List Byte :=
  match p with
  | .phys pa _ 3 => (List.range n).map fun i => match answerOf as (8 * ((pa + i) / 8)) with
    | some (.word w) => (toBytes 8 w.toNat).getD ((pa + i) % 8) 0
    | _ => (s.settle (p.lines n)).mem.byte (pa + i)
  | _ => s.readPlace c p n

/-- What elements give that may be loaded, with the stop of the one after them (11 R351): first the cells that are not VALUE and have not
answered, all at once; then the causes that cells answered with, the lowest element's first; then the stop; then the bytes. -/
def State.loadFrom (s : State) (es : List (Place × Piece)) (st : Option Stop) : Loaded :=
  let cells := es.flatMap fun e => e.1.cells e.2.len
  let as := s.ctx.answers
  if cells.any (fun e => (answerOf as e.1).isNone && s.tag e.1 != 0) then .ask cells
  else match cells.findSome? (fun e => match answerOf as e.1 with
    | some (.cause q) => some (q, e.2)
    | _ => none), st with
    | some (q, va), _ => .cause q va
    | none, some st => .stop st
    | none, none => .bytes (es.map fun e => s.readAnswered s.cur as e.1 e.2.len) (es.map (·.1))

/-- A load of the elements ps by the issuing context (06 R195 to R204, 11 R351): the causes of 06 R196 over all of them, then what they give. -/
def State.load (s : State) (ps : List Piece) : Loaded :=
  match s.access s.cur s.hot false ps with
  | .error st => .stop st
  | .ok qs => s.loadFrom (qs.zip ps) none

/-- The first entry for each cell. -/
def dedupCells (cs : List (Nat × Word)) (seen : List Nat) : List (Nat × Word) :=
  match cs with
  | [] => []
  | e :: r => if e.1 ∈ seen then dedupCells r seen else e :: dedupCells r (e.1 :: seen)

/-- The issuing context's requests for cells (11 R350, R351): a VALUE cell answers at once, the others are asked at their homes, and
the context suspends until all have answered. -/
def State.askCells (s : State) (cells : List (Nat × Word)) : State :=
  let k := s.ctx
  let new := (dedupCells cells []).filter fun e => (answerOf k.answers e.1).isNone
  let now := (new.filter fun e => s.tag e.1 == 0).map fun e => (e.1, FurlAns.word (BitVec.ofNat 64 ((s.recall (e.1 / 64)).mem.num e.1 8)))
  let later := new.filter fun e => s.tag e.1 != 0
  let t := s.onCtx fun k => { k with answers := k.answers ++ now, asked := later.map (·.1) }
  (t.suspend s.cur s.hot .furled).postAll (later.map fun e =>
    .furledRequestAtHome { dev := s.dev, core := s.cur, ctx := s.hot, va := e.2, pa := e.1, chain := k.chainFlag e.2, anc := k.ancestors, what := .load, issued := s.cyc })

/-- The coherence actions of a load, and a use of the free value for bytes of read-shared memory that is stale (06 R180). -/
def State.touchAll (s : State) (c : CoreId) (write : Bool) (ps : List Piece) (qs : List Place) : State :=
  let t := (qs.zip ps).foldl (fun t e => t.touchPlace c write e.1 e.2.len) s
  if s.stale.isEmpty then t else t.tock

/-- The end of a load instruction of length len: `fin` writes the registers from the bytes of the elements. -/
def endLoad (len : Nat) (ps : List Piece) (r : Loaded) (fin : List (List Byte) → Ctx → Ctx) (s : State) : Out :=
  match r with
  | .stop st => s.stopStep st
  | .cause q va => trapStep q va s
  | .ask cells => .next ((s.spend 1).askCells cells)
  | .bytes bs qs => (s.touchAll s.cur false ps qs).done len 1 (fin bs)

/-- A load instruction, all its elements checked before any is read. -/
def loadStep (len : Nat) (ps : List Piece) (fin : List (List Byte) → Ctx → Ctx) (s : State) : Out := endLoad len ps (s.load ps) fin s

/-- The elements below the first one that stops, and its stop. -/
def State.reachEach (s : State) (ps : List Piece) : List (Place × Piece) × Option Stop :=
  match ps with
  | [] => ([], none)
  | p :: r => match s.access s.cur s.hot false [p] with
    | .error st => ([], some st)
    | .ok qs => ((qs.map fun q => (q, p)) ++ (s.reachEach r).1, (s.reachEach r).2)

/-- What elements give that are loaded one after the other in ascending index (06 R203): those below the first one that stops ask their cells
together, and come before its stop. -/
def State.loadEach (s : State) (ps : List Piece) : Loaded := s.loadFrom (s.reachEach ps).1 (s.reachEach ps).2

/-! Stores. -/

/-- The elements of a store written in ascending order. -/
def State.writeAll (s : State) (c : CoreId) (qs : List Place) (bss : List (List Byte)) : State :=
  (qs.zip bss).foldl (fun t e => t.writePlace c e.1 e.2) s

/-- A store instruction of length len, all or nothing (06 R203); `fin` sets the flags. -/
def storeStep (len : Nat) (ps : List Piece) (bss : List (List Byte)) (fin : Ctx → Ctx) (s : State) : Out :=
  match s.access s.cur s.hot true ps with
  | .error st => s.stopStep st
  | .ok qs => (s.writeAll s.cur qs bss).done len 1 fin

/-! Scopes (07 R211). -/

/-- Whether slot n of id.grp holds a group (09 R295). -/
def State.slotGroup (s : State) (c : CoreId) (n : Nat) : Option (Fin 256) :=
  let g := (s.coreAt c).ident.grp.toNat >>> (16 * n)
  if bitsOf g 15 15 = 1 then some ⟨bitsOf g 7 0 % 256, by omega⟩ else none

/-- The cause of a group scope with no group in slot 0; a scratchpad access has none (07 R211). -/
def State.scopeStop (s : State) (scope : BitVec 4) (p : Piece) : Option Stop :=
  match p.loc with
  | .sp _ => none
  | .mem _ => if scope = 2 ∧ (s.slotGroup s.cur 0).isNone then some (.trap 0x0C8 0) else none

end Sys2Proof.Machine
end

