-- ==== Sys2Proof/Machine/Memory.lean ====
section
/-!
DEFINITION. Loads and stores (06 R194 to R198), prefetch and the fetch fence (06 R199, R200), fences (07 R235), and vector loads and
stores (06 R201 to R210).
-/

namespace Sys2Proof.Machine

/-! Scalar accesses. -/

/-- The one element of a scalar access of z bytes at x[b] + off (06 R195). -/
def State.scalar (s : State) (b : BitVec 5) (off : Int) (z : Nat) : Except Stop Piece :=
  (eff s.core.ident.rel (s.ctx.rx b) off).map fun l => { loc := l, len := z, align := z }

/-- A loaded value of z bytes, sign- or zero-extended (06 R195). -/
def loadedWord (z : Nat) (signed : Bool) (bs : List (List Byte)) : Word :=
  let v := BitVec.ofNat 64 (ofBytes (bs.headD []))
  if signed then sext v (8 * z) else zext v (8 * z)

/-- A scalar load (06 R195). -/
def ldStep (len z : Nat) (signed : Bool) (d b : BitVec 5) (off : Int) (s : State) : Out :=
  match s.scalar b off z with
  | .error st => s.stopStep st
  | .ok p => loadStep len [p] (fun bs c => c.wx d (loadedWord z signed bs)) s

/-- A scalar store (06 R195). -/
def stStep (len z : Nat) (d b : BitVec 5) (off : Int) (s : State) : Out :=
  match s.scalar b off z with
  | .error st => s.stopStep st
  | .ok p => storeStep len [p] [toBytes z (s.ctx.rx d).toNat] id s

/-- LD_B (06 R195). -/
def execLdB (d b : BitVec 5) (i : BitVec 12) (s : State) : Out := ldStep 4 1 true d b i.toInt s
/-- LD_H (06 R195). -/
def execLdH (d b : BitVec 5) (i : BitVec 12) (s : State) : Out := ldStep 4 2 true d b i.toInt s
/-- LD_W (06 R195). -/
def execLdW (d b : BitVec 5) (i : BitVec 12) (s : State) : Out := ldStep 4 4 true d b i.toInt s
/-- LD_D (06 R195). -/
def execLdD (d b : BitVec 5) (i : BitVec 12) (s : State) : Out := ldStep 4 8 false d b i.toInt s
/-- LD_BU (06 R195). -/
def execLdBu (d b : BitVec 5) (i : BitVec 12) (s : State) : Out := ldStep 4 1 false d b i.toInt s
/-- LD_HU (06 R195). -/
def execLdHu (d b : BitVec 5) (i : BitVec 12) (s : State) : Out := ldStep 4 2 false d b i.toInt s
/-- LD_WU (06 R195). -/
def execLdWu (d b : BitVec 5) (i : BitVec 12) (s : State) : Out := ldStep 4 4 false d b i.toInt s
/-- ST_B (06 R195). -/
def execStB (d b : BitVec 5) (i : BitVec 12) (s : State) : Out := stStep 4 1 d b i.toInt s
/-- ST_H (06 R195). -/
def execStH (d b : BitVec 5) (i : BitVec 12) (s : State) : Out := stStep 4 2 d b i.toInt s
/-- ST_W (06 R195). -/
def execStW (d b : BitVec 5) (i : BitVec 12) (s : State) : Out := stStep 4 4 d b i.toInt s
/-- ST_D (06 R195). -/
def execStD (d b : BitVec 5) (i : BitVec 12) (s : State) : Out := stStep 4 8 d b i.toInt s
/-- LD_D_16: ld.d at 8 × off3 (02 R55). -/
def execLdD16 (d a : BitVec 4) (o : BitVec 3) (s : State) : Out := ldStep 2 8 false (reg16 d) (reg16 a) (8 * o.toNat) s
/-- ST_D_16: st.d at 8 × off3 (02 R55). -/
def execStD16 (d a : BitVec 4) (o : BitVec 3) (s : State) : Out := stStep 2 8 (reg16 d) (reg16 a) (8 * o.toNat) s

/-- Bytes of a load or store size code (06 R194). -/
def sizeBytes (z : BitVec 3) : Nat := 2 ^ (z.toNat % 4)

/-- An ordered access: its own causes, then that of its scope (07 R211, log 20), then the access. -/
def orderedStep (write : Bool) (scope : BitVec 4) (p : Except Stop Piece) (go : State → Out) (s : State) : Out :=
  match p with
  | .error st => s.stopStep st
  | .ok p =>
    match s.resolve s.cur write [p] with
    | .error st => s.stopStep st
    | .ok _ =>
      match s.scopeStop scope p with
      | some st => s.stopStep st
      | none => go s

/-- LD_ACQ (06 R198): size codes 0 to 2 are sign-extended. -/
def execLdAcq (d b : BitVec 5) (sc : BitVec 4) (z : BitVec 3) (s : State) : Out :=
  orderedStep false sc (s.scalar b 0 (sizeBytes z)) (ldStep 4 (sizeBytes z) (decide (z.toNat < 3)) d b 0) s

/-- The scope at which an access through a pointer acts: core scope in the scratchpad (07 R211). -/
def scopeOf (p : Word) (scope : BitVec 4) : BitVec 4 := if p.extractLsb' 60 4 = 15 then 0 else scope

/-- ST_REL (06 R198): a release at its scope, at core scope through a scratchpad pointer. -/
def execStRel (d b : BitVec 5) (sc : BitVec 4) (z : BitVec 3) (s : State) : Out :=
  orderedStep true sc (s.scalar b 0 (sizeBytes z))
    (releasing true (scopeOf (s.ctx.rx b) sc) (stStep 4 (sizeBytes z) d b 0)) s

/-- FENCE (07 R235): the earlier operations of the context are performed before it ends (log 12), and a release at .device or wider writes
private lines back (06 R179). -/
def execFence (sc : BitVec 4) (o : BitVec 3) (s : State) : Out :=
  if sc = 2 ∧ (s.slotGroup s.cur 0).isNone then trapStep 0x0C8 0 s
  else if s.homeBusy s.cur s.hot then .next (s.spend 1)
  else releasing (o != 0) sc (ctxStep 4 1 id) s

/-- A replica of a line in a slice (06 R182): one of the 16 ways of its set of 2,048; where replicas hold them all the one made first gives
way (01 R26, log 55). -/
def replicaPut (rs : List (Nat × Nat)) (l lid : Nat) : List (Nat × Nat) :=
  if rs.any fun e => e.1 == l then rs
  else
    let ways := rs.filter fun e => e.1 % 2048 == l % 2048
    let out := if ways.length < 16 then none else ways.head?.map (·.1)
    (rs.filter fun e => some e.1 != out) ++ [(l, lid)]

/-- The prefetch of a line by core c (06 R182, R199): a page that neither TLB holds is asked for, and a prefetch that would fault is
dropped; with the replicate hint a read-shared line that a slice of this package homes is copied to the cluster's slice (06 R176). -/
def State.prefetch (s : State) (c : CoreId) (p : Word) (rep : Bool) : State :=
  match eff (s.coreAt c).ident.rel p 0 with
  | .ok (.mem va) =>
    (match s.resolve c false [{ loc := .mem va, len := 1, align := 1 }] with
    | .error (.miss va _) => s.post (.atsResponse (.pref c p rep) (s.coreAt c).ident.pasid va false)
    | .ok [.phys pa v attr] =>
      let l := pa / 64
      let h := clusterOf c
      let t : State := match (s.coreAt c).ident.lid with
        | some lid => if attr = 1 ∧ rep ∧ !s.peerMem pa then
            { s with clusters := s.clusters.set h { s.clusters[h] with replicas := replicaPut s.clusters[h].replicas l lid } } else s
        | none => s
      if attr = 3 ∧ !t.lineValue l then t
      else if t.hostHolds l ∧ attr ≠ 1 then (if attr = 0 then t.snoopHost l else t.post (.gets c l))
      else t.touchPlace c false (.phys pa v attr) 1
    | _ => s)
  | _ => s

/-- PREF (06 R199): no register and no cause. -/
def execPref (b : BitVec 5) (r : BitVec 1) (s : State) : Out := (s.prefetch s.cur (s.ctx.rx b) (r == 1)).done 4 1 id

/-- IFENCE (06 R193): the core's instruction cache is discarded. -/
def execIfence (s : State) : Out := (s.modCore s.cur fun k => { k with icache := [] }).done 4 1 id

/-! Vector accesses. -/

/-- The active elements below n, ascending (06 R202). -/
def activeOf (k : Word) (n : Nat) : List Nat := (List.range n).filter fun i => k.getLsbD i

/-- Elements at byte offsets from a pointer, each with its own address (06 R204 to R206): a TK8E4 or TK8E5 pointer raises 0x046 as it stands
(03 R95); with no active element no address is formed and no other cause of the pointer applies (log 57). -/
def State.pieces (s : State) (p : Word) (nb : Nat) (act : List Nat) (off : Nat → Int) : Except Stop (List Piece) :=
  if p.extractLsb' 60 4 ∈ [11, 12] then .error (.trap 0x046 p)
  else allOk (act.map fun i => (eff s.core.ident.rel p (off i)).map fun l => { loc := l, len := nb, align := nb })

/-- A vector register made of loaded elements; the others read 0 (06 R202). -/
def gathered (w n : Nat) (act : List Nat) (bs : List (List Byte)) : Msg :=
  ofElems w ((List.range n).map fun i => match (act.zip bs).find? (fun e => e.1 == i) with
    | some e => ofBytes e.2
    | none => 0)

/-- A vector load of the elements `act` at the offsets `off` from p. -/
def vldStep (w : Nat) (d : BitVec 5) (p : Word) (act : List Nat) (off : Nat → Int) (s : State) : Out :=
  match s.pieces p (w / 8) act off with
  | .error st => s.stopStep st
  | .ok ps => loadStep 4 ps (fun bs c => c.wv d (gathered w (512 / w) act bs)) s

/-- The bytes of the elements of a vector register. -/
def elemBytes (w : Nat) (v : Msg) (act : List Nat) : List (List Byte) := act.map fun i => toBytes (w / 8) (elem v w i)

/-- A vector store, all or nothing. -/
def vstStep (w : Nat) (v : Msg) (p : Word) (act : List Nat) (off : Nat → Int) (s : State) : Out :=
  match s.pieces p (w / 8) act off with
  | .error st => s.stopStep st
  | .ok ps => storeStep 4 ps (elemBytes w v act) id s

/-- The page of a memory element: the TLB's or the host's, else 4 KiB (06 R203). -/
def State.pageOf (s : State) (c : CoreId) (p : Piece) : Option (Nat × Nat) :=
  match p.loc with
  | .sp _ => none
  | .mem va =>
    let pasid := (s.coreAt c).ident.pasid
    match findGrant ((s.coreAt c).tlb1 ++ (s.clusters[clusterOf c]).tlb2.map (·.grant) ++ s.hostPages) pasid va false with
    | some g => some (g.va, g.log)
    | none => some (low57 va / 4096 * 4096, 12)

/-- Whether all elements lie in the scratchpad or in one page (06 R203). -/
def State.onePage (s : State) (c : CoreId) (ps : List Piece) : Bool :=
  match ps.map (s.pageOf c) with
  | [] => true
  | g :: r => r.all fun h => h == g

/-- Elements stored one after the other in ascending index: those below the first one that stops have been stored (06 R203). -/
def storeEach (ps : List (Piece × List Byte)) (s : State) : Out :=
  match ps with
  | [] => s.done 4 1 id
  | e :: r =>
    match s.access s.cur s.hot true [e.1] with
    | .error st => s.stopStep st
    | .ok qs => storeEach r (s.writeAll s.cur qs [e.2])

/-- A strided or gathered load (06 R203, R205, R206). -/
def vldEach (w : Nat) (d : BitVec 5) (p : Word) (act : List Nat) (off : Nat → Int) (s : State) : Out :=
  match s.pieces p (w / 8) act off with
  | .error st => s.stopStep st
  | .ok ps =>
    if s.onePage s.cur ps then vldStep w d p act off s
    else if s.scoreboard s.cur false ps then s.stopStep (.busy [])
    else endLoad 4 ps (s.loadEach ps) (fun bs c => c.wv d (gathered w (512 / w) act bs)) s

/-- A strided or scattered store (06 R203, R205, R206). -/
def vstEach (w : Nat) (v : Msg) (p : Word) (act : List Nat) (off : Nat → Int) (s : State) : Out :=
  match s.pieces p (w / 8) act off with
  | .error st => s.stopStep st
  | .ok ps =>
    if s.onePage s.cur ps then vstStep w v p act off s
    else if s.scoreboard s.cur true ps then s.stopStep (.busy [])
    else storeEach (ps.zip (elemBytes w v act)) s

/-- VLD (06 R204). -/
def execVld (v a : BitVec 5) (k : BitVec 3) (w : BitVec 2) (s : State) : Out :=
  vldStep (widthOf w) v (s.ctx.rx a) (activeOf (s.ctx.rk k) (lanesOf w)) (fun i => i * (2 ^ w.toNat : Nat)) s
/-- VST (06 R204). -/
def execVst (v a : BitVec 5) (k : BitVec 3) (w : BitVec 2) (s : State) : Out :=
  vstStep (widthOf w) (s.ctx.rv v) (s.ctx.rx a) (activeOf (s.ctx.rk k) (lanesOf w)) (fun i => i * (2 ^ w.toNat : Nat)) s
/-- VLDS (06 R205). -/
def execVlds (v a b : BitVec 5) (k : BitVec 3) (w : BitVec 2) (s : State) : Out :=
  vldEach (widthOf w) v (s.ctx.rx a) (activeOf (s.ctx.rk k) (lanesOf w)) (fun i => i * (s.ctx.rx b).toInt) s
/-- VSTS (06 R205). -/
def execVsts (v a b : BitVec 5) (k : BitVec 3) (w : BitVec 2) (s : State) : Out :=
  vstEach (widthOf w) (s.ctx.rv v) (s.ctx.rx a) (activeOf (s.ctx.rk k) (lanesOf w)) (fun i => i * (s.ctx.rx b).toInt) s
/-- VLDG (06 R206): 16 elements, the rest of the register 0. -/
def execVldg (v a b : BitVec 5) (k : BitVec 3) (w : BitVec 2) (s : State) : Out :=
  vldEach (widthOf w) v (s.ctx.rx a) (activeOf (s.ctx.rk k) 16) (fun i => toSigned 32 (elem (s.ctx.rv b) 32 i)) s
/-- VSTG (06 R206). -/
def execVstg (v a b : BitVec 5) (k : BitVec 3) (w : BitVec 2) (s : State) : Out :=
  vstEach (widthOf w) (s.ctx.rv v) (s.ctx.rx a) (activeOf (s.ctx.rk k) 16) (fun i => toSigned 32 (elem (s.ctx.rv b) 32 i)) s

/-- Bytes of a scratchpad row (06 R170). -/
def rowBytes : Nat := 1536

/-- The active elements of VLDT and VSTT that are not clipped, at offset o (06 R207). -/
def tileActive (k : Word) (w : BitVec 2) (col : Bool) (o : Nat) : List Nat :=
  (activeOf k (lanesOf w)).filter fun i =>
    if col then decide (o + i * rowBytes < spSize) else decide ((o + i * 2 ^ w.toNat) / rowBytes = o / rowBytes)

/-- The offset of VLDT and VSTT (06 R207): any pointer but a scratchpad pointer raises 0x047, one of format TK8E4 or TK8E5 too, and the pointer
is evaluated with no active element as well (log 76). -/
def State.tileBase (s : State) (p : Word) : Except Stop Nat :=
  if p.extractLsb' 60 4 ≠ 15 then .error (.trap 0x047 p)
  else match eff s.core.ident.rel p 0 with
    | .ok (.sp o) => .ok o
    | .ok (.mem _) => .error (.trap 0x047 p)
    | .error e => .error e

/-- The offset of element i. -/
def tileOff (w : BitVec 2) (col : Bool) (i : Nat) : Int := if col then i * rowBytes else i * (2 ^ w.toNat : Nat)

/-- VLDT (06 R207): clipped elements read 0. -/
def execVldt (v a : BitVec 5) (k : BitVec 3) (w : BitVec 2) (c : BitVec 1) (s : State) : Out :=
  match s.tileBase (s.ctx.rx a) with
  | .error st => s.stopStep st
  | .ok o => vldStep (widthOf w) v (s.ctx.rx a) (tileActive (s.ctx.rk k) w (c == 1) o) (tileOff w (c == 1)) s

/-- VSTT (06 R207): clipped elements store nothing. -/
def execVstt (v a : BitVec 5) (k : BitVec 3) (w : BitVec 2) (c : BitVec 1) (s : State) : Out :=
  match s.tileBase (s.ctx.rx a) with
  | .error st => s.stopStep st
  | .ok o => vstStep (widthOf w) (s.ctx.rv v) (s.ctx.rx a) (tileActive (s.ctx.rk k) w (c == 1) o) (tileOff w (c == 1)) s

/-! Formatted accesses (06 R208, R209). -/

/-- The effective format, none where 0x046 is raised (03 R99): a format field of 0xF is one that the access does not allow, too (log 56). -/
def effFormat (f : BitVec 4) (p : Word) : Option (BitVec 4) :=
  let e := if f ≠ 0 then f else p.extractLsb' 60 4
  if e ∈ [0, 11, 12, 14, 15] then none else some e

/-- The group of 16 elements of format e at x[a] (06 R208): its active lanes and their elements; INT4 lanes share bytes.
A pointer that fails eff raises its 0x047 before the 0x046 of its format (log 76). -/
def State.group (s : State) (f : BitVec 4) (p k : Word) : Except Stop (BitVec 4 × List Nat × List Piece) := do
  let l ← eff s.core.ident.rel p 0
  match effFormat f p with
  | none => .error (.trap 0x046 p)
  | some e =>
    let z := formatBits e
    if l.num % (2 * z) ≠ 0 then .error (.trap 0x042 l.addr)
    else
      let act := activeOf k 16
      let nb := if z < 8 then 1 else z / 8
      let ps ← s.pieces p nb act (fun i => (i * z / 8 : Nat))
      return (e, act, ps)

/-- The scale byte's element, none when field b is x0 or no element is active (06 R208). -/
def State.scalePiece (s : State) (b : BitVec 5) (act : List Nat) : Except Stop (Option Piece) :=
  if b = 0 ∨ act.isEmpty then .ok none
  else (eff s.core.ident.rel (s.ctx.rx b) 0).map fun l => some { loc := l, len := 1, align := 1 }

/-- The number in an element's bytes; INT4 takes its nibble (03 R76). -/
def elemOf (e : BitVec 4) (i : Nat) (bs : List Byte) : Nat := if e = 3 then (ofBytes bs >>> (4 * (i % 2))) % 16 else ofBytes bs

/-- A lane of VLDF (06 R208). -/
def laneIn (c : Ctx) (e : BitVec 4) (scale : Option Nat) (x : Nat) : Nat × Flags :=
  match scale with
  | none =>
    if e ∈ [1, 3, 9, 10] then (ofSigned 32 (toSigned (formatBits e) x), 0)
    else if e = 2 ∨ e = 8 then (x, 0)
    else c.convert e 8 x
  | some n =>
    let v := codeValue e c.xt x
    if n = 255 ∨ v.isNan then (fp32.nan, sigFlag [v]) else fp32.ofVal c.rm (v.scale ((n : Int) - 127))

/-- An element of VSTF (06 R209). -/
def laneOut (c : Ctx) (e : BitVec 4) (scale : Option Nat) (lane : Nat) : Nat × Flags :=
  match scale with
  | none => if e ∈ [1, 2, 3, 9, 10] then c.convert 10 e lane else c.convert 8 e lane
  | some n =>
    if n = 255 then ((c.convert 8 e fp32.nan).1, (c.convert 8 e fp32.nan).2 ||| sigFlag [fp32.value lane])
    else convertVal c.rm c.satd c.xt false ((fp32.value lane).scale (127 - (n : Int))) e

/-- What the scale byte gives VLDF and VSTF: a continuation with its value. -/
def withScale (sp : Option Piece) (go : Option Nat → State → Out) (s : State) : Out :=
  match sp with
  | none => go none s
  | some p =>
    match s.load [p] with
    | .stop st => s.stopStep st
    | .cause q va => trapStep q va s
    | .ask cells => .next ((s.spend 1).askCells cells)
    | .bytes bs qs => go (some (ofBytes (bs.headD []))) (s.touchAll s.cur false [p] qs)

/-- v[vd] of VLDF and its flags. -/
def vldfResult (c : Ctx) (e : BitVec 4) (scale : Option Nat) (act : List Nat) (bs : List (List Byte)) : List (Nat × (Nat × Flags)) :=
  (act.zip bs).map fun q => (q.1, laneIn c e scale (elemOf e q.1 q.2))

/-- VLDF (06 R208): the group's causes first, then the scale byte's. -/
def execVldf (v a b : BitVec 5) (k : BitVec 3) (f : BitVec 4) (s : State) : Out :=
  match s.group f (s.ctx.rx a) (s.ctx.rk k) with
  | .error st => s.stopStep st
  | .ok (e, act, ps) =>
    match s.load ps with
    | .stop st => s.stopStep st
    | .cause q va => trapStep q va s
    | .ask cells => .next ((s.spend 1).askCells cells)
    | .bytes bs qs =>
      match s.scalePiece b act with
      | .error st => s.stopStep st
      | .ok sp =>
        withScale sp (fun scale t => (t.touchAll t.cur false ps qs).done 4 1 fun c =>
          let rs := vldfResult c e scale act bs
          (c.wv v (ofElems 32 ((List.range 16).map fun i => match rs.find? (fun r => r.1 == i) with
            | some r => r.2.1
            | none => 0))).addFlags (allFlags (rs.map (·.2)))) s

/-- The bytes VSTF stores for an element: an INT4 element replaces its nibble of the byte (06 R209). -/
def State.vstfBytes (s : State) (e : BitVec 4) (i : Nat) (p : Place) (x : Nat) : List Byte :=
  if e = 3 then
    let old := ofBytes (s.readPlace s.cur p 1)
    let sh := 4 * (i % 2)
    toBytes 1 (old - ((old >>> sh) % 16) * 2 ^ sh + x % 16 * 2 ^ sh)
  else toBytes (formatBits e / 8) x

/-- The active elements of VSTF stored in ascending order. -/
def State.writeGroup (s : State) (e : BitVec 4) (rs : List (Nat × Place × Nat)) : State :=
  rs.foldl (fun t r => t.writePlace t.cur r.2.1 (t.vstfBytes e r.1 r.2.1 r.2.2)) s

/-- VSTF (06 R209). -/
def execVstf (v a b : BitVec 5) (k : BitVec 3) (f : BitVec 4) (s : State) : Out :=
  match s.group f (s.ctx.rx a) (s.ctx.rk k) with
  | .error st => s.stopStep st
  | .ok (e, act, ps) =>
    match s.access s.cur s.hot true ps with
    | .error st => s.stopStep st
    | .ok qs =>
      match s.scalePiece b act with
      | .error st => s.stopStep st
      | .ok sp =>
        withScale sp (fun scale t =>
          let rs := act.map fun i => laneOut t.ctx e scale (elem (t.ctx.rv v) 32 i)
          (t.writeGroup e (act.zip (qs.zip (rs.map (·.1))))).done 4 1 fun c => c.addFlags (allFlags rs)) s

end Sys2Proof.Machine
end

