-- ==== Sys2Proof/Machine/Sync.lean ====
section
/-!
DEFINITION. Atomics (07 R229 to R232) and reductions (07 R233, R234) at their issuers, WAITA with its arming, wake, expiry and
polling (07 R236 to R241), group barriers (07 R242 to R244) and VREDG (07 R245).
-/

namespace Sys2Proof.Machine

/-! Atomics. -/

/-- Bytes of an atomic (07 R230). -/
def amoSize (fn : BitVec 4) : Nat := if fn = 0 ∨ fn = 9 ∨ fn = 11 ∨ fn = 14 then 4 else if fn = 13 then 16 else 8

/-- The value an atomic writes, none when its comparison fails (07 R230). -/
def amoNew (fn : BitVec 4) (old : Nat) (b b1 cmp cmp1 : Word) : Option Nat :=
  match fn.toNat with
  | 0 => some ((old + b.toNat) % 2 ^ 32)
  | 9 => some (b.toNat % 2 ^ 32)
  | 10 => some b.toNat
  | 11 => if old = cmp.toNat % 2 ^ 32 then some (b.toNat % 2 ^ 32) else none
  | 12 => if old = cmp.toNat then some b.toNat else none
  | 13 => if old = cmp1.toNat * 2 ^ 64 + cmp.toNat then some (b1.toNat * 2 ^ 64 + b.toNat) else none
  | 14 => some (addF32ne old (b.toNat % 2 ^ 32))
  | _ => some (redFn (fn - 1) 1 old b.toNat)

/-- What an atomic answers for register d (07 R230). -/
def amoAns (fn : BitVec 4) (d : BitVec 5) (old : Nat) : HomeAns :=
  if fn = 13 then .pair d (BitVec.ofNat 64 old) (BitVec.ofNat 64 (old / 2 ^ 64))
  else if fn = 0 ∨ fn = 9 ∨ fn = 11 then .value d (sext (BitVec.ofNat 64 old) 32)
  else .value d (BitVec.ofNat 64 old)

/-- The registers that take an answer. -/
def Ctx.takeAns (k : Ctx) (a : HomeAns) : Ctx :=
  match a with
  | .value d v => k.wx d v
  | .pair d lo hi => (k.wx d lo).wx (d + 1) hi
  | .status d v cell unfurl =>
    let k1 := k.wx d v
    if unfurl ∧ k1.evCell.getLsbD 0 ∧ bitsOf k1.evCell.toNat 56 3 = bitsOf cell.toNat 56 3 then
      { k1 with evCell := 0, evChain0 := 0, evChain1 := 0, evChain2 := 0 }
    else k1
  | .cause _ _ => k

/-- An atomic's write at a place that the issuing core serves: its scratchpad, or its core-owned memory in its own L1 (07 R231). -/
def State.localWrite (s : State) (p : Place) (bs : List Byte) : State := s.writePlace s.cur p bs

/-- The home operation of the issuing context. -/
def State.homeOp (s : State) (d : BitVec 5) (va : Word) (pa : Nat) (kind : HomeKind) : HomeOp :=
  { dev := s.dev, core := s.cur, ctx := s.hot, d := d, va := va, pa := pa, attr := (s.region s.core.ident.pasid va).attr, chain := s.ctx.chainFlag va, chain1 := s.ctx.chainFlag (va + 8), anc := s.ctx.ancestors, issued := s.cyc, kind := kind }

/-- An operation leaves its context, which holds its slot until the answer (07 R232). -/
def askHome (d : BitVec 5) (va : Word) (pa : Nat) (kind : HomeKind) (s : State) : Out :=
  .next ((((s.spend 1).onCtx Ctx.commit).stall s.cur s.hot).post (.homeOperation (s.homeOp d va pa kind)))

/-- An operation without an answer leaves its context, which goes on (07 R232). -/
def postHome (va : Word) (pa : Nat) (kind : HomeKind) (s : State) : Out :=
  (s.post (.homeOperation (s.homeOp 0 va pa kind))).done 4 1 Ctx.commit

/-- An access that its checks let go ahead, with the cause of its scope after those of 06 R196 (07 R211, log 20). -/
def withPlace (scope : BitVec 4) (write board : Bool) (p : Except Stop Piece) (go : Place → State → Out) (s : State) : Out :=
  match p with
  | .error st => s.stopStep st
  | .ok p =>
    match s.resolve s.cur write [p] with
    | .error st => s.stopStep st
    | .ok _ =>
      match s.scopeStop scope p with
      | some st => s.stopStep st
      | none =>
        match s.reach s.cur s.hot write board [p] with
        | .ok (q :: _) => go q s
        | .ok [] => .next s
        | .error st => s.stopStep st

/-- An atomic (07 R230 to R232): performed by the issuing core in its scratchpad and in core-owned memory, at the home elsewhere. -/
def amoStep (fn : BitVec 4) (d a b : BitVec 5) (scope : BitVec 4) (rel : Bool) (s : State) : Out :=
  let c := s.ctx
  let z := amoSize fn
  withPlace scope true true (s.scalar a 0 z) (fun q s =>
    let here := fun (s : State) =>
      let old := ofBytes (s.readPlace s.cur q z)
      let s1 := match amoNew fn old (c.rx b) (c.rx (b + 1)) (c.rx d) (c.rx (d + 1)) with
        | some v => s.localWrite q (toBytes z v)
        | none => s
      s1.done 4 1 fun k => (k.takeAns (amoAns fn d old)).commit
    match q with
    | .sp _ => releasing rel 0 here s
    | .phys pa va attr =>
      releasing rel scope (if attr = 0 then here else askHome d va pa (.amo fn (c.rx b) (c.rx (b + 1)) (c.rx d) (c.rx (d + 1)))) s) s

/-- AMOADD_W (07 R230). -/
def execAmoaddW (d a b : BitVec 5) (sc : BitVec 4) (o : BitVec 2) (s : State) : Out := amoStep 0 d a b sc (o.getLsbD 1) s
/-- AMOADD_D (07 R230). -/
def execAmoaddD (d a b : BitVec 5) (sc : BitVec 4) (o : BitVec 2) (s : State) : Out := amoStep 1 d a b sc (o.getLsbD 1) s
/-- AMOAND_D (07 R230). -/
def execAmoandD (d a b : BitVec 5) (sc : BitVec 4) (o : BitVec 2) (s : State) : Out := amoStep 2 d a b sc (o.getLsbD 1) s
/-- AMOOR_D (07 R230). -/
def execAmoorD (d a b : BitVec 5) (sc : BitVec 4) (o : BitVec 2) (s : State) : Out := amoStep 3 d a b sc (o.getLsbD 1) s
/-- AMOXOR_D (07 R230). -/
def execAmoxorD (d a b : BitVec 5) (sc : BitVec 4) (o : BitVec 2) (s : State) : Out := amoStep 4 d a b sc (o.getLsbD 1) s
/-- AMOMIN_D (07 R230). -/
def execAmominD (d a b : BitVec 5) (sc : BitVec 4) (o : BitVec 2) (s : State) : Out := amoStep 5 d a b sc (o.getLsbD 1) s
/-- AMOMAX_D (07 R230). -/
def execAmomaxD (d a b : BitVec 5) (sc : BitVec 4) (o : BitVec 2) (s : State) : Out := amoStep 6 d a b sc (o.getLsbD 1) s
/-- AMOMINU_D (07 R230). -/
def execAmominuD (d a b : BitVec 5) (sc : BitVec 4) (o : BitVec 2) (s : State) : Out := amoStep 7 d a b sc (o.getLsbD 1) s
/-- AMOMAXU_D (07 R230). -/
def execAmomaxuD (d a b : BitVec 5) (sc : BitVec 4) (o : BitVec 2) (s : State) : Out := amoStep 8 d a b sc (o.getLsbD 1) s
/-- AMOSWAP_W (07 R230). -/
def execAmoswapW (d a b : BitVec 5) (sc : BitVec 4) (o : BitVec 2) (s : State) : Out := amoStep 9 d a b sc (o.getLsbD 1) s
/-- AMOSWAP_D (07 R230). -/
def execAmoswapD (d a b : BitVec 5) (sc : BitVec 4) (o : BitVec 2) (s : State) : Out := amoStep 10 d a b sc (o.getLsbD 1) s
/-- AMOCAS_W (07 R230). -/
def execAmocasW (d a b : BitVec 5) (sc : BitVec 4) (o : BitVec 2) (s : State) : Out := amoStep 11 d a b sc (o.getLsbD 1) s
/-- AMOCAS_D (07 R230). -/
def execAmocasD (d a b : BitVec 5) (sc : BitVec 4) (o : BitVec 2) (s : State) : Out := amoStep 12 d a b sc (o.getLsbD 1) s
/-- AMOCAS2_Q (07 R230). -/
def execAmocas2Q (d a b : BitVec 5) (sc : BitVec 4) (o : BitVec 2) (s : State) : Out := amoStep 13 d a b sc (o.getLsbD 1) s
/-- FAMOADD_F32 (07 R230). -/
def execFamoaddF32 (d a b : BitVec 5) (sc : BitVec 4) (o : BitVec 2) (s : State) : Out := amoStep 14 d a b sc (o.getLsbD 1) s

/-! Reductions. -/

/-- A reduction combined into core c's partial of a line, byte offset off in it (07 R224, 15 R452). -/
def State.intoPartial (s : State) (l off : Nat) (c : CoreId) (fn : BitVec 4) (w : BitVec 5) (operand : Nat) : State :=
  let z := 8 * redSize w
  let i := off / redSize w
  let put := fun (m : Msg) => ofElems z ((List.range (64 / redSize w)).map fun j =>
    if j = i then (if elem m z j = redIdentity fn w then operand else redFn fn w (elem m z j) operand) else elem m z j)
  let e := s.line l
  s.setLine l { e with u := e.u.map fun h => if h.core = c then { h with part := put h.part } else h }

/-- A reduction to a coherent line of the package's device memory (07 R224, R231): in place in M or E, else in U. -/
def State.reduceLine (s : State) (pa : Nat) (fn : BitVec 4) (w : BitVec 5) (operand : Nat) : State :=
  let l := pa / 64
  let z := redSize w
  let inPlace := fun (s : State) => s.store pa (toBytes z (redFn fn w (s.mem.num pa z) operand))
  match s.l1State s.cur l with
  | .m => inPlace (s.useL1 s.cur l)
  | .e => inPlace ((s.setLine l { s.line l with owner := some (s.cur, .m) }).useL1 s.cur l)
  | _ => (s.getU l s.cur fn w).intoPartial l (pa % 64) s.cur fn w operand

/-- A reduction (07 R231 to R234): in the scratchpad and in core-owned memory at the core, on coherent lines in the core's L1 unless
the home performs it (07 R225, R228), in host and peer memory at the home. -/
def redStep (fn : BitVec 4) (w a b : BitVec 5) (scope : BitVec 4) (rel : Bool) (s : State) : Out :=
  let z := redSize w
  let v := (s.ctx.rx b).toNat % 2 ^ (8 * z)
  withPlace scope true true (s.scalar a 0 z) (fun q s =>
    let here := fun (s : State) => (s.localWrite q (toBytes z (redFn fn w (ofBytes (s.readPlace s.cur q z)) v))).done 4 1 Ctx.commit
    match q with
    | .sp _ => releasing rel 0 here s
    | .phys pa va attr =>
      releasing rel scope (fun s =>
        if attr = 0 then here s
        else if !s.ownMem pa || !s.lineValue (pa / 64) || s.armed (pa / 64) then postHome va pa (.red fn w (BitVec.ofNat 64 v)) s
        else (s.reduceLine pa fn w v).done 4 1 Ctx.commit) s) s

/-- REDADD (07 R234). -/
def execRedadd (w a b : BitVec 5) (sc : BitVec 4) (o : BitVec 2) (s : State) : Out := redStep 0 w a b sc (o.getLsbD 1) s
/-- REDAND (07 R234). -/
def execRedand (w a b : BitVec 5) (sc : BitVec 4) (o : BitVec 2) (s : State) : Out := redStep 1 w a b sc (o.getLsbD 1) s
/-- REDOR (07 R234). -/
def execRedor (w a b : BitVec 5) (sc : BitVec 4) (o : BitVec 2) (s : State) : Out := redStep 2 w a b sc (o.getLsbD 1) s
/-- REDXOR (07 R234). -/
def execRedxor (w a b : BitVec 5) (sc : BitVec 4) (o : BitVec 2) (s : State) : Out := redStep 3 w a b sc (o.getLsbD 1) s
/-- REDMIN (07 R234). -/
def execRedmin (w a b : BitVec 5) (sc : BitVec 4) (o : BitVec 2) (s : State) : Out := redStep 4 w a b sc (o.getLsbD 1) s
/-- REDMAX (07 R234). -/
def execRedmax (w a b : BitVec 5) (sc : BitVec 4) (o : BitVec 2) (s : State) : Out := redStep 5 w a b sc (o.getLsbD 1) s
/-- REDMINU (07 R234). -/
def execRedminu (w a b : BitVec 5) (sc : BitVec 4) (o : BitVec 2) (s : State) : Out := redStep 6 w a b sc (o.getLsbD 1) s
/-- REDMAXU (07 R234). -/
def execRedmaxu (w a b : BitVec 5) (sc : BitVec 4) (o : BitVec 2) (s : State) : Out := redStep 7 w a b sc (o.getLsbD 1) s

/-! WAITA. -/

/-- A suspended context's instruction of length 4 ends with its registers changed by f, and the context is ready. -/
def State.finishWait (s : State) (c : CoreId) (x : CtxId) (f : Ctx → Ctx) : State :=
  (s.modCtx c x fun k => (f k).retire 4 (k.seq 4)).makeReady c x

/-- The status word of WAITA (07 R237). -/
def WaitaOp.status (w : WaitaOp) (expired : Bool) : Word := (if expired then 1 else 0) + (if w.polled then 2 else 0)

/-- The context of a WAITA wakes (07 R238). -/
def State.wakeWaita (s : State) (c : CoreId) (x : CtxId) (expired : Bool) : State :=
  match (s.ctxAt c x).status with
  | .suspended (.waita w) => (s.disarm s.dev c x).finishWait c x fun k => k.wx w.d (w.status expired)
  | _ => s

/-- The place of a wait in the order of wakes: (DEV, CORE, CTX) (07 R240). -/
def waitKey (e : CoreId × CtxId × WaitaOp) : Nat := 8192 * e.2.2.dev.toNat + 4 * e.1.val + e.2.1.val

/-- A wait put into the list of armed waits, in ascending device, core and context. -/
def insertWait (ws : List (CoreId × CtxId × WaitaOp)) (e : CoreId × CtxId × WaitaOp) : List (CoreId × CtxId × WaitaOp) :=
  match ws with
  | [] => [e]
  | f :: r => if waitKey e < waitKey f then e :: f :: r else f :: insertWait r e

/-- A wait armed without a cleat entry: the core's own evaluation (07 R239). -/
def State.armLocal (s : State) (c : CoreId) (x : CtxId) (w : WaitaOp) : State :=
  if s.waitHolds c w then s.post (.waitaWake c x) else { s with waits := insertWait s.waits (c, x, w) }

/-- A line that an entry is being armed on: partials are combined and every device copy is invalidated (15 R453), so that every write to it
comes to the home (07 R225). -/
def State.armLine (s : State) (l : Nat) : State :=
  let t := (s.recall l).dropFrom l fun _ => true
  t.setLine l { t.line l with owner := none, sharers := 0, peer := false }

/-- A wait armed at its home (07 R238 to R241): evaluated, then held in the cleat table of the home's cluster, which for a word of the peer's
memory is the peer's (07 R239), or polled by its interface when the table's 64 entries are busy; a read-shared word is evaluated once. -/
def State.armHome (s : State) (c : CoreId) (x : CtxId) (w : WaitaOp) (pa : Nat) (attr : BitVec 2) : State :=
  let s1 := if attr = 1 then s else s.armLine (pa / 64)
  if s1.waitHolds c w then s1.answerTo w.dev (.waitaWake c x)
  else if attr = 1 then s1
  else if (s1.cleatAt pa).length < 64 then
    { s1.modCleat pa (· ++ [.waita w.dev c x pa]) with waits := insertWait s1.waits (c, x, w) }
  else if w.dev ≠ s1.dev then s1.toPeer (.waitaPoll c x)
  else (s1.modCtx c x fun k => { k with status := .suspended (.waita { w with polled := true }) }).post (.waitaPoll c x)

/-- WAITA (07 R236 to R239): checked as a load, the context suspends and the wait is armed. -/
def execWaita (d a b : BitVec 5) (sc : BitVec 4) (w : BitVec 2) (s : State) : Out :=
  let c := s.ctx
  let z := if w = 1 then 8 else 4
  withPlace sc false false (s.scalar a 0 z) (fun q s =>
    let op := fun (va : Word) (t : WaitTarget) (attr : BitVec 2) =>
      ({ dev := s.dev, d := d, va := va, target := t, attr := attr, cmp := (c.rx d).extractLsb' 0 3, dword := w == 1, value := c.rx b
         mask := c.rx (b + 1), scope := sc, limit := (c.rx d).extractLsb' 8 5, issued := s.cyc, polled := false, met := none } : WaitaOp)
    let s1 := s.spend 1
    match q with
    | .sp o => .next ((s1.suspend s.cur s.hot (.waita (op 0 (.scratch o) 0))).armLocal s.cur s.hot (op 0 (.scratch o) 0))
    | .phys pa va attr =>
      let o := op va (.phys pa) attr
      if attr = 0 then .next ((s1.suspend s.cur s.hot (.waita o)).armLocal s.cur s.hot o)
      else .next ((s1.suspend s.cur s.hot (.waita o)).post (.waitaArm s.cur s.hot))) s

/-- A wait's word at its home, once the host holds no exclusive copy of its line (07 R225): until then the event is tried again. -/
def atWord (w : WaitaOp) (again : Instr) (go : Nat → State → State) (s : State) : Out :=
  match w.target with
  | .phys pa => if s.hostHolds (pa / 64) then .next ((s.snoopHost (pa / 64)).park again) else .next (go pa s)
  | .scratch _ => .next s

/-- WAITA_ARM (07 R238): the home arms the wait of a suspended context. -/
def execWaitaArm (c : CoreId) (x : CtxId) (s : State) : Out :=
  match (s.ctxAt c x).status with
  | .suspended (.waita w) =>
    atWord w (.waitaArm c x) (fun pa s => s.armHome c x w pa w.attr) s
  | _ => .next s

/-- WAITA_WAKE (07 R238): status 0, or POLLED alone. -/
def execWaitaWake (c : CoreId) (x : CtxId) (s : State) : Out := .next (s.wakeWaita c x false)

/-- Whether a wake of a context is on its way. -/
def State.wakePending (s : State) (c : CoreId) (x : CtxId) : Bool :=
  s.pending.any fun i => match i with
    | .waitaWake c' x' => decide (c' = c ∧ x' = x)
    | _ => false

/-- Whether a wait is on a read-shared word, which is evaluated only at its arming (07 R239). -/
def WaitaOp.readOnce (w : WaitaOp) : Bool := w.attr == 1

/-- WAITA_EXPIRY (07 R238): after 2^LIMIT cycles from issue the waiter wakes with status 1; a condition that holds in the cycle of
expiry, and a wake on its way, count as satisfied. -/
def execWaitaExpiry (c : CoreId) (x : CtxId) (s : State) : Out :=
  match (s.ctxAt c x).status with
  | .suspended (.waita w) =>
    if s.cyc < w.deadline then .next s
    else if s.wakePending c x then .next s
    else .next (s.wakeWaita c x (!(s.waitHolds c w && decide (s.cyc ≤ w.deadline)) || w.readOnce))
  | _ => .next s

/-- WAITA_POLL (07 R241): the word is read; the next read is 1,024 cycles later. -/
def execWaitaPoll (c : CoreId) (x : CtxId) (s : State) : Out :=
  match (s.ctxAt c x).status with
  | .suspended (.waita w) =>
    if w.polled then atWord w (.waitaPoll c x) (fun pa s =>
      if (s.recall (pa / 64)).waitHolds c w then (s.recall (pa / 64)).wakeWaita c x false else s.recall (pa / 64)) s
    else .next s
  | _ => .next s

/-! Group barriers. -/

/-- A group-table entry. -/
def State.group? (s : State) (g : Fin 256) : Option Group := s.groups[g]

def State.modGroup (s : State) (g : Fin 256) (f : Group → Group) : State := { s with groups := s.groups.set g (s.groups[g].map f) }

/-- The rank of a launch-relative core (07 R244). -/
def Group.rank (k : Group) (rel : BitVec 10) : Nat := k.members.findIdx (· == rel)

/-- Rounds of dissemination (07 R244). -/
def Group.rounds (k : Group) : Nat := ceilLog2 k.members.length

/-- The core of a rank. -/
def State.memberCore (s : State) (k : Group) (rank : Nat) : Option CoreId :=
  (k.members[rank]?).bind fun rel => (s.launch? k.lid).bind fun l => l.core? rel.toNat

/-- Rounds 0 upward that member `rank` has heard in a phase, from round r on. -/
def Group.heardFrom (k : Group) (phase : BitVec 16) (rank fuel r : Nat) : Nat :=
  match fuel with
  | 0 => r
  | f + 1 => if k.heard.contains (phase, r, rank) then k.heardFrom phase rank f (r + 1) else r

/-- Rounds that a member has finished when it has arrived (07 R244). -/
def Group.finished (k : Group) (phase : BitVec 16) (rank : Nat) : Nat := k.heardFrom phase rank k.rounds 0

/-- The notifications of rounds lo to hi of a member, and its completion after the last round (07 R244). -/
def State.disseminate (s : State) (g : Fin 256) (k : Group) (phase : BitVec 16) (rank lo hi : Nat) : State :=
  let m := k.members.length
  let notes := ((List.range (hi + 1 - lo)).map fun i => lo + i).filter (· < k.rounds)
  let s1 := s.postAll (notes.map fun r => .barrierNotification g phase r ((rank + 2 ^ r) % m))
  if k.rounds ≤ hi then
    match s.memberCore k rank with
    | some c => s1.post (.barrierCompletion g phase c)
    | none => s1
  else s1

/-- Completion of a phase at every member (07 R244). -/
def State.completeAll (s : State) (g : Fin 256) (k : Group) (phase : BitVec 16) : State :=
  s.postAll ((List.range k.members.length).filterMap fun r => (s.memberCore k r).map fun c => .barrierCompletion g phase c)

/-- The slot of a core that names a group. -/
def State.slotOf (s : State) (c : CoreId) (g : Fin 256) : Option (Fin 4) :=
  (List.finRange 4).find? fun n => s.slotGroup c n.val == some g

/-- The arrival of the issuing core at the current phase of a slot (07 R242, R244). -/
def State.arrive (s : State) (n : Fin 4) (g : Fin 256) : State :=
  let p := s.core.phase[n]
  let rel := s.core.ident.rel
  let s1 := (s.modCore s.cur fun k => { k with arrived := k.arrived.set n true }).onCtx fun k =>
    ({ k with arrived := k.arrived.set n (some p) }).commit
  match s.group? g with
  | none => s1
  | some k =>
    let r := k.rank rel
    let s2 := s1.modGroup g fun k => { k with arrivedAt := k.arrivedAt ++ [(p, r)] }
    if k.gather then s2.post (.gatherReport g p r) else s2.disseminate g k p r 0 (k.finished p r)

/-- Whether the phase of the context's last arrival at a slot is still open (07 R243). -/
def State.openPhase (s : State) (n : Fin 4) : Option (BitVec 16) :=
  match s.ctx.arrived[n] with
  | none => none
  | some p => if s.core.phase[n] = p ∧ s.core.arrived[n] then some p else none

/-- An arrival is a release at the group's scope (07 R217, R242): the earlier operations of the context are performed before it. -/
def arriving (go : State → Out) (s : State) : Out := releasing true 2 go s

/-- A barrier instruction on slot n (07 R211, R242, R243): 0x0C8 for an empty slot; a context whose core has already arrived waits
for the phase and executes again. -/
def barrierStep (n : BitVec 2) (go : Fin 4 → Fin 256 → State → Out) (s : State) : Out :=
  match s.slotGroup s.cur n.toNat with
  | none => trapStep 0x0C8 (n.setWidth 64) s
  | some g => go ⟨n.toNat, by omega⟩ g s

/-- Waiting for the completion of a phase; `again` executes the instruction once more then (07 R242). -/
def waitPhase (n : Fin 4) (p : BitVec 16) (again : Bool) (s : State) : Out :=
  .next ((s.spend 1).suspend s.cur s.hot (.barrier n p again))

/-- BARA (07 R243). -/
def execBara (n : BitVec 2) (s : State) : Out :=
  barrierStep n (fun n g s => if s.core.arrived[n] then waitPhase n s.core.phase[n] true s else arriving (fun s => (s.arrive n g).done 4 1 id) s) s

/-- BARW (07 R243). -/
def execBarw (n : BitVec 2) (s : State) : Out :=
  barrierStep n (fun n _ s => match s.openPhase n with
    | some p => waitPhase n p false s
    | none => ctxStep 4 1 id s) s

/-- BAR (07 R243): BARA followed by BARW. -/
def execBar (n : BitVec 2) (s : State) : Out :=
  barrierStep n (fun n g s =>
    if s.core.arrived[n] then waitPhase n s.core.phase[n] true s
    else arriving (fun s => waitPhase n s.core.phase[n] false (s.arrive n g)) s) s

/-- VREDG (07 R245): the slot is checked, then the slice number (log 61), then the core arrives and the contribution leaves for the
rank-0 member. -/
def execVredg (a b c : BitVec 5) (t : BitVec 4) (n : BitVec 2) (s : State) : Out :=
  barrierStep n (fun n g s =>
    let sl := s.ctx.rx c
    if 4095 < sl.toNat then trapStep 0x0C9 sl s
    else if s.core.arrived[n] then waitPhase n s.core.phase[n] true s
    else arriving (fun s =>
      let p := s.core.phase[n]
      let k : Contribution := { core := s.cur, ctx := s.hot, slice := sl.toNat, word := t == 1, data := s.ctx.rv b, dst := a }
      .next ((((s.arrive n g).spend 1).suspend s.cur s.hot (.vredg n p)).post (.vredgContribution g p k))) s) s

/-- BARRIER_NOTIFICATION (07 R244): a member that has arrived goes on with the rounds it has now finished. -/
def execBarrierNotification (g : Fin 256) (phase : BitVec 16) (round rank : Nat) (s : State) : Out :=
  match s.group? g with
  | none => .next s
  | some k =>
    if k.heard.contains (phase, round, rank) then .next s
    else
      let k1 := { k with heard := k.heard ++ [(phase, round, rank)] }
      let s1 := s.modGroup g fun _ => k1
      let was := k.finished phase rank
      let now := k1.finished phase rank
      if k.arrivedAt.contains (phase, rank) ∧ was < now then .next (s1.disseminate g k1 phase rank (was + 1) now) else .next s1

/-- GATHER_REPORT (07 R244): when every member's arrival has been reported the root sends the completion. -/
def execGatherReport (g : Fin 256) (phase : BitVec 16) (rank : Nat) (s : State) : Out :=
  match s.group? g with
  | none => .next s
  | some k =>
    if k.heard.contains (phase, 0, rank) then .next s
    else
      let k1 := { k with heard := k.heard ++ [(phase, 0, rank)] }
      let s1 := s.modGroup g fun _ => k1
      if (List.range k.members.length).all (fun r => k1.heard.contains (phase, 0, r)) then .next (s1.completeAll g k1 phase) else .next s1

/-- A context released by the completion of phase p of slot n (07 R242, R243). -/
def State.releasePhase (s : State) (c : CoreId) (n : Fin 4) (p : BitVec 16) (x : CtxId) : State :=
  match (s.ctxAt c x).status with
  | .suspended (.barrier m q again) =>
    if m = n ∧ q = p then (if again then s.makeReady c x else s.finishWait c x id) else s
  | _ => s

/-- BARRIER_COMPLETION (07 R242): the phase of the core's slot advances and its waiting contexts are released; when the rank-0 member
completes, the group reduction of the phase is due. -/
def execBarrierCompletion (g : Fin 256) (phase : BitVec 16) (c : CoreId) (s : State) : Out :=
  match s.group? g, s.slotOf c g with
  | some k, some n =>
    if (s.coreAt c).phase[n] = phase ∧ (s.coreAt c).arrived[n] then
      let r := k.rank (s.coreAt c).ident.rel
      let s1 := (s.modCore c fun k => { k with phase := k.phase.set n (phase + 1), arrived := k.arrived.set n false }).modGroup g fun k =>
        { k with arrivedAt := k.arrivedAt.filter (fun e => e != (phase, r))
                 heard := k.heard.filter fun e => !(e.1 == phase && e.2.2 == r) }
      let s2 := (List.finRange 4).foldl (fun t x => t.releasePhase c n phase x) s1
      .next (if r = 0 then s2.post (.vredgResult g phase) else s2)
    else .next s
  | _, _ => .next s

/-- VREDG_CONTRIBUTION (07 R245): it is kept at the rank-0 member's interface. -/
def execVredgContribution (g : Fin 256) (phase : BitVec 16) (k : Contribution) (s : State) : Out :=
  .next (s.modGroup g fun h => { h with contribs := h.contribs ++ [(phase, k)] })

/-- A lane of a group reduction (07 R245, 03 R100). -/
def vredgLane (ks : List Contribution) (i : Nat) : Nat :=
  if ks.any (·.word) then (ks.foldl (fun n k => n + elem k.data 32 i) 0) % 2 ^ 32
  else
    let n := ks.foldl (fun n k => max n (k.slice + 1)) 0
    sliceSum ((List.range n).map fun j => (ks.find? fun k => k.slice == j).map fun k => elem k.data 32 i)

/-- The lowest slice that two contributions name. -/
def doubledSlice (ks : List Contribution) : Option Nat :=
  ((ks.map (·.slice)).filter fun n => 1 < (ks.filter fun k => k.slice == n).length).min?

/-- The result, or the cause with its value (07 R245, log 22). -/
def vredgOutcome (ks : List Contribution) : Except (BitVec 9 × Word) Msg :=
  match doubledSlice ks with
  | some n => .error (0x0C9, BitVec.ofNat 64 n)
  | none =>
    if ks.any (·.word) ∧ ks.any (fun k => !k.word) then .error (0x0CA, 0)
    else .ok (ofElems 32 ((List.range 16).map (vredgLane ks)))

/-- One contributor's end. -/
def State.endVredg (s : State) (r : Except (BitVec 9 × Word) Msg) (k : Contribution) : State :=
  match (s.ctxAt k.core k.ctx).status with
  | .suspended (.vredg _ _) =>
    (match r with
    | .ok v => s.finishWait k.core k.ctx fun c => c.wv k.dst v
    | .error e => s.takeTrapAt k.core k.ctx e.1 e.2 0)
  | _ => s

/-- Whether a contribution to a phase is on its way. -/
def State.contribPending (s : State) (g : Fin 256) (phase : BitVec 16) : Bool :=
  s.pending.any fun i => match i with
    | .vredgContribution g' p _ => decide (g' = g ∧ p = phase)
    | _ => false

/-- VREDG_RESULT (07 R245): every contribution is in; each contributing context receives the result or raises the cause. -/
def execVredgResult (g : Fin 256) (phase : BitVec 16) (s : State) : Out :=
  match s.group? g with
  | none => .next s
  | some k =>
    if s.contribPending g phase then .next (s.park (.vredgResult g phase))
    else
      let ks := (k.contribs.filter fun e => e.1 == phase).map (·.2)
      let s1 := s.modGroup g fun k => { k with contribs := k.contribs.filter fun e => e.1 != phase }
      .next (ks.foldl (fun t c => t.endVredg (vredgOutcome ks) c) s1)

end Sys2Proof.Machine
end

