-- ==== Sys2Proof/Machine/Transport.lean ====
section
/-!
DEFINITION. The transport of messages (08): reach, commit, retry and acknowledgement (R256 to R260), arrival at a mailbox (R253), the
choice of work and the start of a handler (02 R54, 04 R115, 08 R252), the deque and the steal unit (R263 to R267), and the routers
(R270 to R273, 14 R440).
-/

namespace Sys2Proof.Machine

/-! Places on the grid (01 R22 to R24) and reach (08 R250). -/

def clusterNo (c : CoreId) : Nat := c.val / 4
def regionNo (c : CoreId) : Nat := clusterNo c / 16 / 4 * 4 + clusterNo c % 16 / 4
def dieNo (c : CoreId) : Nat := clusterNo c / 16 / 8 * 2 + clusterNo c % 16 / 8

/-- Whether a core is a member of the group in slot 0 of core c. -/
def State.inGroup0 (s : State) (c d : CoreId) : Bool :=
  match s.slotGroup c 0 with
  | none => false
  | some g => (match s.groups[g] with
    | none => false
    | some k => k.members.contains (s.coreAt d).ident.rel)

/-- Whether a core of the package lies within a REACH taken from core c (08 R250); a REACH of 9 to 15, which the spec does not give, reaches as
6 (log 58). -/
def State.reaches (s : State) (c : CoreId) (reach : Nat) (d : CoreId) : Bool :=
  match reach with
  | 0 => c == d
  | 1 => clusterNo c == clusterNo d
  | 2 => s.inGroup0 c d
  | 3 => regionNo c == regionNo d
  | 4 => dieNo c == dieNo d
  | _ => true

/-! Packets. -/

/-- The header with its HW fields MID, SCORE and SDEV (08 R246); XT stands as the instruction wrote it. -/
def withHw (w : Msg) (mid : BitVec 16) (score : BitVec 10) (sdev : BitVec 1) : Msg :=
  let h := (Msg.word w 0 &&& 0xFFFFFFFF0000001F)
    ||| BitVec.ofNat 64 (mid.toNat * 2 ^ 16 + score.toNat * 2 ^ 6 + sdev.toNat * 2 ^ 5)
  Msg.setWord w 0 h

/-- The header with XT and no other HW field (08 R275). -/
def withXt (w : Msg) (xt : Bool) : Msg :=
  Msg.setWord w 0 ((Msg.word w 0 &&& 0xFFFFFFFF0000000F) ||| (if xt then 16 else 0))

/-- A packet's MID. -/
def packetMid (p : Packet) : BitVec 16 := BitVec.ofNat 16 (Msg.field p.word 31 16)
/-- A packet's class. -/
def packetClass (p : Packet) : Nat := Msg.field p.word 63 58
/-- A packet's unit. -/
def packetUnit (p : Packet) : BitVec 3 := BitVec.ofNat 3 (Msg.field p.word 34 32)
/-- Whether a packet names this package. -/
def State.isHere (s : State) (p : Packet) : Bool := BitVec.ofNat 1 (Msg.field p.word 45 45) == s.dev

/-- The arrival of a packet at its receiver. -/
def arrivalOf (p : Packet) : Instr := if packetUnit p = 0 then .messageArrival p else .engineCommandArrival p

/-- The partition of a launch (08 R268). -/
def State.partOf (s : State) (lid : Nat) : Option (BitVec 4) := (s.launch? lid).map fun l => (s.space l.pasid).partition

/-- Whether the injection of a launch's packets is stopped (08 R270). -/
def State.stopped (s : State) (lid : Nat) : Bool := (s.partOf lid).any fun q => (s.partitions[q.toNat]'(q.isLt)).stopped

/-- The core that a launch-relative number of a launch names. -/
def State.member (s : State) (lid : Nat) (rel : BitVec 10) : Option CoreId := (s.launch? lid).bind fun l => l.core? rel.toNat

/-! Pairs of launches (09 R303). -/

/-- Whether a launch is one half of a pair. -/
def Launch.isHalf (l : Launch) (h : LaunchHalf) : Bool := l.queue == h.queue && l.pairIndex == some h.index

/-- The half of a pair that a launch is. -/
def Launch.half (l : Launch) : Option LaunchHalf := l.pairIndex.map fun i => { queue := l.queue, index := i }

/-- Whether the half of a pair is still to be placed here. -/
def State.halfAhead (s : State) (h : LaunchHalf) : Bool := decide (Sparse.get 0 s.pairCounts h.queue.toNat ≤ h.index)

/-- The cores of the peer's half of a pair, once it is placed. -/
def State.peerCores (s : State) (h : Option LaunchHalf) : List CoreId :=
  (h.bind fun h => (s.peerPlaced.find? fun e => e.1 == h).map (·.2)).getD []

/-- Whether a packet's sender is a core of the peer package. -/
def State.peerSent (s : State) (p : Packet) : Bool :=
  match p.src with
  | .core d _ => d != s.dev
  | .linkDie => false

/-- The launch here that a packet is for: its sender's own, and for a sender of the peer the one paired with its launch (08 R248, 09 R303; a launch
without a half has none, log 49). -/
def State.launchFor (s : State) (p : Packet) : Option Launch :=
  if s.peerSent p then p.half.bind fun h => s.launches.find? (·.isHalf h) else s.launch? p.lid

/-- Whether that launch has yet to be placed. -/
def State.placeAhead (s : State) (p : Packet) : Bool := s.peerSent p && p.half.any s.halfAhead

/-- The core here that a packet is for. -/
def State.receiver (s : State) (p : Packet) : Option CoreId := (s.launchFor p).bind fun l => l.core? p.dst.toNat

/-- The logical number of a packet's destination core, in this package or the peer; the link die has 0x3FF (log 54). -/
def State.destNo (s : State) (p : Packet) : Nat :=
  if p.dst = 0x3FF then 0x3FF
  else ((if s.isHere p then s.receiver p else (s.peerCores p.half)[p.dst.toNat]?).map (·.val)).getD p.dst.toNat

/-- A packet as its network interface injects it: with the partition of its launch's PASID (08 R268), the half of its launch (09 R303), and the
dimension order of compatibility mode, the parity of source ^ destination ^ class (08 R269); one of the link die goes X first (log 54). -/
def State.injected (s : State) (p : Packet) : Packet :=
  let q := { p with part := (s.partOf p.lid).getD 0, half := (s.launch? p.lid).bind Launch.half, yFirst := false }
  match p.src with
  | .core _ rel => (match s.member p.lid rel with
    | some c => { q with yFirst := popCount (BitVec.ofNat 64 (c.val ^^^ s.destNo q ^^^ packetClass p)) % 2 == 1 }
    | none => q)
  | .linkDie => q

/-- A packet injected: one for the peer leaves over the stay link; while its partition is stopped it waits in its retry buffer. -/
def State.inject (s : State) (p : Packet) : State :=
  if s.stopped p.lid then s else if s.isHere p then s.post (arrivalOf (s.injected p)) else s.toPeer (arrivalOf (s.injected p))

/-- A new retry-buffer entry. -/
def RetryEntry.new (p : Packet) (barred : Bool) : RetryEntry := { pkt := p, refusals := 0, backoff := 0, held := false, since := 0, barred := barred }

/-- A packet sent by core c, into its retry buffer (08 R256). -/
def State.sendFrom (s : State) (c : CoreId) (p : Packet) : State :=
  (s.modCore c fun k => { k with net := { k.net with retryBuf := k.net.retryBuf ++ [RetryEntry.new p (s.stopped p.lid)] } }).inject p

/-- A packet sent by the link die. -/
def State.sendLink (s : State) (p : Packet) : State :=
  { s with linkRetry := s.linkRetry ++ [RetryEntry.new p (s.stopped p.lid)] }.inject p

/-- The answer to a packet's sender, which leaves over the stay link for a sender of the peer. -/
def State.answer (s : State) (src : Party) (i : Instr) : State :=
  match src with
  | .core d _ => if d = s.dev then s.post i else s.toPeer i
  | .linkDie => s.post i

/-! NACK records (08 R259). -/

def nackOf (ns : List (BitVec 3 × Party × BitVec 16)) (u : BitVec 3) (p : Party) : Option (BitVec 16) :=
  (ns.find? fun e => e.1 == u && e.2.1 == p).map (·.2.2)

def nackClear (ns : List (BitVec 3 × Party × BitVec 16)) (u : BitVec 3) (p : Party) : List (BitVec 3 × Party × BitVec 16) :=
  ns.filter fun e => !(e.1 == u && e.2.1 == p)

/-- A refusal: the record takes the identifier when it is empty. -/
def nackNote (ns : List (BitVec 3 × Party × BitVec 16)) (u : BitVec 3) (p : Party) (mid : BitVec 16) : List (BitVec 3 × Party × BitVec 16) :=
  if (nackOf ns u p).isNone then ns ++ [(u, p, mid)] else ns

/-- Whether the record holds another message back. -/
def nackBlocks (ns : List (BitVec 3 × Party × BitVec 16)) (u : BitVec 3) (p : Party) (mid : BitVec 16) : Bool :=
  match nackOf ns u p with
  | some m => m != mid
  | none => false

/-- The cell of an evaluation message, whose loss is a record failure (11 R358). -/
def evalCellOf (k : PacketKind) : Option Nat :=
  match k with
  | .eval _ _ _ _ pa => some pa
  | _ => none

/-- A record failure reported to a cell's home (11 R358). -/
def State.lostEval (s : State) (k : PacketKind) : State :=
  match evalCellOf k with
  | some pa => s.post (.recordFailureReport pa)
  | none => s

/-! Retry buffers (08 R258). -/

/-- Whether an entry is the message a receiver answers. -/
def RetryEntry.is (e : RetryEntry) (lid : Nat) (mid : BitVec 16) : Bool := e.pkt.lid == lid && packetMid e.pkt == mid

/-- The retry buffer of a sender. -/
def State.retryOf (s : State) (lid : Nat) (p : Party) : List RetryEntry :=
  match p with
  | .linkDie => s.linkRetry
  | .core _ rel => (match s.member lid rel with
    | some c => (s.coreAt c).net.retryBuf
    | none => [])

/-- The retry buffer of a sender changed. -/
def State.modRetry (s : State) (lid : Nat) (p : Party) (f : List RetryEntry → List RetryEntry) : State :=
  match p with
  | .linkDie => { s with linkRetry := f s.linkRetry }
  | .core _ rel => (match s.member lid rel with
    | some c => s.modCore c fun k => { k with net := { k.net with retryBuf := f k.net.retryBuf } }
    | none => s)

/-- The sender's contexts try again when its buffer has room. -/
def State.recommitParty (s : State) (lid : Nat) (p : Party) : State :=
  match p with
  | .linkDie => s
  | .core _ rel => (match s.member lid rel with
    | some c => s.recommit c
    | none => s)

/-- A report of its sender about a message it drops: at its core, or at core 0 of the launch for the launch unit (14 R421). -/
def State.reportSender (s : State) (lid : Nat) (p : Party) (w : Msg) (cause : BitVec 9) (val : Word) : State :=
  match p with
  | .linkDie => (match s.member lid 0 with
    | some c => s.reportFrom lid c 4 w cause val
    | none => s)
  | .core _ rel => (match s.member lid rel with
    | some c => s.report c w cause val
    | none => s)

/-- A sender as the link engine tells senders apart: device and logical core number (08 R259). -/
def State.linkSender (s : State) (pkt : Packet) : BitVec 1 × Nat :=
  match pkt.src with
  | .core d rel => (d, ((if d = s.dev then s.member pkt.lid rel else (s.peerCores pkt.half)[rel.toNat]?).map (·.val)).getD rel.toNat)
  | .linkDie => (s.dev, 0x3FF)

/-- The receiver's NACK record that holds a dropped message's identifier is cleared (08 R259). -/
def State.clearNack (s : State) (pkt : Packet) : State :=
  if pkt.dst = 0x3FF then { s with linkNacks := s.linkNacks.filter fun e => !(e == ((s.linkSender pkt).1, (s.linkSender pkt).2, packetMid pkt)) }
  else match s.receiver pkt with
    | some c => s.modCore c fun k => { k with net := { k.net with nacks := k.net.nacks.filter fun e => !(e == (packetUnit pkt, pkt.src, packetMid pkt)) } }
    | none => s

/-- A message dropped from its sender's retry buffer with a trap record (08 R258, R273). -/
def State.dropMessage (s : State) (lid : Nat) (p : Party) (mid : BitVec 16) (cause : BitVec 9) : State :=
  match (s.retryOf lid p).find? (·.is lid mid) with
  | none => s
  | some e =>
    let s1 := ((s.modRetry lid p (·.filter fun e => !e.is lid mid)).clearNack e.pkt).lostEval e.pkt.kind
    (s1.reportSender lid p e.pkt.word cause (mid.setWidth 64)).recommitParty lid p

/-- ACKNOWLEDGEMENT (08 R258): the entry is freed. -/
def execAcknowledgement (lid : Nat) (p : Party) (mid : BitVec 16) (s : State) : Out :=
  .next ((s.modRetry lid p (·.filter fun e => !e.is lid mid)).recommitParty lid p)

/-- The retry limit (08 R258, 14 R438). -/
def State.retryLimit (s : State) : Nat := s.rigging 111 104 64

/-- An entry after a refusal: the back-off doubles for a counted one (08 R258). -/
def RetryEntry.refused (e : RetryEntry) (counted : Bool) (now : Nat) : RetryEntry :=
  if counted then { e with refusals := e.refusals + 1, backoff := if e.backoff = 0 then 64 else min 65536 (2 * e.backoff), held := true, since := now }
  else { e with held := true, since := now }

/-- NACK (08 R258): the entry waits for its back-off, or is dropped with 0x0C7 after its last permitted resend. -/
def execNack (lid : Nat) (p : Party) (mid : BitVec 16) (counted : Bool) (s : State) : Out :=
  match (s.retryOf lid p).find? (·.is lid mid) with
  | none => .next s
  | some e =>
    if counted ∧ s.retryLimit ≤ e.refusals then .next (s.dropMessage lid p mid 0x0C7)
    else .next (s.modRetry lid p (·.map fun e => if e.is lid mid then e.refused counted s.cyc else e))

/-- Cycles a refused message waits. -/
def RetryEntry.delay (e : RetryEntry) : Nat := if e.backoff = 0 then 64 else e.backoff

/-- RETRY_RESEND (08 R258). -/
def execRetryResend (lid : Nat) (p : Party) (mid : BitVec 16) (s : State) : Out :=
  match (s.retryOf lid p).find? (fun e => e.is lid mid && e.held) with
  | none => .next s
  | some e =>
    if s.cyc < e.since + e.delay then .next s
    else .next ((s.modRetry lid p (·.map fun e => if e.is lid mid then { e with held := false, barred := s.stopped lid } else e)).inject e.pkt)

/-- PARTITION_REFUSAL (08 R273). -/
def execPartitionRefusal (lid : Nat) (p : Party) (mid : BitVec 16) (s : State) : Out := .next (s.dropMessage lid p mid 0x0C5)

/-! Commit (08 R256). -/

/-- A task record as it is committed: the spawner's own core, device and unit 0 (08 R263). -/
def taskWord (w : Msg) (dev : BitVec 1) (rel : BitVec 10) : Msg :=
  Msg.setWord w 0 ((Msg.word w 0 &&& 0xFFFFC000FFFFFFFF) ||| BitVec.ofNat 64 (dev.toNat * 2 ^ 45 + rel.toNat * 2 ^ 35))

/-- One entry committed: a task onto the deque, a message into the retry buffer and on its way; the private lines go home before a release
(06 R179, 08 R261, R265). -/
def State.commitEntry (s : State) (c : CoreId) (e : SendEntry) : State :=
  let i := (s.coreAt c).ident
  let r := (if e.task || Msg.field e.word 3 2 != 0 then s.cleanOwn c else s).takeMid c
  let w := withHw e.word r.1 i.rel s.dev
  if e.task then
    let w' := taskWord w s.dev i.rel
    let q := r.2.pushTask c { word := w', prio := s.prioOf c w', returns := 0 }
    if q.2 then q.1.wakeCore c else q.1.report c w' 0x0CB (r.1.setWidth 64)
  else
    match i.lid with
    | none => r.2
    | some lid => r.2.sendFrom c { lid := lid, dst := BitVec.ofNat 10 (Msg.field w 44 35), word := w, src := .core s.dev i.rel, kind := .plain }

/-- Whether an entry can be committed now: what it releases is performed (08 R256, R265), and there is room: in the retry buffer, or in the
deque, whose spill area is there (08 R264). -/
def State.canCommit (s : State) (c : CoreId) (e : SendEntry) : Bool :=
  if e.task then !s.unperformed c e.ctx && !s.spillAway c
  else decide ((s.coreAt c).net.retryBuf.length < 64) && (decide (Msg.field e.word 3 2 = 0) || !s.unperformed c e.ctx)

/-- A context's entries committed in order, as far as they can be. -/
def State.commitAll (s : State) (c : CoreId) (es : List SendEntry) : State :=
  match es with
  | [] => s
  | e :: r =>
    if s.canCommit c e then
      ((s.modCore c fun k => { k with net := { k.net with sendBuf := k.net.sendBuf.erase e } }).commitEntry c e).commitAll c r
    else s

/-- SEND_COMMIT (08 R256): END frees the context once all its entries are committed, and FLUSH goes on then. -/
def execSendCommit (c : CoreId) (x : CtxId) (s : State) : Out :=
  let s1 := s.commitAll c (s.sendsOf c x)
  if !(s1.sendsOf c x).isEmpty then .next s1
  else match (s1.ctxAt c x).status with
    | .ending => .next ((s1.clearCtx c x false).wakeCore c)
    | .flushing => .next (s1.unstall c x)
    | _ => .next s1

/-! Arrival at a mailbox (08 R253). -/

/-- A message dropped on arrival: acknowledged, with a trap record. -/
def State.dropArrival (s : State) (c : CoreId) (p : Packet) (cause : BitVec 9) (val : Word) : State :=
  ((s.answer p.src (.acknowledgement p.lid p.src (packetMid p))).lostEval p.kind).report c p.word cause val

/-- A refusal (08 R253, R258). -/
def State.refuse (s : State) (c : CoreId) (p : Packet) (counted : Bool) : State :=
  (s.modCore c fun k => { k with net := { k.net with nacks := nackNote k.net.nacks (packetUnit p) p.src (packetMid p) } }).answer p.src
    (.nack p.lid p.src (packetMid p) counted)

/-- A refusal on behalf of a gang that is pre-empted (09 R302): it does not count; the NACK record stands at the core, or in its image
when that is saved (14 R434). -/
def State.refuseSaved (s : State) (l : Launch) (c : CoreId) (p : Packet) : State :=
  if l.phase = .saving then s.refuse c p false
  else
    let note := fun (k : Core) => { k with net := { k.net with nacks := nackNote k.net.nacks (packetUnit p) p.src (packetMid p) } }
    (s.modLaunch l.lid fun l => { l with images := l.images.modify p.dst.toNat note }).answer p.src (.nack p.lid p.src (packetMid p) false)

/-- The entry address of a message for unit 0: a direct message carries it, any other names a handler (08 R249, 09 R308). -/
def State.entryPc (s : State) (c : CoreId) (p : Packet) : Option Word :=
  match p.kind with
  | .direct pc => some pc
  | _ => (s.handler c (hidOf p.word)).map (·.2)

/-- A message accepted into the mailbox. -/
def State.accept (s : State) (c : CoreId) (p : Packet) (pc : Word) : State :=
  let prio := match p.kind with
    | .direct _ => 3
    | _ => s.prioOf c p.word
  let s1 := s.modCore c fun k => { k with net := { k.net with
    nacks := nackClear k.net.nacks (packetUnit p) p.src
    mailbox := k.net.mailbox ++ [{ word := p.word, kind := p.kind, pc := pc, prio := prio, returns := 0, started := none }] } }
  (s1.answer p.src (.acknowledgement p.lid p.src (packetMid p))).wakeCore c

/-- The class-table entry of a packet in its partition. -/
def State.packetEntry (s : State) (p : Packet) : BitVec 32 := (s.partitions[p.part.toNat]'(p.part.isLt)).classes.getD (packetClass p) 0

/-- The class queue that a packet travels in (08 R271). -/
def State.queueOf (s : State) (p : Packet) : Nat := bitsOf (s.packetEntry p).toNat 10 8

/-- The router inputs on a packet's way (08 R268, R269); one of the link die or of the peer enters at the attach router of its destination (01
R18), by port 0, as one of the router's own cluster would (log 54). -/
def State.packetInputs (s : State) (p : Packet) : List (Fin 288 × Fin 5) :=
  let dest := if p.dst = 0x3FF then 288 else ((s.receiver p).map fun c => (clusterOf c).val).getD 288
  let a := match (if s.peerSent p then none else match p.src with
      | .core _ rel => s.member p.lid rel
      | .linkDie => none) with
    | some c => s.placeOf (clusterOf c)
    | none => s.destOf (s.destOf (8, 15) dest) 288
  inputsOf (s.route p.part (bitsOf (s.packetEntry p).toNat 12 11) p.yFirst a dest)

/-- The packet of an event. -/
def packetIn (i : Instr) : Option Packet :=
  match i with
  | .messageArrival p | .engineCommandArrival p => some p
  | _ => none

/-- Whether a class queue of a router input holds a packet (08 R271, R272). -/
def State.queueHolds (s : State) (e : Fin 288 × Fin 5 × Fin 8) : Bool :=
  ((s.pending ++ s.parked).filterMap packetIn).any fun p => s.queueOf p == e.2.2.val && (s.packetInputs p).contains (e.1, e.2.1)

/-- The mark of an escaped class queue clears when none of that queue's packets is left (08 R272). -/
def State.clearEscapes (s : State) : State :=
  if s.escaped.isEmpty then s else { s with escaped := s.escaped.filter s.queueHolds }

/-- The source whose forwarding entry names a core (14 R437). -/
def State.forwarder (s : State) (c : CoreId) : Option CoreId :=
  (s.migrated.find? fun e => e.2 == c).map (·.1)

/-- Whether a message waits for the page of its handler's entry. -/
def State.mailAway (s : State) (c : CoreId) (p : Packet) : Bool :=
  match p.kind with
  | .direct _ => false
  | _ => s.handlerAway c (hidOf p.word)

/-- A message at its core (08 R253): refused while the core is moved; dropped where its XT or its handler fails; refused behind an
earlier refusal or for want of room; else accepted. While the page of its handler's entry is not present the event tries again. -/
def State.deliverMail (s : State) (c : CoreId) (p : Packet) (again : Instr) : State :=
  let k := s.coreAt c
  if k.net.refusing then s.refuse c p true
  else if decide (Msg.field p.word 4 4 = 1) != k.ident.xt then s.dropArrival c p 0x081 ((packetMid p).setWidth 64)
  else if s.mailAway c p then (s.askHandler c (hidOf p.word)).park again
  else match s.entryPc c p with
    | none => s.dropArrival c p 0x0C4 (BitVec.ofNat 64 (hidOf p.word))
    | some pc =>
      if nackBlocks k.net.nacks (packetUnit p) p.src (packetMid p) ∨ 64 ≤ k.net.mailbox.length then s.refuse c p true
      else s.accept c p pc

/-- MESSAGE_ARRIVAL (08 R253): a message of a launch that has ended is discarded; one of the peer for a launch that has yet to be placed is
refused without counting (09 R303), and so is one for a gang that is pre-empted; one for a core that has moved goes by way of its old
place (14 R437). -/
def execMessageArrival (p : Packet) (s0 : State) : Out :=
  let s := s0.clearEscapes
  match s.launchFor p with
  | none => .next (if s.placeAhead p then s.answer p.src (.nack p.lid p.src (packetMid p) false) else s)
  | some l =>
    match l.core? p.dst.toNat with
    | none => .next s
    | some c =>
      if l.phase ≠ .running then .next (s.refuseSaved l c p)
      else match s.forwarder c with
        | some src => .next (s.post (.migrationForward src p))
        | none => .next (s.deliverMail c p (.messageArrival p))

/-! The start of a handler (02 R54) and the choice of work (01 R37, 04 R115, 08 R252). -/

/-- A context at the start of a handler (02 R54, 03 R80, 04 R120, 11 R357, 14 R422). -/
def startCtx (i : Ident) (t : Trigger) : Ctx :=
  let base := { Ctx.reset with
    status := .running, pc := t.pc, fmt := 0x400 ||| (if i.xt then 0x100 else 0), budget := i.budget, trigger := some t }
  let c1 := (List.range 7).foldl (fun c j => c.wx (BitVec.ofNat 5 (17 + j)) (Msg.word t.word (j + 1)))
    ((base.wx 2 i.stack).wx 16 (Msg.word t.word 0))
  let c2 := match t.kind with
    | .eval cell a b d _ =>
      { c1 with evCell := (cell &&& 0x1FFFFFFFFFFFFF8) ||| 1, evChain0 := a, evChain1 := b, evChain2 := d, nonRestart := true }
    | _ => c1
  if t.src = .trapq then
    { c2 with tcause := Msg.word t.word 1, tpc := Msg.word t.word 2, tval := Msg.word t.word 3, tmsg := Msg.word t.word 5 }
  else c2

/-- A handler starts in context x, which takes the slot; its first instruction issues 3 cycles later (04 R115). -/
def State.startIn (s : State) (c : CoreId) (x : CtxId) (t : Trigger) : State :=
  s.modCore c fun k =>
    { (k.modCtx x fun _ => { startCtx k.ident t with since := s.handCycle k, busy := s.handCycle k + 3 }) with slot := some x, yielded := false }

/-- A context that goes on after YIELD: the instruction falls through (04 R142). -/
def Ctx.goOn (q : Ctx) : Ctx := if q.falls = 0 then q else { q.retire q.falls (q.seq q.falls) with falls := 0 }

/-- A resident context takes the slot, in the cycle after that of the core's last instruction: USED restarts (04 R147), and a YIELD falls
through. -/
def State.giveSlot (s : State) (c : CoreId) (x : CtxId) : State :=
  s.modCore c fun k =>
    { (k.modCtx x fun q => { q.goOn with status := .running, since := s.handCycle k, busy := s.handCycle k }) with slot := some x, yielded := false }

/-- The ready contexts in cyclic order after the last holder, the holder that yielded left out (04 R115). -/
def Core.readyCtx (k : Core) : Option CtxId :=
  ([k.last + 1, k.last + 2, k.last + 3, k.last].filter fun x => !(k.yielded && x == k.last)).find? fun x => k.ctxs[x].status == .ready

/-- The lowest free context. -/
def Core.freeCtx (k : Core) : Option CtxId := (List.finRange 4).find? fun x => k.ctxs[x].status == .free

/-- Whether a message may start (08 R251): its class is enabled; a direct message has none (09 R308, log 77). -/
def Core.eligible (k : Core) (e : MailEntry) : Bool :=
  e.started.isNone && (match e.kind with
    | .direct _ => true
    | _ => k.net.clsen.getLsbD (Msg.field e.word 63 58))

/-- The oldest eligible message of the highest priority. -/
def bestMail (es : List MailEntry) (best : Option MailEntry) : Option MailEntry :=
  match es with
  | [] => best
  | e :: r => bestMail r (match best with
    | none => some e
    | some b => if b.prio < e.prio then some e else best)

/-- The first entry equal to m is marked as started. -/
def markMail (es : List MailEntry) (m : MailEntry) (x : CtxId) : List MailEntry :=
  match es with
  | [] => []
  | e :: r => if e = m then { e with started := some x } :: r else e :: markMail r m x

/-- The first record of a trap queue that has not started is marked. -/
def markTrap (es : List TrapEntry) (x : CtxId) : List TrapEntry :=
  match es with
  | [] => []
  | e :: r => if e.started.isNone then { e with started := some x } :: r else e :: markTrap r x

/-- A reload begins when no resident record remains and the spill area holds some (08 R264). -/
def State.checkReload (s : State) (c : CoreId) : State :=
  let n := (s.coreAt c).net
  if n.deque.isEmpty ∧ 0 < n.spilled ∧ !n.reloading then
    (s.modCore c fun k => { k with net := { k.net with reloading := true } }).post (.dequeReload c)
  else s

/-- The top task starts in context x, or is dropped where its XT or its handler fails (08 R263). -/
def State.startTask (s : State) (c : CoreId) (x : CtxId) (t : Task) : State :=
  let s1 := (s.modCore c fun k => { k with net := { k.net with deque := k.net.deque.dropLast } }).checkReload c
  if decide (Msg.field t.word 4 4 = 1) != (s.coreAt c).ident.xt then
    (s1.report c t.word 0x081 (BitVec.ofNat 64 (Msg.field t.word 31 16)) t.returns).wakeCore c
  else match s.handler c (hidOf t.word) with
    | none => (s1.report c t.word 0x0C4 (BitVec.ofNat 64 (hidOf t.word)) t.returns).wakeCore c
    | some h => s1.startIn c x { word := t.word, kind := .plain, src := .deque, prio := t.prio, returns := t.returns, pc := h.2 }

/-- A message starts in context x. -/
def State.startMail (s : State) (c : CoreId) (x : CtxId) (m : MailEntry) : State :=
  (s.modCore c fun k => { k with net := { k.net with mailbox := markMail k.net.mailbox m x } }).startIn c x
    { word := m.word, kind := m.kind, src := .mailbox, prio := m.prio, returns := m.returns, pc := m.pc }

/-- New work for the free context x (01 R37, 08 R252, 14 R421): a trap record, else the message or task of the highest priority, the
message first. -/
def State.newWork (s : State) (c : CoreId) (x : CtxId) : Option State :=
  let k := s.coreAt c
  match k.net.trapq.find? (·.started.isNone) with
  | some t =>
    some ((s.modCore c fun k => { k with net := { k.net with trapq := markTrap k.net.trapq x } }).startIn c x
      { word := t.word, kind := .plain, src := .trapq, prio := 0, returns := 0, pc := t.pc })
  | none =>
    let top := if k.net.reloading then none else k.net.deque.getLast?.filter fun t => !s.handlerAway c (hidOf t.word)
    match bestMail (k.net.mailbox.filter k.eligible) none, top with
    | none, none => none
    | some m, none => some (s.startMail c x m)
    | none, some t => some (s.startTask c x t)
    | some m, some t => if t.prio ≤ m.prio then some (s.startMail c x m) else some (s.startTask c x t)

/-- Whether a core may run: its gang is not pre-empted (09 R302) and it is not being moved (14 R437). -/
def State.mayRun (s : State) (c : CoreId) : Bool :=
  !(s.coreAt c).net.refusing && match s.launchOf c with
  | some l => l.phase == .running
  | none => true

/-- The issue slot passes to the first candidate of 04 R115. -/
def State.handoff (s : State) (c : CoreId) : State :=
  let k := s.coreAt c
  if k.slot.isSome || !s.mayRun c then s
  else match k.readyCtx with
    | some x => s.giveSlot c x
    | none =>
      match k.freeCtx.bind (s.newWork c) with
      | some t => t
      | none => if k.ctxs[k.last].status = .ready then s.giveSlot c k.last else s

/-- ISSUE_SLOT_HANDOFF (04 R115). -/
def execIssueSlotHandoff (c : CoreId) (s : State) : Out := .next (s.handoff c)

/-! The deque and stealing (08 R264 to R267). -/

/-- The spilled records from index i on, n of them, oldest first. -/
def State.spilledTasks (s : State) (c : CoreId) (i n : Nat) : Option (List Task) :=
  match n with
  | 0 => some []
  | m + 1 =>
    (((s.spillAddr c i).bind fun va => s.readVa (s.coreAt c).ident.pasid va 64).bind fun w =>
      (s.spilledTasks c (i + 1) m).map fun r =>
        { word := BitVec.ofNat 512 w, prio := s.prioOf c (BitVec.ofNat 512 w), returns := (s.coreAt c).net.spillRet.getD i 0 } :: r)

/-- DEQUE_RELOAD (08 R264): the newest 16 spilled records, or all of them if fewer remain; no more than there is room for below the records
that were pushed while it was in flight (log 73). -/
def execDequeReload (c : CoreId) (s : State) : Out :=
  let n := (s.coreAt c).net
  if !n.reloading then .next s
  else
    let m := min (min 16 n.spilled) (32 - n.deque.length)
    match s.spilledTasks c (n.spilled - m) m with
    | none => .next (s.park (.dequeReload c))
    | some ts =>
      .next ((s.modCore c fun k => { k with net := { k.net with
        deque := ts ++ k.net.deque, spilled := n.spilled - m, spillRet := k.net.spillRet.take (n.spilled - m), reloading := false } }).wakeCore c)

/-- The LFSR of the steal unit (08 R267). -/
def lfsrNext (x : BitVec 16) : BitVec 16 :=
  let b := x.getLsbD 15 ^^ x.getLsbD 13 ^^ x.getLsbD 12 ^^ x.getLsbD 10
  (x <<< 1) ||| (if b then 1 else 0)

/-- The members of a core's steal domain (08 R267). -/
def State.stealDomain (s : State) (c : CoreId) : List CoreId :=
  match s.launchOf c with
  | none => []
  | some l =>
    if l.field 485 485 = 0 then l.cores
    else match (l.groups.filterMap fun g => s.groups[g]).find? (fun g => g.desc == l.field 491 486) with
      | some g => g.members.filterMap fun r => l.core? r.toNat
      | none => []

/-- The idle conditions of a core (08 R266); its 64 cycles are timing. -/
def Core.isIdle (k : Core) : Bool :=
  k.slot.isNone && (List.finRange 4).all (fun x => k.ctxs[x].status != .ready) && (List.finRange 4).any (fun x => k.ctxs[x].status == .free)
    && !k.net.mailbox.any k.eligible && k.net.deque.isEmpty && k.net.spilled == 0 && !k.net.reloading && !k.net.stealing

/-- STEAL_REQUEST (08 R266, R267). -/
def execStealRequest (c : CoreId) (s : State) : Out :=
  let k := s.coreAt c
  let d := s.stealDomain c
  if !k.isIdle || decide (d.length ≤ 1) then .next s
  else
    let l := lfsrNext k.net.lfsr
    match d[l.toNat % d.length]? with
    | none => .next s
    | some v =>
      let s1 := s.modCore c fun k => { k with net := { k.net with lfsr := l, stealing := v != c } }
      if v = c then .next s1 else .next (s1.post (.stealRequestArrival v c))

/-- STEAL_REQUEST_ARRIVAL (08 R265): half of the resident records, rounded up, from the bottom; none of 0 or 1. -/
def execStealRequestArrival (victim thief : CoreId) (s : State) : Out :=
  let d := (s.coreAt victim).net.deque
  let n := if d.length < 2 then 0 else (d.length + 1) / 2
  .next (((s.modCore victim fun k => { k with net := { k.net with deque := k.net.deque.drop n } }).checkReload victim).post
    (.stealReply thief (d.take n)))

/-- Records pushed oldest first; one that finds no room is dropped with 0x0CB. -/
def State.pushAll (s : State) (c : CoreId) (ts : List Task) : State :=
  ts.foldl (fun t k =>
    let r := t.pushTask c k
    if r.2 then r.1 else r.1.report c k.word 0x0CB (BitVec.ofNat 64 (Msg.field k.word 31 16)) k.returns) s

/-- STEAL_REPLY (08 R265). -/
def execStealReply (thief : CoreId) (ts : List Task) (s : State) : Out :=
  .next (((s.modCore thief fun k => { k with net := { k.net with stealing := false } }).pushAll thief ts).wakeCore thief)

/-! Routers (08 R270 to R273, 14 R440). -/

/-- Whether an event is a packet of a partition on its way: a message, a command, an answer, an access at its home, a steal, a trap record or
a barrier's. -/
def State.inPartition (s : State) (part : BitVec 4) (i : Instr) : Bool :=
  let lidIs := fun (lid : Nat) => s.partOf lid == some part
  let coreIs := fun (c : CoreId) => (s.coreAt c).ident.lid.any lidIs
  let groupIs := fun (g : Fin 256) => (s.groups[g]).any fun k => lidIs k.lid
  match i with
  | .messageArrival p | .engineCommandArrival p | .migrationForward _ p => p.part == part
  | .homeOperation op => op.dev == s.dev && coreIs op.core
  | .homeResponse c _ _ | .ringAnswer c _ _ => coreIs c
  | .ringOpAtHome op => coreIs op.core
  | .furledRequestAtHome r | .furledWake r _ => r.dev == s.dev && coreIs r.core
  | .mergeRead _ line who => (s.readerCore line who).any coreIs
  | .mergeReply r line => (s.readerCore line (.router r)).any coreIs
  | .lineFill c _ _ => coreIs c
  | .acknowledgement lid _ _ | .nack lid _ _ _ | .partitionRefusal lid _ _ | .completionElementArrival lid _ _ _ _ _ => lidIs lid
  | .trapRecordArrival _ lid _ => lidIs lid
  | .stealRequestArrival c _ | .stealReply c _ | .bagStealArrival c _ => coreIs c
  | .barrierNotification g _ _ _ | .gatherReport g _ _ | .barrierCompletion g _ _ | .vredgContribution g _ _ => groupIs g
  | _ => false

def State.part (s : State) (part : BitVec 4) : Partition := s.partitions[part.toNat]'(part.isLt)

/-- Whether a router holds a packet of a partition whose injection is stopped. -/
def State.partBusy (s : State) (part : BitVec 4) : Bool := (s.pending ++ s.parked).any fun i => (s.part part).inside.contains i

/-- Whether an event may take place: while injection of its partition is stopped, a packet that was not in the mesh before the stop waits at its
network interface (08 R270). -/
def State.mayEnter (s : State) (i : Instr) : Bool :=
  (List.finRange 16).all fun n =>
    let q := s.partitions[n]
    !q.stopped || !s.inPartition (BitVec.ofNat 4 n.val) i || q.inside.contains i

def State.modPart (s : State) (part : BitVec 4) (f : Partition → Partition) : State :=
  { s with partitions := s.partitions.set part.toNat (f (s.part part)) (part.isLt) }

/-- Injection of a partition's packets stops, if it has not. -/
def State.stopPart (s : State) (part : BitVec 4) : State :=
  if (s.part part).stopped then s
  else s.modPart part fun q => { q with stopped := true, inside := (s.pending ++ s.parked).filter (s.inPartition part) }

/-- The entries of a retry buffer that wait for their partition's injection go on. -/
def State.unbar (s : State) (lid : Nat) (p : Party) : State :=
  let es := (s.retryOf lid p).filter fun e => e.barred && e.pkt.lid == lid
  es.foldl (fun t e => t.inject e.pkt) (s.modRetry lid p (·.map fun e => if e.pkt.lid = lid then { e with barred := false } else e))

/-- Injection resumes. -/
def State.resumePart (s : State) (part : BitVec 4) : State :=
  let t := s.modPart part fun q => { q with stopped := false, inside := [] }
  (t.launches.filter fun l => (t.space l.pasid).partition == part).foldl (fun t l =>
    (l.cores.foldl (fun t c => t.unbar l.lid (.core t.dev (t.coreAt c).ident.rel)) t).unbar l.lid .linkDie) t

/-- A router changed. -/
def State.modRouter (s : State) (r : Fin 288) (f : Router → Router) : State := { s with routers := s.routers.set r (f s.routers[r]) }

/-- Routing-table entries written (08 R268): router, key and output port. -/
def State.writeRoutes (s : State) (es : List (Fin 288 × Nat × Fin 6)) : State :=
  es.foldl (fun t e => t.modRouter e.1 fun k => { k with routes := Sparse.set none k.routes e.2.1 (some e.2.2) }) s

/-- DRAIN_AND_SWAP (08 R269, R270): injection stops; once no router holds a packet of the partition, its routing tables, its class
configuration and its mode are the new ones, and injection resumes. -/
def execDrainAndSwap (part : BitVec 4) (tables : PartTables) (s : State) : Out :=
  let t := s.stopPart part
  if t.partBusy part then .next (t.park (.drainAndSwap part tables))
  else .next (((t.writeRoutes (tables.routes.filter fun e => e.2.1 / 2048 == part.toNat)).modPart part fun q =>
    { q with classes := tables.classes, compat := tables.compat }).resumePart part)

/-- Whether a class queue carries a real-time class (08 R272). -/
def State.rtQueue (s : State) (q : Fin 8) : Bool :=
  s.partitions.toList.any fun p => p.classes.any fun e => classValid e && decide (bitsOf e.toNat 10 8 = q.val) && e.getLsbD 7

/-- ESCAPE_RECOVERY (08 R272): a queue that holds a packet is marked as escaped and the move is counted; a queue with a real-time class never
moves. -/
def execEscapeRecovery (router : Fin 288) (inp : Fin 5) (q : Fin 8) (s : State) : Out :=
  if s.rtQueue q || s.escaped.contains (router, inp, q) || !s.queueHolds (router, inp, q) then .next s
  else .next { s.modRouter router (fun k => { k with recoveries := k.recoveries.set inp (k.recoveries[inp] + 1) }) with escaped := s.escaped ++ [(router, inp, q)] }

/-- The partition of a packet's destination endpoint; the link die serves every partition. -/
def State.destPart (s : State) (p : Packet) : Option (BitVec 4) :=
  if p.dst = 0x3FF then none else (s.receiver p).map fun c => (s.space (s.coreAt c).ident.pasid).partition

/-- PARTITION_DROP (08 R273): a packet under way whose partition, that of its injection, differs from its destination's is dropped, counted and
refused. -/
def execPartitionDrop (router : Fin 288) (p : Packet) (s : State) : Out :=
  if s.pending.contains (arrivalOf p) && (s.destPart p).any (· != p.part) then
    .next ((State.clearEscapes { s with pending := s.pending.erase (arrivalOf p) }).modRouter router (fun k => { k with drops := k.drops + 1 })
      |>.answer p.src (.partitionRefusal p.lid p.src (packetMid p)))
  else .next s

/-- Whether a physical core stands in a Mizzen column. -/
def State.mizzenPhys (s : State) (p : BitVec 11) : Bool := decide (p.toNat < 1152) && (columnsWith s.mgmt.rigging 1).contains (p.toNat / 4 % 18)

/-- FIREWALL_DROP (01 R42, 14 R440): a packet that crosses into or out of a Mizzen column at one of its routers, and that no entry admits, is
dropped, which its sender does not learn of, and counted. -/
def execFirewallDrop (router : Fin 288) (kind : Fin 7) (src dst : BitVec 11) (s : State) : Out :=
  if !s.mizzenRouter router || s.mizzenPhys src == s.mizzenPhys dst || (s.routers[router]).admits kind src dst then .next s
  else .next (s.modRouter router fun k => { k with fireDrops := k.fireDrops + 1 })

end Sys2Proof.Machine
end

