-- ==== Sys2Proof/Machine/Coherence.lean ====
section
/-!
DEFINITION. The coherence protocol at the homes and the L1s (07 R223 to R227), read merging (06 R181) and the installation of a region
table (06 R178, R180). The directory entry of a line and the states of the L1s that hold it are one record (Line), so a request
changes both at once.
-/

namespace Sys2Proof.Machine

/-- A request that must wait for the host's exclusive copy is tried again after the snoop's answer (07 R225). -/
def afterHost (line : Nat) (again : Instr) (go : State → State) (s : State) : Out :=
  if s.hostHolds line then .next ((s.snoopHost line).park again) else .next (go s)

/-- Whether the home grants no copy of the line (07 R225, R228). -/
def State.noGrant (s : State) (line : Nat) : Bool := !s.lineValue line || s.armed line

/-- GETS (07 R225). -/
def execGets (c : CoreId) (line : Nat) (s : State) : Out :=
  afterHost line (.gets c line) (fun s => if !s.lineValue line then s.claimHome line else s.getS line c) s

/-- GETM (07 R225). -/
def execGetm (c : CoreId) (line : Nat) (s : State) : Out :=
  afterHost line (.getm c line) (fun s => if s.noGrant line then s.claimHome line else s.getM line c) s

/-- GETU (07 R225, R227): no U copy of a line of host or peer memory. -/
def execGetu (c : CoreId) (line : Nat) (op : BitVec 4) (w : BitVec 5) (s : State) : Out :=
  afterHost line (.getu c line op w) (fun s =>
    if !s.ownMem (64 * line) then s else if s.noGrant line then s.claimHome line else s.getU line c op w) s

/-- U_PARTIAL (07 R225): the evicted partial is combined into the home value. -/
def execUPartial (c : CoreId) (line : Nat) (s : State) : Out :=
  let e := s.line line
  match e.u.find? (·.core == c) with
  | none => .next s
  | some h =>
    let us := e.u.filter fun g => g.core != c
    let e' := { e with u := us, uop := if us.isEmpty then 0 else e.uop, uw := if us.isEmpty then 0 else e.uw }
    .next (((s.dropFrom line fun d => d == c.val).setLine line e').store (64 * line) (toBytes 64 (combinePart e.uop e.uw (s.lineData line) h.part).toNat))

/-- Whether a function of the package is usable: its bit of the ready map is set (14 R446). -/
def State.ready (s : State) (n : Nat) : Bool := s.mgmt.readyMap.getLsbD n

/-- An answer to the host. -/
def State.reply (s : State) (r : HostReply) : State := { s with toHost := s.toHost ++ [r] }

/-- A request that the package refuses is counted (14 R446). -/
def State.refusal (s : State) (r : HostReply) : State := { s with mgmt := { s.mgmt with refusedReqs := s.mgmt.refusedReqs + 1 } }.reply r

/-- Whether CXL.mem serves a line: device memory behind a channel that is usable (06 R175, 14 R446). -/
def State.memReady (s : State) (line : Nat) : Bool := s.ready 2 && s.ready (14 + s.channel (64 * line))

/-- What a host read of a line is answered with (14 R424). -/
def State.replyLine (s : State) (line : Nat) : State :=
  s.reply (if s.mgmt.poisoned.contains line then .poisoned line else .line line (s.lineData line))

/-- A CXL.mem request for a line of the package's device memory: refused with a poisoned completion while the memory is not ready. -/
def hostStep (line : Nat) (go : State → State) (s : State) : Out :=
  if !s.ownMem (64 * line) then .next s
  else if !s.memReady line then .next (s.refusal (.poisoned line))
  else .next (go s)

/-- HOST_READ (07 R225). -/
def execHostRead (line : Nat) (s : State) : Out :=
  hostStep line (fun s =>
    let t := (s.recall line).shareOwner line
    (t.setLine line { t.line line with host := if (t.line line).host = .exclusive then .exclusive else .shared }).replyLine line) s

/-- HOST_READ_OWN (07 R225): of a line that an armed entry covers the home asks the host for its value 64 cycles later. -/
def execHostReadOwn (line : Nat) (s : State) : Out :=
  hostStep line (fun s =>
    let t := s.claimHome line
    (t.setLine line { t.line line with host := .exclusive, reread := if t.armed line then t.cyc + 64 else 0 }).replyLine line) s

/-- HOST_WRITE (07 R225, 06 R180, 11 R350): the line is written, each of its cells becoming VALUE; device reads of a read-shared line
are unspecified from then on. -/
def execHostWrite (line : Nat) (data : Msg) (keep : HostCopy) (s : State) : Out :=
  hostStep line (fun s =>
    let t := (s.claimHome line).store (64 * line) (toBytes 64 data.toNat)
    t.setLine line { t.line line with host := keep, reread := if keep = .exclusive ∧ t.armed line then t.cyc + 64 else 0 }) s

/-- BISNP_RESPONSE (07 R225): the host's data, if it held the line modified, and the copy it keeps, which is no exclusive one. -/
def execBisnpResponse (line : Nat) (data : Option Msg) (keep : HostCopy) (s : State) : Out :=
  if !(s.line line).snooping then .next s
  else
    let t := match data with
      | some d => s.store (64 * line) (toBytes 64 d.toNat)
      | none => s
    .next (t.setLine line { t.line line with host := if keep = .none then .none else .shared, reread := 0, snooping := false })

/-- BISNP_REREAD (07 R225): an armed line that the host holds exclusively is asked for again every 1,024 cycles. -/
def execBisnpReread (line : Nat) (s : State) : Out :=
  if s.armed line && s.hostHolds line && decide ((s.line line).reread ≤ s.cyc) then
    .next ((s.snoopHost line).setLine line { (s.snoopHost line).line line with reread := s.cyc + 1024 })
  else .next s

/-- SNOOP_SHARE (07 R224). -/
def execSnoopShare (c : CoreId) (line : Nat) (s : State) : Out :=
  match (s.line line).owner with
  | some (o, _) => if o = c then .next (s.shareOwner line) else .next s
  | none => .next s

/-- SNOOP_INVALIDATE (07 R224): the copy is dropped; an owner's data is home. -/
def execSnoopInvalidate (c : CoreId) (line : Nat) (s : State) : Out :=
  if (s.line line).u.any (fun h => h.core == c) then .next s
  else
    let t := s.dropFrom line fun d => d == c.val
    match (s.line line).owner with
    | some (o, _) => if o = c then .next (t.setLine line { t.line line with owner := none }) else .next t
    | none => .next t

/-- RECALL (07 R226). -/
def execRecall (line : Nat) (s : State) : Out := .next (s.recall line)

/-- LINE_FILL (06 R181, 07 R223, R224): a line of a read-shared region, or the copy that the directory has granted in that state, stands in
core c's L1. -/
def execLineFill (c : CoreId) (line : Nat) (st : LineSt) (s : State) : Out :=
  let e := s.line line
  if s.readShared line then .next (s.fillL1 c line .shared)
  else
    let granted := match st with
      | .e | .m | .o => e.owner == some (c, st)
      | .s => e.sharers &&& sharerBit c != 0 && e.u.isEmpty && s.lineValue line
      | .u => e.u.any fun h => h.core == c
      | .i => false
    .next (if granted then s.fillL1 c line .tracked else s)

/-- HOST_SNPDATA (07 R227): the device holders of a host-memory line share it. -/
def execHostSnpdata (line : Nat) (s : State) : Out :=
  if !s.hostMem (64 * line) then .next s else .next ((s.shareOwner line).setLine line { (s.shareOwner line).line line with own := false })

/-- HOST_SNPINV (07 R227): the device holders of a host-memory line drop it. -/
def execHostSnpinv (line : Nat) (s : State) : Out :=
  if !s.hostMem (64 * line) then .next s
  else
    let t := s.dropFrom line fun _ => true
    .next (t.setLine line { t.line line with owner := none, sharers := 0, own := false })

/-! Read merging (06 R181). -/

/-- Where a read of a line goes (08 R268): to its home cluster, or to the link die for a line that a slice of the peer homes (06 R176). -/
def State.readDest (s : State) (line : Nat) : Nat := if s.peerMem (64 * line) then 288 else (s.homeCluster (64 * line)).val

/-- The next router of a read on its way (08 R268): in the reader's partition, route set 0 (log 55). -/
def State.nextRouter (s : State) (r : Fin 288) (line : Nat) (who : Reader) : Fin 288 :=
  let part := ((s.readerCore line who).map fun c => (s.space (s.coreAt c).ident.pasid).partition).getD 0
  let p := placeAt r
  let goal := s.destOf p (s.readDest line)
  routerAt (stepPort p (if (s.partitions[part.toNat]'(part.isLt)).compat then portX p goal else s.portOf r part 0 (s.readDest line) p goal))

/-- A read of a line at a router with an entry for it: absorbed. -/
def absorb (ms : List Merge) (line : Nat) (who : Reader) : List Merge :=
  ms.map fun m => if m.line = line then { m with waiters := m.waiters ++ [who] } else m

/-- What the home's reply to a reader is: its copy, or the reply to the router that tagged the read. -/
def replyTo (line : Nat) (who : Reader) : Instr := match who with
  | .core c => .lineFill c line .s
  | .router r => .mergeReply r line

/-- MERGE_READ (06 R181): at the home's router the read is answered, and at an attach router it leaves for the peer, whose home answers. On the way a router with an entry for the line absorbs it while fewer
than 8 wait beside the original requester; a router with a free entry allocates one for a read without a tag and tags it; else it passes
on. -/
def execMergeRead (router : Fin 288) (line : Nat) (who : Reader) (s : State) : Out :=
  if !s.readShared line then .next s
  else if router = routerAt (s.destOf (placeAt router) (s.readDest line)) then .next (s.post (replyTo line who))
  else
    let ms := (s.routers[router]).merge
    let next := s.nextRouter router line who
    match ms.find? fun m => m.line == line with
    | some m =>
      if m.waiters.length < 9 then .next (s.modRouter router fun k => { k with merge := absorb ms line who })
      else .next (s.post (.mergeRead next line who))
    | none => match who with
      | .core _ =>
        if ms.length < 16 then
          .next ((s.modRouter router fun k => { k with merge := ms ++ [{ line := line, waiters := [who] }] }).post (.mergeRead next line (.router router)))
        else .next (s.post (.mergeRead next line who))
      | .router _ => .next (s.post (.mergeRead next line who))

/-- MERGE_REPLY (06 R181): the original requester and every waiter has its copy, and the entry is freed. -/
def execMergeReply (router : Fin 288) (line : Nat) (s : State) : Out :=
  let ws := ((s.routers[router]).merge.filter fun m => m.line == line).flatMap (·.waiters)
  .next ((s.modRouter router fun k => { k with merge := k.merge.filter fun m => m.line != line }).postAll (ws.map (replyTo line)))

/-! Region tables (06 R178, R180). -/

/-- Whether a table keeps furl-capable entries inside device memory, as far as pages are granted (06 R178). -/
def State.tableOk (s : State) (pasid : BitVec 20) (table : List (BitVec 128)) : Bool :=
  decide (table.length ≤ 64) && s.hostPages.all fun g =>
    g.pasid != pasid || s.ownMem g.pa || s.peerMem g.pa
      || (table.all fun e => e.getLsbD 0 == false || bitsOf e.toNat 75 74 != 3
        || decide ((g.va + 2 ^ g.log - 1) / 4096 < bitsOf e.toNat 56 12 ∨ bitsOf e.toNat 120 76 < g.va / 4096))

/-- The virtual addresses at which an address space maps a physical address. -/
def State.mapsTo (s : State) (pasid : BitVec 20) (pa : Nat) : List Word :=
  s.hostPages.filterMap fun g =>
    if g.pasid = pasid ∧ g.pa ≤ pa ∧ pa < g.pa + 2 ^ g.log then some (va57 (BitVec.ofNat 64 (g.va + (pa - g.pa)))) else none

/-- Whether a line of memory is mapped by an address space. -/
def State.inSpace (s : State) (pasid : BitVec 20) (l : Nat) : Bool := !(s.mapsTo pasid (64 * l)).isEmpty

/-- The lines that p names written back and in no L1 (06 R180): partials are combined, private lines go home. -/
def State.drainLines (s : State) (p : Nat → Bool) : State :=
  let t := ((s.lines.filter fun e => p e.1).foldl (fun t e => t.recall e.1) s).emptyL1s fun _ w => p w.line
  { t with lines := t.lines.filterMap fun e =>
      if !p e.1 then some e
      else if e.2.host = .none then none
      else some (e.1, { e.2 with owner := none, sharers := 0, u := [], uop := 0, uw := 0 }) }

/-- Whether an event is an access of an address space that is not complete: at a home, or a read under way. -/
def State.accessOf (s : State) (pasid : BitVec 20) (i : Instr) : Bool :=
  let mine := fun (c : CoreId) => (s.coreAt c).ident.pasid == pasid
  match i with
  | .homeOperation op => op.dev == s.dev && mine op.core
  | .ringOpAtHome op => mine op.core
  | .furledRequestAtHome r => r.dev == s.dev && mine r.core
  | .mergeRead _ line who => (s.readerCore line who).any mine
  | .mergeReply r line => (s.readerCore line (.router r)).any mine
  | .lineFill c _ _ => mine c
  | _ => false

/-- Whether a Gaussian command of an address space is in the middle of its result, all of which it writes once it has begun (12 R378). -/
def State.gmWriting (s : State) (pasid : BitVec 20) (c : CoreId) : Bool :=
  (s.coreAt c).ident.lid.isSome && (s.coreAt c).ident.pasid == pasid && (s.coreAt c).gm.run.final.isSome

/-- Whether every address of a cell in the space is furl-capable before and after a new table. -/
def keepsTag (old new : List (BitVec 128)) (vas : List Word) : Bool :=
  vas.all fun va => (findRegion old 0 (low57 va / 4096)).attr == 3 && (findRegion new 0 (low57 va / 4096)).attr == 3

/-- REGION_TABLE_DRAIN (06 R178, R180, 11 R346): a table with a furl-capable entry outside device memory is refused; else, once the accesses
in flight are complete, lines are written back, merges and replicas dropped, the space's TLB entries flushed and the table installed.
Tags stay only where the cell is furl-capable under both tables. -/
def execRegionTableDrain (pasid : BitVec 20) (table : List (BitVec 128)) (s : State) : Out :=
  if !s.tableOk pasid table then .next s
  else if (s.pending ++ s.parked).any (s.accessOf pasid) || (List.finRange 1152).any (s.gmWriting pasid) then .next (s.park (.regionTableDrain pasid table))
  else
    let old := (s.space pasid).table
    let hit := s.inSpace pasid
    let t := s.drainLines hit
    let u : State := { t with
      tags := t.tags.filter fun e => (s.mapsTo pasid (8 * e.1)).isEmpty || keepsTag old table (s.mapsTo pasid (8 * e.1))
      stale := t.stale.filter fun l => !hit l
      routers := t.routers.map fun k => { k with merge := k.merge.filter fun m => !hit m.line }
      cores := t.cores.map fun k => { k with tlb1 := k.tlb1.filter fun g => g.pasid != pasid }
      clusters := t.clusters.map fun k => { k with replicas := k.replicas.filter (fun e => !hit e.1), tlb2 := k.tlb2.filter fun g => g.grant.pasid != pasid } }
    .next (u.setSpace pasid { u.space pasid with table := table })

end Sys2Proof.Machine
end

