-- ==== Sys2Proof/Decode.lean ====
section
/-!
DEFINITION. The decoder: from the bits of an instruction to the instruction, total, rejecting by name (02 R47 to R68), and the
encoder, written from the same tables. A slice w.extractLsb' l n is the field [l + n - 1 : l] of the word.
-/

namespace Sys2Proof

/-- A reserved field must be zero (02 R52). -/
def need (c : Prop) [Decidable c] (i : Instr) : Except DecodeError Instr :=
  if c then .ok i else .error .reservedField

/-- Major 0x01 (R59, R122). -/
noncomputable def decodeAlu (w : BitVec 32) : Except DecodeError Instr :=
  match (w.extractLsb' 0 10).toNat with
  | 0 => .ok (.add (w.extractLsb' 20 5) (w.extractLsb' 15 5) (w.extractLsb' 10 5))
  | 1 => .ok (.sub (w.extractLsb' 20 5) (w.extractLsb' 15 5) (w.extractLsb' 10 5))
  | 2 => .ok (.and (w.extractLsb' 20 5) (w.extractLsb' 15 5) (w.extractLsb' 10 5))
  | 3 => .ok (.or (w.extractLsb' 20 5) (w.extractLsb' 15 5) (w.extractLsb' 10 5))
  | 4 => .ok (.xor (w.extractLsb' 20 5) (w.extractLsb' 15 5) (w.extractLsb' 10 5))
  | 5 => .ok (.andn (w.extractLsb' 20 5) (w.extractLsb' 15 5) (w.extractLsb' 10 5))
  | 6 => .ok (.sll (w.extractLsb' 20 5) (w.extractLsb' 15 5) (w.extractLsb' 10 5))
  | 7 => .ok (.srl (w.extractLsb' 20 5) (w.extractLsb' 15 5) (w.extractLsb' 10 5))
  | 8 => .ok (.sra (w.extractLsb' 20 5) (w.extractLsb' 15 5) (w.extractLsb' 10 5))
  | 9 => .ok (.rol (w.extractLsb' 20 5) (w.extractLsb' 15 5) (w.extractLsb' 10 5))
  | 10 => .ok (.ror (w.extractLsb' 20 5) (w.extractLsb' 15 5) (w.extractLsb' 10 5))
  | 11 => .ok (.min (w.extractLsb' 20 5) (w.extractLsb' 15 5) (w.extractLsb' 10 5))
  | 12 => .ok (.max (w.extractLsb' 20 5) (w.extractLsb' 15 5) (w.extractLsb' 10 5))
  | 13 => .ok (.minu (w.extractLsb' 20 5) (w.extractLsb' 15 5) (w.extractLsb' 10 5))
  | 14 => .ok (.maxu (w.extractLsb' 20 5) (w.extractLsb' 15 5) (w.extractLsb' 10 5))
  | 15 => .ok (.slt (w.extractLsb' 20 5) (w.extractLsb' 15 5) (w.extractLsb' 10 5))
  | 16 => .ok (.sltu (w.extractLsb' 20 5) (w.extractLsb' 15 5) (w.extractLsb' 10 5))
  | 17 => .ok (.seq (w.extractLsb' 20 5) (w.extractLsb' 15 5) (w.extractLsb' 10 5))
  | 18 => .ok (.sne (w.extractLsb' 20 5) (w.extractLsb' 15 5) (w.extractLsb' 10 5))
  | 19 => .ok (.csel (w.extractLsb' 20 5) (w.extractLsb' 15 5) (w.extractLsb' 10 5))
  | _ => .error .unlistedSelector

/-- Major 0x06 (R59, R124). -/
noncomputable def decodeShiftImm (w : BitVec 32) : Except DecodeError Instr :=
  match (w.extractLsb' 12 3).toNat with
  | 0 => need (w.extractLsb' 6 6 = 0) (.slli (w.extractLsb' 20 5) (w.extractLsb' 15 5) (w.extractLsb' 0 6))
  | 1 => need (w.extractLsb' 6 6 = 0) (.srli (w.extractLsb' 20 5) (w.extractLsb' 15 5) (w.extractLsb' 0 6))
  | 2 => need (w.extractLsb' 6 6 = 0) (.srai (w.extractLsb' 20 5) (w.extractLsb' 15 5) (w.extractLsb' 0 6))
  | 3 => need (w.extractLsb' 6 6 = 0) (.rori (w.extractLsb' 20 5) (w.extractLsb' 15 5) (w.extractLsb' 0 6))
  | _ => .error .unlistedSelector

/-- Major 0x07 (R59, R124). -/
noncomputable def decodeSetImm (w : BitVec 32) : Except DecodeError Instr :=
  match (w.extractLsb' 12 3).toNat with
  | 0 => .ok (.slti (w.extractLsb' 20 5) (w.extractLsb' 15 5) (w.extractLsb' 0 12))
  | 1 => .ok (.sltiu (w.extractLsb' 20 5) (w.extractLsb' 15 5) (w.extractLsb' 0 12))
  | 2 => .ok (.seqi (w.extractLsb' 20 5) (w.extractLsb' 15 5) (w.extractLsb' 0 12))
  | 3 => .ok (.snei (w.extractLsb' 20 5) (w.extractLsb' 15 5) (w.extractLsb' 0 12))
  | _ => .error .unlistedSelector

/-- Major 0x0A (R59, R126). -/
noncomputable def decodeMulDiv (w : BitVec 32) : Except DecodeError Instr :=
  match (w.extractLsb' 0 10).toNat with
  | 0 => .ok (.mul (w.extractLsb' 20 5) (w.extractLsb' 15 5) (w.extractLsb' 10 5))
  | 1 => .ok (.mulhu (w.extractLsb' 20 5) (w.extractLsb' 15 5) (w.extractLsb' 10 5))
  | 2 => .ok (.mulh (w.extractLsb' 20 5) (w.extractLsb' 15 5) (w.extractLsb' 10 5))
  | 3 => .ok (.mulhus (w.extractLsb' 20 5) (w.extractLsb' 15 5) (w.extractLsb' 10 5))
  | 8 => .ok (.divu (w.extractLsb' 20 5) (w.extractLsb' 15 5) (w.extractLsb' 10 5))
  | 9 => .ok (.div (w.extractLsb' 20 5) (w.extractLsb' 15 5) (w.extractLsb' 10 5))
  | 10 => .ok (.remu (w.extractLsb' 20 5) (w.extractLsb' 15 5) (w.extractLsb' 10 5))
  | 11 => .ok (.rem (w.extractLsb' 20 5) (w.extractLsb' 15 5) (w.extractLsb' 10 5))
  | 12 => .ok (.mod (w.extractLsb' 20 5) (w.extractLsb' 15 5) (w.extractLsb' 10 5))
  | _ => .error .unlistedSelector

/-- Major 0x0B (R59, R127, R128). -/
noncomputable def decodeBit (w : BitVec 32) : Except DecodeError Instr :=
  match (w.extractLsb' 0 10).toNat with
  | 0 => need (w.extractLsb' 10 5 = 0) (.clz (w.extractLsb' 20 5) (w.extractLsb' 15 5))
  | 1 => need (w.extractLsb' 10 5 = 0) (.ctz (w.extractLsb' 20 5) (w.extractLsb' 15 5))
  | 2 => need (w.extractLsb' 10 5 = 0) (.popc (w.extractLsb' 20 5) (w.extractLsb' 15 5))
  | 3 => need (w.extractLsb' 10 5 = 0) (.brev (w.extractLsb' 20 5) (w.extractLsb' 15 5))
  | 4 => need (w.extractLsb' 10 5 = 0) (.extB (w.extractLsb' 20 5) (w.extractLsb' 15 5))
  | 5 => need (w.extractLsb' 10 5 = 0) (.extH (w.extractLsb' 20 5) (w.extractLsb' 15 5))
  | 6 => need (w.extractLsb' 10 5 = 0) (.extW (w.extractLsb' 20 5) (w.extractLsb' 15 5))
  | 7 => need (w.extractLsb' 10 5 = 0) (.extBu (w.extractLsb' 20 5) (w.extractLsb' 15 5))
  | 8 => need (w.extractLsb' 10 5 = 0) (.extHu (w.extractLsb' 20 5) (w.extractLsb' 15 5))
  | 9 => need (w.extractLsb' 10 5 = 0) (.extWu (w.extractLsb' 20 5) (w.extractLsb' 15 5))
  | 16 => .ok (.bfx (w.extractLsb' 20 5) (w.extractLsb' 15 5) (w.extractLsb' 10 5))
  | 17 => .ok (.bfxu (w.extractLsb' 20 5) (w.extractLsb' 15 5) (w.extractLsb' 10 5))
  | 18 => .ok (.bfi (w.extractLsb' 20 5) (w.extractLsb' 15 5) (w.extractLsb' 10 5))
  | _ => .error .unlistedSelector

/-- Major 0x0C (R59, R129 to R131). -/
noncomputable def decodePointer (w : BitVec 32) : Except DecodeError Instr :=
  match (w.extractLsb' 12 3).toNat with
  | 0 => need (w.extractLsb' 0 5 = 0) (.ptag (w.extractLsb' 20 5) (w.extractLsb' 15 5) (w.extractLsb' 8 4) (w.extractLsb' 5 3))
  | 1 => need (w.extractLsb' 0 7 = 0) (.padd (w.extractLsb' 20 5) (w.extractLsb' 15 5) (w.extractLsb' 7 5))
  | 2 => need (w.extractLsb' 0 12 = 0) (.pchk (w.extractLsb' 20 5) (w.extractLsb' 15 5))
  | _ => .error .unlistedSelector

/-- Major 0x0D (R59, R133). -/
noncomputable def decodeFpArith (w : BitVec 32) : Except DecodeError Instr :=
  match (w.extractLsb' 0 4).toNat with
  | 0 => need (w.extractLsb' 5 5 = 0) (.fadd (w.extractLsb' 20 5) (w.extractLsb' 15 5) (w.extractLsb' 10 5) (w.extractLsb' 4 1))
  | 1 => need (w.extractLsb' 5 5 = 0) (.fsub (w.extractLsb' 20 5) (w.extractLsb' 15 5) (w.extractLsb' 10 5) (w.extractLsb' 4 1))
  | 2 => need (w.extractLsb' 5 5 = 0) (.fmul (w.extractLsb' 20 5) (w.extractLsb' 15 5) (w.extractLsb' 10 5) (w.extractLsb' 4 1))
  | 3 => need (w.extractLsb' 5 5 = 0) (.fdiv (w.extractLsb' 20 5) (w.extractLsb' 15 5) (w.extractLsb' 10 5) (w.extractLsb' 4 1))
  | 4 => need (w.extractLsb' 5 10 = 0) (.fsqrt (w.extractLsb' 20 5) (w.extractLsb' 15 5) (w.extractLsb' 4 1))
  | 5 => need (w.extractLsb' 5 5 = 0) (.fmin (w.extractLsb' 20 5) (w.extractLsb' 15 5) (w.extractLsb' 10 5) (w.extractLsb' 4 1))
  | 6 => need (w.extractLsb' 5 5 = 0) (.fmax (w.extractLsb' 20 5) (w.extractLsb' 15 5) (w.extractLsb' 10 5) (w.extractLsb' 4 1))
  | 7 => need (w.extractLsb' 5 5 = 0) (.fma (w.extractLsb' 20 5) (w.extractLsb' 15 5) (w.extractLsb' 10 5) (w.extractLsb' 4 1))
  | _ => .error .unlistedSelector

/-- Major 0x0E (R59, R134). -/
noncomputable def decodeFpCmp (w : BitVec 32) : Except DecodeError Instr :=
  match (w.extractLsb' 0 4).toNat with
  | 0 => need (w.extractLsb' 5 5 = 0) (.feq (w.extractLsb' 20 5) (w.extractLsb' 15 5) (w.extractLsb' 10 5) (w.extractLsb' 4 1))
  | 1 => need (w.extractLsb' 5 5 = 0) (.flt (w.extractLsb' 20 5) (w.extractLsb' 15 5) (w.extractLsb' 10 5) (w.extractLsb' 4 1))
  | 2 => need (w.extractLsb' 5 5 = 0) (.fle (w.extractLsb' 20 5) (w.extractLsb' 15 5) (w.extractLsb' 10 5) (w.extractLsb' 4 1))
  | 3 => need (w.extractLsb' 5 10 = 0) (.fclass (w.extractLsb' 20 5) (w.extractLsb' 15 5) (w.extractLsb' 4 1))
  | 4 => need (w.extractLsb' 5 10 = 0) (.ftoi (w.extractLsb' 20 5) (w.extractLsb' 15 5) (w.extractLsb' 4 1))
  | 5 => need (w.extractLsb' 5 10 = 0) (.ftoiu (w.extractLsb' 20 5) (w.extractLsb' 15 5) (w.extractLsb' 4 1))
  | 6 => need (w.extractLsb' 5 10 = 0) (.itof (w.extractLsb' 20 5) (w.extractLsb' 15 5) (w.extractLsb' 4 1))
  | 7 => need (w.extractLsb' 5 10 = 0) (.iutof (w.extractLsb' 20 5) (w.extractLsb' 15 5) (w.extractLsb' 4 1))
  | 8 => need (w.extractLsb' 5 10 = 0) (.ftof (w.extractLsb' 20 5) (w.extractLsb' 15 5) (w.extractLsb' 4 1))
  | _ => .error .unlistedSelector

/-- Major 0x18 (R60, R140). -/
noncomputable def decodeLoop (w : BitVec 32) : Except DecodeError Instr :=
  match (w.extractLsb' 24 1).toNat with
  | 0 => need (w.extractLsb' 20 4 = 0) (.loop (w.extractLsb' 15 5) (w.extractLsb' 0 15))
  | 1 => .ok (.loopi (w.extractLsb' 15 9) (w.extractLsb' 0 15))
  | _ => .error .unlistedSelector

/-- Major 0x19 (R60). -/
noncomputable def decodeTask (w : BitVec 32) : Except DecodeError Instr :=
  match (w.extractLsb' 0 10).toNat with
  | 1 => need (w.extractLsb' 10 15 = 0) (.endTask)
  | 2 => need (w.extractLsb' 10 15 = 0) (.yield)
  | 3 => need (w.extractLsb' 20 5 = 0 ∧ w.extractLsb' 10 5 = 0) (.done (w.extractLsb' 15 5))
  | 4 => need (w.extractLsb' 10 15 = 0) (.nop)
  | _ => .error .unlistedSelector

/-- Major 0x1C (R62, R194). -/
noncomputable def decodeLoad (w : BitVec 32) : Except DecodeError Instr :=
  match (w.extractLsb' 12 3).toNat with
  | 0 => .ok (.ldB (w.extractLsb' 20 5) (w.extractLsb' 15 5) (w.extractLsb' 0 12))
  | 1 => .ok (.ldH (w.extractLsb' 20 5) (w.extractLsb' 15 5) (w.extractLsb' 0 12))
  | 2 => .ok (.ldW (w.extractLsb' 20 5) (w.extractLsb' 15 5) (w.extractLsb' 0 12))
  | 3 => .ok (.ldD (w.extractLsb' 20 5) (w.extractLsb' 15 5) (w.extractLsb' 0 12))
  | 4 => .ok (.ldBu (w.extractLsb' 20 5) (w.extractLsb' 15 5) (w.extractLsb' 0 12))
  | 5 => .ok (.ldHu (w.extractLsb' 20 5) (w.extractLsb' 15 5) (w.extractLsb' 0 12))
  | 6 => .ok (.ldWu (w.extractLsb' 20 5) (w.extractLsb' 15 5) (w.extractLsb' 0 12))
  | _ => .error .unlistedSelector

/-- Major 0x1D (R62, R194). -/
noncomputable def decodeStore (w : BitVec 32) : Except DecodeError Instr :=
  match (w.extractLsb' 12 3).toNat with
  | 0 => .ok (.stB (w.extractLsb' 20 5) (w.extractLsb' 15 5) (w.extractLsb' 0 12))
  | 1 => .ok (.stH (w.extractLsb' 20 5) (w.extractLsb' 15 5) (w.extractLsb' 0 12))
  | 2 => .ok (.stW (w.extractLsb' 20 5) (w.extractLsb' 15 5) (w.extractLsb' 0 12))
  | 3 => .ok (.stD (w.extractLsb' 20 5) (w.extractLsb' 15 5) (w.extractLsb' 0 12))
  | _ => .error .unlistedSelector

/-- Major 0x1E (R62, R201). -/
noncomputable def decodeVecMem (w : BitVec 32) : Except DecodeError Instr :=
  match (w.extractLsb' 3 4).toNat with
  | 0 => need (w.extractLsb' 10 5 = 0 ∧ w.extractLsb' 0 1 = 0) (.vld (w.extractLsb' 20 5) (w.extractLsb' 15 5) (w.extractLsb' 7 3) (w.extractLsb' 1 2))
  | 1 => need (w.extractLsb' 10 5 = 0 ∧ w.extractLsb' 0 1 = 0) (.vst (w.extractLsb' 20 5) (w.extractLsb' 15 5) (w.extractLsb' 7 3) (w.extractLsb' 1 2))
  | 2 => need (w.extractLsb' 0 1 = 0) (.vlds (w.extractLsb' 20 5) (w.extractLsb' 15 5) (w.extractLsb' 10 5) (w.extractLsb' 7 3) (w.extractLsb' 1 2))
  | 3 => need (w.extractLsb' 0 1 = 0) (.vsts (w.extractLsb' 20 5) (w.extractLsb' 15 5) (w.extractLsb' 10 5) (w.extractLsb' 7 3) (w.extractLsb' 1 2))
  | 4 => need (w.extractLsb' 0 1 = 0) (.vldg (w.extractLsb' 20 5) (w.extractLsb' 15 5) (w.extractLsb' 10 5) (w.extractLsb' 7 3) (w.extractLsb' 1 2))
  | 5 => need (w.extractLsb' 0 1 = 0) (.vstg (w.extractLsb' 20 5) (w.extractLsb' 15 5) (w.extractLsb' 10 5) (w.extractLsb' 7 3) (w.extractLsb' 1 2))
  | 6 => need (w.extractLsb' 10 5 = 0) (.vldt (w.extractLsb' 20 5) (w.extractLsb' 15 5) (w.extractLsb' 7 3) (w.extractLsb' 1 2) (w.extractLsb' 0 1))
  | 7 => need (w.extractLsb' 10 5 = 0) (.vstt (w.extractLsb' 20 5) (w.extractLsb' 15 5) (w.extractLsb' 7 3) (w.extractLsb' 1 2) (w.extractLsb' 0 1))
  | 8 => need (w.extractLsb' 4 1 = 0) (.vldf (w.extractLsb' 20 5) (w.extractLsb' 15 5) (w.extractLsb' 10 5) (w.extractLsb' 7 3) (w.extractLsb' 0 4))
  | 9 => need (w.extractLsb' 4 1 = 0) (.vldf (w.extractLsb' 20 5) (w.extractLsb' 15 5) (w.extractLsb' 10 5) (w.extractLsb' 7 3) (w.extractLsb' 0 4))
  | 12 => need (w.extractLsb' 4 1 = 0) (.vstf (w.extractLsb' 20 5) (w.extractLsb' 15 5) (w.extractLsb' 10 5) (w.extractLsb' 7 3) (w.extractLsb' 0 4))
  | 13 => need (w.extractLsb' 4 1 = 0) (.vstf (w.extractLsb' 20 5) (w.extractLsb' 15 5) (w.extractLsb' 10 5) (w.extractLsb' 7 3) (w.extractLsb' 0 4))
  | _ => .error .reservedField

/-- Major 0x1F (R62, R197). -/
noncomputable def decodeOrder (w : BitVec 32) : Except DecodeError Instr :=
  match (w.extractLsb' 8 3).toNat with
  | 0 => need (w.extractLsb' 15 10 = 0 ∧ w.extractLsb' 0 5 = 0) (.fence (w.extractLsb' 11 4) (w.extractLsb' 5 3))
  | 1 => need (w.extractLsb' 0 5 = 0) (.ldAcq (w.extractLsb' 20 5) (w.extractLsb' 15 5) (w.extractLsb' 11 4) (w.extractLsb' 5 3))
  | 2 => need (w.extractLsb' 0 5 = 0) (.stRel (w.extractLsb' 20 5) (w.extractLsb' 15 5) (w.extractLsb' 11 4) (w.extractLsb' 5 3))
  | 3 => need (w.extractLsb' 20 5 = 0 ∧ w.extractLsb' 6 2 = 0 ∧ w.extractLsb' 11 4 = 0 ∧ w.extractLsb' 0 5 = 0) (.pref (w.extractLsb' 15 5) (w.extractLsb' 5 1))
  | 4 => need (w.extractLsb' 0 8 = 0 ∧ w.extractLsb' 11 14 = 0) (.ifence)
  | _ => .error .unlistedSelector

/-- Major 0x20 (R63). -/
noncomputable def decodeAtomic (w : BitVec 32) : Except DecodeError Instr :=
  match (w.extractLsb' 0 4).toNat with
  | 0 => .ok (.amoaddW (w.extractLsb' 20 5) (w.extractLsb' 15 5) (w.extractLsb' 10 5) (w.extractLsb' 6 4) (w.extractLsb' 4 2))
  | 1 => .ok (.amoaddD (w.extractLsb' 20 5) (w.extractLsb' 15 5) (w.extractLsb' 10 5) (w.extractLsb' 6 4) (w.extractLsb' 4 2))
  | 2 => .ok (.amoandD (w.extractLsb' 20 5) (w.extractLsb' 15 5) (w.extractLsb' 10 5) (w.extractLsb' 6 4) (w.extractLsb' 4 2))
  | 3 => .ok (.amoorD (w.extractLsb' 20 5) (w.extractLsb' 15 5) (w.extractLsb' 10 5) (w.extractLsb' 6 4) (w.extractLsb' 4 2))
  | 4 => .ok (.amoxorD (w.extractLsb' 20 5) (w.extractLsb' 15 5) (w.extractLsb' 10 5) (w.extractLsb' 6 4) (w.extractLsb' 4 2))
  | 5 => .ok (.amominD (w.extractLsb' 20 5) (w.extractLsb' 15 5) (w.extractLsb' 10 5) (w.extractLsb' 6 4) (w.extractLsb' 4 2))
  | 6 => .ok (.amomaxD (w.extractLsb' 20 5) (w.extractLsb' 15 5) (w.extractLsb' 10 5) (w.extractLsb' 6 4) (w.extractLsb' 4 2))
  | 7 => .ok (.amominuD (w.extractLsb' 20 5) (w.extractLsb' 15 5) (w.extractLsb' 10 5) (w.extractLsb' 6 4) (w.extractLsb' 4 2))
  | 8 => .ok (.amomaxuD (w.extractLsb' 20 5) (w.extractLsb' 15 5) (w.extractLsb' 10 5) (w.extractLsb' 6 4) (w.extractLsb' 4 2))
  | 9 => .ok (.amoswapW (w.extractLsb' 20 5) (w.extractLsb' 15 5) (w.extractLsb' 10 5) (w.extractLsb' 6 4) (w.extractLsb' 4 2))
  | 10 => .ok (.amoswapD (w.extractLsb' 20 5) (w.extractLsb' 15 5) (w.extractLsb' 10 5) (w.extractLsb' 6 4) (w.extractLsb' 4 2))
  | 11 => .ok (.amocasW (w.extractLsb' 20 5) (w.extractLsb' 15 5) (w.extractLsb' 10 5) (w.extractLsb' 6 4) (w.extractLsb' 4 2))
  | 12 => .ok (.amocasD (w.extractLsb' 20 5) (w.extractLsb' 15 5) (w.extractLsb' 10 5) (w.extractLsb' 6 4) (w.extractLsb' 4 2))
  | 13 => .ok (.amocas2Q (w.extractLsb' 20 5) (w.extractLsb' 15 5) (w.extractLsb' 10 5) (w.extractLsb' 6 4) (w.extractLsb' 4 2))
  | 14 => .ok (.famoaddF32 (w.extractLsb' 20 5) (w.extractLsb' 15 5) (w.extractLsb' 10 5) (w.extractLsb' 6 4) (w.extractLsb' 4 2))
  | _ => .error .unlistedSelector

/-- Major 0x21 (R63). -/
noncomputable def decodeReduce (w : BitVec 32) : Except DecodeError Instr :=
  match (w.extractLsb' 0 4).toNat with
  | 0 => .ok (.redadd (w.extractLsb' 20 5) (w.extractLsb' 15 5) (w.extractLsb' 10 5) (w.extractLsb' 6 4) (w.extractLsb' 4 2))
  | 1 => .ok (.redand (w.extractLsb' 20 5) (w.extractLsb' 15 5) (w.extractLsb' 10 5) (w.extractLsb' 6 4) (w.extractLsb' 4 2))
  | 2 => .ok (.redor (w.extractLsb' 20 5) (w.extractLsb' 15 5) (w.extractLsb' 10 5) (w.extractLsb' 6 4) (w.extractLsb' 4 2))
  | 3 => .ok (.redxor (w.extractLsb' 20 5) (w.extractLsb' 15 5) (w.extractLsb' 10 5) (w.extractLsb' 6 4) (w.extractLsb' 4 2))
  | 4 => .ok (.redmin (w.extractLsb' 20 5) (w.extractLsb' 15 5) (w.extractLsb' 10 5) (w.extractLsb' 6 4) (w.extractLsb' 4 2))
  | 5 => .ok (.redmax (w.extractLsb' 20 5) (w.extractLsb' 15 5) (w.extractLsb' 10 5) (w.extractLsb' 6 4) (w.extractLsb' 4 2))
  | 6 => .ok (.redminu (w.extractLsb' 20 5) (w.extractLsb' 15 5) (w.extractLsb' 10 5) (w.extractLsb' 6 4) (w.extractLsb' 4 2))
  | 7 => .ok (.redmaxu (w.extractLsb' 20 5) (w.extractLsb' 15 5) (w.extractLsb' 10 5) (w.extractLsb' 6 4) (w.extractLsb' 4 2))
  | 8 => .ok (.waita (w.extractLsb' 20 5) (w.extractLsb' 15 5) (w.extractLsb' 10 5) (w.extractLsb' 6 4) (w.extractLsb' 4 2))
  | _ => .error .unlistedSelector

/-- Major 0x22 (R63). -/
noncomputable def decodeBarrier (w : BitVec 32) : Except DecodeError Instr :=
  match (w.extractLsb' 0 4).toNat with
  | 0 => need (w.extractLsb' 6 19 = 0) (.bar (w.extractLsb' 4 2))
  | 1 => need (w.extractLsb' 6 19 = 0) (.bara (w.extractLsb' 4 2))
  | 2 => need (w.extractLsb' 6 19 = 0) (.barw (w.extractLsb' 4 2))
  | 3 => .ok (.vredg (w.extractLsb' 20 5) (w.extractLsb' 15 5) (w.extractLsb' 10 5) (w.extractLsb' 6 4) (w.extractLsb' 4 2))
  | _ => .error .unlistedSelector

/-- Major 0x24 (R65). -/
noncomputable def decodeMessage (w : BitVec 32) : Except DecodeError Instr :=
  match (w.extractLsb' 0 4).toNat with
  | 0 => need (w.extractLsb' 4 16 = 0) (.send (w.extractLsb' 20 5))
  | 1 => need (w.extractLsb' 4 16 = 0) (.spawn (w.extractLsb' 20 5))
  | 2 => need (w.extractLsb' 4 21 = 0) (.flush)
  | 3 => need (w.extractLsb' 10 15 = 0) (.clsen (w.extractLsb' 4 6))
  | 4 => need (w.extractLsb' 10 15 = 0) (.clsdis (w.extractLsb' 4 6))
  | 5 => need (w.extractLsb' 4 16 = 0) (.clspend (w.extractLsb' 20 5))
  | _ => .error .unlistedSelector

/-- Major 0x25 (R65). -/
noncomputable def decodeRing (w : BitVec 32) : Except DecodeError Instr :=
  match (w.extractLsb' 0 4).toNat with
  | 0 => need (w.extractLsb' 9 6 = 0) (.qpush (w.extractLsb' 20 5) (w.extractLsb' 15 5) (w.extractLsb' 4 5))
  | 1 => need (w.extractLsb' 9 1 = 0) (.qpop (w.extractLsb' 20 5) (w.extractLsb' 15 5) (w.extractLsb' 10 5) (w.extractLsb' 4 5))
  | 2 => need (w.extractLsb' 20 5 = 0 ∧ w.extractLsb' 9 6 = 0) (.qeos (w.extractLsb' 15 5) (w.extractLsb' 4 5))
  | _ => .error .unlistedSelector

/-- Major 0x26 (R65). -/
noncomputable def decodeDepend (w : BitVec 32) : Except DecodeError Instr :=
  match (w.extractLsb' 0 4).toNat with
  | 0 => need (w.extractLsb' 4 16 = 0) (.launch (w.extractLsb' 20 5))
  | 1 => need (w.extractLsb' 6 4 = 0) (.depset (w.extractLsb' 20 5) (w.extractLsb' 15 5) (w.extractLsb' 10 5) (w.extractLsb' 4 2))
  | 2 => need (w.extractLsb' 4 16 = 0) (.depdec (w.extractLsb' 20 5))
  | 3 => need (w.extractLsb' 10 5 = 0 ∧ w.extractLsb' 4 2 = 0) (.signal (w.extractLsb' 20 5) (w.extractLsb' 15 5) (w.extractLsb' 6 4))
  | _ => .error .unlistedSelector

/-- Major 0x27 (R65). -/
noncomputable def decodeEngine (w : BitVec 32) : Except DecodeError Instr :=
  match (w.extractLsb' 0 4).toNat with
  | 0 => need (w.extractLsb' 4 16 = 0) (.enq (w.extractLsb' 20 5))
  | 1 => need (w.extractLsb' 7 13 = 0) (.deq (w.extractLsb' 20 5) (w.extractLsb' 4 3))
  | 2 => need (w.extractLsb' 7 13 = 0) (.epoll (w.extractLsb' 20 5) (w.extractLsb' 4 3))
  | _ => .error .unlistedSelector

/-- Major 0x28 (R65). -/
noncomputable def decodeFurled (w : BitVec 32) : Except DecodeError Instr :=
  match (w.extractLsb' 0 4).toNat with
  | 0 => need (w.extractLsb' 6 4 = 0) (.furl (w.extractLsb' 20 5) (w.extractLsb' 15 5) (w.extractLsb' 10 5) (w.extractLsb' 4 2))
  | 1 => need (w.extractLsb' 4 6 = 0) (.unfurl (w.extractLsb' 20 5) (w.extractLsb' 15 5) (w.extractLsb' 10 5))
  | 2 => need (w.extractLsb' 4 11 = 0) (.fpeek (w.extractLsb' 20 5) (w.extractLsb' 15 5))
  | 3 => need (w.extractLsb' 4 11 = 0) (.ftag (w.extractLsb' 20 5) (w.extractLsb' 15 5))
  | 4 => need (w.extractLsb' 4 11 = 0) (.fcancel (w.extractLsb' 20 5) (w.extractLsb' 15 5))
  | _ => .error .unlistedSelector

/-- Major 0x29 (R65). -/
noncomputable def decodeSplice (w : BitVec 32) : Except DecodeError Instr :=
  match (w.extractLsb' 0 4).toNat with
  | 0 => need (w.extractLsb' 4 16 = 0) (.spop (w.extractLsb' 20 5))
  | 1 => need (w.extractLsb' 20 5 = 0 ∧ w.extractLsb' 4 6 = 0) (.spush (w.extractLsb' 15 5) (w.extractLsb' 10 5))
  | 2 => need (w.extractLsb' 4 16 = 0) (.salloc (w.extractLsb' 20 5))
  | 3 => need (w.extractLsb' 20 5 = 0 ∧ w.extractLsb' 4 11 = 0) (.sfree (w.extractLsb' 15 5))
  | 4 => need (w.extractLsb' 4 6 = 0) (.slink (w.extractLsb' 20 5) (w.extractLsb' 15 5) (w.extractLsb' 10 5))
  | 5 => need (w.extractLsb' 4 11 = 0) (.sread (w.extractLsb' 20 5) (w.extractLsb' 15 5))
  | _ => .error .unlistedSelector

/-- Major 0x30 (R66, R155). -/
noncomputable def decodeVecInt (w : BitVec 32) : Except DecodeError Instr :=
  match (w.extractLsb' 0 5).toNat with
  | 0 => .ok (.vadd (w.extractLsb' 20 5) (w.extractLsb' 15 5) (w.extractLsb' 10 5) (w.extractLsb' 7 3) (w.extractLsb' 5 2))
  | 1 => .ok (.vsub (w.extractLsb' 20 5) (w.extractLsb' 15 5) (w.extractLsb' 10 5) (w.extractLsb' 7 3) (w.extractLsb' 5 2))
  | 2 => .ok (.vaddSat (w.extractLsb' 20 5) (w.extractLsb' 15 5) (w.extractLsb' 10 5) (w.extractLsb' 7 3) (w.extractLsb' 5 2))
  | 3 => .ok (.vsubSat (w.extractLsb' 20 5) (w.extractLsb' 15 5) (w.extractLsb' 10 5) (w.extractLsb' 7 3) (w.extractLsb' 5 2))
  | 4 => .ok (.vadduSat (w.extractLsb' 20 5) (w.extractLsb' 15 5) (w.extractLsb' 10 5) (w.extractLsb' 7 3) (w.extractLsb' 5 2))
  | 5 => .ok (.vsubuSat (w.extractLsb' 20 5) (w.extractLsb' 15 5) (w.extractLsb' 10 5) (w.extractLsb' 7 3) (w.extractLsb' 5 2))
  | 6 => .ok (.vmul (w.extractLsb' 20 5) (w.extractLsb' 15 5) (w.extractLsb' 10 5) (w.extractLsb' 7 3) (w.extractLsb' 5 2))
  | 7 => .ok (.vmulh (w.extractLsb' 20 5) (w.extractLsb' 15 5) (w.extractLsb' 10 5) (w.extractLsb' 7 3) (w.extractLsb' 5 2))
  | 8 => .ok (.vmulhu (w.extractLsb' 20 5) (w.extractLsb' 15 5) (w.extractLsb' 10 5) (w.extractLsb' 7 3) (w.extractLsb' 5 2))
  | 9 => .ok (.vmin (w.extractLsb' 20 5) (w.extractLsb' 15 5) (w.extractLsb' 10 5) (w.extractLsb' 7 3) (w.extractLsb' 5 2))
  | 10 => .ok (.vmax (w.extractLsb' 20 5) (w.extractLsb' 15 5) (w.extractLsb' 10 5) (w.extractLsb' 7 3) (w.extractLsb' 5 2))
  | 11 => .ok (.vminu (w.extractLsb' 20 5) (w.extractLsb' 15 5) (w.extractLsb' 10 5) (w.extractLsb' 7 3) (w.extractLsb' 5 2))
  | 12 => .ok (.vmaxu (w.extractLsb' 20 5) (w.extractLsb' 15 5) (w.extractLsb' 10 5) (w.extractLsb' 7 3) (w.extractLsb' 5 2))
  | 13 => need (w.extractLsb' 10 5 = 0) (.vabs (w.extractLsb' 20 5) (w.extractLsb' 15 5) (w.extractLsb' 7 3) (w.extractLsb' 5 2))
  | _ => .error .unlistedSelector

/-- Major 0x31 (R66, R156). -/
noncomputable def decodeVecLogic (w : BitVec 32) : Except DecodeError Instr :=
  match (w.extractLsb' 0 5).toNat with
  | 0 => .ok (.vand (w.extractLsb' 20 5) (w.extractLsb' 15 5) (w.extractLsb' 10 5) (w.extractLsb' 7 3) (w.extractLsb' 5 2))
  | 1 => .ok (.vor (w.extractLsb' 20 5) (w.extractLsb' 15 5) (w.extractLsb' 10 5) (w.extractLsb' 7 3) (w.extractLsb' 5 2))
  | 2 => .ok (.vxor (w.extractLsb' 20 5) (w.extractLsb' 15 5) (w.extractLsb' 10 5) (w.extractLsb' 7 3) (w.extractLsb' 5 2))
  | 3 => .ok (.vandn (w.extractLsb' 20 5) (w.extractLsb' 15 5) (w.extractLsb' 10 5) (w.extractLsb' 7 3) (w.extractLsb' 5 2))
  | 4 => need (w.extractLsb' 10 5 = 0) (.vnot (w.extractLsb' 20 5) (w.extractLsb' 15 5) (w.extractLsb' 7 3) (w.extractLsb' 5 2))
  | 5 => .ok (.vsll (w.extractLsb' 20 5) (w.extractLsb' 15 5) (w.extractLsb' 10 5) (w.extractLsb' 7 3) (w.extractLsb' 5 2))
  | 6 => .ok (.vsrl (w.extractLsb' 20 5) (w.extractLsb' 15 5) (w.extractLsb' 10 5) (w.extractLsb' 7 3) (w.extractLsb' 5 2))
  | 7 => .ok (.vsra (w.extractLsb' 20 5) (w.extractLsb' 15 5) (w.extractLsb' 10 5) (w.extractLsb' 7 3) (w.extractLsb' 5 2))
  | 8 => .ok (.vsel (w.extractLsb' 20 5) (w.extractLsb' 15 5) (w.extractLsb' 10 5) (w.extractLsb' 7 3) (w.extractLsb' 5 2))
  | _ => .error .unlistedSelector

/-- Major 0x32 (R66, R158). -/
noncomputable def decodeVecCmp (w : BitVec 32) : Except DecodeError Instr :=
  match (w.extractLsb' 0 5).toNat with
  | 0 => need (w.extractLsb' 23 2 = 0) (.vceq (w.extractLsb' 20 3) (w.extractLsb' 15 5) (w.extractLsb' 10 5) (w.extractLsb' 7 3) (w.extractLsb' 5 2))
  | 1 => need (w.extractLsb' 23 2 = 0) (.vcne (w.extractLsb' 20 3) (w.extractLsb' 15 5) (w.extractLsb' 10 5) (w.extractLsb' 7 3) (w.extractLsb' 5 2))
  | 2 => need (w.extractLsb' 23 2 = 0) (.vclt (w.extractLsb' 20 3) (w.extractLsb' 15 5) (w.extractLsb' 10 5) (w.extractLsb' 7 3) (w.extractLsb' 5 2))
  | 3 => need (w.extractLsb' 23 2 = 0) (.vcle (w.extractLsb' 20 3) (w.extractLsb' 15 5) (w.extractLsb' 10 5) (w.extractLsb' 7 3) (w.extractLsb' 5 2))
  | 4 => need (w.extractLsb' 23 2 = 0) (.vcltu (w.extractLsb' 20 3) (w.extractLsb' 15 5) (w.extractLsb' 10 5) (w.extractLsb' 7 3) (w.extractLsb' 5 2))
  | 5 => need (w.extractLsb' 23 2 = 0) (.vcleu (w.extractLsb' 20 3) (w.extractLsb' 15 5) (w.extractLsb' 10 5) (w.extractLsb' 7 3) (w.extractLsb' 5 2))
  | 8 => need (w.extractLsb' 23 2 = 0) (.vfceq (w.extractLsb' 20 3) (w.extractLsb' 15 5) (w.extractLsb' 10 5) (w.extractLsb' 7 3) (w.extractLsb' 5 2))
  | 9 => need (w.extractLsb' 23 2 = 0) (.vfclt (w.extractLsb' 20 3) (w.extractLsb' 15 5) (w.extractLsb' 10 5) (w.extractLsb' 7 3) (w.extractLsb' 5 2))
  | 10 => need (w.extractLsb' 23 2 = 0) (.vfcle (w.extractLsb' 20 3) (w.extractLsb' 15 5) (w.extractLsb' 10 5) (w.extractLsb' 7 3) (w.extractLsb' 5 2))
  | 11 => need (w.extractLsb' 23 2 = 0) (.vfcun (w.extractLsb' 20 3) (w.extractLsb' 15 5) (w.extractLsb' 10 5) (w.extractLsb' 7 3) (w.extractLsb' 5 2))
  | _ => .error .unlistedSelector

/-- Major 0x33 (R66, R159). -/
noncomputable def decodeVecFp (w : BitVec 32) : Except DecodeError Instr :=
  match (w.extractLsb' 0 5).toNat with
  | 0 => .ok (.vfadd (w.extractLsb' 20 5) (w.extractLsb' 15 5) (w.extractLsb' 10 5) (w.extractLsb' 7 3) (w.extractLsb' 5 2))
  | 1 => .ok (.vfsub (w.extractLsb' 20 5) (w.extractLsb' 15 5) (w.extractLsb' 10 5) (w.extractLsb' 7 3) (w.extractLsb' 5 2))
  | 2 => .ok (.vfmul (w.extractLsb' 20 5) (w.extractLsb' 15 5) (w.extractLsb' 10 5) (w.extractLsb' 7 3) (w.extractLsb' 5 2))
  | 3 => .ok (.vfma (w.extractLsb' 20 5) (w.extractLsb' 15 5) (w.extractLsb' 10 5) (w.extractLsb' 7 3) (w.extractLsb' 5 2))
  | 4 => .ok (.vfnma (w.extractLsb' 20 5) (w.extractLsb' 15 5) (w.extractLsb' 10 5) (w.extractLsb' 7 3) (w.extractLsb' 5 2))
  | 5 => .ok (.vfmin (w.extractLsb' 20 5) (w.extractLsb' 15 5) (w.extractLsb' 10 5) (w.extractLsb' 7 3) (w.extractLsb' 5 2))
  | 6 => .ok (.vfmax (w.extractLsb' 20 5) (w.extractLsb' 15 5) (w.extractLsb' 10 5) (w.extractLsb' 7 3) (w.extractLsb' 5 2))
  | 7 => need (w.extractLsb' 10 5 = 0) (.vfabs (w.extractLsb' 20 5) (w.extractLsb' 15 5) (w.extractLsb' 7 3) (w.extractLsb' 5 2))
  | 8 => need (w.extractLsb' 10 5 = 0) (.vfneg (w.extractLsb' 20 5) (w.extractLsb' 15 5) (w.extractLsb' 7 3) (w.extractLsb' 5 2))
  | _ => .error .unlistedSelector

/-- Major 0x34 (R66, R160). -/
noncomputable def decodeVecEst (w : BitVec 32) : Except DecodeError Instr :=
  match (w.extractLsb' 0 5).toNat with
  | 0 => need (w.extractLsb' 10 5 = 0) (.vfrcpe (w.extractLsb' 20 5) (w.extractLsb' 15 5) (w.extractLsb' 7 3) (w.extractLsb' 5 2))
  | 1 => need (w.extractLsb' 10 5 = 0) (.vfrsqrte (w.extractLsb' 20 5) (w.extractLsb' 15 5) (w.extractLsb' 7 3) (w.extractLsb' 5 2))
  | 2 => need (w.extractLsb' 10 5 = 0) (.vfclass (w.extractLsb' 20 5) (w.extractLsb' 15 5) (w.extractLsb' 7 3) (w.extractLsb' 5 2))
  | _ => .error .unlistedSelector

/-- Major 0x35 (R66, R162). -/
noncomputable def decodeVecPerm (w : BitVec 32) : Except DecodeError Instr :=
  match (w.extractLsb' 0 5).toNat with
  | 0 => .ok (.vperm (w.extractLsb' 20 5) (w.extractLsb' 15 5) (w.extractLsb' 10 5) (w.extractLsb' 7 3) (w.extractLsb' 5 2))
  | 1 => need (w.extractLsb' 10 5 = 0) (.vbcast (w.extractLsb' 20 5) (w.extractLsb' 15 5) (w.extractLsb' 7 3) (w.extractLsb' 5 2))
  | 2 => need (w.extractLsb' 7 3 = 0) (.vext (w.extractLsb' 20 5) (w.extractLsb' 15 5) (w.extractLsb' 10 5) (w.extractLsb' 5 2))
  | 3 => need (w.extractLsb' 7 3 = 0) (.vins (w.extractLsb' 20 5) (w.extractLsb' 15 5) (w.extractLsb' 10 5) (w.extractLsb' 5 2))
  | 4 => .ok (.vslideup (w.extractLsb' 20 5) (w.extractLsb' 15 5) (w.extractLsb' 10 5) (w.extractLsb' 7 3) (w.extractLsb' 5 2))
  | 5 => .ok (.vslidedn (w.extractLsb' 20 5) (w.extractLsb' 15 5) (w.extractLsb' 10 5) (w.extractLsb' 7 3) (w.extractLsb' 5 2))
  | 6 => .ok (.vziplo (w.extractLsb' 20 5) (w.extractLsb' 15 5) (w.extractLsb' 10 5) (w.extractLsb' 7 3) (w.extractLsb' 5 2))
  | 7 => .ok (.vziphi (w.extractLsb' 20 5) (w.extractLsb' 15 5) (w.extractLsb' 10 5) (w.extractLsb' 7 3) (w.extractLsb' 5 2))
  | 8 => .ok (.vunziplo (w.extractLsb' 20 5) (w.extractLsb' 15 5) (w.extractLsb' 10 5) (w.extractLsb' 7 3) (w.extractLsb' 5 2))
  | 9 => .ok (.vunziphi (w.extractLsb' 20 5) (w.extractLsb' 15 5) (w.extractLsb' 10 5) (w.extractLsb' 7 3) (w.extractLsb' 5 2))
  | _ => .error .unlistedSelector

/-- Major 0x36 (R66, R163 to R165). -/
noncomputable def decodeVecRed (w : BitVec 32) : Except DecodeError Instr :=
  match (w.extractLsb' 0 5).toNat with
  | 0 => need (w.extractLsb' 10 5 = 0) (.vredadd (w.extractLsb' 20 5) (w.extractLsb' 15 5) (w.extractLsb' 7 3) (w.extractLsb' 5 2))
  | 1 => need (w.extractLsb' 10 5 = 0) (.vredmin (w.extractLsb' 20 5) (w.extractLsb' 15 5) (w.extractLsb' 7 3) (w.extractLsb' 5 2))
  | 2 => need (w.extractLsb' 10 5 = 0) (.vredmax (w.extractLsb' 20 5) (w.extractLsb' 15 5) (w.extractLsb' 7 3) (w.extractLsb' 5 2))
  | 3 => need (w.extractLsb' 10 5 = 0) (.vredminu (w.extractLsb' 20 5) (w.extractLsb' 15 5) (w.extractLsb' 7 3) (w.extractLsb' 5 2))
  | 4 => need (w.extractLsb' 10 5 = 0) (.vredmaxu (w.extractLsb' 20 5) (w.extractLsb' 15 5) (w.extractLsb' 7 3) (w.extractLsb' 5 2))
  | 5 => need (w.extractLsb' 10 5 = 0) (.vfredadd (w.extractLsb' 20 5) (w.extractLsb' 15 5) (w.extractLsb' 7 3) (w.extractLsb' 5 2))
  | 6 => need (w.extractLsb' 10 5 = 0) (.vfredmin (w.extractLsb' 20 5) (w.extractLsb' 15 5) (w.extractLsb' 7 3) (w.extractLsb' 5 2))
  | 7 => need (w.extractLsb' 10 5 = 0) (.vfredmax (w.extractLsb' 20 5) (w.extractLsb' 15 5) (w.extractLsb' 7 3) (w.extractLsb' 5 2))
  | 8 => need (w.extractLsb' 5 2 = 0) (.vdot4 (w.extractLsb' 20 5) (w.extractLsb' 15 5) (w.extractLsb' 10 5) (w.extractLsb' 7 3))
  | 9 => need (w.extractLsb' 5 2 = 0) (.vdot4u (w.extractLsb' 20 5) (w.extractLsb' 15 5) (w.extractLsb' 10 5) (w.extractLsb' 7 3))
  | _ => .error .unlistedSelector

/-- Major 0x37 (R66, R166). -/
noncomputable def decodeMask (w : BitVec 32) : Except DecodeError Instr :=
  match (w.extractLsb' 0 5).toNat with
  | 0 => need (w.extractLsb' 23 2 = 0 ∧ w.extractLsb' 18 2 = 0 ∧ w.extractLsb' 13 2 = 0 ∧ w.extractLsb' 5 5 = 0) (.kand (w.extractLsb' 20 3) (w.extractLsb' 15 3) (w.extractLsb' 10 3))
  | 1 => need (w.extractLsb' 23 2 = 0 ∧ w.extractLsb' 18 2 = 0 ∧ w.extractLsb' 13 2 = 0 ∧ w.extractLsb' 5 5 = 0) (.kor (w.extractLsb' 20 3) (w.extractLsb' 15 3) (w.extractLsb' 10 3))
  | 2 => need (w.extractLsb' 23 2 = 0 ∧ w.extractLsb' 18 2 = 0 ∧ w.extractLsb' 13 2 = 0 ∧ w.extractLsb' 5 5 = 0) (.kxor (w.extractLsb' 20 3) (w.extractLsb' 15 3) (w.extractLsb' 10 3))
  | 3 => need (w.extractLsb' 23 2 = 0 ∧ w.extractLsb' 18 2 = 0 ∧ w.extractLsb' 5 10 = 0) (.knot (w.extractLsb' 20 3) (w.extractLsb' 15 3))
  | 4 => need (w.extractLsb' 18 2 = 0 ∧ w.extractLsb' 5 10 = 0) (.kpopc (w.extractLsb' 20 5) (w.extractLsb' 15 3))
  | 5 => need (w.extractLsb' 18 2 = 0 ∧ w.extractLsb' 5 10 = 0) (.kfirst (w.extractLsb' 20 5) (w.extractLsb' 15 3))
  | 6 => need (w.extractLsb' 18 2 = 0 ∧ w.extractLsb' 5 10 = 0) (.kany (w.extractLsb' 20 5) (w.extractLsb' 15 3))
  | 7 => need (w.extractLsb' 23 2 = 0 ∧ w.extractLsb' 18 2 = 0 ∧ w.extractLsb' 5 10 = 0) (.kmov (w.extractLsb' 20 3) (w.extractLsb' 15 3))
  | 8 => need (w.extractLsb' 23 2 = 0 ∧ w.extractLsb' 5 10 = 0) (.kfromx (w.extractLsb' 20 3) (w.extractLsb' 15 5))
  | 9 => need (w.extractLsb' 18 2 = 0 ∧ w.extractLsb' 5 10 = 0) (.ktox (w.extractLsb' 20 5) (w.extractLsb' 15 3))
  | _ => .error .unlistedSelector

/-- Major 0x38 (R66, R157). -/
noncomputable def decodeVecImm (w : BitVec 32) : Except DecodeError Instr :=
  match (w.extractLsb' 0 5).toNat with
  | 0 => .ok (.vaddi (w.extractLsb' 20 5) (w.extractLsb' 15 5) (w.extractLsb' 10 5) (w.extractLsb' 7 3) (w.extractLsb' 5 2))
  | 1 => .ok (.vandi (w.extractLsb' 20 5) (w.extractLsb' 15 5) (w.extractLsb' 10 5) (w.extractLsb' 7 3) (w.extractLsb' 5 2))
  | 2 => .ok (.vori (w.extractLsb' 20 5) (w.extractLsb' 15 5) (w.extractLsb' 10 5) (w.extractLsb' 7 3) (w.extractLsb' 5 2))
  | 3 => .ok (.vxori (w.extractLsb' 20 5) (w.extractLsb' 15 5) (w.extractLsb' 10 5) (w.extractLsb' 7 3) (w.extractLsb' 5 2))
  | 4 => .ok (.vslli (w.extractLsb' 20 5) (w.extractLsb' 15 5) (w.extractLsb' 10 5) (w.extractLsb' 7 3) (w.extractLsb' 5 2))
  | 5 => .ok (.vsrli (w.extractLsb' 20 5) (w.extractLsb' 15 5) (w.extractLsb' 10 5) (w.extractLsb' 7 3) (w.extractLsb' 5 2))
  | 6 => .ok (.vsrai (w.extractLsb' 20 5) (w.extractLsb' 15 5) (w.extractLsb' 10 5) (w.extractLsb' 7 3) (w.extractLsb' 5 2))
  | 7 => need (w.extractLsb' 23 2 = 0) (.vceqi (w.extractLsb' 20 3) (w.extractLsb' 15 5) (w.extractLsb' 10 5) (w.extractLsb' 7 3) (w.extractLsb' 5 2))
  | 8 => need (w.extractLsb' 23 2 = 0) (.vclti (w.extractLsb' 20 3) (w.extractLsb' 15 5) (w.extractLsb' 10 5) (w.extractLsb' 7 3) (w.extractLsb' 5 2))
  | 9 => need (w.extractLsb' 15 5 = 0) (.vmovi (w.extractLsb' 20 5) (w.extractLsb' 10 5) (w.extractLsb' 7 3) (w.extractLsb' 5 2))
  | _ => .error .unlistedSelector

/-- Major 0x39 (R67, R103). -/
noncomputable def decodeConvert (w : BitVec 32) : Except DecodeError Instr :=
  match (w.extractLsb' 4 3).toNat with
  | 0 => need (w.extractLsb' 14 1 = 0 ∧ w.extractLsb' 7 3 = 0) (.cvt (w.extractLsb' 20 5) (w.extractLsb' 15 5) (w.extractLsb' 10 4) (w.extractLsb' 0 4))
  | 1 => need (w.extractLsb' 14 1 = 0) (.vcvt (w.extractLsb' 20 5) (w.extractLsb' 15 5) (w.extractLsb' 10 4) (w.extractLsb' 7 3) (w.extractLsb' 0 4))
  | 2 => need (w.extractLsb' 14 1 = 0 ∧ w.extractLsb' 7 3 = 0) (.vpack (w.extractLsb' 20 5) (w.extractLsb' 15 5) (w.extractLsb' 10 4) (w.extractLsb' 0 4))
  | 3 => need (w.extractLsb' 14 1 = 0) (.vunpk (w.extractLsb' 20 5) (w.extractLsb' 15 5) (w.extractLsb' 10 4) (w.extractLsb' 7 3) (w.extractLsb' 0 4))
  | 4 => need (w.extractLsb' 10 5 = 0) (.bscale (w.extractLsb' 20 5) (w.extractLsb' 15 5) (w.extractLsb' 7 3) (w.extractLsb' 0 4))
  | 5 => (match (w.extractLsb' 0 4).toNat with
    | 0 => need (w.extractLsb' 10 5 = 0) (.balignExp (w.extractLsb' 20 5) (w.extractLsb' 15 5) (w.extractLsb' 7 3))
    | 1 => .ok (.balignQ8 (w.extractLsb' 20 5) (w.extractLsb' 15 5) (w.extractLsb' 10 5) (w.extractLsb' 7 3))
    | 2 => .ok (.balignQ16 (w.extractLsb' 20 5) (w.extractLsb' 15 5) (w.extractLsb' 10 5) (w.extractLsb' 7 3))
    | _ => .error .unlistedSelector)
  | _ => .error .unlistedSelector

/-- Major 0x3E (R68). -/
noncomputable def decodeSystem (w : BitVec 32) : Except DecodeError Instr :=
  match (w.extractLsb' 12 3).toNat with
  | 0 => need (w.extractLsb' 15 5 = 0) (.csrr (w.extractLsb' 20 5) (w.extractLsb' 0 12))
  | 1 => .ok (.csrw (w.extractLsb' 20 5) (w.extractLsb' 15 5) (w.extractLsb' 0 12))
  | 2 => .ok (.csrset (w.extractLsb' 20 5) (w.extractLsb' 15 5) (w.extractLsb' 0 12))
  | 3 => .ok (.csrclr (w.extractLsb' 20 5) (w.extractLsb' 15 5) (w.extractLsb' 0 12))
  | 4 => need (w.extractLsb' 20 5 = 0 ∧ w.extractLsb' 6 6 = 0) (.trap (w.extractLsb' 15 5) (w.extractLsb' 0 6))
  | 5 => need (w.extractLsb' 20 5 = 0 ∧ w.extractLsb' 0 12 = 0) (.tlbinv (w.extractLsb' 15 5))
  | 6 => need (w.extractLsb' 20 5 = 0 ∧ w.extractLsb' 0 12 = 0) (.iclean (w.extractLsb' 15 5))
  | 7 => (match (w.extractLsb' 0 12).toNat with
    | 1 => .ok (.migrate (w.extractLsb' 20 5) (w.extractLsb' 15 5))
    | 2 => .ok (.mgrd (w.extractLsb' 20 5) (w.extractLsb' 15 5))
    | 3 => .ok (.mgwr (w.extractLsb' 20 5) (w.extractLsb' 15 5))
    | 4 => .ok (.rtswap (w.extractLsb' 20 5) (w.extractLsb' 15 5))
    | _ => .error .unlistedSelector)
  | _ => .error .unlistedSelector

/-- The form of a 32-bit instruction word, before the checks of Instr.check (02 R57, R58). -/
noncomputable def decodeForm (w : BitVec 32) : Except DecodeError Instr :=
  match (w.extractLsb' 25 6).toNat with
  | 0 => .error .illegalMajor
  | 1 => decodeAlu w
  | 2 => .ok (.addi (w.extractLsb' 20 5) (w.extractLsb' 15 5) (w.extractLsb' 0 15))
  | 3 => .ok (.andi (w.extractLsb' 20 5) (w.extractLsb' 15 5) (w.extractLsb' 0 15))
  | 4 => .ok (.ori (w.extractLsb' 20 5) (w.extractLsb' 15 5) (w.extractLsb' 0 15))
  | 5 => .ok (.xori (w.extractLsb' 20 5) (w.extractLsb' 15 5) (w.extractLsb' 0 15))
  | 6 => decodeShiftImm w
  | 7 => decodeSetImm w
  | 8 => .ok (.liu (w.extractLsb' 20 5) (w.extractLsb' 0 20))
  | 9 => .ok (.adrp (w.extractLsb' 20 5) (w.extractLsb' 0 20))
  | 10 => decodeMulDiv w
  | 11 => decodeBit w
  | 12 => decodePointer w
  | 13 => decodeFpArith w
  | 14 => decodeFpCmp w
  | 16 => .ok (.beq (w.extractLsb' 20 5) (w.extractLsb' 15 5) (w.extractLsb' 0 15))
  | 17 => .ok (.bne (w.extractLsb' 20 5) (w.extractLsb' 15 5) (w.extractLsb' 0 15))
  | 18 => .ok (.blt (w.extractLsb' 20 5) (w.extractLsb' 15 5) (w.extractLsb' 0 15))
  | 19 => .ok (.bge (w.extractLsb' 20 5) (w.extractLsb' 15 5) (w.extractLsb' 0 15))
  | 20 => .ok (.bltu (w.extractLsb' 20 5) (w.extractLsb' 15 5) (w.extractLsb' 0 15))
  | 21 => .ok (.bgeu (w.extractLsb' 20 5) (w.extractLsb' 15 5) (w.extractLsb' 0 15))
  | 22 => .ok (.jal (w.extractLsb' 20 5) (w.extractLsb' 0 20))
  | 23 => .ok (.jalr (w.extractLsb' 20 5) (w.extractLsb' 15 5) (w.extractLsb' 0 15))
  | 24 => decodeLoop w
  | 25 => decodeTask w
  | 28 => decodeLoad w
  | 29 => decodeStore w
  | 30 => decodeVecMem w
  | 31 => decodeOrder w
  | 32 => decodeAtomic w
  | 33 => decodeReduce w
  | 34 => decodeBarrier w
  | 36 => decodeMessage w
  | 37 => decodeRing w
  | 38 => decodeDepend w
  | 39 => decodeEngine w
  | 40 => decodeFurled w
  | 41 => decodeSplice w
  | 48 => decodeVecInt w
  | 49 => decodeVecLogic w
  | 50 => decodeVecCmp w
  | 51 => decodeVecFp w
  | 52 => decodeVecEst w
  | 53 => decodeVecPerm w
  | 54 => decodeVecRed w
  | 55 => decodeMask w
  | 56 => decodeVecImm w
  | 57 => decodeConvert w
  | 62 => decodeSystem w
  | _ => .error .reservedMajor

/-- The form of a 16-bit instruction (02 R55, R56). -/
noncomputable def decodeForm16 (w : BitVec 16) : Except DecodeError Instr :=
  match (w.extractLsb' 11 4).toNat with
  | 0 => (match (w.extractLsb' 0 3).toNat with
    | 1 => need (w.extractLsb' 3 8 = 0) (.end16)
    | 2 => need (w.extractLsb' 3 8 = 0) (.yield16)
    | 3 => need (w.extractLsb' 3 8 = 0) (.nop16)
    | _ => .error .unlistedSelector)
  | 1 => need (w.extractLsb' 0 3 = 0) (.mv16 (w.extractLsb' 7 4) (w.extractLsb' 3 4))
  | 2 => .ok (.li16 (w.extractLsb' 7 4) (w.extractLsb' 0 7))
  | 3 => .ok (.addi16 (w.extractLsb' 7 4) (w.extractLsb' 0 7))
  | 4 => need (w.extractLsb' 0 3 = 0) (.add16 (w.extractLsb' 7 4) (w.extractLsb' 3 4))
  | 5 => need (w.extractLsb' 0 3 = 0) (.sub16 (w.extractLsb' 7 4) (w.extractLsb' 3 4))
  | 6 => need (w.extractLsb' 0 3 = 0) (.and16 (w.extractLsb' 7 4) (w.extractLsb' 3 4))
  | 7 => .ok (.andi16 (w.extractLsb' 7 4) (w.extractLsb' 0 7))
  | 8 => need (w.extractLsb' 6 1 = 0) (.slli16 (w.extractLsb' 7 4) (w.extractLsb' 0 6))
  | 9 => need (w.extractLsb' 6 1 = 0) (.srli16 (w.extractLsb' 7 4) (w.extractLsb' 0 6))
  | 10 => need (w.extractLsb' 6 1 = 0) (.srai16 (w.extractLsb' 7 4) (w.extractLsb' 0 6))
  | 11 => .ok (.ldD16 (w.extractLsb' 7 4) (w.extractLsb' 3 4) (w.extractLsb' 0 3))
  | 12 => .ok (.stD16 (w.extractLsb' 7 4) (w.extractLsb' 3 4) (w.extractLsb' 0 3))
  | 13 => .ok (.beqz16 (w.extractLsb' 7 4) (w.extractLsb' 0 7))
  | 14 => .ok (.bnez16 (w.extractLsb' 7 4) (w.extractLsb' 0 7))
  | 15 => .ok (.j16 (w.extractLsb' 0 11))
  | _ => .error .unlistedSelector

/-- The form together with the checks of 02 R70, item 3. -/
def checked (r : Except DecodeError Instr) : Except DecodeError Instr :=
  match r with
  | .ok i => (match i.check with
    | none => .ok i
    | some e => .error e)
  | .error e => .error e

/-- The instruction of a 32-bit word whose bit 31 is 1. -/
noncomputable def decodeWord (w : BitVec 32) : Except DecodeError Instr := checked (decodeForm w)

/-- The instruction of a halfword whose bit 15 is 0. -/
noncomputable def decodeHalf (w : BitVec 16) : Except DecodeError Instr := checked (decodeForm16 w)

/-- Bytes in memory from an instruction's first byte on: the 32-bit word has its high halfword first, each halfword little-endian
(00 R4, 02 R47). Answers the instruction and the bytes after it. -/
noncomputable def decodeBytes (bs : List Byte) : Except DecodeError (Instr × List Byte) :=
  match bs with
  | b0 :: b1 :: r =>
    if b1.getLsbD 7 then
      match r with
      | b2 :: b3 :: r' => (decodeWord (b1 ++ b0 ++ (b3 ++ b2))).map (fun i => (i, r'))
      | _ => .error .truncated
    else (decodeHalf (b1 ++ b0)).map (fun i => (i, r))
  | _ => .error .truncated

/-- The encoding of an instruction: its 32-bit word, its halfword, or none for a row that has no encoding. -/
inductive Encoding where
  | word (w : BitVec 32)
  | half (w : BitVec 16)
  | none
  deriving DecidableEq, Repr

/-- The encoder (02 R50 to R68). -/
def encode (i : Instr) : Encoding :=
  match i with
  | .add d a b => .word (65#7 ++ d ++ a ++ b ++ 0#10)
  | .sub d a b => .word (65#7 ++ d ++ a ++ b ++ 1#10)
  | .and d a b => .word (65#7 ++ d ++ a ++ b ++ 2#10)
  | .or d a b => .word (65#7 ++ d ++ a ++ b ++ 3#10)
  | .xor d a b => .word (65#7 ++ d ++ a ++ b ++ 4#10)
  | .andn d a b => .word (65#7 ++ d ++ a ++ b ++ 5#10)
  | .sll d a b => .word (65#7 ++ d ++ a ++ b ++ 6#10)
  | .srl d a b => .word (65#7 ++ d ++ a ++ b ++ 7#10)
  | .sra d a b => .word (65#7 ++ d ++ a ++ b ++ 8#10)
  | .rol d a b => .word (65#7 ++ d ++ a ++ b ++ 9#10)
  | .ror d a b => .word (65#7 ++ d ++ a ++ b ++ 10#10)
  | .min d a b => .word (65#7 ++ d ++ a ++ b ++ 11#10)
  | .max d a b => .word (65#7 ++ d ++ a ++ b ++ 12#10)
  | .minu d a b => .word (65#7 ++ d ++ a ++ b ++ 13#10)
  | .maxu d a b => .word (65#7 ++ d ++ a ++ b ++ 14#10)
  | .slt d a b => .word (65#7 ++ d ++ a ++ b ++ 15#10)
  | .sltu d a b => .word (65#7 ++ d ++ a ++ b ++ 16#10)
  | .seq d a b => .word (65#7 ++ d ++ a ++ b ++ 17#10)
  | .sne d a b => .word (65#7 ++ d ++ a ++ b ++ 18#10)
  | .csel d a b => .word (65#7 ++ d ++ a ++ b ++ 19#10)
  | .addi d a i => .word (66#7 ++ d ++ a ++ i)
  | .andi d a i => .word (67#7 ++ d ++ a ++ i)
  | .ori d a i => .word (68#7 ++ d ++ a ++ i)
  | .xori d a i => .word (69#7 ++ d ++ a ++ i)
  | .slli d a s => .word (70#7 ++ d ++ a ++ 0#9 ++ s)
  | .srli d a s => .word (70#7 ++ d ++ a ++ 64#9 ++ s)
  | .srai d a s => .word (70#7 ++ d ++ a ++ 128#9 ++ s)
  | .rori d a s => .word (70#7 ++ d ++ a ++ 192#9 ++ s)
  | .slti d a i => .word (71#7 ++ d ++ a ++ 0#3 ++ i)
  | .sltiu d a i => .word (71#7 ++ d ++ a ++ 1#3 ++ i)
  | .seqi d a i => .word (71#7 ++ d ++ a ++ 2#3 ++ i)
  | .snei d a i => .word (71#7 ++ d ++ a ++ 3#3 ++ i)
  | .liu d i => .word (72#7 ++ d ++ i)
  | .adrp d i => .word (73#7 ++ d ++ i)
  | .mul d a b => .word (74#7 ++ d ++ a ++ b ++ 0#10)
  | .mulhu d a b => .word (74#7 ++ d ++ a ++ b ++ 1#10)
  | .mulh d a b => .word (74#7 ++ d ++ a ++ b ++ 2#10)
  | .mulhus d a b => .word (74#7 ++ d ++ a ++ b ++ 3#10)
  | .divu d a b => .word (74#7 ++ d ++ a ++ b ++ 8#10)
  | .div d a b => .word (74#7 ++ d ++ a ++ b ++ 9#10)
  | .remu d a b => .word (74#7 ++ d ++ a ++ b ++ 10#10)
  | .rem d a b => .word (74#7 ++ d ++ a ++ b ++ 11#10)
  | .mod d a b => .word (74#7 ++ d ++ a ++ b ++ 12#10)
  | .clz d a => .word (75#7 ++ d ++ a ++ 0#15)
  | .ctz d a => .word (75#7 ++ d ++ a ++ 1#15)
  | .popc d a => .word (75#7 ++ d ++ a ++ 2#15)
  | .brev d a => .word (75#7 ++ d ++ a ++ 3#15)
  | .extB d a => .word (75#7 ++ d ++ a ++ 4#15)
  | .extH d a => .word (75#7 ++ d ++ a ++ 5#15)
  | .extW d a => .word (75#7 ++ d ++ a ++ 6#15)
  | .extBu d a => .word (75#7 ++ d ++ a ++ 7#15)
  | .extHu d a => .word (75#7 ++ d ++ a ++ 8#15)
  | .extWu d a => .word (75#7 ++ d ++ a ++ 9#15)
  | .bfx d a b => .word (75#7 ++ d ++ a ++ b ++ 16#10)
  | .bfxu d a b => .word (75#7 ++ d ++ a ++ b ++ 17#10)
  | .bfi d a b => .word (75#7 ++ d ++ a ++ b ++ 18#10)
  | .ptag d a f l => .word (76#7 ++ d ++ a ++ 0#3 ++ f ++ l ++ 0#5)
  | .padd d a b => .word (76#7 ++ d ++ a ++ 1#3 ++ b ++ 0#7)
  | .pchk d a => .word (76#7 ++ d ++ a ++ 8192#15)
  | .fadd d a b p => .word (77#7 ++ d ++ a ++ b ++ 0#5 ++ p ++ 0#4)
  | .fsub d a b p => .word (77#7 ++ d ++ a ++ b ++ 0#5 ++ p ++ 1#4)
  | .fmul d a b p => .word (77#7 ++ d ++ a ++ b ++ 0#5 ++ p ++ 2#4)
  | .fdiv d a b p => .word (77#7 ++ d ++ a ++ b ++ 0#5 ++ p ++ 3#4)
  | .fsqrt d a p => .word (77#7 ++ d ++ a ++ 0#10 ++ p ++ 4#4)
  | .fmin d a b p => .word (77#7 ++ d ++ a ++ b ++ 0#5 ++ p ++ 5#4)
  | .fmax d a b p => .word (77#7 ++ d ++ a ++ b ++ 0#5 ++ p ++ 6#4)
  | .fma d a b p => .word (77#7 ++ d ++ a ++ b ++ 0#5 ++ p ++ 7#4)
  | .feq d a b p => .word (78#7 ++ d ++ a ++ b ++ 0#5 ++ p ++ 0#4)
  | .flt d a b p => .word (78#7 ++ d ++ a ++ b ++ 0#5 ++ p ++ 1#4)
  | .fle d a b p => .word (78#7 ++ d ++ a ++ b ++ 0#5 ++ p ++ 2#4)
  | .fclass d a p => .word (78#7 ++ d ++ a ++ 0#10 ++ p ++ 3#4)
  | .ftoi d a p => .word (78#7 ++ d ++ a ++ 0#10 ++ p ++ 4#4)
  | .ftoiu d a p => .word (78#7 ++ d ++ a ++ 0#10 ++ p ++ 5#4)
  | .itof d a p => .word (78#7 ++ d ++ a ++ 0#10 ++ p ++ 6#4)
  | .iutof d a p => .word (78#7 ++ d ++ a ++ 0#10 ++ p ++ 7#4)
  | .ftof d a p => .word (78#7 ++ d ++ a ++ 0#10 ++ p ++ 8#4)
  | .beq a b o => .word (80#7 ++ a ++ b ++ o)
  | .bne a b o => .word (81#7 ++ a ++ b ++ o)
  | .blt a b o => .word (82#7 ++ a ++ b ++ o)
  | .bge a b o => .word (83#7 ++ a ++ b ++ o)
  | .bltu a b o => .word (84#7 ++ a ++ b ++ o)
  | .bgeu a b o => .word (85#7 ++ a ++ b ++ o)
  | .jal d o => .word (86#7 ++ d ++ o)
  | .jalr d a i => .word (87#7 ++ d ++ a ++ i)
  | .loop a o => .word (2816#12 ++ a ++ o)
  | .loopi c o => .word (177#8 ++ c ++ o)
  | .endTask => .word (2986344449#32)
  | .yield => .word (2986344450#32)
  | .done a => .word (2848#12 ++ a ++ 3#15)
  | .nop => .word (2986344452#32)
  | .end16 => .half (1#16)
  | .yield16 => .half (2#16)
  | .nop16 => .half (3#16)
  | .mv16 d a => .half (1#5 ++ d ++ a ++ 0#3)
  | .li16 d i => .half (2#5 ++ d ++ i)
  | .addi16 d i => .half (3#5 ++ d ++ i)
  | .add16 d a => .half (4#5 ++ d ++ a ++ 0#3)
  | .sub16 d a => .half (5#5 ++ d ++ a ++ 0#3)
  | .and16 d a => .half (6#5 ++ d ++ a ++ 0#3)
  | .andi16 d i => .half (7#5 ++ d ++ i)
  | .slli16 d s => .half (8#5 ++ d ++ 0#1 ++ s)
  | .srli16 d s => .half (9#5 ++ d ++ 0#1 ++ s)
  | .srai16 d s => .half (10#5 ++ d ++ 0#1 ++ s)
  | .ldD16 d a o => .half (11#5 ++ d ++ a ++ o)
  | .stD16 d a o => .half (12#5 ++ d ++ a ++ o)
  | .beqz16 a o => .half (13#5 ++ a ++ o)
  | .bnez16 a o => .half (14#5 ++ a ++ o)
  | .j16 o => .half (15#5 ++ o)
  | .ldB d b i => .word (92#7 ++ d ++ b ++ 0#3 ++ i)
  | .ldH d b i => .word (92#7 ++ d ++ b ++ 1#3 ++ i)
  | .ldW d b i => .word (92#7 ++ d ++ b ++ 2#3 ++ i)
  | .ldD d b i => .word (92#7 ++ d ++ b ++ 3#3 ++ i)
  | .ldBu d b i => .word (92#7 ++ d ++ b ++ 4#3 ++ i)
  | .ldHu d b i => .word (92#7 ++ d ++ b ++ 5#3 ++ i)
  | .ldWu d b i => .word (92#7 ++ d ++ b ++ 6#3 ++ i)
  | .stB d b i => .word (93#7 ++ d ++ b ++ 0#3 ++ i)
  | .stH d b i => .word (93#7 ++ d ++ b ++ 1#3 ++ i)
  | .stW d b i => .word (93#7 ++ d ++ b ++ 2#3 ++ i)
  | .stD d b i => .word (93#7 ++ d ++ b ++ 3#3 ++ i)
  | .ldAcq d b s z => .word (95#7 ++ d ++ b ++ s ++ 1#3 ++ z ++ 0#5)
  | .stRel d b s z => .word (95#7 ++ d ++ b ++ s ++ 2#3 ++ z ++ 0#5)
  | .fence s o => .word (97280#17 ++ s ++ 0#3 ++ o ++ 0#5)
  | .pref b r => .word (3040#12 ++ b ++ 12#9 ++ r ++ 0#5)
  | .ifence => .word (3187672064#32)
  | .vld v a k w => .word (94#7 ++ v ++ a ++ 0#5 ++ k ++ 0#4 ++ w ++ 0#1)
  | .vst v a k w => .word (94#7 ++ v ++ a ++ 0#5 ++ k ++ 1#4 ++ w ++ 0#1)
  | .vlds v a b k w => .word (94#7 ++ v ++ a ++ b ++ k ++ 2#4 ++ w ++ 0#1)
  | .vsts v a b k w => .word (94#7 ++ v ++ a ++ b ++ k ++ 3#4 ++ w ++ 0#1)
  | .vldg v a b k w => .word (94#7 ++ v ++ a ++ b ++ k ++ 4#4 ++ w ++ 0#1)
  | .vstg v a b k w => .word (94#7 ++ v ++ a ++ b ++ k ++ 5#4 ++ w ++ 0#1)
  | .vldt v a k w c => .word (94#7 ++ v ++ a ++ 0#5 ++ k ++ 6#4 ++ w ++ c)
  | .vstt v a k w c => .word (94#7 ++ v ++ a ++ 0#5 ++ k ++ 7#4 ++ w ++ c)
  | .vldf v a b k f => .word (94#7 ++ v ++ a ++ b ++ k ++ 4#3 ++ f)
  | .vstf v a b k f => .word (94#7 ++ v ++ a ++ b ++ k ++ 6#3 ++ f)
  | .amoaddW d a b s o => .word (96#7 ++ d ++ a ++ b ++ s ++ o ++ 0#4)
  | .amoaddD d a b s o => .word (96#7 ++ d ++ a ++ b ++ s ++ o ++ 1#4)
  | .amoandD d a b s o => .word (96#7 ++ d ++ a ++ b ++ s ++ o ++ 2#4)
  | .amoorD d a b s o => .word (96#7 ++ d ++ a ++ b ++ s ++ o ++ 3#4)
  | .amoxorD d a b s o => .word (96#7 ++ d ++ a ++ b ++ s ++ o ++ 4#4)
  | .amominD d a b s o => .word (96#7 ++ d ++ a ++ b ++ s ++ o ++ 5#4)
  | .amomaxD d a b s o => .word (96#7 ++ d ++ a ++ b ++ s ++ o ++ 6#4)
  | .amominuD d a b s o => .word (96#7 ++ d ++ a ++ b ++ s ++ o ++ 7#4)
  | .amomaxuD d a b s o => .word (96#7 ++ d ++ a ++ b ++ s ++ o ++ 8#4)
  | .amoswapW d a b s o => .word (96#7 ++ d ++ a ++ b ++ s ++ o ++ 9#4)
  | .amoswapD d a b s o => .word (96#7 ++ d ++ a ++ b ++ s ++ o ++ 10#4)
  | .amocasW d a b s o => .word (96#7 ++ d ++ a ++ b ++ s ++ o ++ 11#4)
  | .amocasD d a b s o => .word (96#7 ++ d ++ a ++ b ++ s ++ o ++ 12#4)
  | .amocas2Q d a b s o => .word (96#7 ++ d ++ a ++ b ++ s ++ o ++ 13#4)
  | .famoaddF32 d a b s o => .word (96#7 ++ d ++ a ++ b ++ s ++ o ++ 14#4)
  | .redadd w a b s o => .word (97#7 ++ w ++ a ++ b ++ s ++ o ++ 0#4)
  | .redand w a b s o => .word (97#7 ++ w ++ a ++ b ++ s ++ o ++ 1#4)
  | .redor w a b s o => .word (97#7 ++ w ++ a ++ b ++ s ++ o ++ 2#4)
  | .redxor w a b s o => .word (97#7 ++ w ++ a ++ b ++ s ++ o ++ 3#4)
  | .redmin w a b s o => .word (97#7 ++ w ++ a ++ b ++ s ++ o ++ 4#4)
  | .redmax w a b s o => .word (97#7 ++ w ++ a ++ b ++ s ++ o ++ 5#4)
  | .redminu w a b s o => .word (97#7 ++ w ++ a ++ b ++ s ++ o ++ 6#4)
  | .redmaxu w a b s o => .word (97#7 ++ w ++ a ++ b ++ s ++ o ++ 7#4)
  | .waita d a b s w => .word (97#7 ++ d ++ a ++ b ++ s ++ w ++ 8#4)
  | .bar n => .word (51380224#26 ++ n ++ 0#4)
  | .bara n => .word (51380224#26 ++ n ++ 1#4)
  | .barw n => .word (51380224#26 ++ n ++ 2#4)
  | .vredg a b c t n => .word (98#7 ++ a ++ b ++ c ++ t ++ n ++ 3#4)
  | .send a => .word (100#7 ++ a ++ 0#20)
  | .spawn a => .word (100#7 ++ a ++ 1#20)
  | .flush => .word (3355443202#32)
  | .clsen n => .word (3276800#22 ++ n ++ 3#4)
  | .clsdis n => .word (3276800#22 ++ n ++ 4#4)
  | .clspend d => .word (100#7 ++ d ++ 5#20)
  | .qpush a b l => .word (101#7 ++ a ++ b ++ 0#6 ++ l ++ 0#4)
  | .qpop a b c l => .word (101#7 ++ a ++ b ++ c ++ 0#1 ++ l ++ 1#4)
  | .qeos b l => .word (3232#12 ++ b ++ 0#6 ++ l ++ 2#4)
  | .launch a => .word (102#7 ++ a ++ 0#20)
  | .depset a b c p => .word (102#7 ++ a ++ b ++ c ++ 0#4 ++ p ++ 1#4)
  | .depdec a => .word (102#7 ++ a ++ 2#20)
  | .signal a b s => .word (102#7 ++ a ++ b ++ 0#5 ++ s ++ 3#6)
  | .enq a => .word (103#7 ++ a ++ 0#20)
  | .deq a u => .word (103#7 ++ a ++ 0#13 ++ u ++ 1#4)
  | .epoll a u => .word (103#7 ++ a ++ 0#13 ++ u ++ 2#4)
  | .furl d a b p => .word (104#7 ++ d ++ a ++ b ++ 0#4 ++ p ++ 0#4)
  | .unfurl d a b => .word (104#7 ++ d ++ a ++ b ++ 1#10)
  | .fpeek d a => .word (104#7 ++ d ++ a ++ 2#15)
  | .ftag d a => .word (104#7 ++ d ++ a ++ 3#15)
  | .fcancel d a => .word (104#7 ++ d ++ a ++ 4#15)
  | .spop d => .word (105#7 ++ d ++ 0#20)
  | .spush a b => .word (3360#12 ++ a ++ b ++ 1#10)
  | .salloc d => .word (105#7 ++ d ++ 2#20)
  | .sfree a => .word (3360#12 ++ a ++ 3#15)
  | .slink d a b => .word (105#7 ++ d ++ a ++ b ++ 4#10)
  | .sread d a => .word (105#7 ++ d ++ a ++ 5#15)
  | .vadd d a b k w => .word (112#7 ++ d ++ a ++ b ++ k ++ w ++ 0#5)
  | .vsub d a b k w => .word (112#7 ++ d ++ a ++ b ++ k ++ w ++ 1#5)
  | .vaddSat d a b k w => .word (112#7 ++ d ++ a ++ b ++ k ++ w ++ 2#5)
  | .vsubSat d a b k w => .word (112#7 ++ d ++ a ++ b ++ k ++ w ++ 3#5)
  | .vadduSat d a b k w => .word (112#7 ++ d ++ a ++ b ++ k ++ w ++ 4#5)
  | .vsubuSat d a b k w => .word (112#7 ++ d ++ a ++ b ++ k ++ w ++ 5#5)
  | .vmul d a b k w => .word (112#7 ++ d ++ a ++ b ++ k ++ w ++ 6#5)
  | .vmulh d a b k w => .word (112#7 ++ d ++ a ++ b ++ k ++ w ++ 7#5)
  | .vmulhu d a b k w => .word (112#7 ++ d ++ a ++ b ++ k ++ w ++ 8#5)
  | .vmin d a b k w => .word (112#7 ++ d ++ a ++ b ++ k ++ w ++ 9#5)
  | .vmax d a b k w => .word (112#7 ++ d ++ a ++ b ++ k ++ w ++ 10#5)
  | .vminu d a b k w => .word (112#7 ++ d ++ a ++ b ++ k ++ w ++ 11#5)
  | .vmaxu d a b k w => .word (112#7 ++ d ++ a ++ b ++ k ++ w ++ 12#5)
  | .vabs d a k w => .word (112#7 ++ d ++ a ++ 0#5 ++ k ++ w ++ 13#5)
  | .vand d a b k w => .word (113#7 ++ d ++ a ++ b ++ k ++ w ++ 0#5)
  | .vor d a b k w => .word (113#7 ++ d ++ a ++ b ++ k ++ w ++ 1#5)
  | .vxor d a b k w => .word (113#7 ++ d ++ a ++ b ++ k ++ w ++ 2#5)
  | .vandn d a b k w => .word (113#7 ++ d ++ a ++ b ++ k ++ w ++ 3#5)
  | .vnot d a k w => .word (113#7 ++ d ++ a ++ 0#5 ++ k ++ w ++ 4#5)
  | .vsll d a b k w => .word (113#7 ++ d ++ a ++ b ++ k ++ w ++ 5#5)
  | .vsrl d a b k w => .word (113#7 ++ d ++ a ++ b ++ k ++ w ++ 6#5)
  | .vsra d a b k w => .word (113#7 ++ d ++ a ++ b ++ k ++ w ++ 7#5)
  | .vsel d a b k w => .word (113#7 ++ d ++ a ++ b ++ k ++ w ++ 8#5)
  | .vceq d a b k w => .word (456#9 ++ d ++ a ++ b ++ k ++ w ++ 0#5)
  | .vcne d a b k w => .word (456#9 ++ d ++ a ++ b ++ k ++ w ++ 1#5)
  | .vclt d a b k w => .word (456#9 ++ d ++ a ++ b ++ k ++ w ++ 2#5)
  | .vcle d a b k w => .word (456#9 ++ d ++ a ++ b ++ k ++ w ++ 3#5)
  | .vcltu d a b k w => .word (456#9 ++ d ++ a ++ b ++ k ++ w ++ 4#5)
  | .vcleu d a b k w => .word (456#9 ++ d ++ a ++ b ++ k ++ w ++ 5#5)
  | .vfceq d a b k w => .word (456#9 ++ d ++ a ++ b ++ k ++ w ++ 8#5)
  | .vfclt d a b k w => .word (456#9 ++ d ++ a ++ b ++ k ++ w ++ 9#5)
  | .vfcle d a b k w => .word (456#9 ++ d ++ a ++ b ++ k ++ w ++ 10#5)
  | .vfcun d a b k w => .word (456#9 ++ d ++ a ++ b ++ k ++ w ++ 11#5)
  | .vfadd d a b k w => .word (115#7 ++ d ++ a ++ b ++ k ++ w ++ 0#5)
  | .vfsub d a b k w => .word (115#7 ++ d ++ a ++ b ++ k ++ w ++ 1#5)
  | .vfmul d a b k w => .word (115#7 ++ d ++ a ++ b ++ k ++ w ++ 2#5)
  | .vfma d a b k w => .word (115#7 ++ d ++ a ++ b ++ k ++ w ++ 3#5)
  | .vfnma d a b k w => .word (115#7 ++ d ++ a ++ b ++ k ++ w ++ 4#5)
  | .vfmin d a b k w => .word (115#7 ++ d ++ a ++ b ++ k ++ w ++ 5#5)
  | .vfmax d a b k w => .word (115#7 ++ d ++ a ++ b ++ k ++ w ++ 6#5)
  | .vfabs d a k w => .word (115#7 ++ d ++ a ++ 0#5 ++ k ++ w ++ 7#5)
  | .vfneg d a k w => .word (115#7 ++ d ++ a ++ 0#5 ++ k ++ w ++ 8#5)
  | .vfrcpe d a k w => .word (116#7 ++ d ++ a ++ 0#5 ++ k ++ w ++ 0#5)
  | .vfrsqrte d a k w => .word (116#7 ++ d ++ a ++ 0#5 ++ k ++ w ++ 1#5)
  | .vfclass d a k w => .word (116#7 ++ d ++ a ++ 0#5 ++ k ++ w ++ 2#5)
  | .vperm d a b k w => .word (117#7 ++ d ++ a ++ b ++ k ++ w ++ 0#5)
  | .vbcast d a k w => .word (117#7 ++ d ++ a ++ 0#5 ++ k ++ w ++ 1#5)
  | .vext d a b w => .word (117#7 ++ d ++ a ++ b ++ 0#3 ++ w ++ 2#5)
  | .vins d a b w => .word (117#7 ++ d ++ a ++ b ++ 0#3 ++ w ++ 3#5)
  | .vslideup d a b k w => .word (117#7 ++ d ++ a ++ b ++ k ++ w ++ 4#5)
  | .vslidedn d a b k w => .word (117#7 ++ d ++ a ++ b ++ k ++ w ++ 5#5)
  | .vziplo d a b k w => .word (117#7 ++ d ++ a ++ b ++ k ++ w ++ 6#5)
  | .vziphi d a b k w => .word (117#7 ++ d ++ a ++ b ++ k ++ w ++ 7#5)
  | .vunziplo d a b k w => .word (117#7 ++ d ++ a ++ b ++ k ++ w ++ 8#5)
  | .vunziphi d a b k w => .word (117#7 ++ d ++ a ++ b ++ k ++ w ++ 9#5)
  | .vredadd d a k w => .word (118#7 ++ d ++ a ++ 0#5 ++ k ++ w ++ 0#5)
  | .vredmin d a k w => .word (118#7 ++ d ++ a ++ 0#5 ++ k ++ w ++ 1#5)
  | .vredmax d a k w => .word (118#7 ++ d ++ a ++ 0#5 ++ k ++ w ++ 2#5)
  | .vredminu d a k w => .word (118#7 ++ d ++ a ++ 0#5 ++ k ++ w ++ 3#5)
  | .vredmaxu d a k w => .word (118#7 ++ d ++ a ++ 0#5 ++ k ++ w ++ 4#5)
  | .vfredadd d a k w => .word (118#7 ++ d ++ a ++ 0#5 ++ k ++ w ++ 5#5)
  | .vfredmin d a k w => .word (118#7 ++ d ++ a ++ 0#5 ++ k ++ w ++ 6#5)
  | .vfredmax d a k w => .word (118#7 ++ d ++ a ++ 0#5 ++ k ++ w ++ 7#5)
  | .vdot4 d a b k => .word (118#7 ++ d ++ a ++ b ++ k ++ 8#7)
  | .vdot4u d a b k => .word (118#7 ++ d ++ a ++ b ++ k ++ 9#7)
  | .kand d a b => .word (476#9 ++ d ++ 0#2 ++ a ++ 0#2 ++ b ++ 0#10)
  | .kor d a b => .word (476#9 ++ d ++ 0#2 ++ a ++ 0#2 ++ b ++ 1#10)
  | .kxor d a b => .word (476#9 ++ d ++ 0#2 ++ a ++ 0#2 ++ b ++ 2#10)
  | .knot d a => .word (476#9 ++ d ++ 0#2 ++ a ++ 3#15)
  | .kpopc d a => .word (119#7 ++ d ++ 0#2 ++ a ++ 4#15)
  | .kfirst d a => .word (119#7 ++ d ++ 0#2 ++ a ++ 5#15)
  | .kany d a => .word (119#7 ++ d ++ 0#2 ++ a ++ 6#15)
  | .kmov d a => .word (476#9 ++ d ++ 0#2 ++ a ++ 7#15)
  | .kfromx d a => .word (476#9 ++ d ++ a ++ 8#15)
  | .ktox d a => .word (119#7 ++ d ++ 0#2 ++ a ++ 9#15)
  | .vaddi d a i k w => .word (120#7 ++ d ++ a ++ i ++ k ++ w ++ 0#5)
  | .vandi d a i k w => .word (120#7 ++ d ++ a ++ i ++ k ++ w ++ 1#5)
  | .vori d a i k w => .word (120#7 ++ d ++ a ++ i ++ k ++ w ++ 2#5)
  | .vxori d a i k w => .word (120#7 ++ d ++ a ++ i ++ k ++ w ++ 3#5)
  | .vslli d a i k w => .word (120#7 ++ d ++ a ++ i ++ k ++ w ++ 4#5)
  | .vsrli d a i k w => .word (120#7 ++ d ++ a ++ i ++ k ++ w ++ 5#5)
  | .vsrai d a i k w => .word (120#7 ++ d ++ a ++ i ++ k ++ w ++ 6#5)
  | .vceqi d a i k w => .word (480#9 ++ d ++ a ++ i ++ k ++ w ++ 7#5)
  | .vclti d a i k w => .word (480#9 ++ d ++ a ++ i ++ k ++ w ++ 8#5)
  | .vmovi d i k w => .word (120#7 ++ d ++ 0#5 ++ i ++ k ++ w ++ 9#5)
  | .cvt d a s f => .word (121#7 ++ d ++ a ++ 0#1 ++ s ++ 0#6 ++ f)
  | .vcvt d a s k f => .word (121#7 ++ d ++ a ++ 0#1 ++ s ++ k ++ 1#3 ++ f)
  | .vpack d a s f => .word (121#7 ++ d ++ a ++ 0#1 ++ s ++ 2#6 ++ f)
  | .vunpk d a s g f => .word (121#7 ++ d ++ a ++ 0#1 ++ s ++ g ++ 3#3 ++ f)
  | .bscale d a k f => .word (121#7 ++ d ++ a ++ 0#5 ++ k ++ 4#3 ++ f)
  | .balignExp d a k => .word (121#7 ++ d ++ a ++ 0#5 ++ k ++ 80#7)
  | .balignQ8 d a b k => .word (121#7 ++ d ++ a ++ b ++ k ++ 81#7)
  | .balignQ16 d a b k => .word (121#7 ++ d ++ a ++ b ++ k ++ 82#7)
  | .csrr d r => .word (126#7 ++ d ++ 0#8 ++ r)
  | .csrw d a r => .word (126#7 ++ d ++ a ++ 1#3 ++ r)
  | .csrset d a r => .word (126#7 ++ d ++ a ++ 2#3 ++ r)
  | .csrclr d a r => .word (126#7 ++ d ++ a ++ 3#3 ++ r)
  | .trap a n => .word (4032#12 ++ a ++ 256#9 ++ n)
  | .tlbinv a => .word (4032#12 ++ a ++ 20480#15)
  | .iclean a => .word (4032#12 ++ a ++ 24576#15)
  | .migrate d a => .word (126#7 ++ d ++ a ++ 28673#15)
  | .mgrd d a => .word (126#7 ++ d ++ a ++ 28674#15)
  | .mgwr d a => .word (126#7 ++ d ++ a ++ 28675#15)
  | .rtswap d a => .word (126#7 ++ d ++ a ++ 28676#15)
  | .watchdog _ _ => .none
  | .mxLdb _ => .none
  | .mxMma _ => .none
  | .mxStc _ => .none
  | .mxZc _ => .none
  | .mxMark _ => .none
  | .cpLin _ => .none
  | .cp2d _ => .none
  | .cpGath _ => .none
  | .tdDec _ => .none
  | .gmF2v _ => .none
  | .gmV2f _ => .none
  | .gmBel _ => .none
  | .gmMean _ => .none
  | .gmDamp _ => .none
  | .slStart _ => .none
  | .slStop _ => .none
  | .slDrain _ => .none
  | .lkAred _ => .none
  | .lkCopy _ => .none
  | .aredChunkExchange _ _ => .none
  | .engineCommandArrival _ => .none
  | .completionElementArrival _ _ _ _ _ _ => .none
  | .reefWindow _ => .none
  | .messageArrival _ => .none
  | .issueSlotHandoff _ => .none
  | .sendCommit _ _ => .none
  | .dequeReload _ => .none
  | .acknowledgement _ _ _ => .none
  | .nack _ _ _ _ => .none
  | .retryResend _ _ _ => .none
  | .stealRequest _ => .none
  | .stealRequestArrival _ _ => .none
  | .stealReply _ _ => .none
  | .drainAndSwap _ _ => .none
  | .escapeRecovery _ _ _ => .none
  | .partitionDrop _ _ => .none
  | .partitionRefusal _ _ _ => .none
  | .firewallDrop _ _ _ _ => .none
  | .gets _ _ => .none
  | .getm _ _ => .none
  | .getu _ _ _ _ => .none
  | .uPartial _ _ => .none
  | .hostRead _ => .none
  | .hostReadOwn _ => .none
  | .hostWrite _ _ _ => .none
  | .bisnpResponse _ _ _ => .none
  | .bisnpReread _ => .none
  | .snoopShare _ _ => .none
  | .snoopInvalidate _ _ => .none
  | .recallLine _ => .none
  | .lineFill _ _ _ => .none
  | .hostSnpdata _ => .none
  | .hostSnpinv _ => .none
  | .homeOperation _ => .none
  | .homeResponse _ _ _ => .none
  | .mergeRead _ _ _ => .none
  | .mergeReply _ _ => .none
  | .atsResponse _ _ _ _ => .none
  | .priResponse _ _ _ _ => .none
  | .atsInvalidation _ _ _ => .none
  | .pasidStop _ => .none
  | .regionTableDrain _ _ => .none
  | .waitaArm _ _ => .none
  | .waitaWake _ _ => .none
  | .waitaExpiry _ _ => .none
  | .waitaPoll _ _ => .none
  | .barrierNotification _ _ _ _ => .none
  | .gatherReport _ _ _ => .none
  | .barrierCompletion _ _ _ => .none
  | .vredgContribution _ _ _ => .none
  | .vredgResult _ _ => .none
  | .ringOpAtHome _ => .none
  | .ringAnswer _ _ _ => .none
  | .ringResend _ _ => .none
  | .ringWaitExpiry _ _ => .none
  | .doorbell _ _ => .none
  | .directMessage _ _ _ _ _ => .none
  | .launchRecordRead _ => .none
  | .slotIdleTimeout _ => .none
  | .gateRead _ => .none
  | .gangPlacement => .none
  | .deadlinePreempt => .none
  | .preemptionSaved _ => .none
  | .gangResume _ => .none
  | .rtReservationMiss _ => .none
  | .launchCompletion _ _ _ => .none
  | .queueTeardown _ => .none
  | .queueRegister _ _ => .none
  | .readyQueueSend => .none
  | .readyQueueReoffer _ => .none
  | .furledRequestAtHome _ => .none
  | .evaluationMessage _ _ => .none
  | .recordFailureReport _ => .none
  | .evaluationFailureReport _ => .none
  | .furledWake _ _ => .none
  | .furlWaitLimit _ => .none
  | .furlWaiterResend _ => .none
  | .spliceAnnihilate _ => .none
  | .spliceCommute _ => .none
  | .spliceErase _ => .none
  | .spliceTemplate _ => .none
  | .spliceHandler _ => .none
  | .spliceEngine _ => .none
  | .engineRuleElement _ _ _ => .none
  | .bagReload _ => .none
  | .spliceSteal _ => .none
  | .bagStealArrival _ _ => .none
  | .trapRecordArrival _ _ _ => .none
  | .migrationForward _ _ => .none
  | .mapAcknowledged _ => .none
  | .stayLinkTrained _ _ => .none
  | .stayLinkLoss => .none
  | .deviceFatalError _ _ _ => .none
  | .functionReset => .none
  | .powerOn _ _ _ => .none
  | .readyBitSet _ => .none
  | .powerMeasurement _ => .none
  | .matrixCapUpdate _ => .none
  | .thermalStep _ => .none
  | .thermalTrip _ => .none
  | .getVersion _ => .none
  | .getCapabilities _ => .none
  | .negotiateAlgorithms _ => .none
  | .getDigests _ => .none
  | .getCertificate _ => .none
  | .challenge _ => .none
  | .getMeasurements _ => .none
  | .readbackLatch _ => .none
  | .errorLogClear _ _ => .none
  | .powerCapWrite _ => .none
  | .registerWrite _ _ => .none
  | .illegalInstruction _ _ _ => .none
  | .instructionFetchFault _ _ _ _ => .none
  | .childLaunchRequest _ _ _ _ => .none
  | .launchAnswer _ _ _ _ => .none
  | .migrationImageInstalled _ _ => .none
  | .aredPartnerEnded _ => .none
  | .linkLevelRetry => .none

/-- The bytes of an encoding in memory order (00 R4). -/
def Encoding.bytes (e : Encoding) : List Byte :=
  match e with
  | .word w => [w.extractLsb' 16 8, w.extractLsb' 24 8, w.extractLsb' 0 8, w.extractLsb' 8 8]
  | .half w => [w.extractLsb' 0 8, w.extractLsb' 8 8]
  | .none => []

/-- Decoding what an encoding holds. -/
noncomputable def Encoding.decode (e : Encoding) : Except DecodeError Instr :=
  match e with
  | .word w => decodeWord w
  | .half w => decodeHalf w
  | .none => .error .noEncoding

/-- The instruction of a table row's bits, as the opcode table numbers them: a 16-bit row is one halfword, any other row one
32-bit word. It goes through the bytes in memory. -/
noncomputable def decodeTableWord (nbits w : Nat) : Option Instr :=
  let e : Encoding := if nbits ≤ 16 then .half (BitVec.ofNat 16 w) else .word (BitVec.ofNat 32 w)
  match decodeBytes e.bytes with
  | .ok (i, _) => some i
  | .error _ => none

end Sys2Proof
end

