-- ==== Sys2Proof/Machine/Fetch.lean ====
section
/-!
DEFINITION. Instruction fetch (02 R47, R48, R70; 06 R173, R192): halfwords through the L1 instruction cache, whose lines are
matched by virtual address and never observe stores.
-/

namespace Sys2Proof.Machine

/-- The 64-byte line of an address. -/
def lineVa (va : Word) : Nat := low57 va / 64

/-- The bytes of a line in an instruction cache. -/
def icacheLine (ic : List (Nat × List Byte)) (l : Nat) : Option (List Byte) := (ic.find? fun e => e.1 == l).map (·.2)

/-- A line put into the instruction cache (06 R173): 64 sets of 8 ways, in which the line that came first gives way (log 59). -/
def icachePut (ic : List (Nat × List Byte)) (l : Nat) (bs : List Byte) : List (Nat × List Byte) :=
  let rest := ic.filter fun e => e.1 != l
  let ways := rest.filter fun e => e.1 % 64 == l % 64
  let out := if ways.length < 8 then none else ways.getLast?.map (·.1)
  (l, bs) :: rest.filter fun e => some e.1 != out

/-- The line of a code address filled from its home like a read (06 R173): the causes of a load of the halfword (02 R70, 06 R179, 10 R342), the
host's exclusive copy asked back, the request counted (06 R185), partials recalled and an owner's line shared; a private line is the core's own (06 R179, R192). -/
def State.codeLine (s : State) (c : CoreId) (va : Word) : Except Stop (List Byte × State) := do
  let p : Piece := { loc := .mem va, len := 2, align := 2 }
  let q ← p.translated s c false
  p.permitted s c false
  match q with
  | .sp _ => return ([], s)
  | .phys pa _ attr =>
    let l := pa / 64
    if s.hostHolds l then .error (.busy [l])
    else
      let t := (s.countLine c pa va).recall l
      if attr = 1 then return (t.readPlace c (.phys (64 * l) va 1) 64, if s.stale.isEmpty then t else t.tock)
      else if attr = 0 then return (t.ownBytes c (64 * l) 64, t)
      else return (t.mem.bytes (64 * l) 64, t.shareOwner l)

/-- A line in core c's instruction cache. -/
def State.putCode (s : State) (c : CoreId) (va : Word) (bs : List Byte) : State :=
  s.modCore c fun k => { k with icache := icachePut k.icache (lineVa va) bs }

/-- The bytes of the line that a fetch sees: the cached copy, or the memory's when none is cached; where the two differ, either of
them, a free value (06 R192, log 13). A line that is cached needs no translation and has no cause (log 59). -/
def State.fetchLine (s : State) (c : CoreId) (va : Word) : Except Stop (List Byte × State) :=
  match icacheLine (s.coreAt c).icache (lineVa va), s.codeLine c va with
  | none, .error st => .error st
  | none, .ok (new, t) => .ok (new, t.putCode c va new)
  | some old, .error _ => .ok (old, s)
  | some old, .ok (new, t) =>
    if old = new then .ok (old, s)
    else if Config.fetchSeesNew s.tick (lineVa va) then .ok (new, (t.putCode c va new).tock) else .ok (old, s.tock)

/-- The fetch buffer reads a line ahead (06 R192, log 13): what it holds is fetched later without a look at memory. -/
def State.fetchAhead (s : State) (c : CoreId) (va : Word) : State :=
  if (s.coreAt c).ident.lid.isNone ∨ (icacheLine (s.coreAt c).icache (lineVa va)).isSome then s
  else match s.codeLine c va with
    | .ok (bs, t) => t.putCode c va bs
    | .error _ => s

/-- The halfword at an address; an address is even, so it lies in one line. -/
def State.fetchHalf (s : State) (c : CoreId) (va : Word) : Except Stop (BitVec 16 × State) := do
  let r ← s.fetchLine c va
  return (r.1.getD (low57 va % 64 + 1) 0 ++ r.1.getD (low57 va % 64) 0, r.2)

/-- What a fetch at pc gives (02 R47, R70): an instruction, an illegal encoding, or why the fetch does not go ahead. -/
inductive Fetched where
  | instr (i : Instr) (s : State)
  | illegal (enc : Word) (s : State)
  | stop (st : Stop)

/-- The instruction at an address (02 R47): the first halfword's bit 15 gives its length. -/
noncomputable def State.fetch (s : State) (c : CoreId) (pc : Word) : Fetched :=
  match s.fetchHalf c pc with
  | .error st => .stop st
  | .ok (h, s1) =>
    if h.getLsbD 15 then
      match s1.fetchHalf c (va57 (pc + 2)) with
      | .error st => .stop st
      | .ok (g, s2) =>
        (match decodeWord (h ++ g) with
        | .ok i => .instr i s2
        | .error _ => .illegal ((h ++ g).setWidth 64) s2)
    else
      match decodeHalf h with
      | .ok i => .instr i s1
      | .error _ => .illegal (h.setWidth 64) s1

end Sys2Proof.Machine
end

