-- ==== Sys2Proof/Machine/Control.lean ====
section
/-!
DEFINITION. Pointer arithmetic and checks (04 R130, R131), branches and jumps (04 R136 to R139), hardware loops (04 R140) and task
control (04 R143 to R146), with their 16-bit forms (02 R55, R56).
-/

namespace Sys2Proof.Machine

/-! Pointers. -/

/-- The sum PADD writes, none when it leaves the address range (04 R130). -/
def paddSum (p n : Word) : Option Word :=
  if p.extractLsb' 60 4 = 15 then
    let t : Int := (bitsOf p.toNat 18 0 : Int) + n.toInt
    if t < 0 ∨ (spSize : Int) ≤ t then none else some ((p &&& ~~~0x7FFFF) ||| BitVec.ofInt 64 t)
  else
    let t : Int := (va57 p).toInt + n.toInt
    if t < -(2 ^ 56) ∨ 2 ^ 56 ≤ t then none else some (p.extractLsb' 57 7 ++ BitVec.ofInt 57 t)

/-- PADD (04 R130): 0x045 when the sum leaves the range. -/
def execPadd (d a b : BitVec 5) (s : State) : Out :=
  match paddSum (s.ctx.rx a) (s.ctx.rx b) with
  | some r => ctxStep 4 1 (fun c => c.wx d r) s
  | none => trapStep 0x045 (s.ctx.rx a) s

/-- Whether a number names a core of the issuing core's launch (03 R98). -/
def State.inLaunch (s : State) (c : CoreId) (rel : Nat) : Bool :=
  match s.launchOf c with
  | some l => decide (rel < l.size)
  | none => false

/-- PCHK's word (04 R131). -/
def State.pchkWord (s : State) (p : Word) : Word :=
  let f := p.extractLsb' 60 4
  let fok := if f ∈ [0, 11, 12, 14, 15] then 0 else 1
  if f = 15 then
    let ok := bitsOf p.toNat 48 19 = 0 ∧ bitsOf p.toNat 18 0 < spSize ∧ (p.getLsbD 49 ∨ s.inLaunch s.cur (bitsOf p.toNat 59 50))
    if ok then 2 else 0
  else
    match s.region s.core.ident.pasid p with
    | { attr := at', owner := _, odev := _, index := some i } => BitVec.ofNat 64 (fok + 4 + at'.toNat * 8 + i * 32)
    | { attr := _, owner := _, odev := _, index := none } => BitVec.ofNat 64 fok

/-- PCHK (04 R131). -/
def execPchk (d a : BitVec 5) (s : State) : Out := ctxStep 4 1 (fun c => c.wx d (s.pchkWord (s.ctx.rx a))) s

/-! Branches and jumps. -/

/-- A branch of length len with condition p; o counts halfwords (04 R137): 2 cycles when taken. -/
def branchStep (len : Nat) (p : Word → Word → Bool) (a b : BitVec 5) (o : Word) (s : State) : Out :=
  let c := s.ctx
  if p (c.rx a) (c.rx b) then jumpStep len 2 id (va57 (c.pc + 2 * o)) s else ctxStep len 1 id s

/-- BEQ (04 R137). -/
def execBeq (a b : BitVec 5) (o : BitVec 15) (s : State) : Out := branchStep 4 (fun x y => x == y) a b (o.signExtend 64) s
/-- BNE (04 R137). -/
def execBne (a b : BitVec 5) (o : BitVec 15) (s : State) : Out := branchStep 4 (fun x y => x != y) a b (o.signExtend 64) s
/-- BLT (04 R137). -/
def execBlt (a b : BitVec 5) (o : BitVec 15) (s : State) : Out := branchStep 4 (fun x y => x.slt y) a b (o.signExtend 64) s
/-- BGE (04 R137). -/
def execBge (a b : BitVec 5) (o : BitVec 15) (s : State) : Out := branchStep 4 (fun x y => !x.slt y) a b (o.signExtend 64) s
/-- BLTU (04 R137). -/
def execBltu (a b : BitVec 5) (o : BitVec 15) (s : State) : Out := branchStep 4 (fun x y => x.ult y) a b (o.signExtend 64) s
/-- BGEU (04 R137). -/
def execBgeu (a b : BitVec 5) (o : BitVec 15) (s : State) : Out := branchStep 4 (fun x y => !x.ult y) a b (o.signExtend 64) s
/-- BEQZ_16: beq xa, x0 (02 R55). -/
def execBeqz16 (a : BitVec 4) (o : BitVec 7) (s : State) : Out := branchStep 2 (fun x y => x == y) (reg16 a) 0 (o.signExtend 64) s
/-- BNEZ_16: bne xa, x0 (02 R55). -/
def execBnez16 (a : BitVec 4) (o : BitVec 7) (s : State) : Out := branchStep 2 (fun x y => x != y) (reg16 a) 0 (o.signExtend 64) s

/-- JAL (04 R138). -/
def execJal (d : BitVec 5) (o : BitVec 20) (s : State) : Out :=
  jumpStep 4 2 (fun c => c.wx d (c.seq 4)) (va57 (s.ctx.pc + 2 * o.signExtend 64)) s
/-- J_16: jal x0 (02 R55). -/
def execJ16 (o : BitVec 11) (s : State) : Out := jumpStep 2 2 id (va57 (s.ctx.pc + 2 * o.signExtend 64)) s

/-- The target of JALR (02 R60, 04 R139). -/
def jalrTarget (c : Ctx) (a : BitVec 5) (i : BitVec 15) : Word := va57 (c.rx a + i.signExtend 64)

/-- JALR (04 R139): an odd target raises 0x004 and writes no link. -/
def execJalr (d a : BitVec 5) (i : BitVec 15) (s : State) : Out :=
  let t := jalrTarget s.ctx a i
  if t.getLsbD 0 then trapStep 0x004 t s else jumpStep 4 3 (fun c => c.wx d (c.seq 4)) t s

/-! Hardware loops (04 R140). -/

/-- The outer loop armed. -/
def Ctx.arm0 (c : Ctx) (count le : Word) : Ctx :=
  { c with lc0 := count, ls0 := c.seq 4, le0 := le, lstat := c.lstat ||| 1 }

/-- The inner loop armed. -/
def Ctx.arm1 (c : Ctx) (count le : Word) : Ctx :=
  { c with lc1 := count, ls1 := c.seq 4, le1 := le, lstat := c.lstat ||| 2 }

/-- LOOP and LOOPI (04 R140): 0x007 when both loops are armed, before the count is examined; with count 0 the halfword at the end
instruction gives its length, and a fault on that fetch is a fault of the LOOP. -/
def loopStep (count : Word) (o : BitVec 15) (s : State) : Out :=
  let c := s.ctx
  let le := va57 (c.pc + 2 * o.setWidth 64)
  if c.lstat = 3 then trapStep 0x007 count s
  else if count = 0 then
    match s.fetchHalf s.cur le with
    | .error st => State.stopStep st s
    | .ok (h, s1) => jumpStep 4 2 id (va57 (le + (if h.getLsbD 15 then 4 else 2))) s1
  else if c.lstat.getLsbD 0 then ctxStep 4 1 (fun c => c.arm1 count le) s
  else ctxStep 4 1 (fun c => c.arm0 count le) s

/-- LOOP (04 R140). -/
def execLoop (a : BitVec 5) (o : BitVec 15) (s : State) : Out := loopStep (s.ctx.rx a) o s
/-- LOOPI (04 R140). -/
def execLoopi (n : BitVec 9) (o : BitVec 15) (s : State) : Out := loopStep (n.setWidth 64) o s

/-! Task control. -/

/-- END (04 R143, 08 R256): the context is free when its sends are committed; it holds no slot while it waits. -/
def endStep (s : State) : Out :=
  let s1 := s.spend 1
  if (s.sendsOf s.cur s.hot).isEmpty then .next (s1.clearCtx s.cur s.hot false)
  else .next (((s1.onCtx fun c => { c with status := .ending }).leaveSlot s.cur s.hot).post (.sendCommit s.cur s.hot))

/-- END (04 R143). -/
def execEndTask (s : State) : Out := endStep s
/-- END_16 (02 R55). -/
def execEnd16 (s : State) : Out := endStep s

/-- YIELD (04 R142, R144): the slot is given up and the context stays ready; the instruction falls through when it gains the slot
again. -/
def yieldStep (len : Nat) (s : State) : Out :=
  let s1 := (s.spend 1).onCtx fun c => { c with status := .ready, falls := len }
  .next (((s1.leaveSlot s.cur s.hot).modCore s.cur fun k => { k with yielded := true }))

/-- YIELD (04 R144). -/
def execYield (s : State) : Out := yieldStep 4 s
/-- YIELD_16 (02 R55). -/
def execYield16 (s : State) : Out := yieldStep 2 s

/-- DONE (01 R40, 04 R145): the value goes to the launch unit, the handler ends and its unflushed sends are discarded. -/
def execDone (a : BitVec 5) (s : State) : Out :=
  let v := s.ctx.rx a
  let s1 := (s.spend 1).clearCtx s.cur s.hot false
  match s.core.ident.lid with
  | some lid => .next (s1.post (.launchCompletion lid v (some (s.cur, s.hot))))
  | none => .next s1

/-- NOP (04 R146). -/
def execNop (s : State) : Out := ctxStep 4 1 id s
/-- NOP_16 (02 R55). -/
def execNop16 (s : State) : Out := ctxStep 2 1 id s

end Sys2Proof.Machine
end

