-- ==== Sys2Proof/Machine/Message.lean ====
section
/-!
DEFINITION. Message instructions (08 R274 to R277) and rings (08 R278 to R282).
-/

namespace Sys2Proof.Machine

/-! SEND and SPAWN. -/

/-- Free entries of a send buffer of 32, and the share the other contexts are promised (08 R255). -/
def Core.sendRoom (k : Core) (x : CtxId) : Bool :=
  let held := fun (y : CtxId) => (k.net.sendBuf.filter fun e => e.ctx == y).length
  let free := 32 - k.net.sendBuf.length
  let promised := ((List.finRange 4).filter fun y => y != x && k.ctxs[y].status != .free).foldl (fun n y => n + (8 - held y)) 0
  decide (held x < 8) || decide (promised < free)

/-- Whether a core number names a core of the launch of core c; 0x3FF names the link die (08 R246, R248; log 23). -/
def State.namesCore (s : State) (c : CoreId) (rel : Nat) : Bool := decide (rel ≠ 0x3FF) && s.inLaunch c rel

/-- The checks of SEND and SPAWN on a class (08 R275). -/
def State.classOk (s : State) (c : CoreId) (w : Msg) : Bool := classValid (s.classEntry (s.coreAt c).ident.pasid (Msg.field w 63 58))

/-- Whether the destination of a header lies within its class's REACH taken from core c; the peer lies within REACH 6 (08 R250). -/
def State.reachOk (s : State) (c : CoreId) (w : Msg) : Bool :=
  let reach := classReach (s.classEntry (s.coreAt c).ident.pasid (Msg.field w 63 58))
  if BitVec.ofNat 1 (Msg.field w 45 45) ≠ s.dev then decide (6 ≤ reach)
  else match (s.launchOf c).bind fun l => l.core? (Msg.field w 44 35) with
    | some d => s.reaches c reach d
    | none => false

/-- The header checks of SEND in order (08 R275): every one raises 0x0C5. -/
def State.sendOk (s : State) (c : CoreId) (w : Msg) : Bool :=
  decide (Msg.field w 0 0 = 0) && s.classOk c w && decide (Msg.field w 1 1 = 0)
    && (decide (Msg.field w 34 32 = 0) && s.namesCore c (Msg.field w 44 35))
    && (decide (BitVec.ofNat 1 (Msg.field w 45 45) = s.dev) || s.peerTrained) && s.reachOk c w

/-- The header checks of SPAWN (08 R275). -/
def State.spawnOk (s : State) (c : CoreId) (w : Msg) : Bool :=
  decide (Msg.field w 0 0 = 0) && s.classOk c w && decide (Msg.field w 3 2 = 0) && decide (Msg.field w 1 1 = 0)

/-- A send-buffer entry taken, or 0x0C6 with the context's holding (08 R255, R275). -/
def bufferStep (ok : Bool) (task : Bool) (w : Msg) (s : State) : Out :=
  if !ok then trapStep 0x0C5 (Msg.word w 0) s
  else if !s.core.sendRoom s.hot then trapStep 0x0C6 (BitVec.ofNat 64 (s.sendsOf s.cur s.hot).length) s
  else
    let e : SendEntry := { ctx := s.hot, word := withXt w s.ctx.xt, task := task }
    (s.modCore s.cur fun k => { k with net := { k.net with sendBuf := k.net.sendBuf ++ [e] } }).done 4 1 id

/-- SEND (08 R275). -/
def execSend (a : BitVec 5) (s : State) : Out := bufferStep (s.sendOk s.cur (s.ctx.rv a)) false (s.ctx.rv a) s
/-- SPAWN (08 R275). -/
def execSpawn (a : BitVec 5) (s : State) : Out := bufferStep (s.spawnOk s.cur (s.ctx.rv a)) true (s.ctx.rv a) s

/-- FLUSH (08 R257, R276): the handler is non-restartable; with entries the context holds its slot until they are committed, and
the instruction then ends. -/
def execFlush (s : State) : Out :=
  if (s.sendsOf s.cur s.hot).isEmpty then ctxStep 4 1 Ctx.commit s
  else .next (((s.spend 1).onCtx fun k => { k.commit with status := .flushing }).post (.sendCommit s.cur s.hot))

/-- The class enable register of the issuing core changed (08 R251). -/
def clsenStep (f : Word → Word) (s : State) : Out :=
  (s.modCore s.cur fun k => { k with net := { k.net with clsen := f k.net.clsen } }).done 4 1 id

/-- CLSEN (08 R277). -/
def execClsen (n : BitVec 6) (s : State) : Out := clsenStep (fun w => w ||| ((1 : Word) <<< n.toNat)) s
/-- CLSDIS (08 R277). -/
def execClsdis (n : BitVec 6) (s : State) : Out := clsenStep (fun w => w &&& ~~~((1 : Word) <<< n.toNat)) s

/-- clspend (08 R251): the classes with EN = 0 of which the mailbox holds a message that has not started (log 24). -/
def Core.clspend (k : Core) : Word :=
  maskOf 64 fun i => !k.net.clsen.getLsbD i && k.net.mailbox.any fun e => e.started.isNone && (match e.kind with
    | .direct _ => false
    | _ => decide (Msg.field e.word 63 58 = i))

/-- CLSPEND (08 R277). -/
def execClspend (d : BitVec 5) (s : State) : Out := ctxStep 4 1 (fun c => c.wx d s.core.clspend) s

/-! Rings (08 R278). -/

/-- A ring descriptor. -/
structure Ring where
  head : Nat
  tail : Nat
  cap : Nat
  esize : Nat
  base : Nat
  producers : Nat
  eosSeen : Nat
  deriving DecidableEq, Repr

def ringOf (d : Msg) : Ring :=
  { head := Msg.field d 31 0 + Msg.field d 256 256 * 2 ^ 32, tail := Msg.field d 63 32 + Msg.field d 257 257 * 2 ^ 32
    cap := Msg.field d 127 64, esize := Msg.field d 135 128, base := Msg.field d 255 192, producers := Msg.field d 383 320
    eosSeen := Msg.field d 447 384 }

/-- Whether a descriptor keeps 08 R278. -/
def ringOk (d : Msg) : Bool :=
  let r := ringOf d
  Msg.field d 511 448 == 0 && Msg.field d 319 258 == 0 && Msg.field d 191 136 == 0
    && [8, 16, 32, 64].contains r.esize && decide (8 ≤ r.cap ∧ r.cap ≤ 2 ^ 32 ∧ 2 ^ Nat.log2 r.cap = r.cap) && r.base % r.esize == 0

/-- Slots held. -/
def Ring.count (r : Ring) : Nat := (r.tail + 2 ^ 33 - r.head) % 2 ^ 33

/-- A ring as its home serves it: the descriptor's physical address, the address space, and the ring. -/
structure RingAt where
  pa : Nat
  pasid : BitVec 20
  ring : Ring
  deriving DecidableEq, Repr

/-- The counters written back to the descriptor. -/
def State.saveRing (s : State) (q : RingAt) : State :=
  let r := q.ring
  let x := r.tail / 2 ^ 32 * 2 + r.head / 2 ^ 32
  ((s.store q.pa (toBytes 8 (r.tail % 2 ^ 32 * 2 ^ 32 + r.head % 2 ^ 32))).store (q.pa + 32) (toBytes 1 x)).store (q.pa + 48)
    (toBytes 8 r.eosSeen)

/-- The virtual address of slot i. -/
def Ring.slotVa (r : Ring) (i : Nat) : Word := BitVec.ofNat 64 (r.base + (i % r.cap) * r.esize)

/-- The virtual address of the token byte of slot i. -/
def Ring.tokenVa (r : Ring) (i : Nat) : Word := BitVec.ofNat 64 (r.base + r.cap * r.esize + i % r.cap / 8)

def State.token (s : State) (q : RingAt) (i : Nat) : Bool :=
  ((s.readVa q.pasid (q.ring.tokenVa i) 1).getD 0 >>> (i % q.ring.cap % 8)) % 2 == 1

def State.setToken (s : State) (q : RingAt) (i : Nat) (b : Bool) : State :=
  let old := (s.readVa q.pasid (q.ring.tokenVa i) 1).getD 0
  let m := 2 ^ (i % q.ring.cap % 8)
  s.writeVa q.pasid (q.ring.tokenVa i) 1 ((old - (if s.token q i then m else 0)) + if b then m else 0)

/-- Why the home cannot reach a byte of a ring for an operation: its accesses are ordinary ones (08 R280), with the attribute causes of 06 R179,
and a page that is not granted for them is a not-present fault of the issuing context (06 R184, R187; log 62). -/
def State.ringStop (s : State) (op : RingOp) (pasid : BitVec 20) (va : Word) (write : Bool) : Option RingAns :=
  let r := s.region pasid va
  if r.attr = 0 ∧ (r.owner ≠ op.core.val ∨ r.odev ≠ s.dev) then some (.cause 0x044 va)
  else if r.attr = 1 ∧ write then some (.cause 0x043 va)
  else match s.hostPhys pasid va write with
    | none => some (.fault va write)
    | some pa => if s.noPeer pa then some (.cause 0x041 va) else none

/-- The tokens at the head consumed (08 R280), or why one cannot be read. -/
def State.eatTokens (s : State) (op : RingOp) (q : RingAt) (fuel : Nat) : RingAt × Option RingAns :=
  match fuel with
  | 0 => (q, none)
  | f + 1 =>
    if q.ring.count = 0 then (q, none)
    else match s.ringStop op q.pasid (q.ring.tokenVa q.ring.head) false with
      | some a => (q, some a)
      | none =>
        if s.token q q.ring.head then
          s.eatTokens op { q with ring := { q.ring with head := (q.ring.head + 1) % 2 ^ 33, eosSeen := (q.ring.eosSeen + 1) % 2 ^ 64 } } f
        else (q, none)

/-- QPOP at the home (08 R280): one that waits has consumed the tokens at the head (log 66). -/
def State.ringPop (s : State) (op : RingOp) (q : RingAt) : State × Option RingAns :=
  match s.eatTokens op q q.ring.count with
  | (_, some a) => (s, some a)
  | (q1, none) =>
    let r1 := q1.ring
    let s1 := if q1 = q then s else s.saveRing q1
    if 0 < r1.count then
      match s.ringStop op q.pasid (r1.slotVa r1.head) false with
      | some a => (s, some a)
      | none =>
        let v := (s1.readVa q.pasid (r1.slotVa r1.head) r1.esize).getD 0
        (s1.saveRing { q1 with ring := { r1 with head := (r1.head + 1) % 2 ^ 33 } }, some (.popped (BitVec.ofNat 512 v) op))
    else if r1.producers ≤ r1.eosSeen then (s1, some (.ended op))
    else (s1, none)

/-- QPUSH and QEOS at the home (08 R280). -/
def State.ringPush (s : State) (op : RingOp) (q : RingAt) : State × Option RingAns :=
  let r := q.ring
  if r.count < r.cap then
    match (if op.op = 0 then s.ringStop op q.pasid (r.slotVa r.tail) true else none), s.ringStop op q.pasid (r.tokenVa r.tail) true with
    | some a, _ => (s, some a)
    | none, some a => (s, some a)
    | none, none =>
      let s1 := if op.op = 0 then s.writeVa q.pasid (r.slotVa r.tail) r.esize (op.data.toNat % 2 ^ (8 * r.esize)) else s
      ((s1.setToken q r.tail (op.op != 0)).saveRing { q with ring := { r with tail := (r.tail + 1) % 2 ^ 33 } }, some .done)
  else (s, none)

/-- The ring that an operation acts on, as its descriptor stands. -/
def State.ringAt (s : State) (gang : Option Nat) (op : RingOp) : RingAt :=
  { pa := op.pa, ring := ringOf (BitVec.ofNat 512 (s.mem.num op.pa 64)), pasid := match gang.bind s.launch? with
      | some l => l.pasid
      | none => (s.coreAt op.core).ident.pasid }

/-- One ring operation at its home (08 R280): the new state, and its answer, none when it waits. -/
def State.ringTry (s : State) (gang : Option Nat) (op : RingOp) : State × Option RingAns :=
  if op.op = 1 then s.ringPop op (s.ringAt gang op) else s.ringPush op (s.ringAt gang op)

/-- HEAD of a ring. -/
def State.ringHead (s : State) (op : RingOp) : Nat := (s.ringAt none op).ring.head

/-- HEAD before and after the tokens that a waiting operation has removed in all. -/
def ateMore (ate : Option (Nat × Nat)) (h0 h1 : Nat) : Option (Nat × Nat) :=
  if h0 = h1 then ate
  else match ate with
    | some (a, b) => if b = h0 then some (a, h1) else some (h0, h1)
    | none => some (h0, h1)

/-- The operations parked on a descriptor, in order, with the gang when it is saved. -/
def State.parkedOn (s : State) (pa : Nat) : List (Option Nat × RingOp) :=
  (s.clusters[s.homeCluster pa]).cleat.filterMap fun k => match k with
    | .ring op _ => if op.pa = pa then some (none, op) else none
    | .saved lid (.ring op _) => if op.pa = pa then some (some lid, op) else none
    | _ => none

/-- Whether an entry is an operation parked by a gang. -/
def isRing (g : Option Nat) (op : RingOp) (k : Cleat) : Bool :=
  match g, k with
  | none, .ring o _ => o == op
  | some l, .saved m (.ring o _) => l == m && o == op
  | _, _ => false

/-- The tokens that a parked operation has removed, noted in its entry. -/
def Cleat.eats (h0 h1 : Nat) (k : Cleat) : Cleat :=
  match k with
  | .ring op a => .ring op (ateMore a h0 h1)
  | .saved lid k => .saved lid (k.eats h0 h1)
  | k => k

/-- The first parked operation that completes now, with the state after it; earlier ones have been re-evaluated. -/
def State.firstDone (s : State) (ops : List (Option Nat × RingOp)) : State × Option (Option Nat × RingOp × RingAns) :=
  match ops with
  | [] => (s, none)
  | (g, op) :: r =>
    match s.ringTry g op with
    | (t, some a) => (t, some (g, op, a))
    | (t, none) => (t.modCleat op.pa (·.map fun k => if isRing g op k then k.eats (s.ringHead op) (t.ringHead op) else k)).firstDone r

/-- Parked operations re-evaluated after an operation on the ring, until none completes and none removes tokens (08 R280). -/
def State.settleRing (s : State) (pa : Nat) (fuel : Nat) : State :=
  match fuel with
  | 0 => s
  | f + 1 =>
    match s.firstDone (s.parkedOn pa) with
    | (t, some (g, op, a)) =>
      ((t.modCleat pa fun ks => ks.filter fun k => !isRing g op k).toward g (.ringAnswer op.core op.ctx a)).settleRing pa f
    | (t, none) => if t.mem.bytes pa 64 = s.mem.bytes pa 64 then t else t.settleRing pa f

/-- Every operation parked on a ring re-evaluated. -/
def State.settleParked (s : State) (pa : Nat) : State := s.settleRing pa (2 * (s.parkedOn pa).length + 2)

/-- The lines of an operation that the host holds exclusively (07 R225): those of the descriptor, and of the slot and the token at HEAD and
at TAIL. -/
def State.ringHeld (s : State) (op : RingOp) : List Nat :=
  let r := ringOf (BitVec.ofNat 512 (s.mem.num op.pa 64))
  let pasid := (s.coreAt op.core).ident.pasid
  [op.pa / 64].filter s.hostHolds ++ [r.head, r.tail].flatMap fun i =>
    s.heldLines pasid (r.slotVa i) r.esize ++ s.heldLines pasid (r.tokenVa i) 1

/-- RING_OP_AT_HOME (08 R280): executed, or parked in the cleat table, or left to be resent, without effect, when the table is full; it waits for the lines
that the host holds. -/
def execRingOpAtHome (op : RingOp) (s0 : State) : Out :=
  if !(s0.ringHeld op).isEmpty then .next (((s0.ringHeld op).foldl State.snoopHost s0).park (.ringOpAtHome op)) else
  let s := s0.claimHome (op.pa / 64)
  let again := fun (t : State) => t.modCore op.core fun k => { k with net := { k.net with rings := k.net.rings.filter fun o => o != op } }
  match s.ringTry none op with
  | (t, some a) =>
    .next (((again t).post (.ringAnswer op.core op.ctx a)).settleParked op.pa)
  | (t, none) =>
    if (t.clusters[t.homeCluster op.pa]).cleat.length < 64 then
      .next ((((again t).modCleat op.pa (· ++ [.ring op (ateMore none (s.ringHead op) (t.ringHead op))])).post
        (.ringAnswer op.core op.ctx (.parked op))).settleParked op.pa)
    else .next ((again s).modCore op.core fun k => { k with net := { k.net with rings := k.net.rings ++ [op] } })

/-- A ring instruction's end at its context, which holds the slot or has given it up (08 R280, R282). -/
def State.endRing (s : State) (c : CoreId) (x : CtxId) (f : Ctx → Ctx) : State :=
  match (s.ctxAt c x).status with
  | .stalled => (s.modCtx c x fun k => (f k).commit.retire 4 (k.seq 4)).unstall c x
  | .suspended (.ring _) => s.finishWait c x fun k => (f k).commit
  | _ => s

/-- Whether a context waits for a ring operation, in its slot or suspended. -/
def State.inRing (s : State) (c : CoreId) (x : CtxId) : Bool :=
  match (s.ctxAt c x).status with
  | .stalled | .suspended (.ring _) => true
  | _ => false

/-- RING_ANSWER (08 R280): the operation's result, a fault or a trap of its accesses, or the notice that it is parked, at which the context gives up its slot. -/
def execRingAnswer (c : CoreId) (x : CtxId) (r : RingAns) (s : State) : Out :=
  match r with
  | .done => .next (s.endRing c x id)
  | .popped w op => .next (s.endRing c x fun k => (k.wv op.a w).wx op.c 0)
  | .ended op => .next (s.endRing c x fun k => k.wx op.c 1)
  | .fault va w =>
    if s.inRing c x then .next ((s.suspend c x (.fault va)).post (.atsResponse (.ctx c x) (s.coreAt c).ident.pasid va w)) else .next s
  | .cause q v => if s.inRing c x then .next (s.takeTrapAt c x q v 0) else .next s
  | .parked op =>
    if (s.ctxAt c x).status = .stalled ∧ (s.parkedOn op.pa).contains (none, op) then .next (s.suspend c x (.ring op)) else .next s

/-- RING_RESEND (08 R280): an operation that found the cleat table full is sent again. -/
def execRingResend (c : CoreId) (x : CtxId) (s : State) : Out :=
  match (s.coreAt c).net.rings.find? (fun o => o.ctx == x) with
  | some op => .next (s.post (.ringOpAtHome op))
  | none => .next s

/-- The ring operation of a context that waits: parked, to be resent, or on its way to the home, where the host may hold it up. -/
def State.waitingRing (s : State) (c : CoreId) (x : CtxId) : Option RingOp :=
  match (s.ctxAt c x).status with
  | .suspended (.ring op) => if (s.parkedOn op.pa).contains (none, op) then some op else none
  | .stalled => ((s.coreAt c).net.rings ++ (s.pending ++ s.parked).filterMap fun i => match i with
      | .ringOpAtHome op => if op.core = c then some op else none
      | _ => none).find? fun o => o.ctx == x
  | _ => none

/-- The tokens that an expired operation had removed put back (08 R281), where HEAD still stands behind them and no slot of theirs has been
used again (log 66). -/
def State.putBack (s : State) (op : RingOp) : State :=
  match (s.cleatAt op.pa).findSome? fun k => match k with
    | .ring o a => if o = op then a else none
    | _ => none with
  | none => s
  | some (h0, h1) =>
    let q := s.ringAt none op
    let r : Ring := { q.ring with head := h0, eosSeen := (q.ring.eosSeen + 2 ^ 64 - (h1 + 2 ^ 33 - h0) % 2 ^ 33) % 2 ^ 64 }
    if q.ring.head = h1 ∧ r.count ≤ r.cap then s.saveRing { q with ring := r } else s

/-- RING_WAIT_EXPIRY (08 R281): 0x0C0 for QPOP, 0x0C1 for QPUSH and QEOS, with HEAD and TAIL in the auxiliary word. The operation has no
effect. -/
def execRingWaitExpiry (c : CoreId) (x : CtxId) (s : State) : Out :=
  match s.waitingRing c x with
  | none => .next s
  | some op =>
    if s.cyc < op.issued + 2 ^ op.lim.toNat then .next s
    else
      let u := s.putBack op
      let aux := BitVec.ofNat 64 (u.mem.num op.pa 8)
      let keep := fun (i : Instr) => i != .ringOpAtHome op
      let t := { u with pending := u.pending.filter keep, parked := u.parked.filter keep }.modCore c fun k =>
        { k with net := { k.net with rings := k.net.rings.filter fun o => o != op } }
      .next (t.takeTrapAt c x (if op.op = 1 then 0x0C0 else 0x0C1) op.va aux)

/-- A ring instruction (08 R279): the causes of 06 R196, then 0x0C2, then the operation leaves for the descriptor's home, QPUSH and QEOS as
releases (R282). -/
def ringStep (op : BitVec 2) (a b c lim : BitVec 5) (s : State) : Out :=
  match eff s.core.ident.rel (s.ctx.rx b) 0 with
  | .error st => s.stopStep st
  | .ok (.sp o) => trapStep 0x0C2 (BitVec.ofNat 64 o) s
  | .ok (.mem va) =>
    let p : Piece := { loc := .mem va, len := 64, align := 1 }
    match (Piece.translated s s.cur true p).bind fun q => (Piece.permitted s s.cur false p).map fun _ => q with
    | .error st => s.stopStep st
    | .ok (.sp _) => trapStep 0x0C2 va s
    | .ok (.phys pa _ attr) =>
      if attr ≠ 2 ∨ !s.ownMem pa ∨ va.toNat % 64 ≠ 0 then trapStep 0x0C2 va s
      else if !ringOk (BitVec.ofNat 512 ((s.recall (pa / 64)).mem.num pa 64)) then trapStep 0x0C2 va s
      else match s.reach s.cur s.hot false false [p] with
        | .error st => s.stopStep st
        | .ok _ =>
          releasing (op != 1) 5 (fun s =>
          let r : RingOp := { core := s.cur, ctx := s.hot, op := op, va := va, pa := pa, data := s.ctx.rv a, a := a, c := c, lim := lim, issued := s.cyc }
          .next (((s.spend 1).stall s.cur s.hot).post (.ringOpAtHome r))) s

/-- QPUSH (08 R279, R280). -/
def execQpush (a b l : BitVec 5) (s : State) : Out := ringStep 0 a b 0 l s
/-- QPOP (08 R279, R280). -/
def execQpop (a b c l : BitVec 5) (s : State) : Out := ringStep 1 a b c l s
/-- QEOS (08 R279, R280). -/
def execQeos (b l : BitVec 5) (s : State) : Out := ringStep 2 0 b 0 l s

end Sys2Proof.Machine
end

