-- ==== Sys2Proof/Machine/Engine.lean ====
section
/-!
DEFINITION. What the engines share (10 R317 to R326): commands, completion elements, ENQ, DEQ and EPOLL, the arrival of commands and
of elements, and the memory accesses of a running command. An engine that can go on has the event of its next row, chunk or block in
flight.
-/

namespace Sys2Proof.Machine

/-! Units. -/

/-- A unit of a core by its number (08 R248). -/
def Core.unit (k : Core) (u : BitVec 3) : EngineQ :=
  match u.toNat with
  | 1 => k.mx
  | 2 => k.cp
  | 3 => k.td
  | 4 => k.gm
  | _ => k.sl

/-- A unit changed. -/
def Core.setUnit (k : Core) (u : BitVec 3) (q : EngineQ) : Core :=
  match u.toNat with
  | 1 => { k with mx := q }
  | 2 => { k with cp := q }
  | 3 => { k with td := q }
  | 4 => { k with gm := q }
  | _ => { k with sl := q }

def State.unitAt (s : State) (c : CoreId) (u : BitVec 3) : EngineQ := (s.coreAt c).unit u

def State.modUnit (s : State) (c : CoreId) (u : BitVec 3) (f : EngineQ → EngineQ) : State := s.modCore c fun k => k.setUnit u (f (k.unit u))

/-- Whether a unit has room for a command (10 R324, R339): 8 waiting beside the running one; a copy takes two of 16 ranges, which it
keeps until it retires. -/
def EngineQ.room (q : EngineQ) (u : BitVec 3) : Bool := if u = 2 then decide (q.inq.length < 8) else decide (q.inq.length < 9)

/-- The event that executes a command of a core's unit, by its code (02 R69). -/
def unitEvent (c : CoreId) (u : BitVec 3) (code : Nat) : Option Instr :=
  match u.toNat, code with
  | 1, 1 => some (.mxLdb c)
  | 1, 2 => some (.mxMma c)
  | 1, 3 => some (.mxStc c)
  | 1, 4 => some (.mxZc c)
  | 1, 5 => some (.mxMark c)
  | 2, 1 => some (.cpLin c)
  | 2, 2 => some (.cp2d c)
  | 2, 3 => some (.cpGath c)
  | 3, 1 => some (.tdDec c)
  | 4, 1 => some (.gmF2v c)
  | 4, 2 => some (.gmV2f c)
  | 4, 3 => some (.gmBel c)
  | 4, 4 => some (.gmMean c)
  | 4, 5 => some (.gmDamp c)
  | 5, 1 => some (.slStart c)
  | 5, 2 => some (.slStop c)
  | 5, 3 => some (.slDrain c)
  | _, _ => none

/-- The event that executes a command of the link engine. -/
def linkEvent (n code : Nat) : Option Instr :=
  match code with
  | 1 => some (.lkAred n)
  | 2 => some (.lkCopy n)
  | _ => none

/-! Completion elements (10 R318, R319). -/

/-- TAG of a command (10 R317). -/
def tagOf (w : Msg) : Nat := Msg.field w 511 496

/-- A completion element. -/
def element (w : Msg) (u : BitVec 3) (result progress : BitVec 32) (cause : BitVec 9) (status : Nat) : BitVec 128 :=
  BitVec.ofNat 128 (result.toNat * 2 ^ 96 + tagOf w * 2 ^ 80 + Msg.field w 31 16 * 2 ^ 64 + progress.toNat * 2 ^ 32
    + cause.toNat * 2 ^ 23 + u.toNat * 2 ^ 20 + hidOf w * 2 ^ 8 + status)

def elemCause (e : BitVec 128) : BitVec 9 := e.extractLsb' 23 9
def elemStatus (e : BitVec 128) : Nat := bitsOf e.toNat 3 0
/-- The value of a cause that an element carries (14 R418). -/
def elemValue (e : BitVec 128) : Word := e.extractLsb' 32 64
/-- The auxiliary word of a cause that an element carries (14 R419): CODE and TAG. -/
def elemAux (e : BitVec 128) : Word := BitVec.ofNat 64 (bitsOf e.toNat 19 8 + bitsOf e.toNat 95 80 * 2 ^ 12)

/-- An element leaves for its receiver: the splice unit that issued the command (13 R407), or the commanding core. A command with
REPLY = 0 that succeeds gives none. -/
def State.sendElement (s : State) (p : Packet) (u : BitVec 3) (rel : BitVec 10) (e : BitVec 128) : State :=
  match p.kind with
  | .mark c n => s.post (.engineRuleElement c n e)
  | _ =>
    let reply := Msg.field p.word 1 1 == 1
    if reply || elemCause e != 0 then s.answer p.src (.completionElementArrival p.lid p.src u e reply rel) else s

/-- The head of a unit's FIFO begins: its event is in flight; a command with an unknown code fails with 0x0C4 (02 R69). -/
def State.kickUnit (s : State) (c : CoreId) (u : BitVec 3) (fuel : Nat) : State :=
  match fuel with
  | 0 => s
  | f + 1 =>
    match (s.unitAt c u).inq with
    | [] => s
    | p :: r =>
      match unitEvent c u (hidOf p.word) with
      | some i => s.post i
      | none =>
        let t := s.modUnit c u fun q => { q with inq := r, run := Run.start }
        ({ t with tick := t.tick + 1 }.sendElement p u (s.coreAt c).ident.rel
          (element p.word u (if u = 4 then 0 else Config.unstated s.tick) 0 0x0C4 1)).kickUnit c u f

/-- A command enters a unit's FIFO (10 R324). -/
def State.pushCommand (s : State) (c : CoreId) (u : BitVec 3) (p : Packet) : State :=
  let t := s.modUnit c u fun q => { q with inq := q.inq ++ [p] }
  if (s.unitAt c u).inq.isEmpty then (t.modUnit c u fun q => { q with run := Run.start }).kickUnit c u 1 else t

/-- A lane of the link engine. -/
def State.lane? (s : State) (n : Nat) : Option LinkCmd := if h : n < 4 then s.lanes[n] else none

def State.setLane (s : State) (n : Nat) (k : Option LinkCmd) : State := if h : n < 4 then { s with lanes := s.lanes.set n k } else s

/-- The oldest command of the link engine begins in a free lane (10 R324); an unknown code fails with 0x0C4. -/
def State.kickLink (s : State) (fuel : Nat) : State :=
  match fuel with
  | 0 => s
  | f + 1 =>
    match s.linkq, (List.range 4).find? (fun n => (s.lane? n).isNone) with
    | p :: r, some n =>
      (match linkEvent n (hidOf p.word) with
      | some i => (({ s with linkq := r }.setLane n (some { pkt := p, ord := none, run := Run.start })).post i).kickLink f
      | none =>
        ({ s with linkq := r, tick := s.tick + 1 }.sendElement p 6 0x3FF (element p.word 6 (Config.unstated s.tick) 0 0x0C4 1)).kickLink f)
    | _, _ => s

/-! The engine at work. -/

/-- An engine: a unit of a core, or a lane of the link engine. -/
inductive Eng where
  | unit (c : CoreId) (u : BitVec 3)
  | link (n : Nat)
  deriving DecidableEq, Repr

/-- The command it runs. -/
def State.running (s : State) (w : Eng) : Option Packet :=
  match w with
  | .unit c u => (s.unitAt c u).inq.head?
  | .link n => (s.lane? n).map (·.pkt)

/-- Where the command stands; the accesses of the splice unit are those of its rewrites. -/
def State.runOf (s : State) (w : Eng) : Run :=
  match w with
  | .unit c u => if u = 5 then (s.coreAt c).splice.wait else (s.unitAt c u).run
  | .link n => ((s.lane? n).map (·.run)).getD Run.start

def State.modRun (s : State) (w : Eng) (f : Run → Run) : State :=
  match w with
  | .unit c u =>
    if u = 5 then s.modCore c fun k => { k with splice := { k.splice with wait := f k.splice.wait } }
    else s.modUnit c u fun q => { q with run := f q.run }
  | .link n => s.setLane n ((s.lane? n).map fun k => { k with run := f k.run })

/-- Unit number of an engine (10 R318). -/
def Eng.number (w : Eng) : BitVec 3 := match w with
  | .unit _ u => u
  | .link _ => 6

/-- Where its failures arise (14 R419). -/
def State.engRel (s : State) (w : Eng) : BitVec 10 := match w with
  | .unit c _ => (s.coreAt c).ident.rel
  | .link _ => 0x3FF

/-- The address space of its accesses (10 R324, R343). -/
def State.engPasid (s : State) (w : Eng) : BitVec 20 := match w with
  | .unit c _ => (s.coreAt c).ident.pasid
  | .link n => (((s.lane? n).bind fun k => s.launchFor k.pkt).map (·.pasid)).getD 0

/-- The event of its next row, chunk or block. -/
def State.engEvent (s : State) (w : Eng) : Option Instr :=
  (s.running w).bind fun p => match w with
    | .unit c u => unitEvent c u (hidOf p.word)
    | .link n => linkEvent n (hidOf p.word)

/-- The engine goes on: its next event is in flight. -/
def State.engNext (s : State) (w : Eng) : State := match s.engEvent w with
  | some i => s.post i
  | none => s

/-- The command is over: its element leaves and the next one begins (10 R319, R324). -/
def State.finishCmd (s : State) (w : Eng) (result progress : BitVec 32) (cause : BitVec 9) (status : Nat) : State :=
  match s.running w with
  | none => s
  | some p =>
    let e := element p.word w.number result progress cause status
    match w with
    | .unit c u =>
      let t := s.modUnit c u fun q => { q with inq := q.inq.drop 1, run := Run.start }
      (t.sendElement p u (s.coreAt c).ident.rel e).kickUnit c u (t.unitAt c u).inq.length
    | .link n => (((s.setLane n none).sendElement p 6 0x3FF e)).kickLink (s.linkq.length + 1)

/-- The command fails (10 R325): what it has completed stands in PROGRESS, and for copies and TD.DEC in RESULT too (R339, R340); the RESULT of
the other commands, but for those of the Gaussian engine, is not stated (log 25). -/
def State.failCmd (s : State) (w : Eng) (cause : BitVec 9) : State :=
  let n := BitVec.ofNat 32 (s.runOf w).progress
  match w.number.toNat with
  | 2 => s.finishCmd w n n cause 1
  | 3 => s.finishCmd w n n cause 1
  | 4 => s.finishCmd w 0 0 cause 1
  | _ => s.tock.finishCmd w (Config.unstated s.tick) n cause 1

/-! Accesses (10 R324). -/

def EAddr.plus (a : EAddr) (n : Int) : EAddr := match a with
  | .sp c o => .sp c (o + n)
  | .mem va => .mem (va57 (va + BitVec.ofInt 64 n))

/-- The address as a number for alignment. -/
def EAddr.num (a : EAddr) : Int := match a with
  | .sp _ o => o
  | .mem va => low57 va

/-- Which scratchpad pointers a field takes. -/
inductive SpRule where
  | own | any | none
  deriving DecidableEq, Repr

/-- A pointer of a command: a memory pointer without its tag, or a scratchpad pointer that the field allows; 0x047 otherwise
(03 R98, 10 R324, R338, R343). -/
def State.engAddr (s : State) (w : Eng) (rule : SpRule) (p : Word) : Except (BitVec 9) EAddr :=
  if p.extractLsb' 60 4 = 15 then
    match w, rule with
    | .unit c _, .own =>
      if bitsOf p.toNat 48 19 = 0 ∧ bitsOf p.toNat 18 0 < spSize ∧ (p.getLsbD 49 ∨ p.extractLsb' 50 10 = (s.coreAt c).ident.rel) then
        .ok (.sp c (bitsOf p.toNat 18 0))
      else .error 0x047
    | .unit c _, .any =>
      if bitsOf p.toNat 48 19 ≠ 0 ∨ spSize ≤ bitsOf p.toNat 18 0 then .error 0x047
      else if p.getLsbD 49 then .ok (.sp c (bitsOf p.toNat 18 0))
      else (match (s.launchOf c).bind fun l => l.core? (bitsOf p.toNat 59 50) with
        | some d => .ok (.sp d (bitsOf p.toNat 18 0))
        | none => .error 0x047)
    | _, _ => .error 0x047
  else .ok (.mem (va57 p))

/-- Why a row, chunk or block does not go ahead: a cause; a page; furled cells; lines the host holds; a place to be read before it. -/
inductive EngStop where
  | cause (c : BitVec 9)
  | miss (va : Word) (write : Bool)
  | ask (cells : List (Nat × Word))
  | busy (lines : List Nat)
  | fetch (a : EAddr) (n : Nat)
  deriving DecidableEq, Repr

/-- A part of an access: bytes of a scratchpad, or bytes of one line of memory. -/
inductive Span where
  | sp (c : CoreId) (o n : Nat)
  | mem (p : Place) (n : Nat)
  deriving DecidableEq, Repr

/-- n bytes from offset o cut at lines: distance from the start and number of bytes of each part. -/
def cutLines (o n : Nat) : List (Nat × Nat) :=
  if n = 0 then []
  else (List.range ((o % 64 + n + 63) / 64)).map fun k =>
    let lo := 64 * k - o % 64
    (lo, min n (64 * (k + 1) - o % 64) - lo)

/-- The place of an engine's access to the line part at va: translation, then attributes (06 R196, 10 R324, R342, R343). -/
def State.engPlace (s : State) (w : Eng) (write : Bool) (va : Word) : Except EngStop Place :=
  match w with
  | .unit c _ =>
    let p : Piece := { loc := .mem va, len := 1, align := 1 }
    (match Piece.translated s c write p, Piece.permitted s c write p with
    | .error (.trap q _), _ => .error (.cause q)
    | .error _, _ => .error (.miss va write)
    | .ok _, .error (.trap q _) => .error (.cause q)
    | .ok q, _ => .ok q)
  | .link _ =>
    match s.hostPhys (s.engPasid w) va write with
    | none => .error (.miss va write)
    | some pa =>
      let r := s.region (s.engPasid w) va
      if s.noPeer pa then .error (.cause 0x041)
      else if r.attr = 0 then .error (.cause 0x044)
      else if r.attr = 1 ∧ write then .error (.cause 0x043)
      else .ok (.phys pa va r.attr)

/-- Every result, or the first stop. -/
def allSpans (xs : List (Except EngStop Span)) : Except EngStop (List Span) :=
  match xs with
  | [] => .ok []
  | .error e :: _ => .error e
  | .ok a :: r => (match allSpans r with
    | .ok l => .ok (a :: l)
    | .error e => .error e)

/-- The parts of an access of n bytes, in ascending order (10 R324). -/
def State.spans (s : State) (w : Eng) (write : Bool) (a : EAddr) (n : Nat) : Except EngStop (List Span) :=
  match a with
  | .sp c o => if n = 0 then .ok [] else if 0 ≤ o ∧ o + n ≤ (spSize : Int) then .ok [.sp c o.toNat n] else .error (.cause 0x047)
  | .mem va =>
    allSpans ((cutLines (low57 va) n).map fun e =>
      (s.engPlace w write (va57 (va + BitVec.ofNat 64 e.1))).map fun p => .mem p e.2)

/-- The parts of several accesses. -/
def State.allOf (s : State) (w : Eng) (write : Bool) (as : List (EAddr × Nat)) : Except EngStop (List (List Span)) :=
  match as with
  | [] => .ok []
  | e :: r =>
    match s.spans w write e.1 e.2, s.allOf w write r with
    | .error x, _ => .error x
    | .ok _, .error x => .error x
    | .ok a, .ok l => .ok (a :: l)

/-- The core whose accesses an engine makes; the link engine lies on none. -/
def State.engCore (s : State) (w : Eng) : CoreId := match w with
  | .unit c _ => c
  | .link _ => s.cur

/-- Lines of a part that the host holds exclusively (07 R225). -/
def State.spanBusy (s : State) (w : Eng) (p : Span) : List Nat :=
  match p with
  | .sp _ _ _ => []
  | .mem q n => (q.lines n ++ s.ownLines (s.engCore w) q n).filter s.hostHolds

/-- The furl-capable cells of a part. -/
def Span.cells (p : Span) : List (Nat × Word) :=
  match p with
  | .sp _ _ _ => []
  | .mem q n => q.cells n

/-- The bytes of a part, those of answered cells as answered. -/
def State.spanBytes (s : State) (w : Eng) (p : Span) : List Byte :=
  match p with
  | .sp c o n => (s.coreAt c).sp.bytes o n
  | .mem q n => s.readAnswered (s.engCore w) (s.runOf w).answers q n

/-- The coherence actions of an access: by the executing core, or at the homes for the link engine (07 R224, R225). -/
def State.touchSpan (s : State) (w : Eng) (write : Bool) (p : Span) : State :=
  match p, w with
  | .sp _ _ _, _ => s
  | .mem q n, .unit c _ => s.touchPlace c write q n
  | .mem q n, .link _ => if write then (q.lines n).foldl State.claimHome s else s.settle (q.lines n)

/-- An engine's read of several places (10 R324, R325; 11 R351): the first cause, page, copy or cell that stops it, or the bytes of
each place and the state after it. -/
def State.engRead (s : State) (w : Eng) (as : List (EAddr × Nat)) : Except EngStop (List (List Byte) × State) :=
  match s.allOf w false as with
  | .error e => .error e
  | .ok pss =>
    let ps := pss.flatten
    let busy := ps.flatMap (s.spanBusy w)
    if !busy.isEmpty then .error (.busy busy)
    else
      let got := (s.runOf w).answers
      let cells := ps.flatMap Span.cells
      if cells.any (fun e => (answerOf got e.1).isNone && s.tag e.1 != 0) then .error (.ask cells)
      else match cells.findSome? (fun e => match answerOf got e.1 with
        | some (.cause q) => some q
        | _ => none) with
        | some q => .error (.cause q)
        | none =>
          let t := ps.foldl (fun t p => t.touchSpan w false p) s
          .ok (pss.map fun l => l.flatMap (s.spanBytes w), if s.stale.isEmpty then t else t.tock)

/-- The checks of an engine's write of several places (10 R325): the parts to write. -/
def State.engCheck (s : State) (w : Eng) (as : List (EAddr × Nat)) : Except EngStop (List Span) :=
  match s.allOf w true as with
  | .error e => .error e
  | .ok pss =>
    let busy := pss.flatten.flatMap (s.spanBusy w)
    if busy.isEmpty then .ok pss.flatten else .error (.busy busy)

/-- Bytes written to parts, one after the other. -/
def State.engWrite (s : State) (w : Eng) (ps : List Span) (bs : List Byte) : State :=
  match ps with
  | [] => s
  | p :: r =>
    let t := match p, w with
      | .sp c o n, _ => s.storeSp c o (bs.take n)
      | .mem q n, .unit c _ => s.writePlace c q (bs.take n)
      | .mem q n, .link _ => (match q with
        | .phys pa _ attr => ((q.lines n).foldl State.claimHome s).storeAt attr pa (bs.take n)
        | .sp _ => s)
    t.engWrite w r (bs.drop (match p with
      | .sp _ _ n => n
      | .mem _ n => n))

/-- Who asks for an engine's translation. -/
def Eng.asker (w : Eng) : Asker := match w with
  | .unit c u => .engine c u
  | .link _ => .link

/-- The requests of an engine for cells that are not VALUE (11 R350, R351): they carry no chain flag. Those of the link engine stand under the
core whose command it runs, or, for a command of the peer, under core 0 of the launch it serves (log 75). -/
def State.engAsk (s : State) (w : Eng) (cells : List (Nat × Word)) : State :=
  let c := match w with
    | .unit c _ => c
    | .link n => (((s.lane? n).bind fun k => match k.pkt.src with
      | .core _ rel => if s.peerSent k.pkt then (s.launchFor k.pkt).bind (·.core? 0) else s.member k.pkt.lid rel
      | .linkDie => none)).getD 0
  let got := (s.runOf w).answers
  let new := (dedupCells cells []).filter fun e => (answerOf got e.1).isNone
  let now := (new.filter fun e => s.tag e.1 == 0).map fun e => (e.1, FurlAns.word (BitVec.ofNat 64 ((s.recall (e.1 / 64)).mem.num e.1 8)))
  let later := new.filter fun e => s.tag e.1 != 0
  (s.modRun w fun r => { r with answers := r.answers ++ now, asked := later.map (·.1) }).postAll (later.map fun e =>
    .furledRequestAtHome { dev := s.dev, core := c, ctx := (match w with
      | .unit _ _ => 0
      | .link n => ⟨n % 4, by omega⟩), va := e.2, pa := e.1, chain := false, anc := (0, 0, 0), what := .engine w.number, issued := s.cyc })

/-- What an engine does at a stop (10 R325): the command fails; or it waits for the page, the cells or the host's copies. A Gaussian command
that has not begun to write starts again once its page has come (12 R378). -/
def State.engHold (s : State) (w : Eng) (st : EngStop) : State :=
  match st with
  | .cause q => s.failCmd w q
  | .miss va write =>
    (s.modRun w fun r => { r with fault := some va, denied := false, words := if w.number = 4 then [] else r.words }).post
      (.atsResponse w.asker (s.engPasid w) va write)
  | .ask cells => s.engAsk w cells
  | .busy ls => ls.foldl State.snoopHost (s.modRun w fun r => { r with lines := ls })
  | .fetch _ _ => s

/-- The same, with the event that is tried again where it waits for the host's copies, or once the place it asks for has been read. -/
def State.engRetry (s : State) (w : Eng) (i : Instr) (st : EngStop) : State :=
  match st with
  | .busy _ => (s.engHold w st).park i
  | .fetch a n => (match s.engRead w [(a, n)] with
    | .ok (bs, t) => (t.modRun w fun r => { r with words := r.words ++ [(a, bs.flatten)], answers := [] }).post i
    | .error (.busy ls) => (s.engHold w (.busy ls)).park i
    | .error e => s.engHold w e)
  | _ => s.engHold w st

/-- What the engine does at a stop of its command. -/
def State.engStop (s : State) (w : Eng) (st : EngStop) : State :=
  match s.engEvent w with
  | some i => s.engRetry w i st
  | none => s.engHold w st

/-- Whether an engine may work: its core's gang may run (09 R302), or its command is writing its result (12 R378). -/
def State.engFree (s : State) (w : Eng) : Bool :=
  match w with
  | .unit c _ => s.mayRun c || (s.runOf w).final.isSome
  | .link _ => true

/-- Whether the engine can take its next step: it runs a command and waits for nothing. -/
def State.engReady (s : State) (w : Eng) : Bool :=
  (s.runOf w).fault.isNone && (s.runOf w).asked.isEmpty

/-- One step of an engine's command with a code (10 R324): nothing unless the engine runs such a command and waits for nothing; the
engines of a gang that is pre-empted stand still (09 R302). -/
def engStep (w : Eng) (code : Nat) (go : Packet → State → Except EngStop State) (s : State) : Out :=
  match s.running w with
  | none => .next s
  | some p =>
    if hidOf p.word ≠ code ∨ !s.engReady w then .next s
    else if !s.engFree w then .next (match s.engEvent w with
      | some i => s.park i
      | none => s)
    else match go p (s.modRun w fun r => { r with lines := [] }) with
      | .ok t => .next t
      | .error st => .next (s.engStop w st)

/-- A row, chunk or block is done: n units now stand in PROGRESS, and the engine goes on. -/
def State.engMore (s : State) (w : Eng) (n : Nat) : State := (s.modRun w fun r => { r with progress := n, answers := [], words := [] }).engNext w

/-- The first of a list of checks of a command that fails (10 R325, R345). -/
def firstCause (xs : List (Bool × BitVec 9)) : Option (BitVec 9) := (xs.find? (·.1)).map (·.2)

/-- The bits of a command that its listed fields, the header and the TAG leave must be 0 (10 R317): fields as (hi, lo). -/
def reservedClear (w : Msg) (fields : List (Nat × Nat)) : Bool :=
  let mask := ([(63, 0), (511, 496)] ++ fields).foldl (fun (m : Nat) (f : Nat × Nat) => m ||| ((2 ^ (f.1 + 1 - f.2) - 1) <<< f.2)) 0
  w.toNat &&& (2 ^ 512 - 1 - mask) == 0

/-! ENQ, DEQ and EPOLL (10 R320 to R323). -/

/-- Whether UNIT and DCORE of a header are an ENQ combination of 08 R248. -/
def State.enqNames (s : State) (c : CoreId) (w : Msg) : Bool :=
  let u := Msg.field w 34 32
  let d := Msg.field w 44 35
  if u = 6 then d == 0x3FF else decide (1 ≤ u ∧ u ≤ 5) && s.namesCore c d

/-- Whether the destination lies within the class's REACH (08 R250): the link die of the package from 5 on, the peer's at 6. -/
def State.enqReach (s : State) (c : CoreId) (w : Msg) : Bool :=
  if Msg.field w 34 32 = 6 ∧ BitVec.ofNat 1 (Msg.field w 45 45) = s.dev then
    decide (5 ≤ classReach (s.classEntry (s.coreAt c).ident.pasid (Msg.field w 63 58)))
  else s.reachOk c w

/-- The header checks of ENQ in order (10 R321): every one raises 0x0C5. -/
def State.enqOk (s : State) (c : CoreId) (w : Msg) : Bool :=
  decide (Msg.field w 0 0 = 0) && decide (Msg.field w 3 2 = 0) && s.classOk c w && s.enqNames c w
    && (decide (BitVec.ofNat 1 (Msg.field w 45 45) = s.dev) || s.peerTrained) && s.enqReach c w

/-- The unit of the commanding core whose output FIFO takes the element (10 R319, R321). -/
def outUnit (w : Msg) : BitVec 3 := if Msg.field w 34 32 = 6 then 2 else BitVec.ofNat 3 (Msg.field w 34 32)

/-- ENQ (10 R321): the checks; then, waiting in the slot where it must, the slot of the element is reserved and the command goes to
the core's own unit or leaves as a message, a release (07 R217). -/
def execEnq (a : BitVec 5) (s : State) : Out :=
  let w := s.ctx.rv a
  let u := outUnit w
  let reply := Msg.field w 1 1 == 1
  let q := s.unitAt s.cur u
  let here := Msg.field w 34 32 ≠ 6 ∧ BitVec.ofNat 1 (Msg.field w 45 45) = s.dev ∧ Msg.field w 44 35 = s.core.ident.rel.toNat
  if !s.enqOk s.cur w then trapStep 0x0C5 (Msg.word w 0) s
  else if reply ∧ 16 ≤ q.reserved + q.out.length then trapStep 0x0CF (Msg.word w 0) s
  else if here ∧ !q.room u then s.stopStep (.busy [])
  else if ¬here ∧ 64 ≤ s.core.net.retryBuf.length then s.stopStep (.busy [])
  else releasing true 5 (fun s =>
    let s1 := if reply then s.modUnit s.cur u fun q => { q with reserved := q.reserved + 1 } else s
    let r := s1.takeMid s.cur
    let w' := withHw (withXt w s.ctx.xt) r.1 s.core.ident.rel s.dev
    match s.core.ident.lid with
    | none => r.2.done 4 1 Ctx.commit
    | some lid =>
      let p : Packet := { lid := lid, dst := BitVec.ofNat 10 (Msg.field w 44 35), word := w', src := .core s.dev s.core.ident.rel, kind := .plain }
      (if here then r.2.pushCommand s.cur u p else r.2.sendFrom s.cur p).done 4 1 Ctx.commit) s

/-- DEQ (10 R322): the oldest element; an error element is removed and raises its cause; with none and none reserved 0x0D0; else the
context suspends until one arrives. -/
def execDeq (a : BitVec 5) (u : BitVec 3) (s : State) : Out :=
  let q := s.unitAt s.cur u
  match q.out with
  | [] => if q.reserved = 0 then trapStep 0x0D0 (u.setWidth 64) s else .next ((s.spend 1).suspend s.cur s.hot (.deq u))
  | e :: r =>
    let s1 := s.modUnit s.cur u fun q => { q with out := r }
    if elemStatus e = 1 then .next ((s1.spend 1).takeTrapAt s.cur s.hot (elemCause e) (elemValue e) (elemAux e))
    else s1.done 4 1 fun k => k.wv a (e.setWidth 512)

/-- EPOLL's word (10 R323). -/
def EngineQ.poll (q : EngineQ) (faulted : Bool) : Word :=
  BitVec.ofNat 64 (q.out.length + q.reserved * 2 ^ 8 + (q.inq.length - 1) * 2 ^ 16 + (if q.inq.isEmpty then 0 else 2 ^ 20)
    + (if faulted then 2 ^ 21 else 0))

/-- EPOLL (10 R323). -/
def execEpoll (a : BitVec 5) (u : BitVec 3) (s : State) : Out :=
  let r := s.runOf (.unit s.cur u)
  ctxStep 4 1 (fun k => k.wx a ((s.unitAt s.cur u).poll (r.fault.isSome && r.denied))) s

/-! Arrivals. -/

/-- A command at the link engine (10 R343, 08 R259): accepted, or refused while its 64 entries are taken. -/
def State.linkArrival (s : State) (p : Packet) : State :=
  let k := s.linkSender p
  let held := s.linkNacks.find? fun e => e.1 == k.1 && e.2.1 == k.2
  let other := match held with
    | some e => e.2.2 != packetMid p
    | none => false
  if other || decide (64 ≤ s.linkq.length) then
    let t := if held.isNone then { s with linkNacks := s.linkNacks ++ [(k.1, k.2, packetMid p)] } else s
    t.answer p.src (.nack p.lid p.src (packetMid p) true)
  else
    let t : State := { s with linkq := s.linkq ++ [p], linkNacks := s.linkNacks.filter fun e => !(e.1 == k.1 && e.2.1 == k.2) }
    (t.kickLink 1).answer p.src (.acknowledgement p.lid p.src (packetMid p))

/-- A command accepted by a unit (08 R258, R259). -/
def State.acceptCommand (s : State) (c : CoreId) (p : Packet) : State :=
  let t := (s.modCore c fun k => { k with net := { k.net with nacks := nackClear k.net.nacks (packetUnit p) p.src } }).pushCommand c (packetUnit p) p
  t.answer p.src (.acknowledgement p.lid p.src (packetMid p))

/-- A command at its core (10 R324, R339; 08 R258, R259): refused while the core is moved, behind an earlier refusal or for want of
room; else accepted. -/
def State.deliverCommand (s : State) (c : CoreId) (p : Packet) : State :=
  let k := s.coreAt c
  if k.net.refusing || nackBlocks k.net.nacks (packetUnit p) p.src (packetMid p) || !(k.unit (packetUnit p)).room (packetUnit p) then s.refuse c p true
  else s.acceptCommand c p

/-- ENGINE_COMMAND_ARRIVAL (10 R321, R324; 08 R302): accepted into the unit's FIFO or refused; by a core of a gang that is pre-empted
without counting; one for a core that has moved goes by way of its old place (14 R437). -/
def execEngineCommandArrival (p : Packet) (s0 : State) : Out :=
  let s := s0.clearEscapes
  match s.launchFor p with
  | none => .next (if s.placeAhead p then s.answer p.src (.nack p.lid p.src (packetMid p) false) else s)
  | some l =>
    if packetUnit p = 6 then .next (s.linkArrival p)
    else match l.core? p.dst.toNat with
      | none => .next s
      | some c =>
        if l.phase ≠ .running then .next (s.refuseSaved l c p)
        else match s.forwarder c with
          | some src => .next (s.post (.migrationForward src p))
          | none => .next (s.deliverCommand c p)

/-- Contexts that wait in DEQ for unit u become ready, and execute it again (10 R322). -/
def State.wakeDeq (s : State) (c : CoreId) (u : BitVec 3) : State :=
  (List.finRange 4).foldl (fun t x => if (t.ctxAt c x).status = .suspended (.deq u) then t.makeReady c x else t) s

/-- The trap record of a command's failure (10 R319, 14 R419 to R421): origin 2 with the unit, or the link die; no handler is aborted. -/
def State.engineRecord (s : State) (c : CoreId) (u : BitVec 3) (e : BitVec 128) (rel : BitVec 10) : Msg :=
  let origin := if u = 6 then 5 else 2
  let at' := if u = 6 then (s.coreAt c).ident.rel else rel
  Msg.setWord (s.trapRecord c rel.toNat (.report origin (if u = 6 then 0 else u.toNat) (elemCause e)) 0 (elemValue e) (elemAux e) 0 0) 6
    (BitVec.ofNat 64 (at'.toNat + s.dev.toNat * 2 ^ 16 + (s.cyc % 2 ^ 32) * 2 ^ 32))

/-- COMPLETION_ELEMENT_ARRIVAL (10 R319, R322): the element takes the slot reserved for it; a failure of a command with REPLY = 0 is a
trap record at the commanding core, which from the link die takes its MID from the counter of 09 R293. -/
def execCompletionElementArrival (lid : Nat) (dst : Party) (u : BitVec 3) (e : BitVec 128) (reply : Bool) (rel : BitVec 10) (s : State) : Out :=
  match dst with
  | .linkDie => .next s
  | .core _ r =>
    if (s.launch? lid).any (fun l => l.phase != .running) then .next (s.toward (some lid) (.completionElementArrival lid dst u e reply rel))
    else match s.member lid r with
    | none => .next s
    | some c =>
      if reply then
        let o := if u = 6 then 2 else u
        .next ((s.modUnit c o fun q => { q with out := q.out ++ [e], reserved := q.reserved - 1 }).wakeDeq c o)
      else if u = 6 then
        let m := s.takeLuMid
        let r := m.2.engineRecord c u e rel
        .next (m.2.enterTrapq c (Msg.setWord r 0 (Msg.word r 0 ||| BitVec.ofNat 64 (m.1.toNat * 2 ^ 16))))
      else .next (s.enterTrapq c (s.engineRecord c u e rel))

end Sys2Proof.Machine
end

