-- ==== Sys2Proof/Machine/Splice.lean ====
section
/-!
DEFINITION. The splice unit (13): nodes and links (R391, R392), its accesses, the pair bag and stealing (R399, R400), free and pending
lists (R401, R402), what it does next, the SL commands (R408), and the splice instructions (R410 to R414).
-/

namespace Sys2Proof.Machine

/-! Nodes and links. -/

/-- VA[56:5] of a link or register, as an address. -/
def nodeAt (w : Word) : Word := va57 (w &&& 0x1FFFFFFFFFFFFE0)

/-- The NODE field of an address. -/
def nodeBits (a : Word) : Word := a &&& 0x1FFFFFFFFFFFFE0

/-- The address of port p of a node. -/
def Port.addr (p : Port) : Word := va57 (p.node + BitVec.ofNat 64 (8 + 8 * p.port.toNat))

/-- The open link (13 R392). -/
def openLink : Word := 2

/-- link(t), the open link for an end that is open. -/
def linkTo (t : Option Port) : Word := match t with
  | some p => nodeBits p.node ||| BitVec.ofNat 64 (8 * p.port.toNat)
  | none => openLink

/-- redir(t); for a wire that is open beyond, a REDIR link of NODE 0 and PORT 0 (log 29). -/
def redirTo (t : Option Port) : Word := match t with
  | some p => linkTo (some p) ||| 1
  | none => 1

/-- What a link says (13 R392); its reserved bits are ignored (00 R8). -/
inductive LinkView where
  | normal (p : Port)
  | redir (t : Option Port)
  | free
  | bad
  deriving DecidableEq, Repr

def viewLink (w : Word) : LinkView :=
  let p : Port := { node := nodeAt w, port := w.extractLsb' 3 2 }
  if p.port = 3 then .bad
  else if w.extractLsb' 0 3 = 2 then .free
  else if w.extractLsb' 0 3 = 0 then .normal p
  else if w.extractLsb' 0 3 = 1 then .redir (if w.extractLsb' 0 57 = 1 then none else some p)
  else .bad

/-- A header's fields (13 R391). -/
def hdrType (h : Word) : Nat := bitsOf h.toNat 9 0
def hdrArity (h : Word) : Nat := bitsOf h.toNat 11 10
def hdrPf (h : Word) : Bool := h.getLsbD 12
def hdrPayload (h : Word) : Nat := bitsOf h.toNat 63 32

/-! The unit of a core. -/

def State.spliceAt (s : State) (c : CoreId) : Splice := (s.coreAt c).splice

def State.modSplice (s : State) (c : CoreId) (f : Splice → Splice) : State := s.modCore c fun k => { k with splice := f k.splice }

/-- Pairs the spill area holds at most (13 R394). -/
def spillCap (w : Word) : Nat := let l := bitsOf w.toNat 4 0; if 5 ≤ l ∧ l ≤ 20 then 2 ^ l else 0

/-- Address of entry i of the spill area. -/
def spillEntry (w : Word) (i : Nat) : Word := va57 ((w &&& 0x1FFFFFFFFFFFE00) + BitVec.ofNat 64 (16 * i))

/-- A trap record of the splice unit: no handler is aborted (13 R415, 14 R419). -/
def State.spliceReport (s : State) (c : CoreId) (cause : BitVec 9) (val : Word) : State :=
  s.enterTrapq c (s.trapRecord c (s.coreAt c).ident.rel.toNat (.report 2 5 cause) 0 val 0 0 0)

/-- sl.stat (13 R394); IDLE is 64 cycles without work (R400). -/
def State.slStat (s : State) (c : CoreId) : Word :=
  let k := s.spliceAt c
  let idle := k.run && k.rewrite.isNone && k.taking.isNone && k.bag.isEmpty && k.spilled == 0 && !k.stealing && decide (k.since + 64 ≤ s.cyc)
  BitVec.ofNat 64 (k.count.toNat * 2 ^ 32 + k.bag.length * 2 ^ 8 + (if k.engw.isEmpty then 0 else 16) + (if k.pend.isEmpty then 0 else 8)
    + (if k.spilled = 0 then 0 else 4) + (if idle then 2 else 0) + if k.run then 1 else 0)

/-! Accesses. -/

/-- Why a step of the unit does not go ahead: an access at an address; a link protocol violation at an address (13 R405); a rule that
drops the pair (R402 step 1); a pair of another rule kind; a buffer without room. -/
inductive SlStop where
  | eng (e : EngStop) (va : Word)
  | violation (va : Word)
  | drop (cause : BitVec 9) (val : Word)
  | other
  | wait
  deriving DecidableEq, Repr

/-- n bytes read by the unit now. -/
def State.slNow (s : State) (c : CoreId) (va : Word) (n : Nat) : Except SlStop (Nat × State) :=
  match s.engRead (.unit c 5) [(.mem va, n)] with
  | .ok (bs, t) => .ok (ofBytes bs.flatten, t)
  | .error e => .error (.eng e va)

/-- What the unit has read of n bytes at an address in the step it works on: it never reads them again (13 R405). -/
def State.slHas (s : State) (c : CoreId) (va : Word) (n : Nat) : Option Nat :=
  ((s.spliceAt c).wait.words.find? fun w => w.1 == .mem va && w.2.length == n).map fun w => ofBytes w.2

/-- n bytes that a step needs: what it has read, else they are read before it goes on. -/
def State.slRead (s : State) (c : CoreId) (va : Word) (n : Nat) : Except SlStop Nat :=
  match s.slHas c va n with
  | some v => .ok v
  | none => .error (.eng (.fetch (.mem va) n) va)

def State.slWord (s : State) (c : CoreId) (va : Word) : Except SlStop Word := (s.slRead c va 8).map (BitVec.ofNat 64)

/-- Bytes written by the unit. -/
def State.slWrite (s : State) (c : CoreId) (va : Word) (bs : List Byte) : Except SlStop State :=
  match s.engCheck (.unit c 5) [(.mem va, bs.length)] with
  | .ok ps => .ok (s.engWrite (.unit c 5) ps bs)
  | .error e => .error (.eng e va)

def State.slPut (s : State) (c : CoreId) (va : Word) (w : Word) : Except SlStop State := s.slWrite c va (toBytes 8 w.toNat)

/-- A doubleword written at its home, by the core itself in core-owned memory (13 R409, 07 R231): a release at .device, before which the core's
private lines go home (06 R179). -/
def State.slHome (s : State) (c : CoreId) (va : Word) (w : Word) : Except SlStop State :=
  match s.engCheck (.unit c 5) [(.mem va, 8)] with
  | .error e => .error (.eng e va)
  | .ok ps => .ok (ps.foldl (fun t p => match p with
      | .mem (.phys pa va 0) n => t.writePlace c (.phys pa va 0) ((toBytes 8 w.toNat).take n)
      | .mem (.phys pa _ attr) n => (t.claimHome (pa / 64)).storeAt attr pa ((toBytes 8 w.toNat).take n)
      | _ => t) (s.cleanOwn c))

/-- A 64-bit CAS at the home of a port: the old value. -/
def State.slCas (s : State) (c : CoreId) (p : Port) (old new : Word) : Except SlStop (Word × State) := do
  let (n, t) ← s.slNow c p.addr 8
  let w := BitVec.ofNat 64 n
  let u ← t.slHome c p.addr new
  return (w, if w = old then u else t.cleanOwn c)

/-- A port read at its home. -/
def State.slPort (s : State) (c : CoreId) (p : Port) : Except SlStop (LinkView × State) := (s.slNow c p.addr 8).map fun r => (viewLink (BitVec.ofNat 64 r.1), r.2)

/-! Free and pending lists (13 R401, R402). -/

/-- The head of the free list taken, indivisibly, with 0x2 in words 1 to 3; none when the list is empty. -/
def State.slAlloc (s : State) (c : CoreId) : Except SlStop (Option (Word × State)) :=
  let h := nodeAt (s.spliceAt c).free
  if (s.spliceAt c).free = 0 then .ok none
  else do
    let (w, t) ← s.slNow c (va57 (h + 8)) 8
    let u ← t.slWrite c (va57 (h + 8)) (toBytes 8 2 ++ toBytes 8 2 ++ toBytes 8 2)
    return some (h, u.modSplice c fun k => { k with free := nodeBits (BitVec.ofNat 64 w) })

/-- A node returned to the head of the free list. -/
def State.slFree (s : State) (c : CoreId) (n : Word) : Except SlStop State := do
  let t ← s.slWrite c (va57 (n + 8)) (toBytes 8 (((s.spliceAt c).free ||| 2).toNat) ++ toBytes 8 2 ++ toBytes 8 2)
  return t.modSplice c fun k => { k with free := nodeBits n }

/-- Whether a node's ports from p on, n of them, hold 0x2. -/
def State.allOpen (s : State) (c : CoreId) (node : Word) (p n : Nat) : Except SlStop Bool :=
  match n with
  | 0 => .ok true
  | m + 1 => do
    let (w, _) ← s.slNow c (va57 (node + BitVec.ofNat 64 (8 + 8 * p))) 8
    if BitVec.ofNat 64 w = openLink then s.allOpen c node (p + 1) m else return false

/-- A pending node recycled when its ports are free of links (13 R402 step 7). -/
def State.recycleNode (s : State) (c : CoreId) (e : Word × Nat) : Except SlStop State := do
  if ← s.allOpen c e.1 0 (e.2 + 1) then
    let t ← s.slFree c e.1
    return t.modSplice c fun k => { k with pend := k.pend.erase e }
  else return s

/-- The pending nodes of a unit recycled one after the other. A page or a line that one of them needs is waited for; a node that the unit may
not reach leaves the list unfreed, with a report (13 R405, log 69). -/
def State.recycleFrom (s : State) (c : CoreId) (es : List (Word × Nat)) : State :=
  match es with
  | [] => s
  | e :: r => match s.recycleNode c e with
    | .ok t => t.recycleFrom c r
    | .error (.eng (.cause q) va) =>
      ((s.modSplice c fun k => { k with pend := k.pend.erase e, run := false }).spliceReport c q va).recycleFrom c r
    | .error (.eng (.busy ls) _) => (s.engHold (.unit c 5) (.busy ls)).park (.spliceAnnihilate c)
    | .error (.eng st _) => s.engHold (.unit c 5) st
    | .error _ => s

def State.recycle (s : State) (c : CoreId) : State := s.recycleFrom c (s.spliceAt c).pend

/-! The bag (13 R399). -/

/-- A pair pushed on top, a release at .device (13 R409); with 64 resident the oldest 32 are spilled first; without room for them the pair is lost: the state, and
whether the pair was kept. -/
def State.slPush (s0 : State) (c : CoreId) (p : Word × Word) : Except SlStop (State × Bool) :=
  let s := s0.cleanOwn c
  let k := s.spliceAt c
  if k.bag.length < 64 then .ok (s.modSplice c fun k => { k with bag := k.bag ++ [p] }, true)
  else if spillCap k.spill < k.spilled + 32 then .ok (s, false)
  else do
    let t ← s.slWrite c (spillEntry k.spill k.spilled) ((k.bag.take 32).flatMap fun e => toBytes 8 (nodeBits e.1).toNat ++ toBytes 8 (nodeBits e.2).toNat)
    return (t.modSplice c fun k => { k with bag := k.bag.drop 32 ++ [p], spilled := k.spilled + 32 }, true)

/-- A pair pushed by the unit: one that is lost is reported with 0x184. -/
def State.slKeep (s : State) (c : CoreId) (p : Word × Word) : Except SlStop State :=
  (s.slPush c p).map fun r => if r.2 then r.1 else r.1.spliceReport c 0x184 p.1

/-- The pairs in spill entries, lowest address first. -/
def pairsOf (bs : List Byte) (n : Nat) : List (Word × Word) :=
  (List.range n).map fun i =>
    (nodeAt (BitVec.ofNat 64 (ofBytes ((bs.drop (16 * i)).take 8))), nodeAt (BitVec.ofNat 64 (ofBytes ((bs.drop (16 * i + 8)).take 8))))

/-! What the unit does next. -/

/-- What the unit would read at an address. -/
def State.slPeek (s : State) (c : CoreId) (va : Word) (n : Nat) : Except SlStop Nat :=
  match s.slHas c va n with
  | some v => .ok v
  | none => (s.slNow c va n).map (·.1)

/-- Address of the rule entry of two types (13 R395). -/
def ruleAt (rules : Word) (a b : Nat) : Word := va57 (rules + BitVec.ofNat 64 (32 * (a * 1024 + b)))

/-- The rule kind of a pair, as far as it can be read now; 1 where it cannot (the event then says why). -/
def State.kindOf (s : State) (c : CoreId) (p : Word × Word) : BitVec 3 :=
  let rules := (s.spliceAt c).rules
  let kind : Except SlStop Nat := do
    let h1 := BitVec.ofNat 64 (← s.slPeek c p.1 8)
    let h2 := BitVec.ofNat 64 (← s.slPeek c p.2 8)
    let e1 ← s.slPeek c (ruleAt rules (hdrType h1) (hdrType h2)) 32
    if e1 % 8 ≠ 0 then return e1 % 8
    else return (← s.slPeek c (ruleAt rules (hdrType h2) (hdrType h1)) 32) % 8
  match kind with
  | .ok n => if n = 0 ∨ n = 7 then 1 else BitVec.ofNat 3 n
  | .error _ => 1

/-- The event of a rule kind. -/
def kindEvent (c : CoreId) (k : BitVec 3) : Instr :=
  match k.toNat with
  | 2 => .spliceCommute c
  | 3 => .spliceErase c
  | 4 => .spliceTemplate c
  | 5 => .spliceHandler c
  | 6 => .spliceEngine c
  | _ => .spliceAnnihilate c

/-- Whether the command at the head of the FIFO has a code. -/
def State.slHead (s : State) (c : CoreId) (code : Nat) : Bool :=
  match (s.unitAt c 5).inq with
  | p :: _ => hidOf p.word == code
  | [] => false

/-- Whether the unit may take a new pair (13 R402, R407, R408). -/
def State.slTakes (s : State) (c : CoreId) : Bool :=
  let k := s.spliceAt c
  k.run && k.rewrite.isNone && k.taking.isNone && !k.bag.isEmpty && decide (k.engw.length < 16) && k.engw.all (·.elem.isNone) && !s.slHead c 2 && s.mayRun c

/-- The next step of the unit: the rewrite in progress, or the pair in hand; the elements that have come, in the order of their arrival, those
held for want of a node once RUN is set; a reload; a new pair. -/
def State.slEvent (s : State) (c : CoreId) : Option Instr :=
  let k := s.spliceAt c
  match k.rewrite, k.taking with
  | some r, _ => (match r.via with
    | some (n, e) => some (.engineRuleElement c n e)
    | none => some (kindEvent c r.kind))
  | none, some p => some (kindEvent c (s.kindOf c p))
  | none, none =>
    match k.engw.find? fun w => w.elem.isSome && (!w.held || k.run) with
    | some w => some (.engineRuleElement c w.slot (w.elem.getD 0))
    | none =>
      if k.bag.isEmpty ∧ 0 < k.spilled then some (.bagReload c)
      else if s.slTakes c then k.bag.getLast?.map fun p => kindEvent c (s.kindOf c p)
      else none

/-- Whether a waiting STOP or DRAIN may complete (13 R408). -/
def State.slDone (s : State) (c : CoreId) (code : Nat) : Bool :=
  let k := s.spliceAt c
  k.rewrite.isNone && k.taking.isNone && (code == 2 || (k.pend.isEmpty && k.engw.all (·.held) && (!k.run || (k.bag.isEmpty && k.spilled == 0))))

/-- Whether an event is the one that executes the unit's SL command. -/
def isSlCommand (c : CoreId) (i : Instr) : Bool :=
  match i with
  | .slStart d => d == c
  | .slStop d => d == c
  | .slDrain d => d == c
  | _ => false

/-- The unit's pending nodes recycled, and its next step and its waiting command put in flight, unless they are. -/
def State.slNext (s0 : State) (c : CoreId) : State :=
  let s := if s0.engReady (.unit c 5) then s0.recycle c else s0
  let all := s.pending ++ s.parked
  let s1 := if !s.engReady (.unit c 5) then s
    else match s.slEvent c with
      | some i => if all.contains i then s else s.post i
      | none => s
  if all.any (isSlCommand c) then s1
  else if s.slHead c 2 && s.slDone c 2 then s1.post (.slStop c)
  else if s.slHead c 3 && s.slDone c 3 then s1.post (.slDrain c)
  else s1

/-- A unit ends its work on a pair (13 R405): RUN cleared, the rewrite left as far as it has gone, that of an element with its entry; what it could
not reach of a pending node stays as it is. -/
def State.slEnd (s : State) (c : CoreId) (cause : BitVec 9) (val : Word) : State :=
  (s.modSplice c fun k => { k with
    run := false, rewrite := none, taking := none, wait := Run.start
    engw := match k.rewrite.bind (·.via) with
      | some (n, _) => k.engw.filter fun w => w.slot != n
      | none => k.engw
    pend := if k.rewrite.isSome || k.taking.isSome then k.pend else k.pend.filter fun e => nodeAt val != e.1 }).spliceReport c cause val

/-- The pair in hand dropped. -/
def State.dropPair (s : State) (c : CoreId) : State := s.modSplice c fun k => { k with taking := none, wait := Run.start }

/-- What a unit does at a stop (13 R402, R405); `again` is the step concerned. -/
def State.slStopAt (s : State) (c : CoreId) (again : Instr) (st : SlStop) : State :=
  let hold := fun (e : EngStop) (va : Word) => match e with
    | .cause q => (s.slEnd c q va).slNext c
    | .busy ls => (s.engHold (.unit c 5) (.busy ls)).park again
    | e => s.engHold (.unit c 5) e
  match st with
  | .eng (.fetch a n) va => (match s.engRead (.unit c 5) [(a, n)] with
    | .ok (bs, t) => (t.modRun (.unit c 5) fun r => { r with words := r.words ++ [(a, bs.flatten)], answers := [] }).post again
    | .error e => hold e va)
  | .eng e va => hold e va
  | .violation va => (s.slEnd c 0x182 va).slNext c
  | .drop cause v => ((s.dropPair c).spliceReport c cause v).slNext c
  | .other => s.slNext c
  | .wait => s.park again

/-- The units of the launch of core c that have pending nodes, and core c's, look for work. -/
def State.recycleAll (s : State) (c : CoreId) : State :=
  (match s.launchOf c with
    | some l => l.cores.filter fun d => d == c || !(s.spliceAt d).pend.isEmpty
    | none => [c]).foldl (fun t d => t.slNext d) s

/-- Whether a unit is in the middle of a rewrite: one whose command waits for room has changed nothing yet. -/
def State.rewriting (s : State) (c : CoreId) : Bool :=
  match (s.spliceAt c).rewrite with
  | some r => (match r.step with
    | .issue _ _ => false
    | _ => true)
  | none => false

/-- One step of the unit; that of a gang that is pre-empted only finishes its rewrite (14 R433). -/
def slStep (c : CoreId) (again : Instr) (go : State → Except SlStop State) (s : State) : Out :=
  if !s.engReady (.unit c 5) then .next s
  else if !s.mayRun c ∧ !s.rewriting c then .next (s.park again)
  else match go (s.modRun (.unit c 5) fun r => { r with lines := [] }) with
    | .ok t => .next ((t.modSplice c fun k => { k with wait := Run.start, since := s.cyc }).recycleAll c)
    | .error st => .next (s.slStopAt c again st)

/-! SL commands (13 R408). -/

/-- The element of an SL command: RESULT = COUNT, PROGRESS = pairs resident and spilled. -/
def State.slFinish (s : State) (c : CoreId) (cause : BitVec 9) (status : Nat) : State :=
  let k := s.spliceAt c
  (s.finishCmd (.unit c 5) k.count (BitVec.ofNat 32 (k.bag.length + k.spilled)) cause status).slNext c

/-- An SL command with a code: its reserved bits, then its effect when it may complete. -/
def slCommand (c : CoreId) (code : Nat) (fields : List (Nat × Nat)) (go : Packet → State → Option State) (s : State) : Out :=
  match (s.unitAt c 5).inq with
  | [] => .next s
  | p :: _ =>
    if hidOf p.word ≠ code then .next s
    else if !s.mayRun c then .next (match s.engEvent (.unit c 5) with
      | some i => s.park i
      | none => s)
    else if !reservedClear p.word fields then .next (s.slFinish c 0x083 1)
    else match go p s with
      | some t => .next (t.slFinish c 0 0)
      | none => .next s

/-- SL_START (13 R408). -/
def execSlStart (c : CoreId) (s : State) : Out :=
  slCommand c 1 [(287, 64)] (fun p s =>
    let w := p.word
    let keep := fun (v old mask : Word) => if v = 0 then old else v &&& mask
    some (s.modSplice c fun k => { k with
      rules := keep (Msg.word w 1) k.rules 0x1FFFFFFFFFFFFE0, free := keep (Msg.word w 2) k.free 0x1FFFFFFFFFFFFE0
      spill := keep (Msg.word w 3) k.spill 0x1FFFFFFFFFFFE1F, count := 0, run := true, limit := Msg.field w 287 256, since := s.cyc })) s

/-- SL_STOP (13 R408). -/
def execSlStop (c : CoreId) (s : State) : Out :=
  slCommand c 2 [] (fun _ s => if s.slDone c 2 then some (s.modSplice c fun k => { k with run := false }) else none) s

/-- SL_DRAIN (13 R408). -/
def execSlDrain (c : CoreId) (s : State) : Out := slCommand c 3 [] (fun _ s => if s.slDone c 3 then some s else none) s

/-! Reload and stealing (13 R399, R400). -/

/-- BAG_RELOAD (13 R399): the newest 32 spilled pairs, or all of them if fewer remain. -/
def execBagReload (c : CoreId) (s : State) : Out :=
  slStep c (.bagReload c) (fun s =>
    let k := s.spliceAt c
    let m := min 32 k.spilled
    if !k.bag.isEmpty ∨ m = 0 then .ok s
    else
      let va := spillEntry k.spill (k.spilled - m)
      match s.engRead (.unit c 5) [(.mem va, 16 * m)] with
      | .error e => .error (.eng e va)
      | .ok (bs, t) => .ok ((t.cleanOwn c).modSplice c fun k => { k with bag := pairsOf bs.flatten m, spilled := k.spilled - m })) s

/-- SPLICE_STEAL (13 R400): an idle running unit draws a victim. -/
def execSpliceSteal (c : CoreId) (s : State) : Out :=
  let k := s.spliceAt c
  let d := s.stealDomain c
  if !k.run || k.rewrite.isSome || k.taking.isSome || !k.bag.isEmpty || k.spilled != 0 || k.stealing || decide (s.cyc < k.since + 64) || decide (d.length ≤ 1)
    || !s.mayRun c then .next s
  else
    let l := lfsrNext (s.coreAt c).net.lfsr
    match d[l.toNat % d.length]? with
    | none => .next s
    | some v =>
      let s1 := (s.modCore c fun k => { k with net := { k.net with lfsr := l } }).modSplice c fun k => { k with stealing := v != c }
      if v = c then .next s1 else .next (s1.post (.bagStealArrival v c))

/-- Pairs pushed one after the other. -/
def State.slKeepAll (s : State) (c : CoreId) (ps : List (Word × Word)) : Except SlStop State :=
  match ps with
  | [] => .ok s
  | p :: r =>
    match s.slKeep c p with
    | .ok t => t.slKeepAll c r
    | .error e => .error e

/-- BAG_STEAL_ARRIVAL (13 R400): half of the resident pairs, rounded up, from the oldest end, pushed on the thief's bag; none of 0 or 1. -/
def execBagStealArrival (victim thief : CoreId) (s : State) : Out :=
  let b := (s.spliceAt victim).bag
  let n := if b.length < 2 then 0 else (b.length + 1) / 2
  let s1 := (s.modSplice victim fun k => { k with bag := k.bag.drop n }).modSplice thief fun k => { k with stealing := false, since := s.cyc }
  if !s.engReady (.unit thief 5) then .next (s.park (.bagStealArrival victim thief))
  else match s1.slKeepAll thief (b.take n) with
    | .ok t => .next ((t.slNext thief).slNext victim)
    | .error (.eng (.cause q) va) => .next (((s1.spliceReport thief q va).slNext thief).slNext victim)
    | .error (.eng e _) => .next ((s.engHold (.unit thief 5) e).park (.bagStealArrival victim thief))
    | .error _ => .next (s.park (.bagStealArrival victim thief))

/-! Instructions (13 R410 to R414). -/

/-- A node or port address in a register (13 R410). -/
def nodeArg (w : Word) : Except Stop Word := if w.extractLsb' 60 4 = 15 then .error (.trap 0x047 w) else .ok (va57 w)

/-- The address with an alignment of n bytes. -/
def nodeArgAt (w : Word) (n : Nat) : Except Stop Word :=
  (nodeArg w).bind fun va => if low57 va % n = 0 then .ok va else .error (.trap 0x042 va)

/-- SPOP (13 R411). -/
def execSpop (d : BitVec 5) (s : State) : Out :=
  let k := s.spliceAt s.cur
  let fin := fun (bag : List (Word × Word)) (spilled : Nat) (s : State) =>
    match bag.getLast? with
    | none => s.done 4 1 fun c => (c.wx d 0).wx (d + 1) 0
    | some p =>
      let t := s.modSplice s.cur fun k => { k with bag := bag.dropLast, spilled := spilled, since := s.cyc }
      (t.slNext s.cur).done 4 1 fun c => ((c.wx d p.1).wx (d + 1) p.2).commit
  if !k.bag.isEmpty ∨ k.spilled = 0 then fin k.bag k.spilled s
  else
    let m := min 32 k.spilled
    let ps := (List.range m).map fun i => ({ loc := .mem (spillEntry k.spill (k.spilled - m + i)), len := 16, align := 1 } : Piece)
    match s.load ps with
    | .stop st => s.stopStep st
    | .cause q va => trapStep q va s
    | .ask cells => .next ((s.spend 1).askCells cells)
    | .bytes bs qs => fin (pairsOf bs.flatten m) (k.spilled - m) (s.touchAll s.cur false ps qs)

/-- SPUSH (13 R411), a release at .device (R409). -/
def execSpush (a b : BitVec 5) (s : State) : Out :=
  match (nodeArg (s.ctx.rx a)).bind fun _ => (nodeArg (s.ctx.rx b)).bind fun _ =>
      (nodeArgAt (s.ctx.rx a) 32).bind fun x => (nodeArgAt (s.ctx.rx b) 32).map fun y => (x, y) with
  | .error st => s.stopStep st
  | .ok p =>
    releasing true 5 (fun s => match s.slPush s.cur p with
      | .ok (t, true) => ((t.modSplice t.cur fun k => { k with since := s.cyc }).slNext t.cur).done 4 1 Ctx.commit
      | .ok (_, false) => trapStep 0x184 p.1 s
      | .error (.eng (.cause q) va) => trapStep q va s
      | .error (.eng (.miss va w) _) => s.stopStep (.miss va w)
      | .error (.eng (.busy ls) _) => s.stopStep (.busy ls)
      | .error _ => s.stopStep (.busy [])) s

/-- SALLOC (13 R411): the next node is read from word 1 of the head, words 1 to 3 of which become 0x2. -/
def execSalloc (d : BitVec 5) (s : State) : Out :=
  let k := s.spliceAt s.cur
  let h := nodeAt k.free
  if k.free = 0 then trapStep 0x181 0 s
  else
    let at' := va57 (h + 8)
    let rd : List Piece := [{ loc := .mem at', len := 8, align := 1 }]
    let wr : List Piece := [{ loc := .mem at', len := 24, align := 1 }]
    match s.load rd with
    | .stop st => s.stopStep st
    | .cause q va => trapStep q va s
    | .ask cells => .next ((s.spend 1).askCells cells)
    | .bytes bs qs =>
      let t := (s.touchAll s.cur false rd qs).modSplice s.cur fun k => { k with free := nodeBits (BitVec.ofNat 64 (ofBytes bs.flatten)) }
      match s.reach s.cur s.hot true false wr with
      | .error st => s.stopStep st
      | .ok ws => (t.writeAll s.cur ws [toBytes 8 2 ++ toBytes 8 2 ++ toBytes 8 2]).done 4 1 fun c => (c.wx d h).commit

/-- SFREE (13 R411). -/
def execSfree (a : BitVec 5) (s : State) : Out :=
  match nodeArgAt (s.ctx.rx a) 32 with
  | .error st => s.stopStep st
  | .ok n =>
    let old := (s.spliceAt s.cur).free
    match s.reach s.cur s.hot true false [{ loc := .mem (va57 (n + 8)), len := 24, align := 1 }] with
    | .error st => s.stopStep st
    | .ok qs =>
      let t := s.writeAll s.cur qs [toBytes 8 ((old ||| 2).toNat) ++ toBytes 8 2 ++ toBytes 8 2]
      (t.modSplice s.cur fun k => { k with free := nodeBits n }).done 4 1 Ctx.commit

/-- SLINK (13 R412), an atomic .ar at .device: checked, then performed at the home, or by the core in core-owned memory (07 R231). -/
def execSlink (d a b : BitVec 5) (s : State) : Out :=
  match nodeArgAt (s.ctx.rx a) 8 with
  | .error st => s.stopStep st
  | .ok va =>
    let new := s.ctx.rx b
    if low57 va % 32 = 0 ∨ new.extractLsb' 57 7 ≠ 0 ∨ viewLink new = .bad then trapStep 0x182 va s
    else withPlace 0 true true (.ok { loc := .mem va, len := 8, align := 8 }) (fun q s =>
      match q with
      | .sp _ => .next s
      | .phys pa va attr =>
        releasing true 5 (fun s =>
          if attr = 0 then
            let old := BitVec.ofNat 64 (ofBytes (s.readPlace s.cur q 8))
            let t := if old = s.ctx.rx d then (s.writePlace s.cur q (toBytes 8 new.toNat)).recycleAll s.cur else s
            t.done 4 1 fun k => (k.wx d old).commit
          else askHome d va pa (.slink (s.ctx.rx d) new) s) s) s

/-- SREAD (13 R413): the doubleword is read at its home and leaves no L1 copy. -/
def execSread (d a : BitVec 5) (s : State) : Out :=
  match nodeArgAt (s.ctx.rx a) 8 with
  | .error st => s.stopStep st
  | .ok va =>
    let ps : List Piece := [{ loc := .mem va, len := 8, align := 8 }]
    match s.load ps with
    | .stop st => s.stopStep st
    | .cause q va => trapStep q va s
    | .ask cells => .next ((s.spend 1).askCells cells)
    | .bytes bs qs =>
      let t := qs.foldl (fun t q => t.settle (q.lines 8)) s
      (if s.stale.isEmpty then t else t.tock).done 4 1 fun c => c.wx d (BitVec.ofNat 64 (ofBytes bs.flatten))

end Sys2Proof.Machine
end

