-- ==== Sys2Proof/Machine/Rewrite.lean ====
section
/-!
DEFINITION. Rewriting by the splice unit (13 R395 to R398, R402 to R407; 16 R455, R456): taking a pair with its rule, steps 3 to 7 one
protocol action at a time, HANDLER and ENGINE rules, and the element of an ENGINE rule.
-/

namespace Sys2Proof.Machine

/-! Wirings (13 R397). -/

/-- The other end of the wire of an endpoint. -/
def Rewrite.wire (r : Rewrite) (p : Port) : Option Port :=
  r.wires.findSome? fun w => if w.1 = p then some w.2 else if w.2 = p then some w.1 else none

/-- F(P) of an interface port, none where the wire is open. -/
def Rewrite.far (r : Rewrite) (p : Port) : Option Port := (r.ifs.find? fun e => e.1 == p).bind (·.2)

def Rewrite.isIf (r : Rewrite) (p : Port) : Bool := r.ifs.any fun e => e.1 == p

/-- E(P), and the interface port whose far end it is (13 R403); a port whose far end was an interface port at step 1 leads on through the wire
that the rewrite consumes wholly (R402). -/
def Rewrite.cont (r : Rewrite) (fuel : Nat) (p : Port) : Option Port × Option Port :=
  match fuel with
  | 0 => (none, none)
  | f + 1 =>
    match r.wire p with
    | none => (none, none)
    | some q =>
      if r.news.contains q then (some q, none)
      else match r.far q with
        | none => (none, some q)
        | some g => if r.gone.contains q then r.cont f g else (some g, some q)

/-- What a new port names at step 3: the new port it is wired to, or the end beyond the interface port. -/
def Rewrite.newLink (r : Rewrite) (n : Port) : Option Port := (r.cont 8 n).1

/-- The index from i on of the next interface port that steps 4 and 5 concern. -/
def Rewrite.nextIf (r : Rewrite) (i : Nat) : Option Nat :=
  ((List.range r.ifs.length).find? fun j => decide (i ≤ j) && match r.ifs[j]? with
    | some (p, some _) => !r.gone.contains p
    | _ => false)

/-- One name for a wire that is settled at interface port p. -/
def Rewrite.wireKey (r : Rewrite) (p : Port) : Option Port :=
  match r.cont 8 p with
  | (some e, none) => some e
  | (_, some v) => ((r.ifs.map (·.1)).find? fun x => x == p || x == v)
  | (none, none) => some p

/-- The redirection from interface port i on, or the settling when none is left. -/
def Rewrite.toRedirect (r : Rewrite) (i : Nat) : RwStep :=
  match r.nextIf i with
  | some j => .redirect j
  | none => match r.nextIf 0 with
    | some j => .live j none
    | none => .finish

/-- The settling from interface port i on. -/
def Rewrite.toSettle (r : Rewrite) (i : Nat) : RwStep :=
  match r.nextIf i with
  | some j => .live j none
  | none => .finish

/-! Steps 4 to 7. -/

/-- A pair in ascending order of addresses (13 R402 step 6). -/
def ordered (a b : Word) : Word × Word := if low57 a ≤ low57 b then (a, b) else (b, a)

/-- A pair to be pushed for the wire settled at p, once (13 R404, 16 R456). -/
def Rewrite.push (r : Rewrite) (p : Port) (u v : Option Port) : Rewrite :=
  match u, v with
  | some a, some b =>
    if a.port = 0 ∧ b.port = 0 ∧ !r.pushed.contains (r.wireKey p) then
      { r with pushed := r.wireKey p :: r.pushed, queue := r.queue ++ [ordered a.node b.node] }
    else r
  | _, _ => r

def State.setRewrite (s : State) (c : CoreId) (r : Option Rewrite) : State := s.modSplice c fun k => { k with rewrite := r }

/-- One step of live (13 R404): the next port of the chain, or the port that holds no REDIR. -/
def State.liveStep (s : State) (c : CoreId) (x : Option Port) : Except SlStop ((Option Port × Bool) × State) :=
  match x with
  | none => .ok ((none, true), s)
  | some p => do
    let (v, t) ← s.slPort c p
    match v with
    | .redir y => return ((y, y.isNone), t)
    | .bad => .error (.violation p.addr)
    | _ => return ((some p, true), t)

/-- R403 for interface port i: P, F(P). -/
def redirectStep (c : CoreId) (r : Rewrite) (i : Nat) (p f : Port) (s : State) : Except SlStop State := do
  let e := (r.cont 8 p).1
  let s1 ← match e with
    | some n => if r.news.contains n then s.slPut c n.addr (linkTo (some f)) else pure s
    | none => pure s
  let (old, s2) ← s1.slCas c p (linkTo (some f)) (redirTo e)
  if old = linkTo (some f) then
    return s2.setRewrite c (some { r with marks := r.marks ++ [(p, redirTo e)], step := r.toRedirect (i + 1) })
  match viewLink old with
  | .normal g =>
    let r1 : Rewrite := { r with ifs := r.ifs.map fun x => if x.1 = p then (p, some g) else x }
    let step := match r1.marks.find? (fun m => (r1.cont 8 m.1).2 == some p && m.1 != p) with
      | some m => RwStep.repair i m.1 m.2
      | none => .redirect i
    return s2.setRewrite c (some { r1 with step := step })
  | _ => .error (.violation p.addr)

/-- The first port's REDIR of a wire-through follows the far end that moved (13 R403). -/
def repairStep (c : CoreId) (r : Rewrite) (i : Nat) (q : Port) (old : Word) (s : State) : Except SlStop State := do
  let new := redirTo (r.cont 8 q).1
  let (got, s1) ← s.slCas c q old new
  if got = old then return s1.setRewrite c (some { r with marks := r.marks.map (fun m => if m.1 = q then (q, new) else m), step := .redirect i })
  if got = openLink then return s1.setRewrite c (some { r with step := .redirect i })
  match viewLink got with
  | .redir _ => return s1.setRewrite c (some { r with step := .repair i q got })
  | _ => .error (.violation q.addr)

/-- The CAS of R404 at F(P), and what follows. -/
def settleStep (c : CoreId) (r : Rewrite) (i : Nat) (p f : Port) (t : Option Port) (s : State) : Except SlStop State := do
  let mine := linkTo (some p)
  let (old, s1) ← s.slCas c f mine (linkTo t)
  if old = mine then return s1.setRewrite c (some { r.push p (some f) t with step := .freePort i p })
  match viewLink old with
  | .redir g =>
    if low57 p.node < low57 f.node then return s1.setRewrite c (some { r with step := .liveFar i t g })
    else return s1.setRewrite c (some { r with step := .freePort i f })
  | .normal _ => return s1.setRewrite c (some { r with step := .freePort i p })
  | _ => .error (.violation f.addr)

/-- Interface port i with its far end. -/
def Rewrite.ifAt (r : Rewrite) (i : Nat) : Option (Port × Port) := (r.ifs[i]?).bind fun e => e.2.map fun f => (e.1, f)

/-- join(u, v) for interface port i, one of its two writes a step (13 R404). -/
def joinStep (c : CoreId) (r : Rewrite) (i : Nat) (u v : Option Port) (second : Bool) (s : State) : Except SlStop State := do
  let t ← match (if second then v else u) with
    | some p => s.slHome c p.addr (linkTo (if second then u else v))
    | none => pure s
  let next : Rewrite := match second, r.ifAt i with
    | true, some (p, f) => { r.push p u v with step := .freePort i f }
    | true, none => { r with step := r.toSettle (i + 1) }
    | false, _ => { r with step := .join i u v true }
  return t.setRewrite c (some next)

/-- Interface port i in step 4 or step 5. -/
def ifStep (c : CoreId) (r : Rewrite) (i : Nat) (go : Port → Port → State → Except SlStop State) (s : State) : Except SlStop State :=
  match r.ifAt i with
  | some (p, f) => go p f s
  | none => .ok (s.setRewrite c (some { r with step := r.toSettle (i + 1) }))

/-- live for interface port i: `done` is the step that follows it, `more` the one that goes on along the chain. -/
def liveAt (c : CoreId) (r : Rewrite) (x : Option Port) (done more : Option Port → RwStep) (s : State) : Except SlStop State :=
  (s.liveStep c x).map fun y => y.2.setRewrite c (some { r with step := if y.1.2 then done y.1.1 else more y.1.1 })

/-- One access of steps 4 to 7 (13 R402). -/
def settling (c : CoreId) (r : Rewrite) (s : State) : Except SlStop State :=
  match r.step with
  | .free [] => .ok (s.setRewrite c (some { r with step := r.toRedirect 0 }))
  | .free (p :: ps) => (s.slHome c p.addr openLink).map fun t => t.setRewrite c (some { r with step := .free ps })
  | .redirect i => ifStep c r i (redirectStep c r i) s
  | .repair i q old => repairStep c r i q old s
  | .live i x => ifStep c r i (fun p _ => liveAt c r (x.orElse fun _ => (r.cont 8 p).1) (.settle i) (.live i)) s
  | .settle i t => ifStep c r i (fun p f => settleStep c r i p f t) s
  | .liveFar i t g => liveAt c r g (fun v => .join i t v false) (.liveFar i t) s
  | .join i u v second => joinStep c r i u v second s
  | .freePort i p => (s.slHome c p.addr openLink).map fun t => t.setRewrite c (some { r with step := r.toSettle (i + 1) })
  | _ => .ok (s.modSplice c fun k => { k with rewrite := none, pend := k.pend ++ r.cons })

/-! Steps 2 and 3. -/

/-- F of the interface ports: the ports that they name, none where they are open; a port that holds anything else is a violation. -/
def State.slFars (s : State) (c : CoreId) (ps : List Port) : Except SlStop (List (Port × Option Port)) :=
  ps.mapM fun p => do
    let w ← s.slWord c p.addr
    if w = openLink then return (p, none)
    match viewLink w with
    | .normal q => return (p, some q)
    | _ => throw (.violation p.addr)

/-- The pairs of internal wires that join two principal ports (13 R402 step 6). -/
def Rewrite.internalPairs (r : Rewrite) : List (Word × Word) :=
  r.news.filterMap fun n => match r.newLink n with
    | some m => if n.port = 0 ∧ m.port = 0 ∧ r.news.contains m ∧ low57 n.node < low57 m.node then some (n.node, m.node) else none
    | none => none

/-- The ports of nodes up to their arities, from port lo on. -/
def portsOf (lo : Nat) (ns : List (Word × Nat)) : List Port :=
  ns.flatMap fun e => ((List.range (e.2 + 1)).filter fun p => lo ≤ p).map fun p => { node := e.1, port := BitVec.ofNat 2 p }

/-- A rewrite counted, RUN cleared at LIMIT (13 R408). -/
def State.countRewrite (s : State) (c : CoreId) : State :=
  s.modSplice c fun k => { k with count := k.count + 1, run := k.run && !(decide (k.limit ≠ 0 ∧ k.limit ≤ (k.count + 1).toNat)) }

/-- A port of a new node, once the nodes are known: until then node i of the plan stands as the address i + 1. -/
def Port.placed (ns : List Word) (p : Port) : Port :=
  if p.node = 0 ∨ 8 < p.node.toNat then p else { p with node := ns.getD (p.node.toNat - 1) p.node }

/-- Step 2 passed: the wires of the new nodes, the rewrite counted (13 R408), the element out of its entry (R407), and step 3 to follow. -/
def Rewrite.allocated (c : CoreId) (r : Rewrite) (s : State) : State :=
  let t := match r.via with
    | some (n, _) => s.modSplice c fun k => { k with engw := k.engw.filter fun x => x.slot != n }
    | none => s.countRewrite c
  t.setRewrite c (some { r with
    wires := r.wires.map fun w => (w.1.placed r.nodes, w.2.placed r.nodes)
    news := portsOf 0 ((r.nodes.zip r.headers).map fun e => (e.1, hdrArity e.2)), step := .build 0 })

/-- Step 2: the next node; with none left, those taken are to be given back. -/
def allocStep (c : CoreId) (r : Rewrite) (s : State) : Except SlStop State :=
  if r.nodes.length < r.headers.length then do
    match ← s.slAlloc c with
    | some (n, t) => return t.setRewrite c (some { r with nodes := r.nodes ++ [n] })
    | none => return s.setRewrite c (some { r with step := .giveBack r.nodes.reverse })
  else .ok (r.allocated c s)

/-- Step 2 without enough nodes: they go back one by one; then the pair is on top of the bag again, or the element is held in its entry
(13 R407), RUN is cleared and 0x181 reported. -/
def giveBackStep (c : CoreId) (r : Rewrite) (ns : List Word) (s : State) : Except SlStop State :=
  match ns with
  | n :: rest => (s.slFree c n).map fun t => t.setRewrite c (some { r with step := .giveBack rest })
  | [] => do
    let t ← match r.via with
      | some (n, _) => pure (s.modSplice c fun k => { k with engw := k.engw.map fun x => if x.slot = n then { x with held := true } else x })
      | none => s.slKeep c r.pair
    return (t.modSplice c fun k => { k with run := false, rewrite := none }).spliceReport c 0x181 r.pair.1

/-- Step 3: header, the links of its ports, and 0x2 above its arity, of node i; then step 4. -/
def buildStep (c : CoreId) (r : Rewrite) (i : Nat) (s : State) : Except SlStop State :=
  match r.nodes[i]?, r.headers[i]? with
  | some n, some h =>
    let link := fun (p : Nat) => if p ≤ hdrArity h then linkTo (r.newLink { node := n, port := BitVec.ofNat 2 p }) else openLink
    (s.slWrite c n ((h :: (List.range 3).map link).flatMap fun w => toBytes 8 w.toNat)).map fun t =>
      t.setRewrite c (some { r with step := .build (i + 1) })
  | _, _ => .ok (s.setRewrite c (some { r with
      step := .free ((r.cons.map fun e => { node := e.1, port := 0 }) ++ r.gone), queue := r.internalPairs }))

/-! The command of an ENGINE rule (13 R407). -/

/-- The command issued as ENQ does (10 R321), with a splice mark beside it, and node A in the engine-wait table; a command without room waits. -/
def issueStep (c : CoreId) (r : Rewrite) (w : Msg) (wait : EngWait) (s : State) : Except SlStop State :=
  let i := (s.coreAt c).ident
  let u := BitVec.ofNat 3 (Msg.field w 34 32)
  let here := decide (u ≠ 6 ∧ BitVec.ofNat 1 (Msg.field w 45 45) = s.dev ∧ Msg.field w 44 35 = i.rel.toNat)
  if (here && !(s.unitAt c u).room u) || (!here && decide (64 ≤ (s.coreAt c).net.retryBuf.length)) then .error .wait
  else
    let m := s.takeMid c
    let p : Packet := { lid := i.lid.getD 0, dst := BitVec.ofNat 10 (Msg.field w 44 35), word := withHw (withXt w i.xt) m.1 i.rel s.dev
                        src := .core s.dev i.rel, kind := .mark c wait.slot }
    let t := (m.2.modSplice c fun q => { q with engw := q.engw ++ [wait] }).setRewrite c
      (some { r with step := .free [{ node := r.pair.1, port := 0 }, { node := r.pair.2, port := 0 }] })
    .ok ((if here then t.pushCommand c u p else t.sendFrom c p).countRewrite c)

/-- One step of a rewrite (13 R402): a pair to be pushed first, then one access. -/
def advance (c : CoreId) (r : Rewrite) (s : State) : Except SlStop State :=
  match r.queue with
  | p :: q => (s.slKeep c p).map fun t => t.setRewrite c (some { r with queue := q })
  | [] =>
    match r.step with
    | .alloc => allocStep c r s
    | .giveBack ns => giveBackStep c r ns s
    | .build i => buildStep c r i s
    | .issue w wait => issueStep c r w wait s
    | _ => settling c r s

/-! Step 1. -/

/-- A pair with its rule (13 R395): nodes A and B in the roles of the entry, their headers, and the entry. -/
structure Taken where
  first : Word
  a : Word
  b : Word
  hdrA : Word
  hdrB : Word
  entry : Nat
  deriving DecidableEq, Repr

/-- The fields of a rule entry by its kind (13 R396). -/
def ruleFields (kind : Nat) : List (Nat × Nat) :=
  match kind with
  | 4 => [(127, 64), (2, 0)]
  | 5 => [(191, 128), (25, 20), (19, 8), (2, 0)]
  | 6 => [(127, 64), (37, 32), (31, 26), (25, 23), (22, 20), (19, 10), (9, 8), (2, 0)]
  | _ => [(2, 0)]

/-- Whether a rule entry keeps R396. -/
def ruleOk (e : Nat) : Bool :=
  let mask := (ruleFields (e % 8)).foldl (fun (m : Nat) (f : Nat × Nat) => m ||| ((2 ^ (f.1 + 1 - f.2) - 1) <<< f.2)) 0
  (e &&& (2 ^ 256 - 1 - mask)) == 0 && e % 8 != 7 && !(e % 8 == 6 && bitsOf e 9 8 == 3)

/-- The pair in hand with its rule (13 R395, R402 step 1): 0x182 for ARITY 3, 0x180 without a rule, 0x183 for a malformed entry. -/
def State.takeRule (s : State) (c : CoreId) (n1 n2 : Word) : Except SlStop Taken := do
  let rules := (s.spliceAt c).rules
  let h1 ← s.slWord c n1
  let h2 ← s.slWord c n2
  if hdrArity h1 = 3 then throw (.violation n1)
  if hdrArity h2 = 3 then throw (.violation n2)
  let e1 ← s.slRead c (ruleAt rules (hdrType h1) (hdrType h2)) 32
  let k : Taken ← if e1 % 8 ≠ 0 then pure { first := n1, a := n1, b := n2, hdrA := h1, hdrB := h2, entry := e1 }
    else (s.slRead c (ruleAt rules (hdrType h2) (hdrType h1)) 32).map fun e => { first := n1, a := n2, b := n1, hdrA := h2, hdrB := h1, entry := e }
  if k.entry % 8 = 0 then throw (.drop 0x180 n1)
  if !ruleOk k.entry then throw (.drop 0x183 n1)
  return k

/-- New nodes by their headers, and the wiring. -/
structure Plan where
  headers : List Word
  wires : List (Port × Port)
  deriving DecidableEq, Repr

/-- Port p of new node i, before the node is allocated (Port.placed). -/
def newPort (i : Nat) (p : BitVec 2) : Port := { node := BitVec.ofNat 64 (i + 1), port := p }

/-- The ports A.aux and B.aux of a pair. -/
def Taken.auxA (k : Taken) (i : BitVec 2) : Port := { node := k.a, port := i }
def Taken.auxB (k : Taken) (i : BitVec 2) : Port := { node := k.b, port := i }

/-- ANNIHILATE, COMMUTE and ERASE (13 R397), none where the requirement is not met. -/
def Taken.plan (k : Taken) : Option Plan :=
  let ar := hdrArity k.hdrA
  let br := hdrArity k.hdrB
  match k.entry % 8 with
  | 1 => if ar = br then some { headers := [], wires := (List.range ar).map fun i => (k.auxA (BitVec.ofNat 2 (i + 1)), k.auxB (BitVec.ofNat 2 (i + 1))) } else none
  | 2 =>
    if ar = 2 ∧ br = 2 then
      some { headers := [k.hdrB, k.hdrB, k.hdrA, k.hdrA]
             wires := [(k.auxA 1, newPort 0 0), (k.auxA 2, newPort 1 0), (k.auxB 1, newPort 2 0), (k.auxB 2, newPort 3 0)
                       , (newPort 0 1, newPort 2 1), (newPort 0 2, newPort 3 1), (newPort 1 1, newPort 2 2), (newPort 1 2, newPort 3 2)] }
    else none
  | 3 =>
    if ar = 0 then
      some { headers := (List.range br).map fun _ => k.hdrA
             wires := (List.range br).map fun i => (k.auxB (BitVec.ofNat 2 (i + 1)), newPort i 0) }
    else none
  | _ => none

/-- An endpoint of a template (13 R398). -/
def Taken.endpoint (k : Taken) (e : Nat) : Port :=
  match e with
  | 0 => k.auxA 1
  | 1 => k.auxA 2
  | 2 => k.auxB 1
  | 3 => k.auxB 2
  | _ => newPort ((e - 8) / 3) (BitVec.ofNat 2 ((e - 8) % 3))

/-- A node descriptor of a template as the header of its node; none where it breaks the layout. -/
def Taken.descriptor (k : Taken) (d : Nat) : Option Word :=
  if bitsOf d 31 14 ≠ 0 ∨ bitsOf d 11 10 = 3 then none
  else
    let src := bitsOf d 13 12
    let pay := match src with
      | 0 => 0
      | 1 => hdrPayload k.hdrA
      | 2 => hdrPayload k.hdrB
      | _ => bitsOf d 63 32
    some (BitVec.ofNat 64 (pay * 2 ^ 32 + (if src = 0 then 0 else 2 ^ 12) + bitsOf d 11 0))

/-- The endpoints that a template must wire: the interface ports, and the ports of its nodes. -/
def Taken.endpoints (k : Taken) (hs : List Word) : List Nat :=
  (List.range (hdrArity k.hdrA)) ++ ((List.range (hdrArity k.hdrB)).map (· + 2))
    ++ hs.zipIdx.flatMap fun e => (List.range (hdrArity e.1 + 1)).map fun p => 8 + 3 * e.2 + p

/-- Every result, or none. -/
def allSome {α : Type} (xs : List (Option α)) : Option (List α) :=
  match xs with
  | [] => some []
  | none :: _ => none
  | some a :: r => (allSome r).map (a :: ·)

/-- A template (13 R398) read from memory; none where it breaks R397 or its layout. -/
def State.template (s : State) (c : CoreId) (k : Taken) : Except SlStop (Option Plan) := do
  let at' := va57 (BitVec.ofNat 64 (bitsOf k.entry 127 64))
  if low57 at' % 8 ≠ 0 then return none
  let h ← s.slRead c at' 8
  let nnew := bitsOf h 3 0
  let nwire := bitsOf h 7 4
  if bitsOf h 63 8 ≠ 0 ∨ 8 < nnew then return none
  let ds ← s.slRead c (va57 (at' + 8)) (8 * nnew)
  let ws ← s.slRead c (va57 (at' + BitVec.ofNat 64 (8 + 8 * nnew))) (2 * nwire)
  let wires := (List.range nwire).map fun i => bitsOf ws (16 * i + 15) (16 * i)
  match allSome ((List.range nnew).map fun i => k.descriptor (bitsOf ds (64 * i + 63) (64 * i))) with
  | none => return none
  | some hs =>
    let ends := wires.flatMap fun w => [bitsOf w 4 0, bitsOf w 9 5]
    if wires.any (fun w => bitsOf w 15 10 != 0) || ends.insertionSort (· ≤ ·) != (k.endpoints hs).insertionSort (· ≤ ·) then return none
    else return some { headers := hs, wires := wires.map fun w => (k.endpoint (bitsOf w 4 0), k.endpoint (bitsOf w 9 5)) }

/-- A rewrite before its step 2: the interface ports whose far end is another one take no part in steps 4 and 5 (13 R402). -/
def Rewrite.new (kind : BitVec 3) (via : Option (Nat × BitVec 128)) (pair : Word × Word) (cons : List (Word × Nat)) (ifs : List (Port × Option Port))
    (p : Plan) : Rewrite :=
  { kind := kind, via := via, pair := pair, headers := p.headers, nodes := [], cons := cons, ifs := ifs, wires := p.wires, news := []
    gone := (ifs.filter fun e => match e.2 with
      | some g => ifs.any fun x => x.1 == g
      | none => false).map (·.1)
    step := .alloc, marks := [], pushed := [], queue := [] }

/-- A rewrite takes the place of the pair in hand. -/
def State.startRewrite (s : State) (c : CoreId) (r : Rewrite) : State := s.modSplice c fun k => { k with taking := none, rewrite := some r }

/-- Step 1 of an ANNIHILATE, COMMUTE, ERASE or TEMPLATE pair. -/
def State.applyRule (s : State) (c : CoreId) (p : Word × Word) (k : Taken) : Except SlStop State := do
  match ← if k.entry % 8 = 4 then s.template c k else pure k.plan with
  | none => .error (.drop 0x183 k.first)
  | some plan =>
    let cons := [(k.a, hdrArity k.hdrA), (k.b, hdrArity k.hdrB)]
    let ifs ← s.slFars c (portsOf 1 cons)
    return s.startRewrite c (Rewrite.new (BitVec.ofNat 3 (k.entry % 8)) none p cons ifs plan)

/-! HANDLER and ENGINE (13 R406, R407). -/

/-- A HANDLER rule: a message to the core's own mailbox, built, checked as a SEND (11 R356) and committed as an evaluation message is; one that SEND
would refuse makes the rule malformed (log 29). -/
def State.applyHandler (s : State) (c : CoreId) (k : Taken) : Except SlStop State :=
  let i := (s.coreAt c).ident
  let cl := bitsOf k.entry 25 20
  if !s.sendOk c (Msg.ofWords [mkHeader cl (bitsOf k.entry 19 8) s.dev i.rel.toNat 0 0 0 0 false 0 0]) then .error (.drop 0x183 k.first)
  else if 64 ≤ (s.coreAt c).net.retryBuf.length then .error .wait
  else
    let r := (s.dropPair c).takeMid c
    let h := mkHeader cl (bitsOf k.entry 19 8) s.dev i.rel.toNat 0 r.1 i.rel.toNat s.dev i.xt 1 0
    let w := Msg.ofWords [h, k.a, k.b, BitVec.ofNat 64 (bitsOf k.entry 191 128)]
    let t := match i.lid with
      | some lid => r.2.sendFrom c { lid := lid, dst := i.rel, word := w, src := .core s.dev i.rel, kind := .plain }
      | none => r.2
    .ok (t.countRewrite c)

/-- A payload added to a doubleword of a command. -/
def addPayload (w : Msg) (i sh pay : Nat) : Msg :=
  if i = 0 then w else Msg.setWord w i (BitVec.ofNat 64 ((Msg.word w i).toNat + pay * 2 ^ sh))

/-- The lowest free entry of the engine-wait table. -/
def freeEngw (es : List EngWait) : Nat := ((List.range 16).find? fun n => !es.any (·.slot == n)).getD 0

/-- An ENGINE rule: its checks, the command with the payloads added and REPLY set, and what its element will need. -/
def State.applyEngine (s : State) (c : CoreId) (k : Taken) : Except SlStop State := do
  let e := k.entry
  let ia := bitsOf e 22 20
  let ib := bitsOf e 25 23
  let rpay := bitsOf e 9 8
  let at' := va57 (BitVec.ofNat 64 (bitsOf e 127 64))
  if hdrArity k.hdrA ≠ 1 ∨ hdrArity k.hdrB ≠ 0 ∨ ((ia ≠ 0 ∨ rpay = 0) ∧ !hdrPf k.hdrA) ∨ ((ib ≠ 0 ∨ rpay = 1) ∧ !hdrPf k.hdrB)
      ∨ low57 at' % 64 ≠ 0 then throw (.drop 0x183 k.first)
  let w := BitVec.ofNat 512 (← s.slRead c at' 64)
  if !([1, 2, 3, 4, 6].contains (Msg.field w 34 32)) || !s.enqOk c w then throw (.drop 0x183 k.first)
  let fs ← s.slFars c [{ node := k.a, port := 1 }]
  let w1 := addPayload (addPayload w ia (bitsOf e 31 26) (hdrPayload k.hdrA)) ib (bitsOf e 37 32) (hdrPayload k.hdrB)
  let wait : EngWait := { slot := freeEngw (s.spliceAt c).engw, a := k.a, hdrA := k.hdrA, hdrB := k.hdrB, far := (fs.head?).bind (·.2)
                          rtype := BitVec.ofNat 10 (bitsOf e 19 10), rpay := BitVec.ofNat 2 rpay, elem := none, held := false }
  return s.startRewrite c { Rewrite.new 6 none (k.a, k.b) [(k.b, 0)] [] { headers := [], wires := [] } with step := .issue (w1 ||| 2) wait }

/-! The events. -/

/-- The rule of the pair in hand applied, if it is of this kind. -/
def State.applyPair (s : State) (c : CoreId) (kind : BitVec 3) (p : Word × Word) : Except SlStop State := do
  let k ← s.takeRule c p.1 p.2
  if k.entry % 8 ≠ kind.toNat then throw .other
  else if kind = 5 then s.applyHandler c k
  else if kind = 6 then s.applyEngine c k
  else s.applyRule c p k

/-- One step of a rewrite whose rule has a kind: the rewrite in progress goes on; else the pair in hand is worked on; else the top pair is
taken in hand. -/
def ruleStep (c : CoreId) (kind : BitVec 3) (s : State) : Out :=
  slStep c (kindEvent c kind) (fun s =>
    let k := s.spliceAt c
    match k.rewrite, k.taking with
    | some r, _ => if r.kind = kind ∧ r.via.isNone then advance c r s else .error .other
    | none, some p => s.applyPair c kind p
    | none, none => if s.slTakes c then .ok (s.modSplice c fun k => { k with taking := k.bag.getLast?, bag := k.bag.dropLast }) else .error .other) s

/-- SPLICE_ANNIHILATE (13 R397, R402). -/
def execSpliceAnnihilate (c : CoreId) (s : State) : Out := ruleStep c 1 s
/-- SPLICE_COMMUTE (13 R397, R402). -/
def execSpliceCommute (c : CoreId) (s : State) : Out := ruleStep c 2 s
/-- SPLICE_ERASE (13 R397, R402). -/
def execSpliceErase (c : CoreId) (s : State) : Out := ruleStep c 3 s
/-- SPLICE_TEMPLATE (13 R398, R402). -/
def execSpliceTemplate (c : CoreId) (s : State) : Out := ruleStep c 4 s
/-- SPLICE_HANDLER (13 R406). -/
def execSpliceHandler (c : CoreId) (s : State) : Out := ruleStep c 5 s
/-- SPLICE_ENGINE (13 R407). -/
def execSpliceEngine (c : CoreId) (s : State) : Out := ruleStep c 6 s

/-- The header of a result node (13 R407). -/
def EngWait.result (w : EngWait) (e : BitVec 128) : Word :=
  let pay := match w.rpay.toNat with
    | 0 => hdrPayload w.hdrA
    | 1 => hdrPayload w.hdrB
    | _ => bitsOf e.toNat 127 96
  BitVec.ofNat 64 (pay * 2 ^ 32 + 2 ^ 12 + w.rtype.toNat)

/-- The rewrite in which a result node takes A's place (13 R407, 16 R455). -/
def EngWait.rewrite (w : EngWait) (e : BitVec 128) : Rewrite :=
  let aux : Port := { node := w.a, port := 1 }
  Rewrite.new 6 (some (w.slot, e)) (w.a, w.a) [(w.a, 1)] [(aux, w.far)] { headers := [w.result e], wires := [(aux, newPort 0 0)] }

/-- The element of a command reaches its entry: on success it is kept there, behind those that came before it; on failure the cause is
reported with A's address. -/
def State.elementArrives (s : State) (c : CoreId) (w : EngWait) (e : BitVec 128) : State :=
  let rest := (s.spliceAt c).engw.filter fun x => x.slot != w.slot
  if elemCause e = 0 then (s.modSplice c fun k => { k with engw := rest ++ [{ w with elem := some e }] }).slNext c
  else ((s.modSplice c fun k => { k with engw := rest, since := s.cyc }).spliceReport c (elemCause e) w.a).slNext c

/-- ENGINE_RULE_ELEMENT (13 R407): the element comes; then, when no rewrite is in progress, its result node is wired in, step by step. -/
def execEngineRuleElement (c : CoreId) (n : Nat) (e : BitVec 128) (s : State) : Out :=
  let k := s.spliceAt c
  let step := fun (go : State → Except SlStop State) => slStep c (.engineRuleElement c n e) go s
  match k.engw.find? (·.slot == n), k.rewrite with
  | some w, r =>
    if w.elem.isNone then .next (s.elementArrives c w e)
    else (match r with
      | some q => if q.via = some (n, e) then step (advance c q) else .next (s.slNext c)
      | none =>
        if k.taking.isSome || (w.held && !k.run) then .next (s.slNext c)
        else step fun s => .ok (s.startRewrite c (w.rewrite e)))
  | none, some q => if q.via = some (n, e) then step (advance c q) else .next (s.slNext c)
  | none, none => .next (s.slNext c)

end Sys2Proof.Machine
end

