-- ==== Sys2Proof/Machine/Furled.lean ====
section
/-!
DEFINITION. Furled cells (11): the home's state machine (R350 to R355), evaluations (R356 to R363), and FURL, UNFURL, FPEEK, FTAG and
FCANCEL at their issuers (R367 to R372).
-/

namespace Sys2Proof.Machine

/-! At the home. -/

/-- The address of a cell's word as it stands. -/
def State.cellWord (s : State) (pa : Nat) : Word := BitVec.ofNat 64 (s.mem.num (pa / 8 * 8) 8)

/-- A change of a tag: no device copy is left (07 R228). -/
def State.retag (s : State) (pa : Nat) (t : BitVec 2) : State := (s.claimHome (pa / 64)).setTag pa t

/-- The failure row of 11 R350. -/
def State.failCell (s : State) (pa : Nat) (cause : BitVec 9) : State :=
  if s.tag pa = 2 then (s.retag pa 3).wakeFurl pa (.cause cause) else s

/-- A request refused for want of room (11 R352). -/
def State.refuseFurl (s : State) (r : FurlReq) : State := { s with refused := s.refused ++ [(r, s.cyc)] }

/-- Order of arrival of the next waiter of a cell. -/
def nextOrd (es : List Cleat) : Nat :=
  es.foldl (fun n k => match k with
    | .furl _ _ _ o => max n (o + 1)
    | .saved _ (.furl _ _ _ o) => max n (o + 1)
    | _ => n) 0

/-- The line of a cell that is served: partials are combined, and for a reduction no copy is left (07 R225, R226). -/
def State.serveCell (s : State) (r : FurlReq) : State :=
  match r.what with
  | .red _ _ _ => s.claimHome (r.pa / 64)
  | _ => s.recall (r.pa / 64)

/-- FURLED_REQUEST_AT_HOME (11 R350, R352, R364), once the host holds no exclusive copy of the line (07 R225): in the table of the cell's home,
which for a cell of the peer's memory is the peer's; what it answers goes to the requester's package. -/
def execFurledRequestAtHome (r : FurlReq) (s : State) : Out :=
  let t := s.tag r.pa
  let full := decide (64 ≤ (s.cleatAt r.pa).length)
  if s.hostHolds (r.pa / 64) then .next ((s.snoopHost (r.pa / 64)).park (.furledRequestAtHome r))
  else if t = 0 then .next ((s.serveCell r).wakeOne (.word ((s.serveCell r).cellWord r.pa)) none r)
  else if t = 3 then .next (s.wakeOne (.cause 0x102) none r)
  else if r.chain then .next (s.wakeOne (.cause 0x100) none r)
  else if t = 1 then
    if full then .next (s.refuseFurl r)
    else .next (((s.retag r.pa 2).modCleat r.pa (· ++ [.furl r true true 0])).answerTo r.dev (.evaluationMessage r (s.cellWord r.pa)))
  else
    let es := s.furlEntries r.pa
    if full || decide (8 ≤ (es.filterMap Cleat.waiter).length) then .next (s.refuseFurl r)
    else .next (s.modCleat r.pa (· ++ [.furl r false true (nextOrd es)]))

/-- RECORD_FAILURE_REPORT (11 R358). -/
def execRecordFailureReport (pa : Nat) (s : State) : Out := .next (s.failCell pa 0x103)

/-- EVALUATION_FAILURE_REPORT (11 R362). -/
def execEvaluationFailureReport (pa : Nat) (s : State) : Out := .next (s.failCell pa 0x102)

/-- The launch of the core of a request. -/
def State.reqLid (s : State) (r : FurlReq) : Option Nat := (s.coreAt r.core).ident.lid

/-- A cause at a reduction that waited: a record of the home, for the reduction's core (11 R351). -/
def State.redCause (s : State) (r : FurlReq) (q : BitVec 9) : State :=
  match s.reqLid r with
  | some lid => s.reportFrom lid r.core 3 0 q (va57 (r.va &&& ~~~7))
  | none => s

/-- The engine of a request. -/
def FurlReq.eng (r : FurlReq) (u : BitVec 3) : Eng := if u = 6 then .link r.ctx.val else .unit r.core u

/-- FURLED_WAKE (11 R351, R354): at a requester of this package; after a reduction what waited for it goes on (08 R256). An atomic whose page has
been given up issues again (06 R186). -/
def execFurledWake (r : FurlReq) (a : FurlAns) (s : State) : Out :=
  if r.dev ≠ s.dev then .next s
  else match r.what with
  | .red _ _ _ => (match a with
    | .cause q => .next ((s.redCause r q).recommit r.core)
    | .word _ => .next (s.recommit r.core))
  | .engine u =>
    let w := FurlReq.eng r u
    if !(s.runOf w).asked.contains r.pa then .next s
    else
      let t := s.modRun w fun k => { k with asked := k.asked.filter (· != r.pa), answers := k.answers ++ [(r.pa, a)] }
      if !(t.runOf w).asked.isEmpty then .next t
      else if u = 5 then .next (t.slNext r.core) else .next (t.engNext w)
  | _ =>
    let k := s.ctxAt r.core r.ctx
    let t := s.modCtx r.core r.ctx fun k => { k with asked := k.asked.filter (· != r.pa), answers := k.answers ++ [(r.pa, a)] }
    let last := (t.ctxAt r.core r.ctx).asked.isEmpty
    if !k.asked.contains r.pa then .next s
    else match k.status, a with
      | .suspended (.atomic _), .cause q => .next (s.takeTrapAt r.core r.ctx q r.va 0)
      | .suspended (.atomic op), .word _ =>
        .next (if !last then t else if s.hostPhys (s.coreAt r.core).ident.pasid op.va true = some op.pa then t.post (.homeOperation op)
          else t.makeReady r.core r.ctx)
      | .suspended .furled, _ => .next (if last then t.makeReady r.core r.ctx else t)
      | _, _ => .next s

/-- Whether an entry is that of a waiting request. -/
def isFurl (r : FurlReq) (k : Cleat) : Bool :=
  match k with
  | .furl q _ true _ => q == r
  | .saved _ (.furl q _ true _) => q == r
  | _ => false

/-- An entry whose requester stops waiting: a FIRST entry stays as a marker (11 R354). -/
def stopWaiting (r : FurlReq) (k : Cleat) : Option Cleat :=
  if !isFurl r k then some k
  else match k with
    | .furl q true _ o => some (.furl q true false o)
    | .saved lid (.furl q true _ o) => some (.saved lid (.furl q true false o))
    | _ => none

/-- FURL_WAIT_LIMIT (11 R355): a request that waits, or that is being refused, wakes with 0x101 after 2^FWLOG cycles. -/
def execFurlWaitLimit (r : FurlReq) (s : State) : Out :=
  if s.cyc < r.issued + 2 ^ s.rigging 148 144 22 then .next s
  else if s.refused.any (fun e => e.1 == r) then
    .next ({ s with refused := s.refused.filter fun e => !(e.1 == r) }.wakeOne (.cause 0x101) none r)
  else match (s.furlEntries r.pa).find? (isFurl r) with
    | none => .next s
    | some k =>
      let gang := match k with
        | .saved lid _ => some lid
        | _ => none
      .next ((s.modCleat r.pa (·.filterMap (stopWaiting r))).wakeOne (.cause 0x101) gang r)

/-- FURL_WAITER_RESEND (11 R352): with the translation of a reduction's address as it now stands (06 R186); while its page is not granted it waits
on. -/
def execFurlWaiterResend (r : FurlReq) (s : State) : Out :=
  if s.refused.any (fun e => e.1 == r) then
    let t : State := { s with refused := s.refused.filter fun e => !(e.1 == r) }
    match r.what with
    | .red _ _ _ =>
      if r.dev ≠ s.dev then .next (t.post (.furledRequestAtHome r))
      else (match s.hostPhys (s.coreAt r.core).ident.pasid r.va true with
        | some pa => .next (t.post (.furledRequestAtHome { r with pa := pa }))
        | none => .next { t with refused := t.refused ++ [(r, s.cyc)] })
    | _ => .next (t.post (.furledRequestAtHome r))
  else .next s

/-! Evaluations (11 R356 to R358). -/

/-- DCORE of an evaluation message by PLACE, and the state after a draw for placement 3 (11 R356). -/
def State.evalCore (s : State) (r : FurlReq) (place : Nat) (rec0 : Msg) : Nat × State :=
  let first := (s.coreAt r.core).ident.rel.toNat
  match place with
  | 0 =>
    (match (s.launchOf r.core).bind fun l =>
        let c := 4 * (s.homeCluster r.pa).val + bitsOf r.va.toNat 4 3
        l.cores.findIdx? fun d => d.val == c with
    | some i => if s.ownMem r.pa then (i, s) else (first, s)
    | none => (first, s))
  | 1 => (first, s)
  | 2 => (Msg.field rec0 44 35, s)
  | _ =>
    let d := s.stealDomain r.core
    let l := lfsrNext (s.coreAt r.core).net.lfsr
    let t := s.modCore r.core fun k => { k with net := { k.net with lfsr := l } }
    (match d[l.toNat % d.length]? with
    | some v => ((t.coreAt v).ident.rel.toNat, t)
    | none => (first, t))

/-- The evaluation message, without MID (11 R356). -/
def State.evalWord (s : State) (r : FurlReq) (rec0 : Msg) (dcore : Nat) : Msg :=
  let i := (s.coreAt r.core).ident
  let h := mkHeader (Msg.field rec0 63 58) (Msg.field rec0 57 46) s.dev dcore 0 0 0 0 false 0 0
  Msg.ofWords ((h :: (List.range 6).map fun j => Msg.word rec0 (j + 1)) ++ [r.va &&& 0x1FFFFFFFFFFFFF8])
    |> fun m => withXt m i.xt

/-- Whether a suspension record keeps 11 R348. -/
def State.recordOk (s : State) (place : Nat) (rec0 : Msg) : Bool :=
  decide (Msg.field rec0 34 32 = 0 ∧ Msg.field rec0 3 0 = 0) && (place != 2 || BitVec.ofNat 1 (Msg.field rec0 45 45) == s.dev)

/-- The 64 bytes of a suspension record, as the first waiter's core reads them: a line of a private region in its own L1 (11 R348, 06 R179). -/
def State.readRecord (s : State) (r : FurlReq) (va : Word) (attr : BitVec 2) : Option Nat :=
  let pasid := (s.coreAt r.core).ident.pasid
  if attr = 0 then (s.hostPhys pasid va false).map fun pa => ofBytes (s.ownBytes r.core pa 64) else s.readVa pasid va 64

/-- EVALUATION_MESSAGE (11 R356, R357): the record is read, the message built and checked as a SEND of the first waiter's core, and sent
with the chain; a page that is not present is waited for, and anything that R358 names is a record failure. -/
def execEvaluationMessage (r : FurlReq) (w : Word) (s : State) : Out :=
  let i := (s.coreAt r.core).ident
  let va := va57 (w &&& 0x1FFFFFFFFFFFFC0)
  let place := bitsOf w.toNat 5 4
  let reg := s.region i.pasid va
  let fail := s.post (.recordFailureReport r.pa)
  match i.lid with
  | none => .next s
  | some lid =>
    if (s.space i.pasid).stopped ∨ (reg.attr = 0 ∧ (reg.owner ≠ r.core.val ∨ reg.odev ≠ s.dev)) ∨ s.vaRefused i.pasid va then .next fail
    else if s.vaHeld i.pasid va 64 then .next ((s.snoopVa i.pasid va 64).park (.evaluationMessage r w))
    else match s.readRecord r va reg.attr with
      | none => .next (s.park (.evaluationMessage r w))
      | some n =>
        let rec0 := BitVec.ofNat 512 n
        let d := s.evalCore r place rec0
        let m := s.evalWord r rec0 d.1
        if !s.recordOk place rec0 || !s.sendOk r.core m then .next (d.2.post (.recordFailureReport r.pa))
        else if 64 ≤ (s.coreAt r.core).net.retryBuf.length then .next (s.park (.evaluationMessage r w))
        else
          let t := d.2.takeMid r.core
          let p : Packet := { lid := lid, dst := BitVec.ofNat 10 d.1, word := withHw m t.1 i.rel s.dev, src := .core s.dev i.rel
                              kind := .eval (r.va &&& 0x1FFFFFFFFFFFFF8) r.anc.1 r.anc.2.1 r.anc.2.2 r.pa }
          .next (t.2.sendFrom r.core p)

/-! The end of a launch (11 R363). -/

/-- Whether a launch's state is on its cores, not in images. -/
def Launch.live (l : Launch) : Bool := l.phase == .running || l.phase == .saving

/-- Whether an entry belongs to a launch of device `dev`: to one of its cores, or to it as a saved gang. -/
def Cleat.ofLaunch (dev : BitVec 1) (l : Launch) (k : Cleat) : Bool :=
  match k with
  | .saved lid _ => lid == l.lid
  | .waita d c _ _ => d == dev && l.live && l.cores.contains c
  | .ring op _ => l.live && l.cores.contains op.core
  | .furl r _ _ _ => r.dev == dev && l.live && l.cores.contains r.core

/-- The cell of a FIRST entry. -/
def Cleat.firstCell (k : Cleat) : Option Nat :=
  match k with
  | .furl r true _ _ => some r.pa
  | .saved _ (.furl r true _ _) => some r.pa
  | _ => none

/-- A cell whose FIRST entry is gone: its oldest waiter becomes the first and the evaluation is launched afresh; without one the tag is
FURLED again. -/
def State.refurl (s : State) (pa : Nat) : State :=
  if s.tag pa ≠ 2 then s
  else
    let ord := fun (k : Cleat) => match k with
      | .furl _ _ _ o => o
      | .saved _ (.furl _ _ _ o) => o
      | _ => 0
    match ((s.furlEntries pa).filter fun k => (k.waiter).isSome).insertionSort (fun a b => ord a ≤ ord b) with
    | [] => s.retag pa 1
    | k :: _ =>
      let first := fun (q : Cleat) => match q with
        | .furl r _ w o => Cleat.furl r true w o
        | .saved lid (.furl r _ w o) => .saved lid (.furl r true w o)
        | q => q
      let t := s.modCleat pa (·.map fun q => if q = k then first q else q)
      match k.waiter with
      | some (g, r) =>
        let i := Instr.evaluationMessage { r with anc := (0, 0, 0) } (s.cellWord pa)
        if r.dev = s.dev then t.toward g i else t.toPeer i
      | none => t

/-- The entries of a launch that ends are freed, and its cells go on without it (07 R240, 11 R363). -/
def State.dropCleat (s : State) (l : Launch) : State :=
  let cells := (s.allCleat.filter (Cleat.ofLaunch s.dev l)).filterMap Cleat.firstCell
  cells.foldl State.refurl (s.filterCleat fun k => !k.ofLaunch s.dev l)

/-! Instructions. -/

/-- A cell address that FURL, UNFURL and FCANCEL accept (11 R368): 0x104 where it is no furl-capable cell of device memory. -/
def withCell (a : BitVec 5) (go : Word → Nat → State → Out) (s : State) : Out :=
  withPlace 0 true false (s.scalar a 0 8) (fun q s =>
    match q with
    | .sp o => trapStep 0x104 (BitVec.ofNat 64 o) s
    | .phys pa va attr => if attr ≠ 3 ∨ !(s.ownMem pa || s.peerMem pa) then trapStep 0x104 va s else go va pa s) s

/-- An operation that leaves its handler as it is, and whose status the context waits for (11 R369, R372). -/
def askFurl (d : BitVec 5) (va : Word) (pa : Nat) (kind : HomeKind) (s : State) : Out :=
  .next (((s.spend 1).stall s.cur s.hot).post (.homeOperation (s.homeOp d va pa kind)))

/-- The furled word of a record pointer (11 R369). -/
def furlWord (b : Word) (place : BitVec 2) : Word := (b &&& 0x1FFFFFFFFFFFFC0) ||| (place.setWidth 64 <<< 4)

/-- FURL (11 R369), a release at .device (R365). -/
def execFurl (d a b : BitVec 5) (p : BitVec 2) (s : State) : Out :=
  withCell a (fun va pa s =>
    let w := s.ctx.rx b
    if w.extractLsb' 0 6 ≠ 0 then trapStep 0x042 w s else releasing true 5 (askFurl d va pa (.furl (furlWord w p))) s) s

/-- UNFURL (11 R370): a release towards the loaders that it wakes (07 R217). -/
def execUnfurl (d a b : BitVec 5) (s : State) : Out :=
  withCell a (fun va pa s => releasing true 5 (fun s => askHome d va pa (.unfurl (s.ctx.rx b)) s) s) s

/-- FCANCEL (11 R372). -/
def execFcancel (d a : BitVec 5) (s : State) : Out := withCell a (fun va pa s => askFurl d va pa .fcancel s) s

/-- A plain read of a cell, whatever its tag (11 R371), which the copy scoreboard does not hold back (log 34). -/
def peekStep (d a : BitVec 5) (fin : State → Place → Word) (s : State) : Out :=
  withPlace 0 false false (s.scalar a 0 8) (fun q s =>
    let t := s.touchPlace s.cur false q 8
    (if s.stale.isEmpty then t else t.tock).done 4 1 fun k => k.wx d (fin s q)) s

/-- FPEEK (11 R371). -/
def execFpeek (d a : BitVec 5) (s : State) : Out := peekStep d a (fun s q => BitVec.ofNat 64 (ofBytes (s.readPlace s.cur q 8))) s

/-- FTAG (11 R371): 0 outside furl-capable pages. -/
def execFtag (d a : BitVec 5) (s : State) : Out :=
  peekStep d a (fun s q => match q with
    | .phys pa _ 3 => (s.tag pa).setWidth 64
    | _ => 0) s

end Sys2Proof.Machine
end

