-- ==== Sys2Proof/Machine/Homes.lean ====
section
/-!
DEFINITION. The operations that homes perform indivisibly and their answers (07 R231, R232; 09 R310, R311, R314 to R316; 11 R369 to
R372; 13 R412), and the issue of SIGNAL, DEPSET and DEPDEC.
-/

namespace Sys2Proof.Machine

/-! Counters and the ready queue (09 R310, R311). -/

/-- A record that cannot be read or fails an attribute, dropped with 0x0CC (09 R311). -/
def State.dropHeld (s : State) (h : Held) : State :=
  match (s.launch? h.lid).bind fun l => l.cores.head? with
  | some c => s.reportFrom h.lid c 4 0 0x0CC h.va
  | none => s

/-- A released record whose bytes the home has, onto the ready queue; it is kept while the queue is full (09 R311). The order by counter address
compares physical addresses (log 78). -/
def State.enqueueHeld (s : State) (h : Held) (word : Msg) : State × Option Held :=
  if 1024 ≤ s.readyq.length then (s, some { h with record := some word })
  else
    let r : Ready := { lid := h.lid, core := h.core, word := word, prio := h.prio, cycle := h.cycle, counter := h.pa, va := h.va }
    ({ s with readyq := s.readyq ++ [r] }.post .readyQueueSend, none)

/-- A released record offered to the ready queue (09 R311): its 64 bytes are read first, once their page is present and the host holds no
exclusive copy of them; what is still held is answered beside the state. -/
def State.offer (s : State) (h : Held) : State × Option Held :=
  match s.launch? h.lid, h.record with
  | none, _ => (s, none)
  | some _, some word => s.enqueueHeld h word
  | some l, none =>
    if (s.space l.pasid).stopped ∨ (s.region l.pasid h.task).attr = 0 ∨ low57 h.task % 64 ≠ 0 ∨ s.vaRefused l.pasid h.task then (s.dropHeld h, none)
    else if s.vaHeld l.pasid h.task 64 then (s.snoopVa l.pasid h.task 64, some h)
    else match s.readVa l.pasid h.task 64 with
      | none => (s, some h)
      | some n => s.enqueueHeld h (BitVec.ofNat 512 n)

/-- A counter's release by the launch whose instruction brought it to 0, with the priority and the record it names then (09 R311). -/
def State.release (s : State) (op : HomeOp) : State :=
  match (s.coreAt op.core).ident.lid with
  | none => s
  | some lid =>
    let h : Held := { core := op.core, lid := lid, pa := op.pa, va := op.va, cycle := s.cyc, prio := bitsOf (s.mem.num op.pa 8) 33 32
                      task := va57 (BitVec.ofNat 64 (s.mem.num (op.pa + 8) 8)), record := none }
    let r := s.offer h
    { r.1 with held := r.1.held ++ r.2.toList }

/-- A counter's two doublewords (09 R310). -/
def counterBytes (count prio task : Nat) (released : Bool) : List Byte :=
  toBytes 8 (count + prio * 2 ^ 32 + (if released then 2 ^ 34 else 0)) ++ toBytes 8 task

/-- DEPSET at the home (09 R314). -/
def State.depset (s : State) (op : HomeOp) (count : BitVec 32) (prio : BitVec 2) (task : BitVec 57) : State :=
  let t := s.store op.pa (counterBytes count.toNat prio.toNat task.toNat (count == 0))
  if count = 0 then t.release op else t

/-- DEPDEC at the home (09 R315). -/
def State.depdec (s : State) (op : HomeOp) : State :=
  let w := s.mem.num op.pa 8
  let n := bitsOf w 31 0
  if n = 0 then
    (match (s.coreAt op.core).ident.lid with
    | some lid => s.reportFrom lid op.core 3 0 0x0C3 op.va
    | none => s)
  else
    let t := s.store op.pa (toBytes 8 (w - 1 ||| if n = 1 then 2 ^ 34 else 0))
    if n = 1 then t.release op else t

/-! The operations. -/

/-- The cells of an operation that are not VALUE; outside furl-capable pages every cell is (11 R346). -/
def State.openOf (s : State) (op : HomeOp) : List Nat :=
  if op.attr ≠ 3 then []
  else match op.kind with
    | .amo fn _ _ _ _ => s.openCells op.pa (amoSize fn)
    | .red _ w _ => s.openCells op.pa (redSize w)
    | .slink _ _ => s.openCells op.pa 8
    | _ => []

/-- The request of an operation that met a cell (11 R350), with the chain flag of that cell. -/
def HomeOp.request (op : HomeOp) (pa : Nat) (what : FurlWhat) : FurlReq :=
  { dev := op.dev, core := op.core, ctx := op.ctx, va := va57 (op.va + BitVec.ofNat 64 pa - BitVec.ofNat 64 op.pa), pa := pa
    chain := if pa / 8 = op.pa / 8 then op.chain else op.chain1, anc := op.anc, what := what, issued := op.issued }

/-- An answer on its way to the issuer (07 R232), over the stay link to one of the peer package. -/
def State.answerOp (s : State) (op : HomeOp) (a : HomeAns) : State := s.answerTo op.dev (.homeResponse op.core op.ctx a)

/-- The status of a furled-cell operation (11 R368). -/
def furlStatus (op : HomeOp) (t : BitVec 2) (failed unfurl : Bool) : HomeAns :=
  .status op.d (BitVec.ofNat 64 (2 * t.toNat + if failed then 1 else 0)) op.va unfurl

/-- What a home does for an operation whose cells are VALUE, or that acts whatever they are. -/
def State.perform (s0 : State) (op : HomeOp) : State :=
  let s := s0.claimHome (op.pa / 64)
  match op.kind with
  | .amo fn b b1 cmp cmp1 =>
    let z := amoSize fn
    let old := s.mem.num op.pa z
    let t := match amoNew fn old b b1 cmp cmp1 with
      | some v => s.storeAt op.attr op.pa (toBytes z v)
      | none => s
    t.answerOp op (amoAns fn op.d old)
  | .red fn w v =>
    let z := redSize w
    s.storeAt op.attr op.pa (toBytes z (redFn fn w (s.mem.num op.pa z) (v.toNat % 2 ^ (8 * z))))
  | .signal v =>
    let t := (s.dropOwn op.core (op.pa / 64)).storeAt op.attr op.pa (toBytes 8 v.toNat)
    t.setLine (op.pa / 64) { t.line (op.pa / 64) with own := false }
  | .depset n prio task => (s.serve (.counter op.pa) op.core).depset op n prio task
  | .depdec => (s.serve (.counter op.pa) op.core).depdec op
  | .furl w =>
    let t := s.tag op.pa
    if t = 2 then s.answerOp op (furlStatus op t true false)
    else ((s.setTag op.pa 1).put op.pa (toBytes 8 w.toNat)).answerOp op (furlStatus op t false false)
  | .unfurl v =>
    let t := s.tag op.pa
    if t = 2 then (s.store op.pa (toBytes 8 v.toNat)).answerOp op (furlStatus op t false true)
    else s.answerOp op (furlStatus op t true true)
  | .fcancel =>
    let t := s.tag op.pa
    let s1 := if t = 0 then s else (s.setTag op.pa 0).put op.pa (s.mem.bytes op.pa 8)
    (if t = 2 then s1.wakeFurl op.pa (.cause 0x105) else s1).answerOp op (furlStatus op t false false)
  | .slink expected link =>
    let old := BitVec.ofNat 64 (s.mem.num op.pa 8)
    let done := s.storeAt op.attr op.pa (toBytes 8 link.toNat)
    let t := if old ≠ expected then s else if op.dev = s.dev then done.recycleAll op.core else done
    t.answerOp op (.value op.d old)

/-- Whether an operation gives its issuer no answer (07 R232). -/
def HomeOp.posted (op : HomeOp) : Bool :=
  match op.kind with
  | .red _ _ _ | .signal _ | .depset _ _ _ | .depdec => true
  | _ => false

/-- An atomic that met cells: its context waits for them, and its core sends it again after the wake (11 R351); for one of the peer the cells
are asked here and its core keeps the rest. -/
def State.atomicWaits (s : State) (op : HomeOp) (cells : List Nat) : State :=
  if op.dev ≠ s.dev then s.postAll (cells.map fun c => .furledRequestAtHome (HomeOp.request op c .atomic))
  else if (s.ctxAt op.core op.ctx).status ≠ .stalled ∧ (s.ctxAt op.core op.ctx).status ≠ .suspended (.atomic op) then s
  else
    ((s.modCtx op.core op.ctx fun k => { k with asked := cells, answers := [] }).suspend op.core op.ctx (.atomic op)).postAll
      (cells.map fun c => .furledRequestAtHome (HomeOp.request op c .atomic))

/-- What waits at the issuer for a posted operation tries again (08 R256). -/
def State.committing (s : State) (op : HomeOp) : State := if op.dev = s.dev then s.recommit op.core else s

/-- HOME_OPERATION (07 R231, R232): once the host holds no exclusive copy of the line; an operation on cells that are not VALUE waits
(11 R350, R351). What waited for an operation without an answer goes on (08 R256). -/
def execHomeOperation (op : HomeOp) (s : State) : Out :=
  if s.hostHolds (op.pa / 64) then .next ((s.snoopHost (op.pa / 64)).park (.homeOperation op))
  else match s.openOf op with
    | [] => .next (if HomeOp.posted op then (s.perform op).committing op else s.perform op)
    | c :: r => (match op.kind with
      | .red fn w v => .next ((s.post (.furledRequestAtHome (HomeOp.request op op.pa (.red fn w v)))).committing op)
      | _ => .next (s.atomicWaits op (c :: r)))

/-- HOME_RESPONSE (07 R232, 11 R351, R368): the value or status reaches the context that holds its slot for it, or that waited for
cells. -/
def execHomeResponse (c : CoreId) (x : CtxId) (r : HomeAns) (s : State) : Out :=
  let ended := s.modCtx c x fun k => (k.takeAns r).retire 4 (k.seq 4)
  match (s.ctxAt c x).status, r with
  | .stalled, .cause q v | .suspended (.atomic _), .cause q v => .next (s.takeTrapAt c x q v 0)
  | .stalled, _ => .next (ended.unstall c x)
  | .suspended (.atomic _), _ => .next (ended.makeReady c x)
  | _, _ => .next s

/-! SIGNAL, DEPSET and DEPDEC at their issuers. -/

/-- SIGNAL (09 R316), a release at its scope: in the scratchpad by the core, elsewhere at the home. -/
def execSignal (a b : BitVec 5) (sc : BitVec 4) (s : State) : Out :=
  let v := s.ctx.rx b
  withPlace sc true true (s.scalar a 0 8) (fun q s =>
    match q with
    | .sp _ => releasing true 0 (fun s => (s.writePlace s.cur q (toBytes 8 v.toNat)).done 4 1 Ctx.commit) s
    | .phys pa va _ => releasing true sc (postHome va pa (.signal v)) s) s

/-- The checks of DEPSET and DEPDEC on a counter's address (09 R314, R315): 0x0CC unless it is coherent device memory of this package. -/
def withCounter (a : BitVec 5) (go : Word → Nat → State → Out) (s : State) : Out :=
  withPlace 0 true false (s.scalar a 0 16) (fun q s =>
    match q with
    | .sp o => trapStep 0x0CC (BitVec.ofNat 64 o) s
    | .phys pa va attr => if attr ≠ 2 ∨ !s.ownMem pa then trapStep 0x0CC va s else go va pa s) s

/-- DEPSET (09 R314), a release (09 R309). -/
def execDepset (a b c : BitVec 5) (p : BitVec 2) (s : State) : Out :=
  withCounter a (fun va pa s =>
    let n := s.ctx.rx b
    let t := s.ctx.rx c
    if 2 ^ 32 ≤ n.toNat ∨ t.toNat % 64 ≠ 0 then trapStep 0x0CC va s
    else releasing true 5 (postHome va pa (.depset (n.setWidth 32) p (t.setWidth 57))) s) s

/-- DEPDEC (09 R315), a release (09 R309). -/
def execDepdec (a : BitVec 5) (s : State) : Out := withCounter a (fun va pa s => releasing true 5 (postHome va pa .depdec) s) s

end Sys2Proof.Machine
end

