-- ==== Sys2Proof/Machine/Queues.lean ====
section
/-!
DEFINITION. Queues, hardware slots and the heads of slots (09 R283 to R289, R294, R304, R305): doorbells, registration, the reading of
launch records and gates, and the completion words.
-/

namespace Sys2Proof.Machine

/-- Cycles of a microsecond (00 R2). -/
def usCycles : Nat := 1500

/-! Descriptors (09 R283). -/

/-- A field of a 512-bit word replaced. -/
def setField (m : Msg) (hi lo v : Nat) : Msg :=
  BitVec.ofNat 512 (m.toNat - bitsOf m.toNat hi lo * 2 ^ lo + v % 2 ^ (hi + 1 - lo) * 2 ^ lo)

def State.desc (s : State) (q : BitVec 16) : Option Msg := Sparse.get none s.queues q.toNat

def State.modDesc (s : State) (q : BitVec 16) (f : Msg → Msg) : State :=
  { s with queues := Sparse.set none s.queues q.toNat ((s.desc q).map f) }

/-- A field of a queue's descriptor, 0 for a queue without one. -/
def State.qf (s : State) (q : BitVec 16) (hi lo : Nat) : Nat := ((s.desc q).map fun d => Msg.field d hi lo).getD 0

def State.queuePasid (s : State) (q : BitVec 16) : BitVec 20 := BitVec.ofNat 20 (s.qf q 115 96)

/-- Records pending in a ring. -/
def State.ringPending (s : State) (q : BitVec 16) : Nat := (s.qf q 223 192 + 2 ^ 32 - s.qf q 255 224) % 2 ^ 32

/-! Bits that hardware sets and software clears (00 R7). -/

/-- Hardware sets such a bit in this cycle. -/
def State.hwSet (s : State) (b : HwBit) : State := { s with setAt := (b, s.cyc) :: s.setAt.filter fun e => e.1 != b && e.2 == s.cyc }

/-- Whether hardware has set it in this cycle: a clearing write of the same cycle leaves it set. -/
def State.setNow (s : State) (b : HwBit) : Bool := s.setAt.contains (b, s.cyc)

/-- ERR of a queue set. -/
def State.queueErr (s : State) (q : BitVec 16) : State := (s.modDesc q fun d => setField d 257 257 1).hwSet (.err q)

/-- ERR set and the queue dispatches nothing further until it is torn down (09 R285). -/
def State.killQueue (s : State) (q : BitVec 16) : State :=
  { s.queueErr q with deadQueues := q :: s.deadQueues.filter (· != q) }

/-- QUEUE_REGISTER (09 R283): refused for nonzero reserved bits, a LOGCAP outside 3 to 15, or too many reservations; a queue keeps its HW
fields, and a 1 in ERR or ORPHAN clears it, unless hardware sets it in the same cycle (00 R7). -/
def execQueueRegister (q : BitVec 16) (d : Msg) (s : State) : Out :=
  let f := fun (hi lo : Nat) => Msg.field d hi lo
  let reserved := f 511 320 + f 287 261 + f 191 185 + f 63 57 + f 5 0
  let rts := s.queues.filterMap fun e => if e.1 = q.toNat then none else e.2.bind fun d =>
    if Msg.field d 71 71 = 1 ∧ Msg.field d 256 256 = 1 then some (Msg.field d 79 72) else none
  if reserved ≠ 0 ∨ f 67 64 < 3 ∨ (f 71 71 = 1 ∧ (256 < rts.foldl (· + ·) (f 79 72) ∨ 16 ≤ rts.length)) then .next s
  else
    let old := (s.desc q).getD 0
    let hw : List (Nat × Nat) := [(319, 288), (260, 260), (259, 259), (255, 224), (223, 192)]
    let d1 := hw.foldl (fun m e => setField m e.1 e.2 (Msg.field old e.1 e.2)) d
    let keep := fun (m : Msg) (b : Nat) (w : HwBit) => setField m b b (if f b b = 1 ∧ !s.setNow w then 0 else Msg.field old b b)
    .next { s with queues := Sparse.set none s.queues q.toNat (some (keep (keep d1 257 (.err q)) 258 (.orphan q))) }

/-! Slots (09 R286, R287). -/

def State.slotAt (s : State) (n : Fin 128) : Slot := s.slots[n]

def State.modSlot (s : State) (n : Fin 128) (f : Slot → Slot) : State := { s with slots := s.slots.set n (f s.slots[n]) }

def State.slotOfQueue (s : State) (q : BitVec 16) : Option (Fin 128) := (List.finRange 128).find? fun n => (s.slotAt n).queue == some q

def State.launchesOf (s : State) (q : BitVec 16) : List Launch := s.launches.filter fun l => l.queue == q

/-- Whether a mapped slot is idle. -/
def State.slotIdle (s : State) (n : Fin 128) : Bool :=
  let k := s.slotAt n
  match k.queue with
  | none => false
  | some q => k.head.isNone && k.taken.isNone && k.aside.isNone && k.children.isEmpty && s.ringPending q == 0 && (s.launchesOf q).isEmpty

/-- Effective priority after waiting since a cycle (09 R287, R298). -/
def effPrio (prio now since : Nat) : Nat := min 7 (prio + (now - since) / (100 * usCycles))

/-- Whether the first of two waiting queues comes before the second. -/
def State.waitBefore (s : State) (a b : BitVec 16 × Nat) : Bool :=
  let rank := fun (e : BitVec 16 × Nat) =>
    (1 - s.qf e.1 71 71, 7 - effPrio (s.qf e.1 70 68) s.cyc e.2, e.2, e.1.toNat)
  let x := rank a
  let y := rank b
  decide (x.1 < y.1 ∨ (x.1 = y.1 ∧ (x.2.1 < y.2.1 ∨ (x.2.1 = y.2.1 ∧ (x.2.2.1 < y.2.2.1 ∨ (x.2.2.1 = y.2.2.1 ∧ x.2.2.2 ≤ y.2.2.2))))))

/-- The next record of a slot's queue is to be read: its queue dispatches, nothing pre-empted comes first, and the slot has no head, or
has a ring record for its head, not an orphan, while a child record waits (09 R305, R313). -/
def State.canRead (s : State) (n : Fin 128) : Bool :=
  let k := s.slotAt n
  match k.queue with
  | none => false
  | some q => !s.deadQueues.contains q && (s.launchesOf q).all (fun l => l.phase == .running || l.phase == .resuming)
      && match k.head with
        | some h => !h.child && !h.orphan && !k.children.isEmpty
        | none => !k.children.isEmpty || k.aside.isSome || k.taken.isSome || s.ringPending q != 0

def State.kickRead (s : State) (n : Fin 128) : State :=
  if s.canRead n && !(s.pending ++ s.parked).contains (.launchRecordRead n) then s.post (.launchRecordRead n) else s

/-- A queue mapped into a slot; its last accepted doorbell may have come while it waited (09 R286). -/
def State.mapQueue (s : State) (n : Fin 128) (q : BitVec 16) : State :=
  let t := s.modDesc q fun d => setField d 259 259 1
  let bell := (((Sparse.get [] s.bells q.toNat).getLast?).map (·.2)).getD s.cyc
  ({ t with waiting := t.waiting.filter fun e => e.1 != q }.modSlot n fun k =>
    { Slot.reset with queue := some q, lastBell := bell, idleSince := s.cyc, drops := k.drops }).kickRead n

/-- The queue of a slot unmapped. -/
def State.unmapSlot (s : State) (n : Fin 128) : State :=
  match (s.slotAt n).queue with
  | none => s
  | some q => (s.modDesc q fun d => setField d 259 259 0).modSlot n fun k => { Slot.reset with drops := k.drops }

/-- The first queue of the wait list maps into a slot that is free or idle. -/
def State.mapWaiting (s : State) (n : Fin 128) : State :=
  if (s.slotAt n).queue.isSome ∧ !s.slotIdle n then s
  else match s.waiting.insertionSort fun a b => s.waitBefore a b with
    | [] => s
    | e :: _ => (s.unmapSlot n).mapQueue n e.1

/-- A slot's queue looks for work: its next record, or idleness. -/
def State.slotNext (s : State) (n : Fin 128) : State :=
  if s.slotIdle n then (s.modSlot n fun k => { k with idleSince := s.cyc }).mapWaiting n else s.kickRead n

/-- The slot that an accepted doorbell of an unmapped queue takes: the lowest free one, else the least recently signalled idle one. -/
def State.slotFor (s : State) : Option (Fin 128) :=
  match (List.finRange 128).find? fun n => (s.slotAt n).queue.isNone with
  | some n => some n
  | none =>
    (List.finRange 128).foldl (fun best n =>
      if s.slotIdle n ∧ (s.slotAt n).lastBell < s.cyc then
        match best with
        | some (b : Fin 128) => if (s.slotAt n).lastBell < (s.slotAt b).lastBell then some n else best
        | none => some n
      else best) none

/-- DOORBELL (09 R284, R286, 14 R446): refused with ERR while the launch unit is not ready, for a queue that is not VALID, or for more
records than the ring holds; else TAIL is updated and the queue is mapped or waits. -/
def execDoorbell (q : BitVec 16) (tail : BitVec 32) (s : State) : Out :=
  let err := fun (s : State) => s.queueErr q
  if !s.mgmt.readyMap.getLsbD 5 then
    .next (err { s with mgmt := { s.mgmt with refusedReqs := s.mgmt.refusedReqs + 1 } })
  else if s.qf q 256 256 = 0 ∨ 2 ^ s.qf q 67 64 < (tail.toNat + 2 ^ 32 - s.qf q 255 224) % 2 ^ 32 then .next (err s)
  else
    let t := s.modDesc q fun d => setField d 223 192 tail.toNat
    let u := { t with bells := Sparse.set [] t.bells q.toNat (Sparse.get [] t.bells q.toNat ++ [(tail, s.cyc)]) }
    match u.slotOfQueue q with
    | some n =>
      let v := (u.modSlot n fun k => { k with lastBell := s.cyc }).kickRead n
      .next (if (v.slotAt n).head.isSome then v.post (.gateRead n) else v)
    | none =>
      match u.slotFor with
      | some n => .next ((u.unmapSlot n).mapQueue n q)
      | none => .next (if u.waiting.any (fun e => e.1 == q) then u else { u with waiting := u.waiting ++ [(q, s.cyc)] })

/-- SLOT_IDLE_TIMEOUT (09 R286): the timeout in µs comes from the rigging table. -/
def execSlotIdleTimeout (n : Fin 128) (s : State) : Out :=
  if s.slotIdle n ∧ (s.slotAt n).idleSince + s.rigging 143 128 200 * usCycles ≤ s.cyc then .next ((s.unmapSlot n).mapWaiting n) else .next s

/-! Reading by the launch unit. -/

/-- What a read through a PASID gives: a page that is not present, lines that the host holds exclusively, a refusal or an attribute
cause, or the bytes. -/
inductive UnitRead where
  | miss
  | held
  | refused
  | got (v : Nat)
  deriving DecidableEq, Repr

def State.unitRead (s : State) (pasid : BitVec 20) (va : Word) (n : Nat) : UnitRead :=
  if (s.space pasid).stopped ∨ (s.region pasid va).attr = 0 ∨ s.vaRefused pasid va then .refused
  else if s.vaHeld pasid va n then .held
  else match s.readVa pasid va n with
    | none => .miss
    | some v => .got v

/-- Several doublewords from an address on. -/
def State.unitWords (s : State) (pasid : BitVec 20) (va : Word) (n : Nat) : Except (UnitRead × Word) (List Nat) :=
  match n with
  | 0 => .ok []
  | m + 1 =>
    match s.unitRead pasid va 8 with
    | .got v => (match s.unitWords pasid (va57 (va + 8)) m with
      | .ok l => .ok (v :: l)
      | .error e => .error e)
    | r => .error (r, va)

/-! Records (09 R288, R289, R294). -/

/-- Whether a record's own fields break 09 R289. -/
def recordInvalid (r : Msg) : Bool :=
  let f := fun (hi lo : Nat) => Msg.field r hi lo
  let n := 2 ^ f 60 57
  f 447 446 + f 191 185 + f 127 126 + f 63 61 != 0
    || decide (12 < f 60 57) || decide (n ≤ f 467 456) || (f 480 480 == 1 && decide (n ≤ f 479 468))
    || decide (1 ≤ f 125 121 ∧ f 125 121 ≤ 9) || decide (384 < f 500 492) || decide (16 < f 445 441)
    || (List.range 4).any (fun d => f (271 + 16 * d) (256 + 16 * d) != 0 && f (335 + 16 * d) (320 + 16 * d) == 0)
    || decide (64 < f 255 249) || (f 485 485 == 1 && decide (f 255 249 ≤ f 491 486))
    || decide (f 120 64 % 8 ≠ 0) || decide (f 184 128 % 64 ≠ 0) || decide (f 56 0 % 8 ≠ 0) || decide (f 248 192 % 8 ≠ 0)

/-- Cores of a record's placement: 4 × W × H. -/
def recordCores (r : Msg) : Nat := 4 * (Msg.field r 451 448 + 1) * (Msg.field r 455 452 + 1)

/-- A group descriptor's mode and members; none where it breaks 09 R294. -/
def groupDesc (n : Nat) (ws : List Nat) : Option (Nat × List (BitVec 10)) :=
  let h := ws.headD 0
  let bits := (ws.drop 1).zipIdx.foldl (fun acc e => acc + e.1 * 2 ^ (64 * e.2)) 0
  let ms := (List.range 1024).filter fun j => bits.testBit j
  if 2 ≤ h % 4 ∨ ms.isEmpty ∨ ms.any (fun j => decide (n ≤ j)) then none else some (h % 4, ms.map (BitVec.ofNat 10))

/-- What the reading of a record's argument block, or of its descriptors, gives. -/
inductive RecRead (α : Type) where
  | stop (r : UnitRead) (va : Word)
  | invalid
  | ok (a : α)
  deriving DecidableEq, Repr

def RecRead.bind {α β : Type} (x : RecRead α) (f : α → RecRead β) : RecRead β :=
  match x with
  | .stop r va => .stop r va
  | .invalid => .invalid
  | .ok a => f a

/-- Group descriptors i to n - 1. -/
def State.readGroups (s : State) (pasid : BitVec 20) (r : Msg) (i n : Nat) : RecRead (List (Nat × List (BitVec 10))) :=
  match n with
  | 0 => .ok []
  | m + 1 =>
    match s.unitWords pasid (va57 (BitVec.ofNat 64 (Msg.field r 248 192 + 136 * i))) 17 with
    | .error e => .stop e.1 e.2
    | .ok ws =>
      match groupDesc (recordCores r) ws with
      | none => .invalid
      | some d => (s.readGroups pasid r (i + 1) m).bind fun l => .ok (d :: l)

/-- The argument block of a record whose own fields keep 09 R289. -/
def State.readArgs (s : State) (pasid : BitVec 20) (r : Msg) : RecRead Msg :=
  if recordInvalid r then .invalid
  else
    let va := va57 (BitVec.ofNat 64 (Msg.field r 184 128))
    match s.unitRead pasid va 64 with
    | .got a => .ok (BitVec.ofNat 512 a)
    | u => .stop u va

/-- The rest of 09 R289: the gate's alignment, and the group descriptors. -/
def State.readDescs (s : State) (pasid : BitVec 20) (r args : Msg) : RecRead (List (Nat × List (BitVec 10))) :=
  if low57 (Msg.word args 0) % 8 ≠ 0 then .invalid
  else (s.readGroups pasid r 0 (Msg.field r 255 249)).bind fun ds =>
    if (List.range (recordCores r)).any fun c => decide (4 < (ds.filter fun d => d.2.contains (BitVec.ofNat 10 c)).length) then .invalid else .ok ds

/-- All that 09 R289 needs of a record. -/
def State.checkRecord (s : State) (pasid : BitVec 20) (r : Msg) : RecRead Unit :=
  (s.readArgs pasid r).bind fun args => (s.readDescs pasid r args).bind fun _ => .ok ()

/-! Completion words (09 R289, R306, R307). -/

/-- A vector raised, when IRQEN = 1 (09 R305, R306). -/
def State.raise (s : State) (v : Option (BitVec 11)) : State := match v with
  | some n => { s with raised := s.raised ++ [n] }
  | none => s

/-- The vector of a queue that may raise it. -/
def State.vectorOf (s : State) (q : BitVec 16) : Option (BitVec 11) :=
  if s.qf q 116 116 = 1 then some (BitVec.ofNat 11 (s.qf q 127 117)) else none

/-- Whether a completion word cannot be written: misaligned, refused, or with an attribute cause. -/
def State.cwordBad (s : State) (pasid : BitVec 20) (va : Word) : Bool :=
  decide (low57 va % 8 ≠ 0) || (s.space pasid).stopped || (s.region pasid va).attr == 0 || (s.region pasid va).attr == 1 || s.vaRefused pasid va

/-- Whether a doubleword can be written now: its page is granted, and the host holds no exclusive copy of its line. -/
def State.wordReady (s : State) (pasid : BitVec 20) (va : Word) : Bool := (s.hostPhys pasid va true).isSome && !s.vaHeld pasid va 8

/-- A completion word written, at once or when its page is granted; nothing where it cannot be written. -/
def State.putCword (s : State) (pasid : BitVec 20) (va : Word) (v : Word) (vec : Option (BitVec 11)) : State :=
  if s.cwordBad pasid va then s
  else if s.wordReady pasid va then (s.writeVa pasid va 8 v.toNat).raise vec
  else { s.snoopVa pasid va 8 with owed := s.owed ++ [{ what := .word, seq := none, pasid := pasid, va := va, value := v, vector := vec }] }

/-- The address of a record's completion word. -/
def cwordOf (r : Msg) : Word := va57 (BitVec.ofNat 64 (Msg.field r 120 64))

/-! Heads (09 R285, R296, R304, R305). -/

/-- The address of the record at a ring's HEAD. -/
def State.headVa (s : State) (q : BitVec 16) : Word :=
  va57 (BitVec.ofNat 64 (s.qf q 56 6 * 64 + s.qf q 255 224 % 2 ^ s.qf q 67 64 * 64))

/-- The cycle of the doorbell that made the record at HEAD pending: the earliest whose TAIL lies beyond it. -/
def State.bellOf (s : State) (q : BitVec 16) : Nat :=
  let h := s.qf q 255 224
  (((Sparse.get [] s.bells q.toNat).find? fun e =>
    decide (1 ≤ (e.1.toNat + 2 ^ 32 - h) % 2 ^ 32 ∧ (e.1.toNat + 2 ^ 32 - h) % 2 ^ 32 ≤ 2 ^ 15)).map (·.2)).getD s.cyc

/-- HEAD counts one more record; doorbells wholly taken are forgotten. -/
def State.takeHead (s : State) (q : BitVec 16) : State :=
  let h := (s.qf q 255 224 + 1) % 2 ^ 32
  let t := s.modDesc q fun d => setField d 255 224 h
  { t with bells := Sparse.set [] t.bells q.toNat ((Sparse.get [] t.bells q.toNat).filter fun e =>
      decide (1 ≤ (e.1.toNat + 2 ^ 32 - h) % 2 ^ 32 ∧ (e.1.toNat + 2 ^ 32 - h) % 2 ^ 32 ≤ 2 ^ 15)) }

/-- An access of a slot that does not go ahead: the page is asked for; or the host's exclusive copy, after which `again` is executed; or the
queue dispatches nothing further (09 R285). -/
def State.slotStop (s : State) (n : Fin 128) (q : BitVec 16) (u : UnitRead) (va : Word) (write : Bool) (again : Instr) : State :=
  match u with
  | .miss => s.post (.atsResponse (.slot n) (s.queuePasid q) va write)
  | .held => (s.snoopVa (s.queuePasid q) va 64).park again
  | _ => s.killQueue q

/-- Whether every earlier launch of a queue has completed, as ORDER asks (09 R296). -/
def State.orderOk (s : State) (q : BitVec 16) (r : Msg) : Bool := Msg.field r 482 482 == 0 || (s.launchesOf q).isEmpty

/-- Heads whose gate is open and whose order holds become eligible, and the scheduler looks at them. -/
def State.refreshHead (s : State) (n : Fin 128) : State :=
  let k := s.slotAt n
  match k.queue, k.head with
  | some q, some h =>
    if h.gateOpen ∧ h.eligibleAt.isNone ∧ s.orderOk q h.record ∧ !s.deadQueues.contains q then
      (s.modSlot n fun k => { k with head := some { h with eligibleAt := some s.cyc } }).post .gangPlacement
    else s
  | _, _ => s

/-- The address of the start handler's entry in the handler table of a record (08 R249). -/
def startEntryVa (r : Msg) : Word := va57 (BitVec.ofNat 64 (Msg.field r 56 0 + 8 * Msg.field r 467 456))

/-- Whether the page of the start handler's entry, which the start messages need (09 R293), is not present; the slot waits for it too
(log 17). -/
def State.startAway (s : State) (pasid : BitVec 20) (r : Msg) : Bool := (s.hostPhys pasid (startEntryVa r) false).isNone

/-- Whether a record has a gate (09 R304): its gate's address is not 0. -/
def gated (args : Msg) : Bool := low57 (Msg.word args 0) != 0

/-- A record becomes the head of its slot; its gate is read. A ring record that was the head before a child stays with the slot (log 70). -/
def State.takeUp (s : State) (n : Fin 128) (h : Head) : State :=
  let t := s.modSlot n fun k => { k with
    head := some { h with since := s.cyc, eligibleAt := none, gateOpen := !gated h.args, gateAt := s.cyc }
    aside := if h.child then k.head.orElse (fun _ => k.aside) else none
    taken := if h.child then k.taken else none }
  if gated h.args then t.post (.gateRead n) else t.refreshHead n

/-- A record read for a slot: a child record, or a ring record with its index, and the cycle of its doorbell. -/
def headOf (r args : Msg) (ds : List (Nat × List (BitVec 10))) (child : Bool) (place arrived : Nat) : Head :=
  { record := r, args := args, descs := ds, child := child, place := place, arrived := arrived, since := 0, eligibleAt := none
    gateOpen := false, gateAt := 0, orphan := false, missed := false }

/-- A record dropped from its queue: the child list loses its first entry; a ring record is counted by HEAD, unless it has been. -/
def State.dropRecord (s : State) (n : Fin 128) (q : BitVec 16) (child : Bool) : State :=
  if child then s.modSlot n fun k => { k with children := k.children.drop 1 }
  else if (s.slotAt n).taken.isSome then s.modSlot n fun k => { k with taken := none }
  else s.takeHead q

/-- An invalid record (09 R289): its completion word is written and the next record follows; a queue whose word cannot be written
stops. -/
def State.invalidRecord (s : State) (n : Fin 128) (q : BitVec 16) (r : Msg) (child : Bool) : State :=
  let pasid := s.queuePasid q
  let va := cwordOf r
  if s.cwordBad pasid va then s.killQueue q
  else if !s.wordReady pasid va then s.slotStop n q (if s.vaHeld pasid va 8 then .held else .miss) va true (.launchRecordRead n)
  else ((s.dropRecord n q child).putCword pasid va errInvalid none).slotNext n

/-- What has been read of a record, and what follows: `go` goes on. -/
def State.afterRead {α : Type} (s : State) (n : Fin 128) (q : BitVec 16) (r : Msg) (child : Bool) (x : RecRead α) (go : α → State) : State :=
  match x with
  | .invalid => s.invalidRecord n q r child
  | .stop u va => s.slotStop n q u va false (.launchRecordRead n)
  | .ok a => go a

/-- The descriptors of a record whose argument block has been read, and the page of its start handler's entry, if it is to be waited for; it
becomes the head. -/
def State.finishRecord (s : State) (n : Fin 128) (q : BitVec 16) (wait : Bool) (r args : Msg) (child : Bool) (place arrived : Nat) : State :=
  s.afterRead n q r child (s.readDescs (s.queuePasid q) r args) fun ds =>
    if wait && s.startAway (s.queuePasid q) r then s.slotStop n q .miss (startEntryVa r) false (.launchRecordRead n) else s.takeUp n (headOf r args ds child place arrived)

/-- The next record of a slot (09 R285, R289, R296, R313): a child record, which has been read; else the ring record that a child came before;
else the ring's next record with its argument block, which HEAD then counts; its descriptors are read, and it becomes the head. -/
def State.readNext (s : State) (n : Fin 128) (wait : Bool) : State :=
  let k := s.slotAt n
  match k.queue with
  | none => s
  | some q =>
    if !s.canRead n then s
    else
      let pasid := s.queuePasid q
      match k.children, k.aside, k.taken with
      | e :: _, _, _ => s.afterRead n q e.1 true (s.readArgs pasid e.1) fun args => s.finishRecord n q wait e.1 args true 0 e.2
      | [], some h, _ => s.takeUp n h
      | [], none, some (r, args, place, arrived) => s.finishRecord n q wait r args false place arrived
      | [], none, none =>
        match s.unitRead pasid (s.headVa q) 64 with
        | .got v =>
          let r := BitVec.ofNat 512 v
          let place := s.qf q 255 224
          let arrived := s.bellOf q
          s.afterRead n q r false (s.readArgs pasid r) fun args =>
            ((s.takeHead q).modSlot n fun k => { k with taken := some (r, args, place, arrived) }).finishRecord n q wait r args false place arrived
        | u => s.slotStop n q u (s.headVa q) false (.launchRecordRead n)

/-- LAUNCH_RECORD_READ (09 R285, R289, R296, R313). -/
def execLaunchRecordRead (n : Fin 128) (s : State) : Out := .next (s.readNext n true)

/-- A page of a slot is refused: the queue dispatches nothing further (09 R285); but the page of the start handler's entry is not needed to
place the record (log 17). -/
def State.slotRefused (s : State) (n : Fin 128) (va : Word) : State :=
  let t := s.readNext n false
  match (s.slotAt n).queue, (t.slotAt n).head with
  | some q, some h =>
    if (t.slotAt n).head ≠ (s.slotAt n).head ∧ low57 (startEntryVa h.record) / 4096 = low57 va / 4096 then t else s.killQueue q
  | some q, none => s.killQueue q
  | none, _ => s

/-- Whether a gate's value is an error completion (09 R304). -/
def isErrorWord (v : Nat) : Bool := v == errTorn.toNat || v == errInvalid.toNat || v == errFault.toNat

/-- A head orphaned (09 R305): ORPHAN, ORPHCH and ORPHIDX in the descriptor, and the vector. -/
def State.orphanHead (s : State) (n : Fin 128) (q : BitVec 16) (h : Head) : State :=
  if h.orphan then s
  else
    let t := s.modDesc q fun d => setField (setField (setField d 258 258 1) 260 260 (if h.child then 1 else 0)) 319 288 h.place
    ((t.modSlot n fun k => { k with head := some { h with orphan := true } }).hwSet (.orphan q)).raise (s.vectorOf q)

/-- GATE_READ (09 R304, R305): also of a head that waits with its gate open, which closes when the word does not hold it open any more. -/
def execGateRead (n : Fin 128) (s : State) : Out :=
  let k := s.slotAt n
  match k.queue, k.head with
  | some q, some h =>
    if !gated h.args ∨ s.deadQueues.contains q then .next s
    else
      let va := va57 (Msg.word h.args 0)
      let shut : Head := { h with gateAt := s.cyc, gateOpen := false, eligibleAt := none }
      let t := s.modSlot n fun k => { k with head := some shut }
      let closed := fun (t : State) => if h.eligibleAt.isSome then t.post .gangPlacement else t
      (match s.unitRead (s.queuePasid q) va 8 with
      | .got v =>
        if v = 0 then .next (closed t)
        else if isErrorWord v then .next (closed (t.orphanHead n q shut))
        else .next ((s.modSlot n fun k => { k with head := some { h with gateAt := s.cyc, gateOpen := true, orphan := false } }).refreshHead n)
      | u => .next ((closed t).slotStop n q u va false (.gateRead n)))
  | _, _ => .next s

end Sys2Proof.Machine
end

