-- ==== Sys2Proof/Machine/Gang.lean ====
section
/-!
DEFINITION. Placement (01 R34, R35; 09 R291 to R297), the scheduler (09 R298 to R301), and the end of a launch (01 R40, 09 R306, R307).
-/

namespace Sys2Proof.Machine

/-! Places on the grid (09 R297). -/

/-- Clusters of a W by H placement at origin (x, y), in row-major order. -/
def shapeAt (x y w h : Nat) : List Nat := (List.range h).flatMap fun j => (List.range w).map fun i => 16 * (y + j) + x + i

/-- The clusters in region order: by region, then row, then column. -/
def regionOrder : List Nat :=
  (List.range 16).flatMap fun r => (List.range 4).flatMap fun j => (List.range 4).map fun i => 16 * (r / 4 * 4 + j) + r % 4 * 4 + i

/-- The candidate placements of a shape, in order. -/
def placements (w h : Nat) : List (List Nat) :=
  (regionOrder.filter fun o => decide (o % 16 + w ≤ 16 ∧ o / 16 + h ≤ 16)).map fun o => shapeAt (o % 16) (o / 16) w h

/-- The cores of clusters. -/
def coresOf (cl : List Nat) : List CoreId := cl.flatMap fun k => (List.finRange 4).map fun (i : Fin 4) => ⟨(4 * k + i.val) % 1152, by omega⟩

/-- Clusters that a launch on the grid holds. -/
def Launch.held (l : Launch) : List Nat := if l.phase = .saved then [] else (l.cores.map fun c => c.val / 4).dedup

/-- Clusters that can be given to a gang: ready, held by none, with no forwarding entry (09 R297, 14 R437, R446). -/
def State.openClusters (s : State) : List Nat :=
  let busy := s.launches.flatMap Launch.held
  (List.range 256).filter fun k => !busy.contains k && s.mgmt.readyMap.getLsbD (78 + k)
    && (coresOf [k]).all fun c => s.migrated.all fun e => e.1 != c

/-! Heads as the scheduler ranks them (09 R296, R298). -/

/-- What the scheduler knows of a head. -/
structure Cand where
  ref : HeadRef
  q : BitVec 16
  w : Nat
  h : Nat
  groups : Nat
  dur : Nat
  arrived : Nat
  eligible : Nat
  deriving DecidableEq, Repr

/-- The candidate of a record. -/
def candOf (ref : HeadRef) (q : BitVec 16) (r : Msg) (groups arrived eligible : Nat) : Cand :=
  { ref := ref, q := q, w := Msg.field r 451 448 + 1, h := Msg.field r 455 452 + 1, groups := groups
    dur := Msg.field r 511 501 * 10 * usCycles, arrived := arrived, eligible := eligible }

/-- Heads that are eligible: launches that await resumption, the first of each queue, and records. -/
def State.cands (s : State) : List Cand :=
  let saved := s.launches.filter fun l => l.phase == .saved
  (saved.filter fun l => saved.all fun m => m.queue != l.queue || decide (l.enteredAt < m.enteredAt ∨ (l.enteredAt = m.enteredAt ∧ l.lid ≤ m.lid))).map
      (fun l => candOf (.saved l.lid) l.queue l.record 0 l.enteredAt l.enteredAt)
    ++ (List.finRange 128).filterMap fun n =>
      match (s.slotAt n).queue, (s.slotAt n).head with
      | some q, some h =>
        if s.deadQueues.contains q || (s.launchesOf q).any (fun l => l.phase == .saving || l.phase == .saved) then none
        else h.eligibleAt.map fun e => candOf (.slot n) q h.record (Msg.field h.record 255 249) h.arrived e
      | _, _ => none

def Cand.clusters (k : Cand) : Nat := k.w * k.h

/-- Whether a head ranks as real-time: its queue's clusters in use with its own stay within RTSHARE (09 R301). -/
def State.isRt (s : State) (k : Cand) : Bool :=
  s.qf k.q 71 71 == 1 && decide (((s.launchesOf k.q).foldl (fun n l => n + l.held.length) k.clusters) ≤ s.qf k.q 79 72)

def State.candPrio (s : State) (k : Cand) : Nat := effPrio (s.qf k.q 70 68) s.cyc k.eligible

/-- Whether a head ranks before another (09 R298). -/
def State.ranksBefore (s : State) (a b : Cand) : Bool :=
  let rank := fun (k : Cand) => (if s.isRt k then 0 else 1, 7 - s.candPrio k, k.arrived, k.q.toNat)
  let x := rank a
  let y := rank b
  decide (x.1 < y.1 ∨ (x.1 = y.1 ∧ (x.2.1 < y.2.1 ∨ (x.2.1 = y.2.1 ∧ (x.2.2.1 < y.2.2.1 ∨ (x.2.2.1 = y.2.2.1 ∧ x.2.2.2 ≤ y.2.2.2))))))

/-- Whether the group-table entries and placement maps that a head needs are free (09 R297): a launch that awaits resumption holds
its own. -/
def State.hasRoom (s : State) (k : Cand) : Bool :=
  match k.ref with
  | .saved _ => true
  | .slot _ => decide (k.groups ≤ (s.groups.toList.filter Option.isNone).length) && decide (s.launches.length < 128)

/-- The first placement whose clusters are all among those given. -/
def Cand.fit (k : Cand) (free : List Nat) : Option (List Nat) := (placements k.w k.h).find? fun cl => cl.all free.contains

/-! Division and identity (09 R291, R292). -/

/-- Tile count, size and tile of dimension d of a record: an absent dimension is 1 with tile 1. -/
def tileOf (r : Msg) (d : Nat) : Nat := let z := Msg.field r (271 + 16 * d) (256 + 16 * d); if z = 0 then 1 else Msg.field r (335 + 16 * d) (320 + 16 * d)
def sizeOf' (r : Msg) (d : Nat) : Nat := let z := Msg.field r (271 + 16 * d) (256 + 16 * d); if z = 0 then 1 else z
def tilesOf (r : Msg) (d : Nat) : Nat := (sizeOf' r d + tileOf r d - 1) / tileOf r d

/-- The tile index of core c in dimension d. -/
def tileIndex (r : Msg) (c d : Nat) : Nat :=
  match d with
  | 0 => c % tilesOf r 0
  | 1 => c / tilesOf r 0 % tilesOf r 1
  | 2 => c / (tilesOf r 0 * tilesOf r 1) % tilesOf r 2
  | _ => c / (tilesOf r 0 * tilesOf r 1 * tilesOf r 2)

/-- id.orgN and id.extN of core c. -/
def orgOf (r : Msg) (c d : Nat) : Nat := tileIndex r c d * tileOf r d
def extOf (r : Msg) (c d : Nat) : Nat := if orgOf r c d < sizeOf' r d then min (tileOf r d) (sizeOf' r d - orgOf r c d) else 0

/-- id.grp of core c from its groups as (descriptor, index), ascending (09 R295). -/
def grpOf (gs : List (Nat × Nat)) : Word :=
  BitVec.ofNat 64 (gs.zipIdx.foldl (fun acc e => acc + (2 ^ 15 + e.1.1 * 2 ^ 8 + e.1.2) * 2 ^ (16 * e.2)) 0)

/-- The identity of core c of a launch (09 R292). -/
def identOf (lid : Nat) (r : Msg) (pasid : BitVec 20) (c : Nat) (grp : Word) : Ident :=
  { lid := some lid, rel := BitVec.ofNat 10 c, hbase := BitVec.ofNat 57 (Msg.field r 56 0), nhlog := Msg.field r 60 57, pasid := pasid, grp := grp
    ext := Vector.ofFn fun (d : Fin 4) => BitVec.ofNat 64 (extOf r c d.val), org := Vector.ofFn fun (d : Fin 4) => BitVec.ofNat 64 (orgOf r c d.val)
    stack := 0xF002000000000000 ||| BitVec.ofNat 64 (Msg.field r 500 492 * 1024)
    budget := if Msg.field r 125 121 = 0 then 0x1000000 else BitVec.ofNat 32 (2 ^ Msg.field r 125 121), xt := Msg.field r 481 481 == 1 }

/-- A core at the start of a launch: what a launch does not set is as it was (the scratchpad, the accumulator and the TLB; log 11),
and its message counter (08 R247); the instruction cache is empty (15 R451), and everything else at its reset value, the LFSR seeded (08 R267). -/
def freshCore (k : Core) (c : CoreId) (i : Ident) : Core :=
  { Core.reset with
    ident := i, sp := k.sp, tlb1 := k.tlb1, matrix := { Matrix.zero with acc := k.matrix.acc }
    net := { Net.reset with mid := k.net.mid, lfsr := if c.val = 0 then 0xFFFF else BitVec.ofNat 16 c.val } }

/-! Groups (07 R244, 09 R295). -/

/-- The routers of a gather tree (07 R244): those on the members' routes to the root, by the tables' route set 0 of the launch's partition,
or X first in compatibility mode. -/
def State.treeOf (s : State) (pasid : BitVec 20) (members : List CoreId) : List (Fin 288) :=
  match members with
  | [] => []
  | r :: _ =>
    (members.flatMap fun m => (s.route (s.space pasid).partition 0 false (s.placeOf (clusterOf m)) (r.val / 4)).map routerAt).dedup

/-- The trees of the groups in router-gather mode. -/
def State.trees (s : State) : List (List (Fin 288)) :=
  s.groups.toList.filterMap fun g => g.bind fun k =>
    if k.gather then (s.launch? k.lid).map fun l => s.treeOf l.pasid (k.members.filterMap fun r => l.core? r.toNat) else none

/-- Whether every router of a tree has one of its 8 gather entries free. -/
def State.gatherFits (s : State) (tree : List (Fin 288)) : Bool :=
  let ts := s.trees
  tree.all fun r => decide ((ts.filter fun t => t.contains r).length < 8)

/-- The lowest free group-table entry. -/
def State.freeGroup (s : State) : Option (Fin 256) := (List.finRange 256).find? fun g => (s.groups[g]).isNone

/-- The groups of a launch entered in the table in descriptor order, each with the mode that the entries left allow: the state, and the
places. -/
def State.addGroups (s : State) (l : Launch) (i : Nat) (ds : List (Nat × List (BitVec 10))) : State × List (Fin 256) :=
  match ds with
  | [] => (s, [])
  | d :: r =>
    match s.freeGroup with
    | none => (s, [])
    | some g =>
      let tree := s.treeOf l.pasid (d.2.filterMap fun m => l.core? m.toNat)
      let k : Group := { lid := l.lid, desc := i, members := d.2, gather := d.1 == 1 && s.gatherFits tree, arrivedAt := [], heard := [], contribs := [] }
      let t := State.addGroups { s with groups := s.groups.set g (some k) } l (i + 1) r
      (t.1, g :: t.2)

/-! Placement. -/

/-- The class that a core's handler-table entry records, whatever else it holds (08 R249). -/
def State.entryClass (s : State) (c : CoreId) (hid : Nat) : Nat :=
  ((s.readVa (s.coreAt c).ident.pasid (s.handlerVa c hid) 8).map fun e => bitsOf e 62 57).getD 0

/-- The start message of core c (09 R293). -/
def State.startMessage (s : State) (l : Launch) (c : Nat) : State :=
  match l.core? c with
  | none => s
  | some d =>
    let hid := l.field 467 456
    let r := s.takeLuMid
    let h := mkHeader (s.entryClass d hid) hid s.dev c 0 r.1 0x3FF s.dev (l.field 481 481 == 1) 3 0
    r.2.sendLink { lid := l.lid, dst := BitVec.ofNat 10 c, word := Msg.setWord l.args 0 h, src := .linkDie, kind := .plain }

/-- The cores of a launch that receive a start message (01 R35). -/
def startCores (r : Msg) : List Nat := (List.range (recordCores r)).filter fun c => (List.range 4).all fun d => extOf r c d != 0

/-- The cores of a launch take their identities. -/
def State.setIdents (s : State) (l : Launch) : State :=
  l.cores.zipIdx.foldl (fun t e =>
    let gs := (l.groups.zipIdx.filter fun g => match t.groups[g.1] with
      | some k => k.members.contains (BitVec.ofNat 10 e.2)
      | none => false).map fun g => (g.2, g.1.val)
    t.modCore e.1 fun k => freshCore k e.1 (identOf l.lid l.record l.pasid e.2 (grpOf gs))) s

/-- The record at the head of a slot placed on clusters (09 R291 to R297). -/
def State.placeRecord (s : State) (n : Fin 128) (q : BitVec 16) (h : Head) (cl : List Nat) (backfill : Option (HeadRef × Nat)) : State :=
  let peer := Msg.field h.record 484 484 == 1
  let k := Sparse.get 0 s.pairCounts q.toNat
  let l : Launch := { lid := s.nextLid, queue := q, record := h.record, args := h.args, pasid := s.queuePasid q, cores := coresOf cl, groups := []
                      phase := .running, images := [], kept := [], inbox := [], startedAt := s.cyc, enteredAt := s.cyc, backfill := backfill
                      missed := false, pairIndex := if peer then some k else none, areds := [], partnerEnded := false, doneBy := none }
  let g := State.addGroups { s with nextLid := s.nextLid + 1, launches := s.launches ++ [l] } l 0 h.descs
  let m := { l with groups := g.2 }
  let t : State := { g.1.modLaunch l.lid (fun _ => m) with pairCounts := if peer then Sparse.set 0 s.pairCounts q.toNat (k + 1) else s.pairCounts }
  let u := (t.setIdents m).modSlot n fun k => { k with head := none, children := if h.child then k.children.drop 1 else k.children }
  ((startCores h.record).foldl (fun t c => t.startMessage m c) u).slotNext n

/-! Moving a gang to other cores (09 R302, 14 R435, R437). -/

/-- Where a core goes: `m` lists the cores that move with their new places. -/
def moveTo (m : List (CoreId × CoreId)) (c : CoreId) : CoreId := ((m.find? fun e => e.1 == c).map (·.2)).getD c

def movePacket (m : List (CoreId × CoreId)) (p : Packet) : Packet :=
  match p.kind with
  | .mark c n => { p with kind := .mark (moveTo m c) n }
  | _ => p

/-- A request of a core of device `dev`. -/
def moveReq (dev : BitVec 1) (m : List (CoreId × CoreId)) (r : FurlReq) : FurlReq := if r.dev = dev then { r with core := moveTo m r.core } else r

def moveOp (dev : BitVec 1) (m : List (CoreId × CoreId)) (op : HomeOp) : HomeOp := if op.dev = dev then { op with core := moveTo m op.core } else op

def moveRing (m : List (CoreId × CoreId)) (op : RingOp) : RingOp := { op with core := moveTo m op.core }

def moveRingAns (m : List (CoreId × CoreId)) (a : RingAns) : RingAns :=
  match a with
  | .done => .done
  | .fault va w => .fault va w
  | .cause q v => .cause q v
  | .popped d op => .popped d (moveRing m op)
  | .ended op => .ended (moveRing m op)
  | .parked op => .parked (moveRing m op)

def moveCleat (dev : BitVec 1) (m : List (CoreId × CoreId)) (k : Cleat) : Cleat :=
  match k with
  | .waita d c x pa => .waita d (if d = dev then moveTo m c else c) x pa
  | .ring op a => .ring (moveRing m op) a
  | .furl r f w o => .furl (moveReq dev m r) f w o
  | .saved lid k => .saved lid (moveCleat dev m k)

def moveAsker (m : List (CoreId × CoreId)) (w : Asker) : Asker :=
  match w with
  | .ctx c x => .ctx (moveTo m c) x
  | .engine c u => .engine (moveTo m c) u
  | .pref c p rep => .pref (moveTo m c) p rep
  | _ => w

/-- An event in flight or kept for a core. -/
def moveInstr (dev : BitVec 1) (m : List (CoreId × CoreId)) (i : Instr) : Instr :=
  match i with
  | .mxLdb c => .mxLdb (moveTo m c)
  | .mxMma c => .mxMma (moveTo m c)
  | .mxStc c => .mxStc (moveTo m c)
  | .mxZc c => .mxZc (moveTo m c)
  | .mxMark c => .mxMark (moveTo m c)
  | .cpLin c => .cpLin (moveTo m c)
  | .cp2d c => .cp2d (moveTo m c)
  | .cpGath c => .cpGath (moveTo m c)
  | .tdDec c => .tdDec (moveTo m c)
  | .gmF2v c => .gmF2v (moveTo m c)
  | .gmV2f c => .gmV2f (moveTo m c)
  | .gmBel c => .gmBel (moveTo m c)
  | .gmMean c => .gmMean (moveTo m c)
  | .gmDamp c => .gmDamp (moveTo m c)
  | .slStart c => .slStart (moveTo m c)
  | .slStop c => .slStop (moveTo m c)
  | .slDrain c => .slDrain (moveTo m c)
  | .issueSlotHandoff c => .issueSlotHandoff (moveTo m c)
  | .dequeReload c => .dequeReload (moveTo m c)
  | .stealRequest c => .stealRequest (moveTo m c)
  | .spliceAnnihilate c => .spliceAnnihilate (moveTo m c)
  | .spliceCommute c => .spliceCommute (moveTo m c)
  | .spliceErase c => .spliceErase (moveTo m c)
  | .spliceTemplate c => .spliceTemplate (moveTo m c)
  | .spliceHandler c => .spliceHandler (moveTo m c)
  | .spliceEngine c => .spliceEngine (moveTo m c)
  | .bagReload c => .bagReload (moveTo m c)
  | .spliceSteal c => .spliceSteal (moveTo m c)
  | .sendCommit c x => .sendCommit (moveTo m c) x
  | .stealRequestArrival v t => .stealRequestArrival (moveTo m v) (moveTo m t)
  | .stealReply c ts => .stealReply (moveTo m c) ts
  | .engineCommandArrival p => .engineCommandArrival (movePacket m p)
  | .homeOperation op => .homeOperation (moveOp dev m op)
  | .homeResponse c x r => .homeResponse (moveTo m c) x r
  | .lineFill c l st => .lineFill (moveTo m c) l st
  | .mergeRead r l (.core c) => .mergeRead r l (.core (moveTo m c))
  | .atsResponse w p va wr => .atsResponse (moveAsker m w) p va wr
  | .waitaArm c x => .waitaArm (moveTo m c) x
  | .waitaWake c x => .waitaWake (moveTo m c) x
  | .barrierCompletion g p c => .barrierCompletion g p (moveTo m c)
  | .vredgContribution g p k => .vredgContribution g p { k with core := moveTo m k.core }
  | .ringOpAtHome op => .ringOpAtHome (moveRing m op)
  | .ringAnswer c x r => .ringAnswer (moveTo m c) x (moveRingAns m r)
  | .furledRequestAtHome r => .furledRequestAtHome (moveReq dev m r)
  | .furledWake r a => .furledWake (moveReq dev m r) a
  | .evaluationMessage r w => .evaluationMessage (moveReq dev m r) w
  | .engineRuleElement c n e => .engineRuleElement (moveTo m c) n e
  | .bagStealArrival v t => .bagStealArrival (moveTo m v) (moveTo m t)
  | .trapRecordArrival c lid r => .trapRecordArrival (moveTo m c) lid r
  | .childLaunchRequest c x r v => .childLaunchRequest (moveTo m c) x r v
  | .launchAnswer c x q v => .launchAnswer (moveTo m c) x q v
  | .launchCompletion lid v who => .launchCompletion lid v (who.map fun w => (moveTo m w.1, w.2))
  | _ => i

def moveStatus (m : List (CoreId × CoreId)) (u : Status) : Status :=
  match u with
  | .suspended (.ring op) => .suspended (.ring (moveRing m op))
  | .suspended (.atomic op) => .suspended (.atomic { op with core := moveTo m op.core })
  | _ => u

def moveUnit (m : List (CoreId × CoreId)) (q : EngineQ) : EngineQ := { q with inq := q.inq.map (movePacket m) }

/-- What a core's image says of cores. -/
def moveCore (m : List (CoreId × CoreId)) (k : Core) : Core :=
  { k with
    ctxs := k.ctxs.map fun x => { x with status := moveStatus m x.status }
    net := { k.net with retryBuf := k.net.retryBuf.map (fun e => { e with pkt := movePacket m e.pkt }), rings := k.net.rings.map (moveRing m) }
    mx := moveUnit m k.mx, cp := moveUnit m k.cp, td := moveUnit m k.td, gm := moveUnit m k.gm, sl := moveUnit m k.sl }

/-- A launch whose cores move. -/
def Launch.moved (dev : BitVec 1) (m : List (CoreId × CoreId)) (l : Launch) : Launch :=
  { l with cores := l.cores.map (moveTo m), images := l.images.map (moveCore m), kept := l.kept.map (fun e => (moveTo m e.1, e.2))
           inbox := l.inbox.map (moveInstr dev m), doneBy := l.doneBy.map fun w => (moveTo m w.1, w.2) }

/-- Every mention of the cores of a launch outside those cores. -/
def State.moveGang (s : State) (lid : Nat) (m : List (CoreId × CoreId)) : State :=
  { (s.modLaunch lid (Launch.moved s.dev m)).mapCleat (·.map fun e => match e with
      | .saved l k => if l = lid then .saved l (moveCleat s.dev m k) else e
      | _ => e) with
    groups := s.groups.map fun g => g.map fun k =>
      if k.lid = lid then { k with contribs := k.contribs.map fun e => (e.1, { e.2 with core := moveTo m e.2.core }) } else k
    readyq := s.readyq.map fun r => if r.lid = lid then { r with core := moveTo m r.core } else r
    held := s.held.map fun r => if r.lid = lid then { r with core := moveTo m r.core } else r }

/-- A saved gang is given clusters; its images are to be written back (09 R302, 14 R435). -/
def State.beginResume (s : State) (lid : Nat) (cl : List Nat) (backfill : Option (HeadRef × Nat)) : State :=
  match s.launch? lid with
  | none => s
  | some l =>
    ((s.moveGang lid (l.cores.zip (coresOf cl))).modLaunch lid fun l =>
      { l with phase := .resuming, startedAt := s.cyc, enteredAt := s.cyc, backfill := backfill }).post (.gangResume lid)

/-- A head placed on clusters. -/
def State.placeHead (s : State) (k : Cand) (cl : List Nat) (backfill : Option (HeadRef × Nat)) : State :=
  match k.ref with
  | .saved lid => s.beginResume lid cl backfill
  | .slot n =>
    match (s.slotAt n).head with
    | some h => s.placeRecord n k.q h cl backfill
    | none => s

/-! The scheduler (09 R298 to R301). -/

/-- The quantum: 1 ms. -/
def quantum : Nat := 1000 * usCycles

/-- A launch's declared duration in cycles; 0 is unknown. -/
def Launch.dur (l : Launch) : Nat := l.field 511 501 * 10 * usCycles

/-- Clusters held by gangs that are being saved. -/
def State.leaving (s : State) : List Nat := (s.launches.filter fun l => l.phase == .saving).flatMap Launch.held

/-- Gangs that hold clusters and are not being saved. -/
def State.onGrid (s : State) : List Launch := s.launches.filter fun l => l.phase == .running || l.phase == .resuming

/-- Where the head would be placed at a time when the gangs whose declared ends have come are gone, and their group-table entries and
placement maps with them (09 R297, R298). -/
def State.fitAt (s : State) (k : Cand) (t : Nat) : Option (List Nat) :=
  let gone := s.onGrid.filter fun l => l.dur != 0 && decide (l.startedAt + l.dur ≤ t)
  let groups := (s.groups.toList.filter Option.isNone).length + gone.foldl (fun n l => n + l.groups.length) 0
  let maps := match k.ref with
    | .saved _ => true
    | .slot _ => decide (s.launches.length < 128 + gone.length)
  if groups < k.groups ∨ !maps then none else k.fit (s.openClusters ++ s.leaving ++ gone.flatMap Launch.held)

/-- The projected placement with its time: the earliest now or at a declared end. -/
def State.project (s : State) (k : Cand) : Option (Nat × List Nat) :=
  let ends := (s.onGrid.filter fun l => l.dur != 0).map fun l => l.startedAt + l.dur
  ((s.cyc :: ends).insertionSort (· ≤ ·)).findSome? fun t => (s.fitAt k t).map fun cl => (t, cl)

/-- Whether a head is the blocked one: the same record, eligible since the same cycle. -/
def Blocked.is (b : Blocked) (k : Cand) : Bool := b.who == k.ref && b.since == k.eligible

/-- The head is blocked (09 R298): its aged deadline and projected placement are computed as it becomes so. -/
def State.block (s : State) (k : Cand) : State :=
  if s.blocked.any fun b => b.is k then s
  else
    let p := (s.project k).getD (s.cyc + quantum, [])
    { s with blocked := some { who := k.ref, since := k.eligible, deadline := p.1, projected := p.2, tried := false } }

/-- Gangs begin to be saved. -/
def State.preempt (s : State) (lids : List Nat) : State :=
  lids.foldl (fun t lid => (t.modLaunch lid fun l => { l with phase := .saving }).post (.preemptionSaved lid)) s

/-- Bytes of firmware memory that the network-interface parts of gangs take: 64 KiB for each core (14 R434). -/
def saveBytes (ls : List Launch) : Nat := ls.foldl (fun n l => n + 0x10000 * l.cores.length) 0

/-- Whether the parts of gangs would fit beside those of the gangs that are saved (14 R434). -/
def State.saveFits (s : State) (ls : List Launch) : Bool :=
  decide (saveBytes (s.launches.filter fun l => l.phase != .running) + saveBytes ls ≤ s.mgmt.saveRoom)

/-- Refusals for want of room in firmware memory, counted (14 R434). -/
def State.countRefused (s : State) (n : Nat) : State := { s with mgmt := { s.mgmt with saveRefused := s.mgmt.saveRefused + n } }

/-- The first origin at which every cluster is free, becoming free, or held by an eligible gang: those gangs are pre-empted, and the
place is kept for the head. A gang whose saved parts would not fit is not eligible (14 R434). -/
def State.makeRoom (s0 : State) (k : Cand) (elig : Launch → Bool) : State :=
  let able := s0.launches.filter fun l =>
    l.phase == .running && s0.qf l.queue 184 128 != 0 && l.cores.all (fun c => s0.migrations.all fun m => m.src != c) && elig l
  let gs := able.filter fun l => s0.saveFits [l]
  let s := s0.countRefused (able.length - gs.length)
  match k.fit (s.openClusters ++ s.leaving ++ gs.flatMap Launch.held) with
  | none => s
  | some cl =>
    let out := gs.filter fun l => l.held.any cl.contains
    if !s.saveFits out then s.countRefused out.length
    else { s.preempt (out.map (·.lid)) with blocked := s.blocked.map fun b => { b with projected := cl } }

/-- A back-fill candidate (09 R299): placed by the short rule or by the clear rule, else none. -/
def State.backfill? (s : State) (b : Blocked) (k : Cand) : Option State :=
  let short := decide (s.cyc + k.dur ≤ b.deadline) && k.dur != 0 && s.qf k.q 184 128 != 0
  let free := if short then s.openClusters else s.openClusters.filter fun c => !b.projected.contains c
  if !s.hasRoom k then none else (k.fit free).map fun cl => s.placeHead k cl (if cl.any b.projected.contains then some (b.who, b.since) else none)

/-- The eligible heads in the order of 09 R298. -/
def State.ranked (s : State) : List Cand := s.cands.insertionSort fun a b => s.ranksBefore a b

/-- GANG_PLACEMENT (09 R297 to R299, R301; 14 R449): the head is placed; or it is blocked, a real-time head makes room at once, and the
other heads are taken as back-fill candidates. The scheduler looks again after every placement. -/
def execGangPlacement (s : State) : Out :=
  if s.mgmt.hold ∨ !s.mgmt.readyMap.getLsbD 5 then .next s
  else match s.ranked with
    | [] => .next { s with blocked := none }
    | k :: rest =>
      match if s.hasRoom k then k.fit s.openClusters else none with
      | some cl => .next ({ s.placeHead k cl none with blocked := none }.post .gangPlacement)
      | none =>
        let t := s.block k
        let u := if s.isRt k then t.makeRoom k fun l => s.qf l.queue 71 71 == 0 else t
        match u.blocked.bind fun b => rest.findSome? (u.backfill? b) with
        | some v => .next (v.post .gangPlacement)
        | none => .next u

/-- DEADLINE_PREEMPT (09 R300): once for the deadline, and again after every gang completion. -/
def execDeadlinePreempt (s : State) : Out :=
  match s.blocked, s.ranked with
  | some b, k :: _ =>
    if !b.is k ∨ b.tried ∨ s.cyc < b.deadline then .next s
    else
      let old := fun (l : Launch) => decide (s.qf l.queue 70 68 ≤ s.candPrio k) && decide (l.enteredAt + quantum ≤ s.cyc)
      let t : State := { s with blocked := some { b with tried := true } }
      .next (t.makeRoom k fun l => l.backfill == some (b.who, b.since) || old l)
  | _, _ => .next s

/-- The first launch of a queue that awaits resumption: it is the head of its slot (09 R296). -/
def State.firstSaved (s : State) (q : BitVec 16) : Option Launch :=
  ((s.launchesOf q).filter fun l => l.phase == .saved).insertionSort (fun a b => a.enteredAt ≤ b.enteredAt) |>.head?

/-- Whether a real-time queue's head has waited for longer than RTDELAY (09 R301). -/
def State.rtLate (s : State) (q : BitVec 16) (since : Nat) : Bool := s.qf q 71 71 == 1 && decide (since + s.qf q 95 80 * usCycles < s.cyc)

/-- A missed reservation of a queue counted. -/
def State.countMiss (s : State) (q : BitVec 16) : State := { s with missed := Sparse.set 0 s.missed q.toNat (Sparse.get 0 s.missed q.toNat + 1) }

/-- RT_RESERVATION_MISS (09 R301): a real-time head, a launch that awaits resumption among them, not placed within RTDELAY of becoming the head
is counted once. -/
def execRtReservationMiss (n : Fin 128) (s : State) : Out :=
  match (s.slotAt n).queue with
  | none => .next s
  | some q =>
    match s.firstSaved q, (s.slotAt n).head with
    | some l, _ =>
      if !l.missed ∧ s.rtLate q l.enteredAt then .next ((s.modLaunch l.lid fun l => { l with missed := true }).countMiss q) else .next s
    | none, some h =>
      if !h.missed ∧ s.rtLate q h.since then .next ((s.modSlot n fun k => { k with head := some { h with missed := true } }).countMiss q) else .next s
    | none, none => .next s

end Sys2Proof.Machine
end

