-- ==== Sys2Proof/Machine/Gaussian.lean ====
section
/-!
DEFINITION. The Gaussian message engine (12 R374 to R390). A command reads its records element by element, computes once it has read all
of them, and then writes one record element by element; a step is one access.
-/

namespace Sys2Proof.Machine

/-! Arithmetic (12 R378): FP32 encodings, round to nearest even, no flags. -/

def gAdd (a b : Nat) : Nat := (fp32.add 0 (fp32.value a) (fp32.value b)).1
def gSub (a b : Nat) : Nat := (fp32.sub 0 (fp32.value a) (fp32.value b)).1
def gFma (a b c : Nat) : Nat := (fp32.fma 0 (fp32.value a) (fp32.value b) (fp32.value c)).1
/-- fma(-a, b, c). -/
def gFnma (a b c : Nat) : Nat := (fp32.fma 0 (fp32.value a).negate (fp32.value b) (fp32.value c)).1
def gDiv (a b : Nat) : Nat := (fp32.div 0 (fp32.value a) (fp32.value b)).1
def gSqrt (a : Nat) : Nat := (fp32.sqrt 0 (fp32.value a)).1

/-- Position of element (i, j), i ≤ j, in a packed upper triangle of an n × n matrix (12 R375). -/
def triPos (n i j : Nat) : Nat := i * n - i * (i - 1) / 2 + (j - i)

/-- Element (i, j) of a packed symmetric matrix. -/
def triGet (n : Nat) (l : List Nat) (i j : Nat) : Nat := l.getD (triPos n (min i j) (max i j)) 0

/-- The elements of a packed triangle, row after row. -/
def triPairs (n : Nat) : List (Nat × Nat) := (List.range n).flatMap fun i => (List.range (n - i)).map fun k => (i, i + k)

/-- A symmetric matrix packed. -/
def triPack (n : Nat) (f : Nat → Nat → Nat) : List Nat := (triPairs n).map fun e => f e.1 e.2

/-- L[i][k] of a factor held column by column. -/
def colGet (cols : List (List Nat)) (i k : Nat) : Nat := (cols.getD k []).getD i 0

/-- chol (12 R379), from column j on: the columns, or the pivot that fails. -/
def cholFrom (m : Nat → Nat → Nat) (n fuel j : Nat) (cols : List (List Nat)) : Except Nat (List (List Nat)) :=
  match fuel with
  | 0 => .ok cols
  | f + 1 =>
    let s := (List.range j).foldl (fun s k => gFnma (colGet cols j k) (colGet cols j k) s) (m j j)
    let v := fp32.value s
    if v.special || !((fp32.value (m j j)).scale (-20)).lt v then .error j
    else
      let d := gSqrt s
      let col := (List.range n).map fun i =>
        if i < j then 0 else if i = j then d
        else gDiv ((List.range j).foldl (fun t k => gFnma (colGet cols i k) (colGet cols j k) t) (m i j)) d
      cholFrom m n f (j + 1) (cols ++ [col])

def chol (m : Nat → Nat → Nat) (n : Nat) : Except Nat (List (List Nat)) := cholFrom m n n 0 []

/-- fwd (12 R379). -/
def fwdSolve (cols : List (List Nat)) (r : Nat → Nat) (n : Nat) : List Nat :=
  (List.range n).foldl (fun y i =>
    let t := (List.range i).foldl (fun t k => gFnma (colGet cols i k) (y.getD k 0) t) (r i)
    y ++ [gDiv t (colGet cols i i)]) []

/-- The back substitution of GM.MEAN (12 R387): μ. -/
def backSolve (cols : List (List Nat)) (w : List Nat) (n : Nat) : List Nat :=
  (List.range n).foldl (fun mu d =>
    let i := n - 1 - d
    let t := ((List.range (n - 1 - i)).map fun q => n - 1 - q).foldl (fun t k => gFnma (colGet cols k i) (mu.getD (k - (i + 1)) 0) t) (w.getD i 0)
    gDiv t (colGet cols i i) :: mu) []

/-- The residual: the greatest of the differences' magnitudes, the canonical NaN if one is a NaN (12 R380). -/
def residual (xs : List (Nat × Nat)) : Nat :=
  let ds := xs.map fun e => gSub e.1 e.2
  if ds.any (fun d => (fp32.value d).isNan) then fp32.nan else (ds.map (· % 2 ^ 31)).foldl max 0

/-! Records (12 R374 to R377). -/

/-- A Gaussian: dimension, η and the packed Λ; for a message record also NULL, β and the version. -/
structure GRec where
  dim : Nat
  null : Bool
  beta : Nat
  ver : Nat
  eta : List Nat
  lam : List Nat
  deriving DecidableEq, Repr

/-- FP32 encodings in bytes. -/
def wordsOf (bs : List Byte) (n : Nat) : List Nat := (List.range n).map fun i => ofBytes ((bs.drop (4 * i)).take 4)

/-- Bytes of η and Λ. -/
def bodyLen (d : Nat) : Nat := 6 * d + 2 * d * d

/-- Bytes of a message record. -/
def recordLen (d : Nat) : Nat := (8 + bodyLen d + 63) / 64 * 64

/-- Whether β is a number from 0 to 1. -/
def betaOk (b : Nat) : Bool :=
  let v := fp32.value b
  !v.special && (v.isZero || !v.isNeg) && !(fp32.value 0x3F800000).lt v

/-- The checks of a message record's header (12 R377). -/
def headerCause (h : Nat) (need : Option Nat) : Option (BitVec 9) :=
  let d := bitsOf h 3 0
  firstCause [(decide (bitsOf h 15 9 ≠ 0 ∨ bitsOf h 7 4 ≠ 0) || !betaOk (bitsOf h 63 32), 0x142),
    (decide (d = 0 ∨ 8 < d) || (match need with
      | some n => d != n
      | none => false), 0x141)]

/-- A record's address: a multiple of 64 (12 R378). -/
def State.gmAddr (s : State) (me : Eng) (p : Word) (align : Nat) : Except EngStop EAddr := do
  let a ← (s.engAddr me .own p).mapError EngStop.cause
  if a.num % align ≠ 0 then .error (.cause 0x042) else return a

/-- The elements of n bytes at an address: each of z bytes. -/
def elemsOf (z : Nat) (a : EAddr) (n : Nat) : List (EAddr × Nat) := (List.range (n / z)).map fun i => (a.plus (z * i : Nat), z)

/-- What the command has read of some elements; the first that it has not read is to be read before it goes on. -/
def State.gmElems (s : State) (me : Eng) (es : List (EAddr × Nat)) : Except EngStop (List Byte) :=
  match es with
  | [] => .ok []
  | e :: r => match (s.runOf me).words.find? fun w => w.1 == e.1 && w.2.length == e.2 with
    | some w => (s.gmElems me r).map (w.2 ++ ·)
    | none => .error (.fetch e.1 e.2)

/-- A header, which is read at once (12 R390). -/
def State.gmHead (s : State) (me : Eng) (a : EAddr) : Except EngStop Nat := (s.gmElems me [(a, 8)]).map ofBytes

/-- n bytes read in elements of 4 bytes (12 R390). -/
def State.gmRead (s : State) (me : Eng) (a : EAddr) (n : Nat) : Except EngStop (List Byte) := s.gmElems me (elemsOf 4 a n)

/-- The command has what it writes: its elements, all of which it has checked, its RESULT and its PROGRESS. -/
def State.gmOut (s : State) (me : Eng) (es : List (EAddr × List Byte)) (result progress : BitVec 32) : State :=
  (s.modRun me fun r => { r with outs := es, final := some (result, progress), answers := [] }).engNext me

/-- Bytes cut into elements of z bytes. -/
def cutElems (z : Nat) (a : EAddr) (bs : List Byte) : List (EAddr × List Byte) :=
  (List.range (bs.length / z)).map fun i => (a.plus (z * i : Nat), (bs.drop (z * i)).take z)

/-- The next element written, or the end of the command. -/
def State.gmWrite (s : State) (me : Eng) (f : BitVec 32 × BitVec 32) : Except EngStop State :=
  match (s.runOf me).outs with
  | [] => .ok (s.finishCmd me f.1 f.2 0 0)
  | e :: r => do
    let ps ← s.engCheck me [(e.1, e.2.length)]
    return ((s.engWrite me ps e.2).modRun me fun q => { q with outs := r }).engNext me

/-- A command that has begun to write its result writes the rest of it: its end is its only boundary (10 R326, 12 R378). -/
def State.gmRest (s : State) (c : CoreId) : State :=
  let me := Eng.unit c 4
  if (s.runOf me).final.isNone then s
  else (s.runOf me).outs.foldl (fun t e => match t.engCheck me [(e.1, e.2.length)] with
    | .ok ps => t.engWrite me ps e.2
    | .error _ => t) s

/-- One step of a Gaussian command: the next element of its result, or what `go` still needs. -/
def gmStep (c : CoreId) (code : Nat) (go : Packet → State → Except EngStop State) (s : State) : Out :=
  engStep (.unit c 4) code (fun p s => match (s.runOf (.unit c 4)).final with
    | some f => s.gmWrite (.unit c 4) f
    | none => go p s) s

/-- A message record read (12 R377, R378): header, its checks, then the body unless it is NULL. An output record's bytes are also
checked for writing, at the same places. -/
def State.gmMessage (s : State) (me : Eng) (p : Word) (need : Option Nat) (out : Bool) : Except EngStop GRec := do
  let a ← s.gmAddr me p 64
  let h ← s.gmHead me a
  let _ ← if out then s.engCheck me [(a, 8)] else pure []
  match headerCause h need with
  | some q => .error (.cause q)
  | none =>
    let d := bitsOf h 3 0
    let null := bitsOf h 8 8 == 1
    let zero : GRec := { dim := d, null := null, beta := bitsOf h 63 32, ver := bitsOf h 31 16
                         eta := List.replicate d 0, lam := List.replicate (d * (d + 1) / 2) 0 }
    let r ← if null then pure zero else (s.gmRead me (a.plus 8) (bodyLen d)).map fun b =>
      { zero with eta := wordsOf b d, lam := wordsOf (b.drop (4 * d)) (d * (d + 1) / 2) }
    let _ ← if out then s.engCheck me [(a, recordLen d)] else pure []
    return r

/-- The record that a nonzero pointer names, none for 0. -/
def State.gmOptional (s : State) (me : Eng) (p : Word) (need : Nat) : Except EngStop (Option GRec) :=
  if p = 0 then .ok none else (s.gmMessage me p (some need) false).map some

/-- The records of nonzero pointers, in order. -/
def State.gmList (s : State) (me : Eng) (ps : List Word) (need : Nat) : Except EngStop (List GRec) :=
  match ps with
  | [] => .ok []
  | p :: r => do
    let m ← s.gmOptional me p need
    let ms ← s.gmList me r need
    return m.toList ++ ms

/-- finish (12 R380): the new Gaussian damped into the record at OUT, which is then written with its next version. -/
def State.gmFinish (s : State) (me : Eng) (o : GRec) (out : Word) (eta lam : List Nat) : Except EngStop State := do
  let a ← s.gmAddr me out 64
  let damp := fun (old new : Nat) => if o.null ∨ (fp32.value o.beta).isZero then new else gFma o.beta (gSub old new) new
  let eta' := (o.eta.zip eta).map fun e => damp e.1 e.2
  let lam' := (o.lam.zip lam).map fun e => damp e.1 e.2
  let r := residual (eta'.zip o.eta)
  let head := toBytes 8 (o.dim + (o.ver + 1) % 2 ^ 16 * 2 ^ 16 + o.beta * 2 ^ 32)
  let body := head ++ (eta' ++ lam').flatMap (toBytes 4)
  let all := body ++ List.replicate (recordLen o.dim - body.length) 0
  let _ ← s.engCheck me [(a, recordLen o.dim)]
  return s.gmOut me ((a, all.take 8) :: cutElems 4 (a.plus 8) (all.drop 8)) (BitVec.ofNat 32 r) 1

/-- A pivot that fails (12 R378, R379). -/
def State.gmSingular (s : State) (me : Eng) (j : Nat) : State := s.finishCmd me 0 (BitVec.ofNat 32 j) 0x140 1

/-! GM.F2V (12 R383). -/

/-- The factor's dimensions. -/
def factorDims (h : Nat) : List Nat := [bitsOf h 11 8, bitsOf h 15 12, bitsOf h 19 16, bitsOf h 23 20]

/-- The checks of a factor record's header (12 R376, R377). -/
def factorCause (h : Nat) : Option (BitVec 9) :=
  let nv := bitsOf h 2 0
  let ds := factorDims h
  firstCause [(decide (bitsOf h 63 24 ≠ 0 ∨ bitsOf h 7 3 ≠ 0), 0x142),
    (decide (nv = 0 ∨ 4 < nv) || !(ds.take nv).all (fun d => decide (1 ≤ d ∧ d ≤ 8)) || !(ds.drop nv).all (· == 0)
      || decide (16 < ds.foldl (· + ·) 0), 0x141)]

/-- First index of variable v. -/
def varBase (ds : List Nat) (v : Nat) : Nat := (ds.take v).foldl (· + ·) 0

/-- η of the factor with the messages added. -/
def addedEta (ds : List Nat) (ms : List (Nat × GRec)) (eta : List Nat) (i : Nat) : Nat :=
  match ms.find? fun e => decide (varBase ds e.1 ≤ i ∧ i < varBase ds e.1 + ds.getD e.1 0) with
  | some e => gAdd (eta.getD i 0) (e.2.eta.getD (i - varBase ds e.1) 0)
  | none => eta.getD i 0

/-- Λ of the factor with the messages added. -/
def addedLam (ds : List Nat) (ms : List (Nat × GRec)) (n : Nat) (lam : List Nat) (i j : Nat) : Nat :=
  let inside := fun (v k : Nat) => decide (varBase ds v ≤ k ∧ k < varBase ds v + ds.getD v 0)
  match ms.find? fun e => inside e.1 i && inside e.1 j with
  | some e => gAdd (triGet n lam i j) (triGet e.2.dim e.2.lam (i - varBase ds e.1) (j - varBase ds e.1))
  | none => triGet n lam i j

/-- The message to variable t: η and the packed Λ, or the pivot that fails. -/
def factorMessage (ds : List Nat) (t : Nat) (eta : Nat → Nat) (lam : Nat → Nat → Nat) : Except Nat (List Nat × List Nat) :=
  let n := ds.foldl (· + ·) 0
  let o := varBase ds t
  let da := ds.getD t 0
  let as := (List.range da).map (o + ·)
  let bs := (List.range n).filter fun i => !(decide (o ≤ i ∧ i < o + da))
  let db := bs.length
  let a := fun (i : Nat) => as.getD i 0
  let b := fun (i : Nat) => bs.getD i 0
  if db = 0 then .ok ((List.range da).map fun p => eta (a p), triPack da fun p q => lam (a p) (a q))
  else do
    let l ← chol (fun i j => lam (b i) (b j)) db
    let y := (List.range da).map fun c => fwdSolve l (fun i => lam (b i) (a c)) db
    let z := fwdSolve l (fun i => eta (b i)) db
    let get := fun (c k : Nat) => (y.getD c []).getD k 0
    return ((List.range da).map fun p => (List.range db).foldl (fun t k => gFnma (get p k) (z.getD k 0) t) (eta (a p)),
      triPack da fun p q => (List.range db).foldl (fun t k => gFnma (get p k) (get q k) t) (lam (a p) (a q)))

/-- The messages that F2V reads, in ascending variable. -/
def State.gmVars (s : State) (me : Eng) (w : Msg) (ds : List Nat) (t : Nat) (vs : List Nat) : Except EngStop (List (Nat × GRec)) :=
  match vs with
  | [] => .ok []
  | v :: r => do
    let m ← if v = t then pure none else s.gmOptional me (Msg.word w (2 + v)) (ds.getD v 0)
    let ms ← s.gmVars me w ds t r
    return (m.toList.filter fun g => !g.null).map (fun g => (v, g)) ++ ms

def f2vGo (c : CoreId) (p : Packet) (s : State) : Except EngStop State :=
  let w := p.word
  let me := Eng.unit c 4
  let t := Msg.field w 449 448
  let out := Msg.word w 6
  if !reservedClear w [(449, 64)] then .error (.cause 0x083)
  else do
    let a ← s.gmAddr me (Msg.word w 1) 64
    let h ← s.gmHead me a
    match factorCause h with
    | some q => .error (.cause q)
    | none =>
      let nv := bitsOf h 2 0
      let ds := factorDims h
      let n := ds.foldl (· + ·) 0
      if nv ≤ t ∨ [0, 1, 2, 3].any (fun v => decide (nv ≤ v) && v != t && Msg.word w (2 + v) != 0) then .error (.cause 0x141)
      let b ← s.gmRead me (a.plus 8) (bodyLen n)
      let ms ← s.gmVars me w ds t (List.range nv)
      let o ← s.gmMessage me out (some (ds.getD t 0)) true
      match factorMessage ds t (addedEta ds ms (wordsOf b n)) (addedLam ds ms n (wordsOf (b.drop (4 * n)) (n * (n + 1) / 2))) with
      | .error j => return s.gmSingular me j
      | .ok (e, l) => s.gmFinish me o out e l

/-- GM_F2V (12 R383). -/
def execGmF2v (c : CoreId) (s : State) : Out := gmStep c 1 (f2vGo c) s

/-! GM.V2F, GM.BEL, GM.DAMP, GM.MEAN (12 R384 to R387). -/

def v2fGo (c : CoreId) (p : Packet) (s : State) : Except EngStop State :=
  let w := p.word
  let me := Eng.unit c 4
  let out := Msg.word w 3
  if !reservedClear w [(255, 64)] then .error (.cause 0x083)
  else do
    let o ← s.gmMessage me out none true
    let b ← s.gmMessage me (Msg.word w 1) (some o.dim) false
    let m ← s.gmOptional me (Msg.word w 2) o.dim
    let take := fun (f : GRec → List Nat) (i : Nat) => (m.map fun g => (f g).getD i 0).getD 0
    let minus := fun (f : GRec → List Nat) => ((List.range (f b).length).zip (f b)).map fun e => gSub e.2 (take f e.1)
    s.gmFinish me o out (minus GRec.eta) (minus GRec.lam)

/-- GM_V2F (12 R384). -/
def execGmV2f (c : CoreId) (s : State) : Out := gmStep c 2 (v2fGo c) s

def belGo (c : CoreId) (p : Packet) (s : State) : Except EngStop State :=
  let w := p.word
  let me := Eng.unit c 4
  let out := Msg.word w 3
  let count := Msg.field w 262 256
  if !reservedClear w [(262, 64)] ∨ 64 < count then .error (.cause 0x083)
  else do
    let o ← s.gmMessage me out none true
    let prior ← s.gmOptional me (Msg.word w 1) o.dim
    let a ← s.gmAddr me (Msg.word w 2) 8
    let ls ← s.gmRead me a (8 * count)
    let ms ← s.gmList me ((List.range count).map fun i => BitVec.ofNat 64 (ofBytes ((ls.drop (8 * i)).take 8))) o.dim
    let start := fun (f : GRec → List Nat) => (prior.map f).getD (List.replicate (f o).length 0)
    let sum := fun (f : GRec → List Nat) => (ms.filter fun g => !g.null).foldl (fun n g => (n.zip (f g)).map fun e => gAdd e.1 e.2) (start f)
    s.gmFinish me o out (sum GRec.eta) (sum GRec.lam)

/-- GM_BEL (12 R385). -/
def execGmBel (c : CoreId) (s : State) : Out := gmStep c 3 (belGo c) s

def meanGo (c : CoreId) (p : Packet) (s : State) : Except EngStop State :=
  let w := p.word
  let me := Eng.unit c 4
  if !reservedClear w [(191, 64)] then .error (.cause 0x083)
  else do
    let b ← s.gmMessage me (Msg.word w 1) none false
    let a ← s.gmAddr me (Msg.word w 2) 64
    let old ← s.gmRead me a (4 * b.dim)
    let _ ← s.engCheck me [(a, 4 * b.dim)]
    if b.null then return s.gmSingular me 0
    match chol (triGet b.dim b.lam) b.dim with
    | .error j => return s.gmSingular me j
    | .ok l =>
      let mu := backSolve l (fwdSolve l (fun i => b.eta.getD i 0) b.dim) b.dim
      let r := residual (mu.zip (wordsOf old b.dim))
      return s.gmOut me (cutElems 4 a (mu.flatMap (toBytes 4))) (BitVec.ofNat 32 r) (BitVec.ofNat 32 b.dim)

/-- GM_MEAN (12 R387). -/
def execGmMean (c : CoreId) (s : State) : Out := gmStep c 4 (meanGo c) s

def dampGo (c : CoreId) (p : Packet) (s : State) : Except EngStop State :=
  let w := p.word
  let me := Eng.unit c 4
  let out := Msg.word w 2
  if !reservedClear w [(191, 64)] then .error (.cause 0x083)
  else do
    let o ← s.gmMessage me out none true
    let n ← s.gmMessage me (Msg.word w 1) (some o.dim) false
    s.gmFinish me o out n.eta n.lam

/-- GM_DAMP (12 R386). -/
def execGmDamp (c : CoreId) (s : State) : Out := gmStep c 5 (dampGo c) s

end Sys2Proof.Machine
end

