-- ==== Sys2Proof/Machine/Ending.lean ====
section
/-!
DEFINITION. The end of a launch (01 R40, 09 R306) and the teardown of a queue (09 R307).
-/

namespace Sys2Proof.Machine

/-! The launch of an event in flight. -/

def State.lidOf (s : State) (c : CoreId) : Option Nat := (s.coreAt c).ident.lid

def State.lidOfGroup (s : State) (g : Fin 256) : Option Nat := (s.groups[g]).map (·.lid)

/-- The launch that an event in flight belongs to, when it discards or awaits it. -/
def State.gangOf (s : State) (i : Instr) : Option Nat :=
  match i with
  | .mxLdb c => s.lidOf c
  | .mxMma c => s.lidOf c
  | .mxStc c => s.lidOf c
  | .mxZc c => s.lidOf c
  | .mxMark c => s.lidOf c
  | .cpLin c => s.lidOf c
  | .cp2d c => s.lidOf c
  | .cpGath c => s.lidOf c
  | .tdDec c => s.lidOf c
  | .gmF2v c => s.lidOf c
  | .gmV2f c => s.lidOf c
  | .gmBel c => s.lidOf c
  | .gmMean c => s.lidOf c
  | .gmDamp c => s.lidOf c
  | .slStart c => s.lidOf c
  | .slStop c => s.lidOf c
  | .slDrain c => s.lidOf c
  | .engineCommandArrival p => (s.launchFor p).map (·.lid)
  | .completionElementArrival lid _ _ _ _ _ => some lid
  | .messageArrival p => (s.launchFor p).map (·.lid)
  | .issueSlotHandoff c => s.lidOf c
  | .sendCommit c _ => s.lidOf c
  | .dequeReload c => s.lidOf c
  | .acknowledgement lid _ _ => some lid
  | .nack lid _ _ _ => some lid
  | .retryResend lid _ _ => some lid
  | .partitionRefusal lid _ _ => some lid
  | .stealRequest c => s.lidOf c
  | .stealRequestArrival v _ => s.lidOf v
  | .stealReply c _ => s.lidOf c
  | .homeOperation op => if op.dev = s.dev then s.lidOf op.core else none
  | .homeResponse c _ _ => s.lidOf c
  | .atsResponse (.ctx c _) _ _ _ => s.lidOf c
  | .atsResponse (.engine c _) _ _ _ => s.lidOf c
  | .waitaArm c _ => s.lidOf c
  | .waitaWake c _ => s.lidOf c
  | .barrierNotification g _ _ _ => s.lidOfGroup g
  | .gatherReport g _ _ => s.lidOfGroup g
  | .barrierCompletion g _ _ => s.lidOfGroup g
  | .vredgContribution g _ _ => s.lidOfGroup g
  | .vredgResult g _ => s.lidOfGroup g
  | .ringOpAtHome op => s.lidOf op.core
  | .ringAnswer c _ _ => s.lidOf c
  | .furledRequestAtHome r => if r.dev = s.dev then s.lidOf r.core else none
  | .evaluationMessage r _ => s.lidOf r.core
  | .furledWake r _ => s.lidOf r.core
  | .spliceAnnihilate c => s.lidOf c
  | .spliceCommute c => s.lidOf c
  | .spliceErase c => s.lidOf c
  | .spliceTemplate c => s.lidOf c
  | .spliceHandler c => s.lidOf c
  | .spliceEngine c => s.lidOf c
  | .engineRuleElement c _ _ => s.lidOf c
  | .bagReload c => s.lidOf c
  | .spliceSteal c => s.lidOf c
  | .bagStealArrival v _ => s.lidOf v
  | .trapRecordArrival _ lid _ => some lid
  | .migrationForward _ p => (s.launchFor p).map (·.lid)
  | .launchCompletion lid _ _ => some lid
  | .childLaunchRequest c _ _ _ => s.lidOf c
  | .launchAnswer c _ _ _ => s.lidOf c
  | .preemptionSaved lid => some lid
  | .gangResume lid => some lid
  | _ => none

/-! The link engine (10 R326). -/

/-- Whether an event is that of a lane of the link engine. -/
def ofLane (n : Nat) (i : Instr) : Bool :=
  match i with
  | .lkAred m => m == n
  | .lkCopy m => m == n
  | _ => false

/-- The commands of a launch are discarded by the link engine, whose free lanes take the next ones. -/
def State.dropLink (s : State) (l : Launch) : State :=
  let mine := (List.range 4).filter fun n => (s.lane? n).any fun k => (s.launchFor k.pkt).any (fun (q : Launch) => q.lid == l.lid)
  let keep := fun (i : Instr) => !mine.any fun n => ofLane n i
  let t := mine.foldl (fun t n => t.setLane n none) s
  let gone := fun (e : BitVec 1 × Nat × BitVec 16) => e.1 == s.dev && l.cores.any fun c => c.val == e.2.1
  ({ t with pending := t.pending.filter keep, parked := t.parked.filter keep, linkq := t.linkq.filter (fun (p : Packet) => !(s.launchFor p).any (fun (k : Launch) => k.lid == l.lid))
            linkRetry := t.linkRetry.filter (fun e => e.pkt.lid != l.lid)
            linkNacks := if l.live then t.linkNacks.filter (fun e => !gone e) else t.linkNacks }).kickLink 4

/-! The end of a launch (01 R40). -/

/-- A core that belongs to no launch: its scratchpad, accumulator and instruction cache are as they were (log 11), and its message counter
(08 R247). -/
def idleCore (k : Core) : Core :=
  { Core.reset with
    sp := k.sp, tlb1 := k.tlb1, icache := k.icache, matrix := { Matrix.zero with acc := k.matrix.acc }
    net := { Net.reset with mid := k.net.mid } }

/-- A migration ends with the answer 4 (14 R436): the destination is free again. -/
def State.endMigration (s : State) (m : Migration) : State :=
  let u : State := { s with migrations := s.migrations.erase m }
  (u.modCtx m.core m.ctx fun k => (k.wx m.d 4).retire 4 (k.seq 4)).unstall m.core m.ctx

/-- The migrations of a launch's cores end. -/
def State.endMigrations (s : State) (l : Launch) : State :=
  (s.migrations.filter fun m => l.cores.contains m.src).foldl State.endMigration s

/-- A launch leaves the machine (01 R40 steps 1 to 4, 09 R306), a Gaussian command in the middle of its result at its end (10 R326): its events, messages, tasks, handlers, waits, commands, groups, ready
records and replicas are gone, what its cores have stored in private regions is written back (log 11), and its clusters are free. -/
def State.endLaunch (s : State) (l : Launch) : State :=
  let cs := if l.live then l.cores else []
  let keep := fun (i : Instr) => s.gangOf i != some l.lid
  let mine := fun (e : FurlReq × Nat) => e.1.dev == s.dev && cs.contains e.1.core
  let t := (((cs.foldl State.gmRest (s.endMigrations l)).emptyL1s fun c w => cs.any (fun d => d.val == c) && w.what != .tracked).dropCleat l).dropLink l
  let t := match l.pairIndex with
    | some k => t.toPeer (.aredPartnerEnded ⟨l.queue, k⟩)
    | none => t
  let u : State := { t with
    pending := t.pending.filter keep, parked := t.parked.filter keep
    waits := t.waits.filter (fun e => !(e.2.2.dev == s.dev && cs.contains e.1)), refused := t.refused.filter (fun e => !mine e)
    groups := t.groups.map fun g => if g.any (fun k => k.lid == l.lid) then none else g
    readyq := t.readyq.filter (fun r => r.lid != l.lid), held := t.held.filter (fun r => r.lid != l.lid)
    clusters := t.clusters.map fun k => { k with replicas := k.replicas.filter fun e => e.2 != l.lid }
    launches := t.launches.filter fun k => k.lid != l.lid }
  cs.foldl (fun t c => t.modCore c idleCore) u.clearEscapes

/-- The launch unit looks for work after a launch has ended. -/
def State.afterEnd (s : State) (q : BitVec 16) : State :=
  let t := (List.finRange 128).foldl State.refreshHead { s with blocked := s.blocked.map fun b => { b with tried := false } }
  ((t.slotOfQueue q).elim t t.slotNext).post .gangPlacement

/-- LAUNCH_COMPLETION (01 R40, 09 R306): by the first DONE that comes, once the operations of its context are performed, its reductions
on furled cells among them (07 R232), or by the fault service (log 71); the completion word is written, then the vector raised. A word
that cannot be written sets ERR, as for an invalid record. -/
def execLaunchCompletion (lid : Nat) (value : Word) (who : Option (CoreId × CtxId)) (s : State) : Out :=
  match s.launch? lid with
  | none => .next s
  | some l =>
    if l.doneBy.isSome ∧ l.doneBy ≠ who then .next s
    else if who.any fun w => s.unperformed w.1 w.2 then
      .next (((s.modLaunch lid fun l => { l with doneBy := who }).serve (.launch lid) ((who.map (·.1)).getD 0)).park (.launchCompletion lid value who))
    else
      let vec := if l.field 483 483 = 1 then s.vectorOf l.queue else none
      let t := s.endLaunch l
      let u := if t.cwordBad l.pasid (cwordOf l.record) then t.killQueue l.queue else t.putCword l.pasid (cwordOf l.record) value vec
      .next (u.afterEnd l.queue)

/-! Teardown (09 R307). -/

/-- The end of a teardown: HEAD ← TAIL, and the slot is unmapped. -/
def State.endTeardown (s : State) (q : BitVec 16) : State :=
  let v := s.modDesc q fun d => setField d 255 224 (Msg.field d 223 192)
  let w : State := { v with bells := Sparse.set [] v.bells q.toNat [], deadQueues := v.deadQueues.filter (· != q), waiting := v.waiting.filter fun e => e.1 != q }
  (match w.slotOfQueue q with
    | some n => (w.unmapSlot n).mapWaiting n
    | none => w).afterEnd q

/-- One thing owed is paid if it can be now: the state, and what is still owed for it. A record that may not be read names no word. -/
def State.pay (s : State) (o : Owed) : State × Option Owed :=
  match o.what with
  | .unmap => (s.endTeardown (o.seq.getD 0), none)
  | .word =>
    if s.cwordBad o.pasid o.va then (s, none)
    else if s.wordReady o.pasid o.va then ((s.writeVa o.pasid o.va 8 o.value.toNat).raise o.vector, none)
    else (s.snoopVa o.pasid o.va 8, some o)
  | .record =>
    match s.unitRead o.pasid o.va 64 with
    | .got v =>
      let va := cwordOf (BitVec.ofNat 512 v)
      if s.cwordBad o.pasid va then (s, none)
      else if s.wordReady o.pasid va then ((s.writeVa o.pasid va 8 o.value.toNat).raise o.vector, none)
      else (s.snoopVa o.pasid va 8, some { o with what := .word, va := va })
    | .refused => (s, none)
    | _ => (s.snoopVa o.pasid o.va 64, some o)

/-- What is owed is paid, as far as it can be: that of one teardown in order. -/
def State.payOwed (s : State) : State :=
  s.owed.foldl (fun t o =>
    if o.seq.isSome && t.owed.any (fun k => k.seq == o.seq) then { t with owed := t.owed ++ [o] }
    else
      let r := t.pay o
      { r.1 with owed := r.1.owed ++ r.2.toList }) { s with owed := [] }

/-- A queue torn down: its dispatch stops; its launches end without their values; and 0xFFFF_FFFF_FFFF_FFFF goes to the completion words of its
launches, its child records and its pending records, in this order. -/
def State.tearDown (s : State) (q : BitVec 16) : State :=
  let ls := s.launchesOf q
  let k := (s.slotOfQueue q).map s.slotAt
  let heads := (k.map fun k => k.head.toList ++ k.aside.toList).getD []
  let kids := (k.map fun k => k.children.map (·.1)).getD []
  let ring := ((heads.filter fun h => !h.child).map (·.record)) ++ ((k.bind fun k => k.taken.map (·.1)).toList)
  let owe := fun (w : OwedWhat) (va : Word) =>
    ({ what := w, seq := some q, pasid := s.queuePasid q, va := va, value := errTorn, vector := none } : Owed)
  let words := (ls.map (·.record) ++ kids ++ ring).map fun r => owe .word (cwordOf r)
  let rest := (List.range (s.ringPending q)).map fun j =>
    owe .record (va57 (BitVec.ofNat 64 (s.qf q 56 6 * 64 + (s.qf q 255 224 + j) % 2 ^ s.qf q 67 64 * 64)))
  let t := ls.foldl State.endLaunch { s with deadQueues := q :: s.deadQueues.filter (· != q) }
  let u := match s.slotOfQueue q with
    | some n => t.modSlot n fun k => { k with head := none, aside := none, taken := none, children := [] }
    | none => t
  State.payOwed { u with
    blocked := u.blocked.filter fun b => some b.who != (s.slotOfQueue q).map HeadRef.slot
    owed := u.owed ++ words ++ rest ++ [owe .unmap 0] }

/-- QUEUE_TEARDOWN (09 R307). -/
def execQueueTeardown (q : BitVec 16) (s : State) : Out := .next (s.tearDown q)

end Sys2Proof.Machine
end

