-- ==== Sys2Proof/Machine/Children.lean ====
section
/-!
DEFINITION. Child launches (09 R313), direct host messages (09 R308) and the ready queue (09 R311).
-/

namespace Sys2Proof.Machine

/-! LAUNCH (09 R313). -/

/-- LAUNCH (09 R312, R313): the record is read as a load of 64 bytes; the request, a release (09 R309), crosses to the launch unit, and the
context holds its slot until the answer. -/
def execLaunch (a : BitVec 5) (s : State) : Out :=
  match s.scalar a 0 64 with
  | .error st => s.stopStep st
  | .ok p =>
    match s.load [p] with
    | .stop st => s.stopStep st
    | .cause q va => trapStep q va s
    | .ask cells => .next ((s.spend 1).askCells cells)
    | .bytes bs qs =>
      releasing true 5 (fun s => .next ((((s.touchAll s.cur false [p] qs).spend 1).stall s.cur s.hot).post
        (.childLaunchRequest s.cur s.hot (BitVec.ofNat 512 (ofBytes (bs.headD []))) p.loc.addr))) s

/-- CHILD_LAUNCH_REQUEST (09 R313): 0x0CD for an invalid record, 0x0CE for a full list, else the record enters the slot's child list with
this cycle as its doorbell. A block or descriptor in a page not present faults the context, which executes LAUNCH again; one that may
not be read is 0x041. -/
def execChildLaunchRequest (c : CoreId) (x : CtxId) (rec0 : Msg) (r : Word) (s : State) : Out :=
  let ans := fun (cause : BitVec 9) (v : Word) => Host.Outcome.next (s.post (.launchAnswer c x cause v))
  match (s.launchOf c).bind fun l => (s.slotOfQueue l.queue).map fun n => (l, n) with
  | none => .next s
  | some (l, n) =>
    match s.checkRecord l.pasid rec0 with
    | .invalid => ans 0x0CD r
    | .stop .miss va => .next (s.post (.atsResponse (.ctx c x) l.pasid va false))
    | .stop .held va => .next ((s.snoopVa l.pasid va 64).park (.childLaunchRequest c x rec0 r))
    | .stop _ va => ans 0x041 va
    | .ok _ =>
      if 16 ≤ (s.slotAt n).children.length then ans 0x0CE r
      else .next (((s.modSlot n fun k => { k with children := k.children ++ [(rec0, s.cyc)] }).kickRead n).post (.launchAnswer c x 0 r))

/-- LAUNCH_ANSWER (09 R313): LAUNCH completes, an irrevocable effect, or raises its cause. -/
def execLaunchAnswer (c : CoreId) (x : CtxId) (cause : BitVec 9) (r : Word) (s : State) : Out :=
  if (s.ctxAt c x).status ≠ .stalled then .next s
  else if cause ≠ 0 then .next (s.takeTrapAt c x cause r 0)
  else .next ((s.modCtx c x fun k => k.commit.retire 4 (k.seq 4)).unstall c x)

/-! Direct host messages (09 R308). -/

/-- The most recently placed running launch of a queue. -/
def State.newest (s : State) (q : BitVec 16) : Option Launch :=
  ((s.launchesOf q).filter fun l => l.phase == .running).foldl (fun best l =>
    match best with
    | none => some l
    | some b => if b.startedAt ≤ l.startedAt then some l else best) none

/-- The doublewords of a queue's direct window. -/
def State.window (s : State) (q : BitVec 16) : BitVec 256 := Sparse.get 0 s.direct q.toNat

/-- Doubleword k of a direct window written. -/
def State.setWindow (s : State) (q : BitVec 16) (k : Nat) (v : Word) : State :=
  let w := s.window q
  { s with direct := Sparse.set 0 s.direct q.toNat (w &&& ~~~(0xFFFFFFFFFFFFFFFF#256 <<< (64 * k)) ||| (v.setWidth 256 <<< (64 * k))) }

/-- Doublewords of a direct window from doubleword k on, those that are given written. -/
def State.fillWindow (s : State) (q : BitVec 16) (k : Nat) (ws : List (Option Word)) : State :=
  match ws with
  | [] => s
  | some v :: r => (s.setWindow q k v).fillWindow q (k + 1) r
  | none :: r => s.fillWindow q (k + 1) r

/-- The message in a direct window leaves for its core, or is dropped and counted; nothing counts one of a queue without a slot (log 63). -/
def State.postWindow (s : State) (q : BitVec 16) : State :=
  let w := s.window q
  let word := fun (k : Nat) => w.extractLsb' (64 * k) 64
  match s.slotOfQueue q with
  | none => s
  | some n =>
    let dropped := s.modSlot n fun k => { k with drops := k.drops + 1 }
    match s.newest q with
    | none => dropped
    | some l =>
      let core := (word 0).toNat
      if 1024 ≤ core ∨ (l.core? core).isNone ∨ (startCores l.record).contains core = false ∨ (word 1).getLsbD 0 then dropped
      else
        let r := s.takeLuMid
        let h := mkHeader 0 0xFFF s.dev core 0 r.1 0x3FF s.dev (l.field 481 481 == 1) 3 0
        r.2.sendLink { lid := l.lid, dst := BitVec.ofNat 10 core, word := Msg.ofWords [h, word 2, word 3], src := .linkDie, kind := .direct (va57 (word 1)) }

/-- DIRECT_MESSAGE (09 R308): a host write of doublewords of the window; one that covers the last posts the message. CXL.io refuses it while it
is not usable (14 R446). -/
def execDirectMessage (q : BitVec 16) (core pc arg1 arg2 : Option Word) (s : State) : Out :=
  if !s.ready 1 then .next (s.refusal .unsupported) else
  let t := s.fillWindow q 0 [core, pc, arg1, arg2]
  .next (if arg2.isSome then t.postWindow q else t)

/-! The ready queue (09 R311). -/

/-- Whether a ready record is sent before another. -/
def Ready.before (a b : Ready) : Bool :=
  decide (b.prio < a.prio ∨ (a.prio = b.prio ∧ (a.cycle < b.cycle ∨ (a.cycle = b.cycle ∧ a.counter ≤ b.counter))))

/-- The record to be sent next: those of a gang that is pre-empted wait. -/
def State.nextReady (s : State) : Option Ready :=
  ((s.readyq.filter fun r => (s.launch? r.lid).any fun l => l.phase == .running).insertionSort fun a b => Ready.before a b).head?

/-- The launch unit sends ready records again. -/
def State.kickReady (s : State) : State :=
  if s.nextReady.isSome && !(s.pending ++ s.parked).contains .readyQueueSend then s.post .readyQueueSend else s

/-- The launch unit's check of a record's header. -/
def State.readyOk (s : State) (l : Launch) (r : Ready) : Bool :=
  let f := fun (hi lo : Nat) => Msg.field r.word hi lo
  let e := s.classEntry l.pasid (f 63 58)
  f 3 0 == 0 && classValid e && f 34 32 == 0 && f 45 45 == s.dev.toNat && f 44 35 != 0x3FF &&
    match l.core? (f 44 35) with
    | some d => s.reaches r.core (classReach e) d
    | none => false

/-- A ready record leaves for its core, or is dropped with 0x0C5. -/
def State.sendReady (s : State) (l : Launch) (r : Ready) : State :=
  let t : State := { s with readyq := s.readyq.erase r }
  if s.readyOk l r then
    let m := t.takeLuMid
    let w := withHw (withXt r.word (l.field 481 481 == 1)) m.1 0x3FF s.dev
    m.2.sendLink { lid := l.lid, dst := BitVec.ofNat 10 (Msg.field r.word 44 35), word := w, src := .linkDie, kind := .plain }
  else match l.cores.head? with
    | some c => t.reportFrom l.lid c 4 0 0x0C5 r.va
    | none => t

/-- READY_QUEUE_SEND (09 R311, 14 R449): the first record, unless dispatch is held. -/
def execReadyQueueSend (s : State) : Out :=
  if s.mgmt.hold then .next s
  else match s.nextReady with
    | none => .next s
    | some r => (match s.launch? r.lid with
      | some l => .next (s.sendReady l r).kickReady
      | none => .next s)

/-- READY_QUEUE_REOFFER (09 R311): a release that waits is offered again, with its original cycle. -/
def execReadyQueueReoffer (pa : Nat) (s : State) : Out :=
  match s.held.find? fun h => h.pa == pa with
  | none => .next s
  | some h =>
    let r := { s with held := s.held.erase h }.offer h
    .next { r.1 with held := r.1.held ++ r.2.toList }

end Sys2Proof.Machine
end

