-- ==== Sys2Proof/Machine/Copy.lean ====
section
/-!
DEFINITION. The copy engine (10 R338, R339), the decode engine (03 R89 to R94, 10 R340) and the link engine (10 R342 to R344).
-/

namespace Sys2Proof.Machine

/-! Copies. -/

/-- One chunk: n bytes read in full, then written (10 R339). -/
def State.copyChunk (s : State) (w : Eng) (src dst : EAddr) (n : Nat) : Except EngStop State := do
  let (bs, t) ← s.engRead w [(src, n)]
  let ps ← t.engCheck w [(dst, n)]
  return t.engWrite w ps (bs.headD [])

/-- A chunk is done and total bytes are to be copied in all. -/
def State.copied (s : State) (w : Eng) (n total : Nat) : State :=
  if n = total then s.finishCmd w (BitVec.ofNat 32 n) (BitVec.ofNat 32 n) 0 0 else s.engMore w n

/-- The next chunk of a linear copy of LEN bytes, of the copy engine or the link engine (10 R339, R343). -/
def linGo (w : Eng) (rule : SpRule) (p : Packet) (s : State) : Except EngStop State :=
  if !reservedClear p.word [(231, 192), (191, 64)] then .error (.cause 0x083)
  else do
    let src ← (s.engAddr w rule (Msg.word p.word 1)).mapError EngStop.cause
    let dst ← (s.engAddr w rule (Msg.word p.word 2)).mapError EngStop.cause
    let len := Msg.field p.word 231 192
    let i := (s.runOf w).progress
    let n := min 64 (len - i)
    let t ← s.copyChunk w (src.plus i) (dst.plus i) n
    return t.copied w (i + n) len

/-- CP_LIN (10 R339). -/
def execCpLin (c : CoreId) (s : State) : Out := engStep (.unit c 2) 1 (linGo (.unit c 2) .any) s

/-- The next chunk of a two-dimensional copy: a run of at most 64 bytes within a row. -/
def go2d (w : Eng) (p : Packet) (s : State) : Except EngStop State :=
  if !reservedClear p.word [(239, 192), (383, 256), (191, 64)] then .error (.cause 0x083)
  else do
    let src ← (s.engAddr w .any (Msg.word p.word 1)).mapError EngStop.cause
    let dst ← (s.engAddr w .any (Msg.word p.word 2)).mapError EngStop.cause
    let rowb := Msg.field p.word 223 192
    let total := rowb * (Msg.field p.word 239 224 + 1)
    let i := (s.runOf w).progress
    let j := i / rowb
    let o := i % rowb
    let n := min 64 (rowb - o)
    let t ← s.copyChunk w (src.plus (j * (Msg.word p.word 4).toInt + o)) (dst.plus (j * (Msg.word p.word 5).toInt + o)) n
    return t.copied w (i + n) total

/-- CP_2D (10 R339). -/
def execCp2d (c : CoreId) (s : State) : Out := engStep (.unit c 2) 2 (go2d (.unit c 2)) s

/-- The next element of a gather. -/
def gatherGo (w : Eng) (p : Packet) (s : State) : Except EngStop State :=
  if !reservedClear p.word [(290, 192), (191, 64)] ∨ Msg.field p.word 290 288 = 7 then .error (.cause 0x083)
  else do
    let src ← (s.engAddr w .any (Msg.word p.word 1)).mapError EngStop.cause
    let dst ← (s.engAddr w .any (Msg.word p.word 2)).mapError EngStop.cause
    let idx ← (s.engAddr w .any (Msg.word p.word 3)).mapError EngStop.cause
    let z := 2 ^ Msg.field p.word 290 288
    let count := Msg.field p.word 287 256
    let n := (s.runOf w).progress
    if n = count * z then return s.copied w n n
    let i := n / z
    let (bs, t) ← s.engRead w [(idx.plus (4 * i), 4)]
    let u ← t.copyChunk w (src.plus (ofBytes (bs.headD []) * z)) (dst.plus n) z
    return u.copied w (n + z) (count * z)

/-- CP_GATH (10 R339). -/
def execCpGath (c : CoreId) (s : State) : Out := engStep (.unit c 2) 3 (gatherGo (.unit c 2)) s

/-! Token blocks (03 R89 to R93). -/

/-- The bits of bytes, bit 7 first within each byte. -/
def streamBits (bs : List Byte) : List Bool := bs.flatMap fun b => (List.range 8).map fun i => b.getLsbD (7 - i)

/-- The number that bits stand for, most significant first. -/
def msbFirst (bs : List Bool) : Nat := bs.foldl (fun n b => 2 * n + if b then 1 else 0) 0

/-- Leading ones of a code, at most 5, and the bits after it; the terminating zero of a shorter code is consumed. -/
def codeOnes (bs : List Bool) (fuel n : Nat) : Option (Nat × List Bool) :=
  match fuel with
  | 0 => some (n, bs)
  | f + 1 => (match bs with
    | [] => none
    | true :: r => codeOnes r f (n + 1)
    | false :: r => some (n, r))

/-- One exponent of the coded stream with base b, w exponent bits (03 R91): none when malformed. -/
def codedExp (base : Nat) (w : Nat) (bs : List Bool) : Option (Nat × List Bool) :=
  (codeOnes bs 5 0).bind fun r =>
    if r.1 = 5 then (if r.2.length < w then none else some (msbFirst (r.2.take w), r.2.drop w))
    else
      let d : Int := match r.1 with
        | 0 => 0
        | 1 => -1
        | 2 => 1
        | 3 => -2
        | _ => 2
      let e := (base : Int) + d
      if e < 0 ∨ (2 ^ w : Int) ≤ e then none else some (e.toNat, r.2)

/-- n exponents of the coded stream, and the bits left. -/
def codedExps (base w n : Nat) (bs : List Bool) : Option (List Nat × List Bool) :=
  match n with
  | 0 => some ([], bs)
  | m + 1 => (codedExp base w bs).bind fun r => (codedExps base w m r.2).map fun q => (r.1 :: q.1, q.2)

/-- A token block's bytes: its scale and its 128 FP8 bytes; none when malformed (03 R93); len is its group-table entry. -/
def decodeToken (len : Nat) (bs : List Byte) : Option (Byte × Bool × List Byte) :=
  let h := ofBytes (bs.take 4)
  let e5 := bitsOf h 17 16 == 1
  let base := bitsOf h 23 19
  let w := if e5 then 5 else 4
  let mb := if e5 then 2 else 3
  let area := if e5 then 48 else 64
  let sm := ofBytes ((bs.drop 4).take area)
  let rest := bs.drop (4 + area)
  if 2 ≤ bitsOf h 17 16 ∨ bitsOf h 7 0 ≠ 0 ∨ (!e5 ∧ 15 < base) ∨ bitsOf h 15 8 ≠ len then none
  else
    let exps : Option (List Nat) :=
      if bitsOf h 18 18 = 1 then
        (if len = 33 then some ((List.range 128).map fun i => (ofBytes rest >>> (w * i)) % 2 ^ w) else none)
      else (codedExps base w 128 (streamBits rest)).bind fun r => if r.2.length < 32 ∧ r.2.all (!·) then some r.1 else none
    exps.map fun es => (BitVec.ofNat 8 (bitsOf h 31 24), e5, ((List.range 128).zip es).map fun e =>
      let f := (sm >>> ((mb + 1) * e.1)) % 2 ^ (mb + 1)
      BitVec.ofNat 8 (f / 2 ^ mb * 128 + e.2 * 2 ^ mb + f % 2 ^ mb))

/-- The 132 bytes of a block aligned with W = 8 (10 R340, 03 R87): what a NaN or an infinity aligns to is not stated. -/
def fixedBlock (tick : Nat) (xt : Bool) (scale : Byte) (e5 : Bool) (es : List Byte) : List Byte :=
  let vs := es.map fun b => if scale = 0xFF then FVal.nan false else (codeValue (if e5 then 5 else 4) xt b.toNat).scale ((scale.toNat : Int) - 127)
  let e := max (-127) ((((vs.filter fun v => !v.special && !v.isZero).map FVal.exponent).max?).getD (-127))
  let qs := ((List.range 128).zip vs).map fun v => if v.2.special then Config.nanInteger tick v.1 else BitVec.ofInt 8 (blockFixed 8 e v.2)
  qs ++ toBytes 4 (ofSigned 16 e + (if vs.any FVal.special then 2 ^ 16 else 0))

/-- The next block of TD.DEC (03 R94, 10 R340). -/
def decGo (c : CoreId) (p : Packet) (s : State) : Except EngStop State :=
  let w := p.word
  let me := Eng.unit c 3
  let dst := Msg.word w 4
  let sdst := Msg.word w 5
  match firstCause [(!reservedClear w [(383, 256), (240, 64)], 0x083), (dst.extractLsb' 60 4 != 15 || (sdst != 0 && sdst.extractLsb' 60 4 != 15), 0x047)] with
  | some q => .error (.cause q)
  | none => do
    let data ← (s.engAddr me .own (Msg.word w 1)).mapError EngStop.cause
    let gtab ← (s.engAddr me .own (Msg.word w 2)).mapError EngStop.cause
    let d ← (s.engAddr me .own dst).mapError EngStop.cause
    let sd ← (s.engAddr me .own sdst).mapError EngStop.cause
    let b := (s.runOf me).progress
    let n := Msg.field w 223 192 + b
    let (gs, t1) ← s.engRead me [(gtab.plus (20 * (n / 16)), 20)]
    let g := gs.headD []
    let lens := (g.drop 4).map (·.toNat)
    let len := lens.getD (n % 16) 0
    let at' := data.plus ((ofBytes (g.take 4) + 4 * (lens.take (n % 16)).foldl (· + ·) 0 : Nat) : Int)
    let (hs, t2) ← t1.engRead me [(at', 4)]
    if len = 0 ∨ bitsOf (ofBytes (hs.headD [])) 15 8 ≠ len then .error (.cause 0x082)
    let (bs, t3) ← t2.engRead me [(at', 4 * len)]
    match decodeToken len (bs.headD []) with
    | none => .error (.cause 0x082)
    | some (scale, e5, es) =>
      let fixed := Msg.field w 240 240 == 1
      let z : Nat := if fixed then 132 else 128
      let ps ← t3.engCheck me [(d.plus (z * b), z)]
      let ss ← if fixed ∨ sdst = 0 then pure [] else t3.engCheck me [(sd.plus b, 1)]
      let t4 := (t3.engWrite me ps (if fixed then fixedBlock t3.tick (Msg.field w 4 4 == 1) scale e5 es else es)).engWrite me ss [scale]
      let t5 := if fixed then t4.tock else t4
      let done := BitVec.ofNat 32 (b + 1)
      if b = Msg.field w 239 224 then return t5.finishCmd me done done 0 0 else return t5.engMore me (b + 1)

/-- TD_DEC (10 R340). -/
def execTdDec (c : CoreId) (s : State) : Out := engStep (.unit c 3) 1 (decGo c) s

/-! The link engine. -/

/-- LK_COPY (10 R343). -/
def execLkCopy (n : Nat) (s : State) : Out := engStep (.link n) 2 (linGo (.link n) .none) s

/-- Bytes of an element of LK.ARED. -/
def aredSize (op : Nat) : Nat := if op = 2 then 8 else 4

/-- combine of LK.ARED: device 0's operand first (10 R344, 03 R101). -/
def aredCombine (op a b : Nat) : Nat :=
  match op with
  | 0 => addF32ne a b
  | 1 => (a + b) % 2 ^ 32
  | 2 => (a + b) % 2 ^ 64
  | 3 => redFn 4 0 a b
  | _ => redFn 5 0 a b

/-- Pages of 4 KiB that n bytes at va touch: the address of each. -/
def pagesOf (va : Word) (n : Nat) : List Word :=
  if n = 0 then []
  else (List.range ((low57 va + n - 1) / 4096 + 1 - low57 va / 4096)).map fun i => va57 (BitVec.ofNat 64 (4096 * (low57 va / 4096 + i)))

/-- The cause of an attribute that LK.ARED does not take (10 R344, 06 R457). -/
def aredAttr (attr : BitVec 2) : Option (BitVec 9) :=
  match attr.toNat with
  | 0 => some 0x044
  | 1 => some 0x043
  | 2 => none
  | _ => some 0x083

/-- Whether the command of a launch has a partner: one half of a paired launch, with a trained peer (10 R342, R344). -/
def State.hasPartner (s : State) (p : Packet) : Bool :=
  s.peerTrained && (match s.launchFor p with
    | some l => l.pairIndex.isSome
    | none => false)

/-- The pairing tag of an ARED. -/
def pairTag (w : Msg) : BitVec 16 := BitVec.ofNat 16 (Msg.field w 178 163)

/-- An ARED with a partner takes its place among those of its tag from this half of the paired launch. -/
def State.pairAred (s : State) (n : Nat) (p : Packet) : State :=
  let tag := (pairTag p.word).toNat
  match s.launchFor p with
  | some l =>
    let ord := Sparse.get 0 l.areds tag
    (s.setLane n ((s.lane? n).map fun k => { k with ord := some ord })).modLaunch l.lid fun l => { l with areds := Sparse.set 0 l.areds tag (ord + 1) }
  | none => s

/-- LK.ARED when it is taken (10 R344): its checks, and its end when it has no partner; else it is paired. -/
def aredTake (n : Nat) (p : Packet) (s : State) : Except EngStop State :=
  let w := p.word
  let me := Eng.link n
  let op := Msg.field w 162 160
  let count := Msg.field w 159 128
  let buf := Msg.word w 1
  let pages := pagesOf buf (count * aredSize op)
  let pasid := s.engPasid me
  match firstCause [
      (!reservedClear w [(178, 64)] || decide (5 ≤ op) || decide (count = 0 ∨ 2 ^ 28 < count), 0x083),
      (buf.extractLsb' 60 4 == 15, 0x047), (decide (buf.toNat % 64 ≠ 0), 0x042)] with
  | some q => .error (.cause q)
  | none =>
    match pages.findSome? fun va => aredAttr (s.region pasid va).attr with
    | some q => .error (.cause q)
    | none =>
      let alone := !s.hasPartner p
      match pages.find? fun va => match s.hostPhys pasid va false with
        | some pa => !s.ownMem pa
        | none => alone with
      | some va => if (s.hostPhys pasid va false).isSome then .error (.cause 0x083) else .error (.miss va false)
      | none =>
        if alone then .ok (s.tock.finishCmd me (Config.unstated s.tick) 0 0 2)
        else .ok ((s.pairAred n p).engNext me)

/-- Where the next chunk of an ARED lies, and its elements. -/
def State.aredAt (s : State) (n : Nat) (p : Packet) : EAddr × Nat :=
  let z := aredSize (Msg.field p.word 162 160)
  let done := (s.runOf (.link n)).progress
  ((EAddr.mem (va57 (Msg.word p.word 1))).plus (done * z), min (4096 / z) (Msg.field p.word 159 128 - done))

/-- A paired ARED reads its next chunk and sends it to its partner (10 R344), unless that has been done. -/
def aredRead (n ord : Nat) (p : Packet) (s : State) : Except EngStop State := do
  let me := Eng.link n
  if !(s.runOf me).words.isEmpty then return s
  let c := s.aredAt n p
  let len := c.2 * aredSize (Msg.field p.word 162 160)
  match c.1 with
  | .mem va =>
    if (pagesOf va len).any fun va => (s.hostPhys (s.engPasid me) va false).any fun pa => !s.ownMem pa then .error (.cause 0x083)
  | .sp _ _ => pure ()
  let (bs, t) ← s.engRead me [(c.1, len)]
  let u := t.modRun me fun r => { r with words := [(c.1, bs.flatten)], answers := [] }
  match s.launchFor p with
  | some l => return u.toPeer (.aredChunkExchange ⟨⟨l.queue, l.pairIndex.getD 0⟩, pairTag p.word, ord⟩ bs.flatten)
  | none => return u

/-- LK.ARED: its taking, then the reading of its next chunk; 0x0D1 once the partner's launch has ended. -/
def aredGo (n : Nat) (p : Packet) (s : State) : Except EngStop State :=
  match (s.lane? n).bind (·.ord) with
  | none => aredTake n p s
  | some ord => if (s.launchFor p).any (·.partnerEnded) then .error (.cause 0x0D1) else aredRead n ord p s

/-- LK_ARED (10 R344). -/
def execLkAred (n : Nat) (s : State) : Out := engStep (.link n) 1 (aredGo n) s

/-- The chunk that has been read combined with the partner's and written. -/
def aredChunk (n : Nat) (peer : List Byte) (p : Packet) (s : State) : Except EngStop State := do
  let me := Eng.link n
  let op := Msg.field p.word 162 160
  let z := aredSize op
  let c := s.aredAt n p
  let mine := ((s.runOf me).words.headD (c.1, [])).2
  if peer.length ≠ c.2 * z then return s
  let ps ← s.engCheck me [(c.1, c.2 * z)]
  let pick := fun (l : List Byte) (i : Nat) => ofBytes ((l.drop (i * z)).take z)
  let new := (List.range c.2).flatMap fun i =>
    toBytes z (if s.dev = 0 then aredCombine op (pick mine i) (pick peer i) else aredCombine op (pick peer i) (pick mine i))
  let u := s.engWrite me ps new
  let done := (s.runOf me).progress + c.2
  if done = Msg.field p.word 159 128 then
    return u.tock.finishCmd me (Config.unstated u.tick) (BitVec.ofNat 32 done) 0 0
  else return u.engMore me done

/-- The lane that runs an ARED, by its launch, its tag and its place among those of the tag. -/
def State.aredLane (s : State) (a : AredPlace) : Option Nat :=
  (List.range 4).find? fun n => (s.lane? n).any fun e => e.ord == some a.ord && pairTag e.pkt.word == a.tag
    && (s.launchFor e.pkt).any fun l => l.isHalf a.half

/-- Whether an ARED of a paired launch is still to come: the launch is to be placed, or runs and has not taken it. -/
def State.aredAhead (s : State) (a : AredPlace) : Bool :=
  s.halfAhead a.half || s.launches.any fun l => l.isHalf a.half && decide (Sparse.get 0 l.areds a.tag.toNat ≤ a.ord)

/-- ARED_CHUNK_EXCHANGE (10 R344): the partner's chunk is combined with this buffer's. It waits for the ARED and its own chunk, and where
the buffer's page or a line of it must come first. -/
def execAredChunkExchange (a : AredPlace) (peer : List Byte) (s : State) : Out :=
  let again := Instr.aredChunkExchange a peer
  match s.aredLane a with
  | none => .next (if s.aredAhead a then s.park again else s)
  | some n => match s.lane? n with
    | none => .next s
    | some e =>
      if !s.engReady (.link n) || (s.runOf (.link n)).words.isEmpty then .next (s.park again)
      else match aredChunk n peer e.pkt (s.modRun (.link n) fun r => { r with lines := [] }) with
        | .ok t => .next t
        | .error (.cause c) => .next (s.failCmd (.link n) c)
        | .error st => .next ((s.engHold (.link n) st).park again)

/-- ARED_PARTNER_ENDED (10 R344): every ARED of the launch that waits for its partner fails with 0x0D1. The notice waits for a half that is
still to be placed. -/
def execAredPartnerEnded (h : LaunchHalf) (s : State) : Out :=
  if s.halfAhead h then .next (s.park (.aredPartnerEnded h)) else
  let t : State := { s with launches := s.launches.map fun l => if l.isHalf h then { l with partnerEnded := true } else l }
  let waits := (List.range 4).filter fun n => (t.lane? n).any fun e => e.ord.isSome && (t.launchFor e.pkt).any (·.isHalf h)
  .next (waits.foldl (fun t n => t.failCmd (.link n) 0x0D1) t)

end Sys2Proof.Machine
end

