-- ==== Sys2Proof/Machine/Preempt.lean ====
section
/-!
DEFINITION. Pre-emption, the context image and resumption (09 R302, 14 R433 to R435), and migration (14 R436, R437).
-/

namespace Sys2Proof.Machine

/-! Stopping cores (14 R433). -/

/-- Dirty lines written back, private ones included, U partials sent home, and the L1s of the cores emptied (14 R433 step 4). -/
def State.flushL1 (s : State) (cs : List CoreId) : State :=
  cs.foldl (fun t c => (((t.l1 c).ways.foldl (fun u w => u.evict c w) t)).setL1 c L1.empty) s

/-- A core without its TLB and caches. -/
def Core.cold (k : Core) : Core := { k with tlb1 := [], icache := [] }

/-- A core whose engines stand at a boundary: what they had read of their next unit of work is read again (10 R326). -/
def Core.atBoundary (k : Core) : Core :=
  { k with gm := { k.gm with run := { k.gm.run with words := [] } }, splice := { k.splice with wait := { k.splice.wait with words := [] } } }

/-- Every context of a core with its times changed by f: an image holds wdog.USED itself (14 R434). -/
def Core.retime (k : Core) (f : Ctx → Nat) : Core :=
  { k with ctxs := k.ctxs.map (fun q => { q with since := f q, busy := 0 }), next := 0 }

/-- Events that only make a core of a gang look for work: resumption finds them again. -/
def isKick (i : Instr) : Bool :=
  match i with
  | .mxLdb _ | .mxMma _ | .mxStc _ | .mxZc _ | .mxMark _ | .cpLin _ | .cp2d _ | .cpGath _ | .tdDec _ => true
  | .gmF2v _ | .gmV2f _ | .gmBel _ | .gmMean _ | .gmDamp _ | .slStart _ | .slStop _ | .slDrain _ => true
  | .issueSlotHandoff _ | .sendCommit _ _ | .dequeReload _ | .stealRequest _ | .bagReload _ | .spliceSteal _ => true
  | .spliceAnnihilate _ | .spliceCommute _ | .spliceErase _ | .spliceTemplate _ | .spliceHandler _ | .spliceEngine _ => true
  | _ => false

/-- Events that are kept for the resumption of a gang. -/
def isKept (i : Instr) : Bool :=
  match i with
  | .evaluationMessage _ _ | .vredgResult _ _ | .engineRuleElement _ _ _ | .bagStealArrival _ _ => true
  | _ => false

/-- Whether an operation of a core of device `dev` is under way: its contexts stand between instructions once it has ended (14 R433 step 2). -/
def coreBusy (dev : BitVec 1) (c : CoreId) (i : Instr) : Bool :=
  match i with
  | .homeOperation op => op.dev == dev && op.core == c
  | .homeResponse d _ _ => d == c
  | .childLaunchRequest d _ _ _ => d == c
  | .launchAnswer d _ _ _ => d == c
  | _ => false

/-- Whether the Gaussian unit of a core has written a part of what its command writes: a boundary lies behind the rest (10 R326, 12 R390). -/
def State.writingOut (s : State) (c : CoreId) : Bool := (s.unitAt c 4).run.final.isSome

/-- A unit's event in flight, unless it is or waits. -/
def State.keepGoing (s : State) (w : Eng) : State :=
  match s.engEvent w with
  | some i => if (s.pending ++ s.parked).contains i then s else s.post i
  | none => s

/-- Whether a core's units have to go on before they stand at a boundary (14 R433 step 3). -/
def State.midway (s : State) (c : CoreId) : Bool := s.rewriting c || s.writingOut c

/-- A core's units go on to a boundary. -/
def State.finishUnits (s : State) (c : CoreId) : State :=
  let t := if s.rewriting c then s.slNext c else s
  if t.writingOut c then t.keepGoing (.unit c 4) else t

/-! The image (14 R434). -/

/-- A context's registers in the order in which 14 R434 lists them (log 31): the context registers of 14 R427 by their numbers; `since` holds
wdog.USED. -/
def Ctx.imageWords (q : Ctx) : List Word :=
  q.pc :: q.x.toList ++ (q.v.toList.flatMap fun m => (List.range 8).map (Msg.word m)) ++ q.k.toList
    ++ [q.fmt, BitVec.ofNat 64 (q.since % 2 ^ 32 * 2 ^ 32 + q.budget.toNat), q.lstat.setWidth 64, q.lc0, q.ls0, q.le0, q.lc1, q.ls1, q.le1
        , q.tcause, q.tpc, q.tval, q.tmsg, q.evCell, q.evChain0, q.evChain1, q.evChain2]

/-- Byte o of a core's image: the contexts' registers, the accumulator and the scratchpad as they are, any other byte open (log 31). -/
def imageAt (tick rel : Nat) (k : Core) (o : Nat) : Byte :=
  if 0xFC00 ≤ o then k.sp.byte (o - 0xFC00)
  else if 0xBC00 ≤ o then (toBytes 4 (Sparse.get 0 k.matrix.acc ((o - 0xBC00) / 4)).toNat).getD (o % 4) 0
  else if 0x200 ≤ o ∧ o < 0x2A00 then
    match ((k.ctxs[((o - 0x200) / 2560) % 4]'(Nat.mod_lt _ (by decide))).imageWords)[(o - 0x200) % 2560 / 8]? with
    | some w => BitVec.ofNat 8 (w.toNat >>> (8 * (o % 8)))
    | none => Config.imageByte tick rel o
  else Config.imageByte tick rel o

/-- The core part of a core's image written to the save area, 64 bytes at a time; lines whose page is not granted are left out (log
31). -/
def State.writeImage (s : State) (pasid : BitVec 20) (save rel : Nat) (k : Core) : State :=
  (List.range 7152).foldl (fun t j =>
    t.writeVa pasid (va57 (BitVec.ofNat 64 (save + rel * 0x70000 + 64 * j))) 64
      (ofBytes ((List.range 64).map fun i => imageAt s.tick rel k (64 * j + i)))) s

/-- Lines of a gang's save area that the host holds exclusively (07 R225). -/
def State.saveHeld (s : State) (l : Launch) : List Nat :=
  let base := s.qf l.queue 184 128
  ((s.lines.filter fun e => e.2.host == .exclusive).map (·.1)).filter fun n =>
    (s.mapsTo l.pasid (64 * n)).any fun va => decide (base ≤ low57 va ∧ low57 va < base + l.size * 0x70000)

/-- A gang leaves its cores: images, waits and what is under way for it are kept with the launch (09 R302). -/
def State.saveGang (s : State) (l : Launch) : State :=
  let cs := l.cores
  let s1 := s.flushL1 cs
  let images := cs.map fun c => (((s1.coreAt c).retime s.usedOf).cold).atBoundary
  let s2 := images.zipIdx.foldl (fun t e => t.writeImage l.pasid (s.qf l.queue 184 128) e.2 e.1) s1
  let mine := fun (i : Instr) => s2.gangOf i == some l.lid
  let kept := (s2.pending ++ s2.parked).filter fun i => mine i && isKept i
  let own := fun (e : FurlReq × Nat) => e.1.dev == s.dev && cs.contains e.1.core
  let armed := fun (e : CoreId × CtxId × WaitaOp) => e.2.2.dev == s.dev && cs.contains e.1
  let again := (s2.refused.filter own).map fun e => Instr.furledRequestAtHome e.1
  let t : State := { s2 with
    tick := s2.tick + 1
    pending := s2.pending.filter (fun i => !mine i), parked := s2.parked.filter (fun i => !mine i)
    refused := s2.refused.filter (fun e => !own e), waits := s2.waits.filter (fun e => !armed e) }
  let u := (t.mapCleat (·.map fun e => if e.ofLaunch s.dev l then .saved l.lid e else e)).modLaunch l.lid fun m => { m with
    phase := .saved, missed := false, images := images, kept := s2.waits.filter armed, inbox := m.inbox ++ kept ++ again, enteredAt := s.cyc }
  (cs.foldl (fun t c => t.modCore c fun k => (idleCore k).cold) u).post .gangPlacement

/-- PREEMPTION_SAVED (09 R302, 14 R433): once nothing of the gang is under way, its images are written and its clusters are free. -/
def execPreemptionSaved (lid : Nat) (s : State) : Out :=
  match s.launch? lid with
  | none => .next s
  | some l =>
    if l.phase ≠ .saving then .next s
    else if (s.pending ++ s.parked).any (fun i => s.gangOf i == some lid && !isKick i && !isKept i && i != .preemptionSaved lid) then
      .next (s.park (.preemptionSaved lid))
    else if l.cores.any s.midway then .next ((l.cores.foldl State.finishUnits s).park (.preemptionSaved lid))
    else if !(s.saveHeld l).isEmpty then .next (((s.saveHeld l).foldl State.snoopHost s).park (.preemptionSaved lid))
    else .next (s.saveGang l)

/-! Resumption (14 R435). -/

/-- A core goes on from its image: faulted contexts and engines try again, and its units look for work. -/
def State.restart (s : State) (c : CoreId) : State :=
  let t := (List.finRange 4).foldl (fun t x => t.resumeFault c x) s
  let u := (List.range 4).foldl (fun t i =>
    let w : Eng := .unit c (BitVec.ofNat 3 (i + 1))
    let r := t.modRun w fun r => { r with fault := none, denied := false }
    if r.engReady w then r.engNext w else r) t
  let v := ((u.modRun (.unit c 5) fun r => { r with fault := none, denied := false }).slNext c).recommit c
  (if (v.coreAt c).net.reloading then v.post (.dequeReload c) else v).wakeCore c

/-- A launch's saved cleat entries and waits in force again; the wakes of those that were satisfied meanwhile are delivered (15 R454). -/
def State.rearm (s : State) (l : Launch) : State :=
  let t := s.mapCleat (·.map fun e => match e with
    | .saved lid k => if lid = l.lid then k else e
    | _ => e)
  let u : State := { t with waits := l.kept.foldl insertWait t.waits }
  (l.kept.filter fun e => e.2.2.met.isSome).foldl (fun u e => (u.disarm s.dev e.1 e.2.1).post (.waitaWake e.1 e.2.1)) u

/-- GANG_RESUME (09 R302, 14 R435): the images are written back, the kept waits and events are in force again, and the cores continue. -/
def execGangResume (lid : Nat) (s : State) : Out :=
  match s.launch? lid with
  | none => .next s
  | some l =>
    if l.phase ≠ .resuming then .next s
    else
      let t := (l.cores.zip l.images).foldl (fun (t : State) (e : CoreId × Core) => t.modCore e.1 fun _ => e.2.retime (fun q => s.cyc - q.since)) s
      let u := ((t.rearm l).modLaunch lid fun m => { m with phase := .running, images := [], kept := [], inbox := [], enteredAt := s.cyc }).postAll l.inbox
      .next (l.cores.foldl State.restart u).kickReady

/-! Migration (14 R436, R437). -/

/-- Why a migration does not begin, as MIGRATE reports it; 0 where it may. -/
def State.migrateCode (s : State) (src dst : CoreId) : Nat :=
  if src = dst then 3
  else if (s.launchOf src).all (fun l => l.phase != .running) || s.migrations.any (fun m => m.src == src) then 2
  else if (s.coreAt dst).ident.lid.isSome || (s.launches.any fun l => l.held.contains (dst.val / 4)) || s.migrated.any (fun e => e.1 == dst)
    || s.migrations.any (fun m => m.dst == dst) then 1
  else 0

/-- A migration begins: the source refuses arrivals, and the firmware's context holds its slot. -/
def State.beginMigration (s : State) (d : BitVec 5) (src dst : CoreId) : State :=
  let t : State := (s.modCore src fun k => { k with net := { k.net with refusing := true } }).stall s.cur s.hot
  let g : Migration := { src := src, dst := dst, core := s.cur, ctx := s.hot, d := d }
  State.post { t with migrations := t.migrations ++ [g] } (.migrationImageInstalled src dst)

/-- The work of a core moved to another core (14 R437 steps 1 to 3). -/
def State.moveWork (s : State) (lid : Nat) (src dst : CoreId) : State :=
  let m := [(src, dst)]
  let s1 := s.flushL1 [src]
  let img := ((moveCore m (s1.coreAt src)).cold).atBoundary
  let t := (s1.modCore dst fun _ => { img with net := { img.net with refusing := false } }).modCore src fun k => (idleCore k).cold
  let u := t.moveGang lid m
  let moveWait := fun (e : CoreId × CtxId × WaitaOp) => if e.2.2.dev = s.dev then (moveTo m e.1, e.2) else e
  { u.mapCleat (·.map fun e => match e with
      | .saved _ _ => e
      | _ => moveCleat s.dev m e) with
    waits := (u.waits.map moveWait).foldl insertWait []
    refused := u.refused.map fun e => (moveReq s.dev m e.1, e.2)
    routers := u.routers.map fun k => { k with merge := k.merge.map fun e => { e with waiters := e.waiters.map fun w => match w with
      | .core c => .core (moveTo m c)
      | w => w } }
    linkNacks := u.linkNacks.map fun e => if e.1 = s.dev ∧ e.2.1 = src.val then (e.1, dst.val, e.2.2) else e
    pending := u.pending.map (moveInstr s.dev m), parked := u.parked.map (moveInstr s.dev m), migrated := u.migrated ++ [(src, dst)] }

/-- MIGRATION_IMAGE_INSTALLED (14 R437): once the source stands between instructions, its image is installed at the destination, which
resumes; the source keeps a forwarding entry, and MIGRATE answers 0. -/
def execMigrationImageInstalled (src dst : CoreId) (s : State) : Out :=
  match s.migrations.find? (fun g => g.src == src && g.dst == dst), s.launchOf src with
  | some g, some l =>
    if (s.pending ++ s.parked).any (coreBusy s.dev src) then .next (s.park (.migrationImageInstalled src dst))
    else if s.midway src then .next ((s.finishUnits src).park (.migrationImageInstalled src dst))
    else
      let t := s.moveWork l.lid src dst
      let w : State := { t with migrations := t.migrations.erase g }
      let u := (w.modCtx g.core g.ctx fun k => (k.wx g.d 0).retire 4 (k.seq 4)).unstall g.core g.ctx
      .next ((u.restart dst).post (.mapAcknowledged src))
  | _, _ => .next s

/-- MIGRATION_FORWARD (14 R437): an arrival passed on to the destination. -/
def execMigrationForward (c : CoreId) (p : Packet) (s : State) : Out :=
  match s.launchFor p with
  | none => .next s
  | some l =>
    match l.core? p.dst.toNat with
    | none => .next s
    | some d =>
      if l.phase ≠ .running then .next (s.refuseSaved l d p)
      else .next (if packetUnit p = 0 then s.deliverMail d p (.migrationForward c p) else s.deliverCommand d p)

/-- Whether an arrival is on its way through a forwarding entry. -/
def forwards (c : CoreId) (i : Instr) : Bool :=
  match i with
  | .migrationForward d _ => d == c
  | _ => false

/-- MAP_ACKNOWLEDGED (14 R437 step 5): the forwarding entry is freed, after what it has taken has been passed on. -/
def execMapAcknowledged (c : CoreId) (s : State) : Out :=
  if (s.pending ++ s.parked).any (forwards c) then .next (s.park (.mapAcknowledged c))
  else .next (State.post { s with migrated := s.migrated.filter fun e => e.1 != c } .gangPlacement)

end Sys2Proof.Machine
end

