-- ==== Sys2Proof/Machine/Translation.lean ====
section
/-!
DEFINITION. Translation services (06 R183 to R188): responses of the host, invalidations, and the stop of a PASID.
-/

namespace Sys2Proof.Machine

/-! TLB entries (06 R178, R183). -/

/-- The pages between lo and lo + n at which an entry of a region table begins or ends. -/
def regionEdges (table : List (BitVec 128)) (lo n : Nat) : List Nat :=
  (table.flatMap fun e => [bitsOf e.toNat 56 12, bitsOf e.toNat 120 76 + 1]).filter fun p => decide (lo < p ∧ p < lo + n)

/-- Whether n pages from page lo on have one attribute. -/
def uniform (table : List (BitVec 128)) (lo n : Nat) : Bool :=
  (regionEdges table lo n).all fun p => (findRegion table 0 p).attr == (findRegion table 0 lo).attr

/-- The size of the entries that hold a granted page, as a logarithm. -/
def entryLog (log : Nat) : Nat := if log < 16 then 12 else if log < 21 then 16 else if log < 30 then 21 else 30

/-- The entry of a grant that translates an address. -/
def State.entryFor (s : State) (g : Grant) (va : Word) : Grant :=
  let sub := fun (n : Nat) =>
    let lo := low57 va / 2 ^ n * 2 ^ n
    { g with va := lo, log := n, pa := g.pa + (lo - g.va) }
  let n := entryLog g.log
  let e := sub n
  if uniform (s.space g.pasid).table (e.va / 4096) (2 ^ n / 4096) then e else sub 12

/-- An entry put into the TLBs of a core: the oldest is evicted from a full one. -/
def State.installTlb (s : State) (c : CoreId) (g : Grant) : State :=
  let h := clusterOf c
  let t := s.modCore c fun k => { k with tlb1 := (g :: k.tlb1.filter (· != g)).take 384 }
  let k := t.clusters[h]
  if k.tlb2.any fun e => e.grant == g then t
  else { t with clusters := t.clusters.set h { k with tlb2 := ({ grant := g, count := 0 } :: k.tlb2).take 4096 } }

/-! Responses (06 R184). -/

/-- A lane of the link engine that waits for a page of a range. -/
def State.laneWaits (s : State) (pasid : BitVec 20) (lo n : Nat) (i : Nat) : Bool :=
  s.engPasid (.link i) == pasid && match (s.runOf (.link i)).fault with
    | some va => decide (lo ≤ low57 va ∧ low57 va < lo + n)
    | none => false

/-- An engine whose page has come goes on. -/
def State.engineGoes (s : State) (w : Eng) : State :=
  let t := s.modRun w fun r => { r with fault := none, denied := false }
  match w with
  | .unit c u => if u = 5 then t.slNext c else t.engNext w
  | .link _ => t.engNext w

/-- Who asked goes on: an instruction is executed again, an engine tries again, a slot reads again. -/
def State.granted (s : State) (who : Asker) (pasid : BitVec 20) (g : Grant) (va : Word) : State :=
  match who with
  | .ctx c x =>
    let t := s.installTlb c (s.entryFor g va)
    (match (t.ctxAt c x).status with
    | .stalled => t.unstall c x
    | _ => t.resumeFault c x)
  | .engine c u => if (s.runOf (.unit c u)).fault.isSome then (s.installTlb c (s.entryFor g va)).engineGoes (.unit c u) else s
  | .link => ((List.range 4).filter (s.laneWaits pasid g.va (2 ^ g.log))).foldl (fun t i => t.engineGoes (.link i)) s
  | .slot n =>
    let t := s.kickRead n
    if (t.slotAt n).head.any fun h => !h.gateOpen then t.post (.gateRead n) else t
  | .pref c p rep => (s.installTlb c (s.entryFor g va)).prefetch c p rep

/-- Whether a page of 4 KiB holds an address. -/
def samePage (a b : Word) : Bool := low57 a / 4096 == low57 b / 4096

/-- The core of an asker. -/
def askerCore (w : Asker) : Option CoreId :=
  match w with
  | .ctx c _ | .engine c _ | .pref c _ _ => some c
  | _ => none

/-- Whether the fault service hears of a fault: the firewall of its column must admit the notice (01 R42, 06 R184, 14 R440); the link die
stands outside the mesh, and its notice passes where the endpoint is admitted. -/
def State.heard (s : State) (who : Asker) : Bool :=
  (s.endpoint 0).any fun e => (s.routers[e.1]).admits 1 (((askerCore who).map s.physCore).getD e.2) e.2

/-- A notice that the firewall refuses is dropped and counted. -/
def State.notice (s : State) (who : Asker) : State :=
  match s.endpoint 0 with
  | some e => if s.heard who then s else s.post (.firewallDrop e.1 1 (((askerCore who).map s.physCore).getD e.2) e.2)
  | none => s

/-- Who asked waits for the page, and the fault service is told: a context suspends (06 R184); an engine and a slot wait already. -/
def State.denied (s0 : State) (who : Asker) (va : Word) : State :=
  let s := s0.notice who
  match who with
  | .ctx c x => if (s.ctxAt c x).status = .stalled ∨ (s.ctxAt c x).status = .running then s.suspend c x (.fault va) else s
  | .engine c u => s.modRun (.unit c u) fun r => { r with denied := r.fault.isSome }
  | .link => ((List.range 4).filter fun i => (s.runOf (.link i)).fault.any (samePage va)).foldl (fun t i => t.modRun (.link i) fun r => { r with denied := true }) s
  | _ => s

/-- ATS_RESPONSE (06 R183, R184): the entry is installed where the host has granted the page, else the access is a not-present fault;
of a stopped PASID it is discarded (R188). -/
def execAtsResponse (who : Asker) (pasid : BitVec 20) (va : Word) (write : Bool) (s : State) : Out :=
  if (s.space pasid).stopped then .next s
  else match findGrant s.hostPages pasid va write with
    | some g => .next (s.granted who pasid g va)
    | none => .next (s.denied who va)

/-- Whether two ranges meet. -/
def meets (a n b m : Nat) : Bool := decide (a < b + m ∧ b < a + n)

/-- The host's grants of an address space that meet a range are gone. -/
def State.dropGrants (s : State) (pasid : BitVec 20) (lo n : Nat) : State :=
  { s with hostPages := s.hostPages.filter fun g => !(g.pasid == pasid && meets g.va (2 ^ g.log) lo n) }

/-- What waits for a page that has come: completion words, counter releases. -/
def State.retryOwed (s : State) : State := s.payOwed.postAll (s.held.map fun h => .readyQueueReoffer h.pa)

/-- What waits for a page that is refused: a completion word is never written; an evaluation is a record failure (11 R358); a released
record cannot be read (09 R311). -/
def State.refusePage (s : State) (pasid : BitVec 20) (va : Word) : State :=
  let t : State := State.payOwed { s with owed := s.owed.filter fun o => !(o.what != .unmap && o.pasid == pasid && samePage o.va va) }
  let lost := fun (i : Instr) => match i with
    | .evaluationMessage r w => (s.coreAt r.core).ident.pasid == pasid && samePage (va57 (w &&& 0x1FFFFFFFFFFFFC0)) va
    | _ => false
  let cells := ((t.pending ++ t.parked).filter lost).filterMap fun i => match i with
    | .evaluationMessage r _ => some (Instr.recordFailureReport r.pa)
    | _ => none
  let u := State.postAll { t with pending := t.pending.filter (fun i => !lost i), parked := t.parked.filter fun i => !lost i } cells
  let gone := fun (h : Held) => h.record.isNone && (s.launch? h.lid).any (fun l => l.pasid == pasid) && samePage h.task va
  (s.held.filter gone).foldl State.dropHeld { u with held := u.held.filter fun h => !gone h }

/-- Who asked for a page that is refused: 0x041 (06 R184, 10 R325); the queue of a slot dispatches nothing further (09 R285). -/
def State.refusedAsker (s : State) (who : Asker) (pasid : BitVec 20) (va : Word) : State :=
  match who with
  | .ctx c x => (match (s.ctxAt c x).status with
    | .suspended (.fault a) => s.takeTrapAt c x 0x041 a 0
    | _ => s)
  | .engine c u =>
    if (s.runOf (.unit c u)).fault.isNone || !(s.runOf (.unit c u)).denied then s
    else if u = 5 then ((s.modRun (.unit c 5) fun r => { r with fault := none, denied := false }).slEnd c 0x041 va).slNext c
    else s.failCmd (.unit c u) 0x041
  | .link => ((List.range 4).filter (s.laneWaits pasid (low57 va / 4096 * 4096) 4096)).foldl (fun t i => t.failCmd (.link i) 0x041) s
  | .slot n => s.slotRefused n va
  | .pref _ _ _ => s

/-- Whether a grant is one the host can make: a page of 4 KiB to 1 GiB on its own boundaries, below firmware memory. -/
def grantOk (g : Grant) (pasid : BitVec 20) (va : Word) : Bool :=
  grantCovers g pasid va && decide (12 ≤ g.log ∧ g.log ≤ 30 ∧ g.va % 2 ^ g.log = 0 ∧ g.pa % 2 ^ g.log = 0 ∧ g.pa + 2 ^ g.log ≤ firmwareBase)

/-- The cores of an address space. -/
def State.coresIn (s : State) (pasid : BitVec 20) : List CoreId :=
  (List.finRange 1152).filter fun c => (s.coreAt c).ident.lid.isSome && (s.coreAt c).ident.pasid == pasid

/-- Cores whose tasks may have waited for a page of the handler table look for work, and what waits for a spill page is committed. -/
def State.wakeSpace (s : State) (pasid : BitVec 20) : State :=
  let cs := s.coresIn pasid
  cs.foldl State.recommit ((cs.filter fun c => !(s.coreAt c).net.deque.isEmpty).foldl State.wakeCore s)

/-- The core at which a message waits for a handler-table page. -/
def State.waitsAt (s : State) (pasid : BitVec 20) (va : Word) (p : Packet) : Option CoreId :=
  (s.receiver p).filter fun c =>
    (s.coreAt c).ident.pasid == pasid && s.mailAway c p && samePage (s.handlerVa c (hidOf p.word)) va

/-- A handler-table page that is refused makes the handlers of the messages and the top tasks that wait for it bad ones (08 R253, R263). -/
def State.refuseHandlers (s : State) (pasid : BitVec 20) (va : Word) : State :=
  let lost := fun (i : Instr) => match i with
    | .messageArrival p => (s.waitsAt pasid va p).isSome
    | _ => false
  let t : State := { s with pending := s.pending.filter (fun i => !lost i), parked := s.parked.filter fun i => !lost i }
  let u := ((s.pending ++ s.parked).filter lost).foldl (fun t i => match i with
    | .messageArrival p => (match s.waitsAt pasid va p with
      | some c => t.dropArrival c p 0x0C4 (BitVec.ofNat 64 (hidOf p.word))
      | none => t)
    | _ => t) t
  (u.coresIn pasid).foldl (fun t c => match (t.coreAt c).net.deque.getLast? with
    | some k =>
      if t.handlerAway c (hidOf k.word) && samePage (t.handlerVa c (hidOf k.word)) va then
        (((t.modCore c fun q => { q with net := { q.net with deque := q.net.deque.dropLast } }).checkReload c).report c k.word 0x0C4
          (BitVec.ofNat 64 (hidOf k.word)) k.returns).wakeCore c
      else t
    | none => t) u

/-- The tags of the furl-capable cells of a page that the host maps are VALUE; those that the address space maps already stay (11 R346). -/
def State.mapTags (s : State) (g : Grant) : State :=
  { s with tags := s.tags.filter fun e => !((s.mapsTo g.pasid (8 * e.1)).isEmpty && decide (g.pa ≤ 8 * e.1 ∧ 8 * e.1 < g.pa + 2 ^ g.log)
      && (s.region g.pasid (va57 (BitVec.ofNat 64 (g.va + (8 * e.1 - g.pa))))).attr == 3) }

/-- PRI_RESPONSE (06 R184): on a success the translation is asked for again; a failure is 0x041; of a stopped PASID it is discarded, and there is
none for a fault that the service has not heard of. -/
def execPriResponse (who : Asker) (pasid : BitVec 20) (va : Word) (g : Option Grant) (s : State) : Out :=
  if (s.space pasid).stopped || !s.heard who then .next s
  else match g with
    | some g =>
      if !grantOk g pasid va then .next s
      else
        let t := (s.mapTags g).dropGrants pasid g.va (2 ^ g.log)
        let u : State := { t with hostPages := g :: t.hostPages }
        .next ((u.retryOwed.wakeSpace pasid).post (.atsResponse who pasid va false))
    | none => .next (((s.refusedAsker who pasid va).refusePage pasid va).refuseHandlers pasid va)

/-! Invalidation (06 R186). -/

/-- Whether an access that has left its issuer was translated through a range: a home operation, a ring operation with its descriptor, or
a request for a furled cell. -/
def State.usesPage (s : State) (pasid : BitVec 20) (lo n : Nat) (i : Instr) : Bool :=
  match i with
  | .homeOperation op => op.dev == s.dev && (s.coreAt op.core).ident.pasid == pasid && meets (low57 op.va) 16 lo n
  | .ringOpAtHome op => (s.coreAt op.core).ident.pasid == pasid && meets (low57 op.va) 64 lo n
  | .furledRequestAtHome r | .evaluationMessage r _ => r.dev == s.dev && (s.coreAt r.core).ident.pasid == pasid && meets (low57 r.va) 8 lo n
  | _ => false

/-- TLB entries of a range are gone, from every core and cluster. -/
def State.dropTlbs (s : State) (pasid : BitVec 20) (lo n : Nat) : State :=
  let keep := fun (g : Grant) => !(g.pasid == pasid && meets g.va (2 ^ g.log) lo n)
  { s with cores := s.cores.map fun k => { k with tlb1 := k.tlb1.filter keep }
           clusters := s.clusters.map fun k => { k with tlb2 := k.tlb2.filter fun e => keep e.grant } }

/-- The write-backs of lines in a granted range are done: partials combined, and dirty private lines written home. -/
def State.cleanGrants (s : State) (pasid : BitVec 20) (lo n : Nat) : State :=
  let ps := s.hostPages.filter fun g => g.pasid == pasid && meets g.va (2 ^ g.log) lo n
  let within := fun (l : Nat) => ps.any fun g => decide (g.pa / 64 ≤ l ∧ l < (g.pa + 2 ^ g.log + 63) / 64)
  let t := ((s.lines.filter fun e => !e.2.u.isEmpty && within e.1).map (·.1)).foldl State.recall s
  t.emptyL1s fun _ w => w.what != .tracked && within w.line

/-- Whether a context waits at a home for an operation on an address in a range: in WAITA, in a ring operation, for cells, or for an atomic's
cells. -/
def State.waitsThrough (s : State) (c : CoreId) (x : CtxId) (lo n : Nat) : Bool :=
  let asks := fun (r : FurlReq) => r.dev == s.dev && r.core == c && r.ctx == x && (r.what == .load || r.what == .atomic) && meets (low57 r.va) 8 lo n
  match (s.ctxAt c x).status with
  | .suspended (.waita w) => (match w.target with
    | .phys _ => meets (low57 w.va) w.size lo n
    | .scratch _ => false)
  | .suspended (.ring op) => meets (low57 op.va) 64 lo n
  | .suspended (.atomic op) => meets (low57 op.va) 16 lo n
  | .suspended .furled => (s.allCleat.filterMap Cleat.waiter).any (fun w => asks w.2) || s.refused.any fun e => asks e.1
  | .stalled => (s.coreAt c).net.rings.any fun op => op.ctx == x && meets (low57 op.va) 64 lo n
  | _ => false

/-- A context that waits at a home executes its instruction again. -/
def State.issueAgain (s : State) (c : CoreId) (x : CtxId) : State :=
  let t := ((s.forget s.dev c x).modCore c fun k => { k with net := { k.net with rings := k.net.rings.filter fun o => o.ctx != x } }).modCtx c x fun q =>
    { q with asked := [], answers := [] }
  if (s.ctxAt c x).status = .stalled then t.unstall c x else t.makeReady c x

/-- A furled request of an engine or a reduction withdrawn from a table or from among the refused ones: the engine asks again, a reduction is sent
again with its new translation. -/
def State.askAgain (s : State) (r : FurlReq) : State :=
  let t : State := { s.modCleat r.pa (·.filterMap (stopWaiting r)) with refused := s.refused.filter fun e => e.1 != r }
  match r.what with
  | .engine u =>
    let w := FurlReq.eng r u
    let v := t.modRun w fun k => { k with asked := [], answers := [] }
    if u = 5 then v.slNext r.core else v.engNext w
  | .red _ _ _ => { t with refused := t.refused ++ [(r, s.cyc)] }
  | _ => t

/-- What waits at homes for addresses of a range gives up its old translation (06 R186, log 74). -/
def State.reissue (s : State) (pasid : BitVec 20) (lo n : Nat) : State :=
  let waits := (s.coresIn pasid).flatMap fun c => ((List.finRange 4).filter fun x => s.waitsThrough c x lo n).map fun x => (c, x)
  let t := waits.foldl (fun t e => t.issueAgain e.1 e.2) s
  let asks := fun (r : FurlReq) => r.dev == t.dev && (t.coreAt r.core).ident.pasid == pasid && meets (low57 r.va) 8 lo n && match r.what with
    | .engine _ | .red _ _ _ => true
    | _ => false
  (((t.allCleat.filterMap fun k => match k with
      | .furl r _ true _ => some r
      | _ => none) ++ t.refused.map (·.1)).filter asks).foldl State.askAgain t

/-- ATS_INVALIDATION (06 R186): TLB entries are marked invalid at once; the completion follows when the accesses through them and the
write-backs are done, and the host's page is gone; what waits at homes is translated again. -/
def execAtsInvalidation (pasid : BitVec 20) (va : Word) (log : Nat) (s : State) : Out :=
  let lo := low57 va / 2 ^ log * 2 ^ log
  let t := s.dropTlbs pasid lo (2 ^ log)
  if (t.pending ++ t.parked).any (t.usesPage pasid lo (2 ^ log)) || (List.finRange 1152).any (t.gmWriting pasid) then .next (t.park (.atsInvalidation pasid va log))
  else .next (((t.cleanGrants pasid lo (2 ^ log)).dropGrants pasid lo (2 ^ log)).reissue pasid lo (2 ^ log))

/-! Stop of a PASID (06 R188). -/

/-- The contexts of a core that wait for a page. -/
def Core.faulted (k : Core) (pasid : BitVec 20) (c : CoreId) : List (BitVec 20 × CoreId × CtxId × Word) :=
  (List.finRange 4).filterMap fun x => match (k.ctxs[x]).status with
    | .suspended (.fault va) => some (pasid, c, x, va)
    | _ => none

/-- Contexts of an address space that wait for a page, those of its saved gangs with them. -/
def State.faulted (s : State) (pasid : BitVec 20) : List (BitVec 20 × CoreId × CtxId × Word) :=
  ((List.finRange 1152).flatMap fun c => if (s.coreAt c).ident.lid.isNone || (s.coreAt c).ident.pasid != pasid then [] else (s.coreAt c).faulted pasid c)
    ++ (s.launches.filter fun l => l.pasid == pasid).flatMap fun l => (l.cores.zip l.images).flatMap fun e => e.2.faulted pasid e.1

/-- PASID_STOP (06 R188, 09 R307): its queues are torn down in ascending number, and its translation ends. -/
def execPasidStop (pasid : BitVec 20) (s : State) : Out :=
  let qs := (s.queues.filter fun e => e.2.any fun d => Msg.field d 115 96 == pasid.toNat).map fun e => BitVec.ofNat 16 e.1
  let t := qs.foldl State.tearDown { s with torn := s.torn ++ s.faulted pasid }
  .next (t.setSpace pasid { t.space pasid with stopped := true }).payOwed

end Sys2Proof.Machine
end

