-- ==== Sys2Proof/Machine/System.lean ====
section
/-!
DEFINITION. Control registers and the other instructions of major 0x3E that handlers run (14 R427 to R432), MIGRATE (14 R436), and the
causes that no instruction raises: the watchdog (04 R147), illegal encodings and fetch faults (02 R70), and the arrival of trap records
(14 R421).
-/

namespace Sys2Proof.Machine

/-- The encoding of an instruction of major 0x3E (14 R429 to R442), the value of 0x001 and 0x002 (02 R70). -/
def enc3E (d a : BitVec 5) (sel : BitVec 3) (imm : BitVec 12) : Word := (126#7 ++ d ++ a ++ sel ++ imm).setWidth 64

/-! Control registers (14 R427). -/

/-- lnk.win (14 R428). -/
def State.lnkWin (s : State) : Word :=
  if s.peerTrained then 0x8000000000000000 ||| (s.peerBase.setWidth 64 &&& 0x1FFFFFFC0000000) else 0

/-- The value of a control register of context x of core c; none for a number that 14 R427 does not list. -/
def State.csr (s : State) (c : CoreId) (x : CtxId) (r : BitVec 12) : Option Word :=
  let k := s.coreAt c
  let q := s.ctxAt c x
  let i := k.ident
  match r.toNat with
  | 0x001 => some q.fmt
  | 0x002 => some (BitVec.ofNat 64 (s.usedOf q % 2 ^ 32 * 2 ^ 32 + q.budget.toNat))
  | 0x004 => some (va57 (i.hbase.setWidth 64))
  | 0x005 => some (i.pasid.setWidth 64)
  | 0x006 => some s.lnkWin
  | 0x008 => some k.net.clsen
  | 0x009 => some k.clspend
  | 0x010 => some (q.lstat.setWidth 64)
  | 0x011 => some q.lc0
  | 0x012 => some q.ls0
  | 0x013 => some q.le0
  | 0x014 => some q.lc1
  | 0x015 => some q.ls1
  | 0x016 => some q.le1
  | 0x018 => some q.tcause
  | 0x019 => some q.tpc
  | 0x01A => some q.tval
  | 0x01B => some q.tmsg
  | 0x020 => some q.evCell
  | 0x021 => some q.evChain0
  | 0x022 => some q.evChain1
  | 0x023 => some q.evChain2
  | 0x030 => some k.splice.free
  | 0x031 => some k.splice.rules
  | 0x032 => some k.splice.spill
  | 0x033 => some (s.slStat c)
  | 0x040 => some (i.rel.setWidth 64)
  | 0x041 => some (BitVec.ofNat 64 c.val)
  | 0x042 => some (BitVec.ofNat 64 (c.val / 4 % 16))
  | 0x043 => some (BitVec.ofNat 64 (c.val / 64))
  | 0x044 => some (s.dev.setWidth 64)
  | 0x045 => some i.grp
  | 0x048 => some i.ext[0]
  | 0x049 => some i.ext[1]
  | 0x04A => some i.ext[2]
  | 0x04B => some i.ext[3]
  | 0x04C => some i.org[0]
  | 0x04D => some i.org[1]
  | 0x04E => some i.org[2]
  | 0x04F => some i.org[3]
  | 0x060 => some (BitVec.ofNat 64 s.cyc)
  | _ => none

/-- A loop address as it is stored (04 R121): sign-extended from bit 56, bit 0 clear. -/
def loopAddr (v : Word) : Word := va57 v &&& ~~~1

/-- An ev register as it is stored (11 R349). -/
def evWord (v : Word) : Word := v &&& 0x1FFFFFFFFFFFFF9

/-- The RW fields of a control register of a context written (03 R79, 04 R120, R121, 11 R349). -/
def Ctx.csrw (q : Ctx) (r : BitVec 12) (v : Word) : Ctx :=
  match r.toNat with
  | 0x001 => { q with fmt := v &&& 0x1D1F }
  | 0x002 => { q with budget := BitVec.ofNat 32 (max 1024 (bitsOf v.toNat 31 0)) }
  | 0x010 => { q with lstat := if v.getLsbD 0 then v.setWidth 2 else 0 }
  | 0x011 => { q with lc0 := v }
  | 0x012 => { q with ls0 := loopAddr v }
  | 0x013 => { q with le0 := loopAddr v }
  | 0x014 => { q with lc1 := v }
  | 0x015 => { q with ls1 := loopAddr v }
  | 0x016 => { q with le1 := loopAddr v }
  | 0x020 => { q with evCell := evWord v }
  | 0x021 => { q with evChain0 := evWord v }
  | 0x022 => { q with evChain1 := evWord v }
  | 0x023 => { q with evChain2 := evWord v }
  | _ => q

/-- The RW fields of a control register of a core written (08 R251, 13 R394). -/
def Core.csrw (k : Core) (r : BitVec 12) (v : Word) : Core :=
  match r.toNat with
  | 0x008 => { k with net := { k.net with clsen := v } }
  | 0x030 => { k with splice := { k.splice with free := v &&& 0x1FFFFFFFFFFFFE0 } }
  | 0x031 => { k with splice := { k.splice with rules := v &&& 0x1FFFFFFFFFFFFE0 } }
  | 0x032 => { k with splice := { k.splice with spill := v &&& 0x1FFFFFFFFFFFE1F } }
  | _ => k

/-- A control register read, and written where `new` gives a value for the old one (14 R429). -/
def csrStep (enc : Word) (d : BitVec 5) (r : BitVec 12) (new : Word → Option Word) (s : State) : Out :=
  match s.csr s.cur s.hot r with
  | none => trapStep 0x001 enc s
  | some old =>
    match new old with
    | none => ctxStep 4 1 (fun q => q.wx d old) s
    | some v =>
      if (r = 0x031 ∨ r = 0x032) ∧ s.core.splice.run then trapStep 0x003 (r.setWidth 64) s
      else ctxStep 4 1 (fun q => (q.csrw r v).wx d old) (s.modCore s.cur fun k => k.csrw r v)

/-- CSRR (14 R429). -/
def execCsrr (d : BitVec 5) (r : BitVec 12) (s : State) : Out := csrStep (enc3E d 0 0 r) d r (fun _ => none) s

/-- CSRW (14 R429). -/
def execCsrw (d a : BitVec 5) (r : BitVec 12) (s : State) : Out := csrStep (enc3E d a 1 r) d r (fun _ => some (s.ctx.rx a)) s

/-- CSRSET (14 R429). -/
def execCsrset (d a : BitVec 5) (r : BitVec 12) (s : State) : Out :=
  csrStep (enc3E d a 2 r) d r (fun old => if a = 0 then none else some (old ||| s.ctx.rx a)) s

/-- CSRCLR (14 R429). -/
def execCsrclr (d a : BitVec 5) (r : BitVec 12) (s : State) : Out :=
  csrStep (enc3E d a 3 r) d r (fun old => if a = 0 then none else some (old &&& ~~~(s.ctx.rx a))) s

/-! TRAP, TLBINV, ICLEAN (14 R430 to R432). -/

/-- TRAP (14 R430). -/
def execTrap (a : BitVec 5) (n : BitVec 6) (s : State) : Out := trapStep (0x1C0 + n.setWidth 9) (s.ctx.rx a) s

/-- TLBINV (14 R431): entries of the launch's PASID that map the address; nothing for a scratchpad pointer. -/
def execTlbinv (a : BitVec 5) (s : State) : Out :=
  let p := s.ctx.rx a
  if p.extractLsb' 60 4 = 15 then ctxStep 4 1 id s
  else
    let keep := fun (g : Grant) => !grantCovers g s.core.ident.pasid p
    let h := clusterOf s.cur
    let t := s.modCore s.cur fun k => { k with tlb1 := k.tlb1.filter keep }
    let u : State := { t with clusters := t.clusters.set h { t.clusters[h] with tlb2 := t.clusters[h].tlb2.filter fun e => keep e.grant } }
    u.done 4 1 id

/-- ICLEAN (14 R432). -/
def execIclean (a : BitVec 5) (s : State) : Out :=
  (s.modCore s.cur fun k => { k with icache := k.icache.filter fun e => e.1 != lineVa (s.ctx.rx a) }).done 4 1 id

/-! Firmware instructions (02 R70): 0x002 in a launch handler. -/

/-- A firmware-only instruction of group 7 with its code. -/
def firmwareStep (d a : BitVec 5) (code : BitVec 12) (go : State → Out) (s : State) : Out :=
  if s.firmwareCore s.cur then go s else trapStep 0x002 (enc3E d a 7 code) s

/-- The logical core of a 10-bit number. -/
def logicalCore (n : Nat) : CoreId := ⟨n % 1024, by omega⟩

/-- MIGRATE (14 R436). -/
def execMigrate (d a : BitVec 5) (s : State) : Out :=
  firmwareStep d a 1 (fun s =>
    let v := (s.ctx.rx a).toNat
    let src := logicalCore (bitsOf v 9 0)
    let dst := logicalCore (bitsOf v 25 16)
    let n := s.migrateCode src dst
    if n ≠ 0 then ctxStep 4 1 (fun q => q.wx d (BitVec.ofNat 64 n)) s else .next ((s.spend 1).beginMigration d src dst)) s

/-! Causes without an instruction. -/

/-- WATCHDOG (04 R147): 0x005 at the pc of the next instruction. -/
def execWatchdog (c : CoreId) (x : CtxId) (s : State) : Out :=
  let k := s.ctxAt c x
  if k.status = .running ∧ k.budget.toNat ≤ s.usedOf k then .next (s.takeTrapAt c x 0x005 k.pc 0) else .next s

/-- ILLEGAL_INSTRUCTION (02 R70): 0x001 with the fetched encoding. -/
def execIllegalInstruction (c : CoreId) (x : CtxId) (enc : Word) (s : State) : Out :=
  if (s.ctxAt c x).status = .running then .next ((State.spend { s with cur := c, hot := x } 1).takeTrapAt c x 0x001 enc 0) else .next s

/-- INSTRUCTION_FETCH_FAULT (02 R70, 06 R184): 0x040 suspends the context until the page is there, any other cause is a trap. -/
def execInstructionFetchFault (c : CoreId) (x : CtxId) (va : Word) (cause : BitVec 9) (s : State) : Out :=
  if (s.ctxAt c x).status ≠ .running then .next s
  else if cause = 0x040 then .next (s.suspend c x (.fault va))
  else .next (s.takeTrapAt c x cause va 0)

/-- TRAP_RECORD_ARRIVAL (14 R421): into the core's trap queue; for a gang that is pre-empted, when it resumes. -/
def execTrapRecordArrival (c : CoreId) (lid : Nat) (r : Msg) (s : State) : Out :=
  match s.launch? lid with
  | none => .next s
  | some l => if l.phase ≠ .running then .next (s.toward (some lid) (.trapRecordArrival c lid r)) else .next (s.enterTrapq c r)

end Sys2Proof.Machine
end

