-- ==== Sys2Proof/Machine/Readback.lean ====
section
/-!
DEFINITION. Reading the management window (14 R447, R448): where an address lies, and what its word holds.
-/

namespace Sys2Proof.Config

/-- 14 R447: a word of the global area beside those that it names, the column map among them, as the management state gives it (log 14). -/
opaque globalWord : BitVec 36 → Machine.Mgmt → Word

/-- 14 R447: a word of a cluster's area beside its cleat table, as the contents of cluster, router and tables give it (log 14). -/
opaque clusterWord : BitVec 36 → Machine.Cluster → Machine.Router → Vector Machine.Partition 16 → List (Option Machine.Group) → Word

/-- 14 R447: a word of a core's area beside its scratchpad, as the core's contents give it (log 14). -/
opaque coreWord : BitVec 36 → Machine.Core → Word

/-- 14 R447: a word of the launch unit's area, as its contents give it (log 14). -/
opaque launchWord : BitVec 36 → List Machine.Slot × List (BitVec 16 × Nat) → List Machine.Launch × List (Option Machine.Group) × List Machine.Ready →
  Sparse Nat × Sparse Nat → Word

/-- 14 R447: a word of the link die's area, as its contents give it (log 14). -/
opaque linkWord : BitVec 36 → List Packet → List (Option Machine.LinkCmd) → List Machine.RetryEntry → Bool → Nat → Word

/-- 14 R448: the first word of the merge, routing or slot entry that a word belongs to, and the words of that entry, whose extent the
spec does not give (log 14). -/
opaque entryBase : BitVec 36 → BitVec 36
opaque entryWords : BitVec 36 → Nat

/-- 07 R240: the fields MASK and VALUE of a parked ring operation, and VALUE of a loader that is no reduction, whose contents the spec does
not give, as the entry gives them (log 14). -/
opaque ringMask : RingOp → Word
opaque ringValue : RingOp → Word
opaque loaderValue : FurlReq → Word

end Sys2Proof.Config

namespace Sys2Proof.Machine

/-! Cleat entries (07 R240, 11 R353). -/

/-- The fields that every entry in use has: KIND, SCOPE, DEV, CORE, CTX, DEADLINE and PADDR. -/
def cleatBase (kind : Nat) (scope : BitVec 4) (dev : BitVec 1) (c : CoreId) (x : CtxId) (deadline pa : Nat) : Nat :=
  kind * 2 ^ 254 + scope.toNat * 2 ^ 246 + dev.toNat * 2 ^ 245 + c.val % 1024 * 2 ^ 235 + x.val * 2 ^ 233 + deadline % 2 ^ 32 * 2 ^ 201 + pa % 2 ^ 57

/-- The wait of a context, armed or kept for a saved gang. -/
def State.waitOf (s : State) (d : BitVec 1) (c : CoreId) (x : CtxId) : Option WaitaOp :=
  ((s.waits ++ s.launches.flatMap (·.kept)).find? (isWait d c x)).map (·.2.2)

/-- ORD: the waiters of the cell that came before. -/
def State.ordOf (s : State) (r : FurlReq) (ord : Nat) : Nat :=
  ((s.furlEntries r.pa).filter fun k => match k with
    | .furl _ _ true o | .saved _ (.furl _ _ true o) => decide (o < ord)
    | _ => false).length

/-- The MASK field of a furled loader. -/
def loaderMask (r : FurlReq) (first waiting : Bool) (ord : Nat) : Nat :=
  (if first then 2 ^ 63 else 0) + (if waiting then 2 ^ 62 else 0) + ord % 8 * 2 ^ 55 + match r.what with
    | .engine u => 2 ^ 61 + u.toNat * 2 ^ 58
    | .red fn w _ => 2 ^ 54 + fn.toNat * 2 ^ 50 + w.toNat % 4 * 2 ^ 48
    | _ => 0

/-- The SCOPE of a kind-2 entry: .pair for a requester of the other package (11 R353). -/
def State.loaderScope (s : State) (r : FurlReq) : BitVec 4 := if r.dev = s.dev then 5 else 6

/-- An entry as readback shows it, that of a saved gang as it was; the VALUE of a loader that is no reduction, and what the spec does not give
of a parked ring operation, are open (log 14). -/
def State.cleatBits (s : State) (k : Cleat) : Nat :=
  match k with
  | .waita d c x pa => (match s.waitOf d c x with
    | some w => cleatBase 1 w.scope d c x w.deadline pa + w.cmp.toNat * 2 ^ 251 + (if w.dword then 2 ^ 250 else 0)
        + w.mask.toNat * 2 ^ 128 + w.value.toNat * 2 ^ 64
    | none => cleatBase 1 5 d c x 0 pa)
  | .ring op _ => cleatBase 1 5 s.dev op.core op.ctx (op.issued + 2 ^ op.lim.toNat) op.pa + (Config.ringMask op).toNat * 2 ^ 128
      + (Config.ringValue op).toNat * 2 ^ 64
  | .furl r f w o =>
    cleatBase 2 (s.loaderScope r) r.dev r.core r.ctx (r.issued + 2 ^ s.rigging 148 144 22) (r.pa / 8 * 8) + 2 ^ 250
      + loaderMask r f w (s.ordOf r o) * 2 ^ 128 + (match r.what with
        | .red _ _ v => v.toNat
        | _ => (Config.loaderValue r).toNat) * 2 ^ 64
  | .saved _ k => s.cleatBits k

/-! Places (14 R447). -/

/-- Where an address of the window lies: a word of the ready map, of the error log or of the rigging body, the power register, a word of a
physical cluster's cleat table, a doubleword of a physical core's scratchpad, a word whose layout the spec does not give, or nowhere. -/
inductive WinAt where
  | ready (i : Nat)
  | log (n w : Nat)
  | power
  | rigging (i : Nat)
  | cleat (p n w : Nat)
  | scratch (p o : Nat)
  | other
  | nowhere
  deriving DecidableEq, Repr

/-- The place of an address. -/
def winAt (a : BitVec 36) : WinAt :=
  let o := bitsOf a.toNat 31 0
  let p := bitsOf a.toNat 31 20
  let q := bitsOf a.toNat 19 0
  if o % 8 ≠ 0 then .nowhere
  else match bitsOf a.toNat 35 32 with
    | 0 =>
      if o < 0x30 then .ready (o / 8)
      else if 0x100 ≤ o ∧ o < 0x500 then .log ((o - 0x100) / 16) (o / 8 % 2)
      else if o = 0x800 then .power
      else if 0x900 ≤ o ∧ o < 0x980 then .rigging ((o - 0x900) / 8)
      else .other
    | 1 => if 288 ≤ p then .nowhere else if q < 2048 then .cleat p (q / 32) (q / 8 % 4) else .other
    | 2 => if 1152 ≤ p then .nowhere else if q < spSize then .scratch p q else .other
    | 3 => .other
    | 4 => .other
    | _ => .nowhere

/-- A word of an error-log entry. -/
def Mgmt.logWord (m : Mgmt) (n w : Nat) : Word := (m.errorLog.getD n 0).extractLsb' (64 * w) 64

/-- The cluster at a physical cluster's place (log 54). -/
def State.physCluster (s : State) (p : Nat) : Option (Fin 288) := if h : p < 288 then s.clusterAt ⟨p, h⟩ else none

/-- Entry n of a physical cluster's cleat table, in the order in which its entries were taken (log 14); zeros for a free one. -/
def State.cleatEntry (s : State) (p n : Nat) : Nat :=
  match (s.physCluster p).bind fun k => (s.clusters[k]).cleat[n]? with
  | some k => s.cleatBits k
  | none => 0

/-- A doubleword of a physical core's scratchpad. -/
def State.scratchWord (s : State) (p o : Nat) : Word :=
  match s.physCluster (p / 4) with
  | some k => BitVec.ofNat 64 ((s.coreAt ⟨4 * k.val + p % 4, by omega⟩).sp.num o 8)
  | none => 0

/-- A word of the window whose layout the spec does not give: what its area holds decides it (log 14). -/
def State.otherWord (s : State) (a : BitVec 36) : Word :=
  let p := bitsOf a.toNat 31 20
  match bitsOf a.toNat 35 32 with
  | 0 => Config.globalWord a { s.mgmt with latch := (0, []) }
  | 1 => match s.physCluster p with
    | some k => Config.clusterWord a s.clusters[k] s.routers[k] s.partitions s.groups.toList
    | none => 0
  | 2 => match s.physCluster (p / 4) with
    | some k => Config.coreWord a (s.coreAt ⟨4 * k.val + p % 4, by omega⟩)
    | none => 0
  | 3 => Config.launchWord a (s.slots.toList, s.waiting) (s.launches, s.groups.toList, s.readyq) (s.pairCounts, s.missed)
  | _ => Config.linkWord a s.linkq s.lanes.toList s.linkRetry s.peerTrained s.mgmt.linkRetries

/-- The merge, routing or slot entry that an address of such an area belongs to (14 R448, log 14). -/
def State.otherEntry (s : State) (a : BitVec 36) : Option (BitVec 36 × List Word × Nat) :=
  let base := Config.entryBase a
  let w := (a - base).toNat / 8
  if w < Config.entryWords base then
    some (base, (List.range (Config.entryWords base)).map fun i => s.otherWord (base + BitVec.ofNat 36 (8 * i)), w)
  else none

/-- The entry of several words that an address belongs to: its first word's address, its words, and the place among them (14 R448). -/
def State.windowEntry (s : State) (a : BitVec 36) : Option (BitVec 36 × List Word × Nat) :=
  match winAt a with
  | .log n w => some (a - BitVec.ofNat 36 (8 * w), [s.mgmt.logWord n 0, s.mgmt.logWord n 1], w)
  | .cleat p n w =>
    let base := a - BitVec.ofNat 36 (8 * w)
    some (base, (List.range 4).map fun i => BitVec.ofNat 64 (s.cleatEntry p n >>> (64 * i)), w)
  | .other => s.otherEntry a
  | _ => none

/-- A read of word 0 of an entry latches the entry (14 R448). -/
def State.latchEntry (s : State) (a : BitVec 36) : State :=
  match s.windowEntry a with
  | some (base, ws, 0) => { s with mgmt := { s.mgmt with latch := (base, ws) } }
  | _ => s

/-- A read of the window: all ones where nothing is mapped (14 R441). -/
def State.windowRead (s : State) (a : BitVec 36) : Word × State :=
  match s.windowEntry a with
  | some (base, ws, w) =>
    let seen := if w ≠ 0 ∧ s.mgmt.latch.1 = base then s.mgmt.latch.2 else ws
    (seen.getD w 0, s.latchEntry a)
  | none => match winAt a with
    | .ready i => (BitVec.ofNat 64 (bitsOf s.mgmt.readyMap.toNat (64 * i + 63) (64 * i)), s)
    | .power => (BitVec.ofNat 64 s.mgmt.powerCap, s)
    | .rigging i => (s.mgmt.rigging.extractLsb' (64 * i) 64, s)
    | .scratch p o => (s.scratchWord p o, s)
    | .nowhere => (0xFFFFFFFFFFFFFFFF, s)
    | _ => (s.otherWord a, s)

end Sys2Proof.Machine
end

