-- ==== Sys2Proof/Machine/Manage.lean ====
section
/-!
DEFINITION. The package as a whole: power-on, reset and device-fatal errors (01 R20, R32, 10 R341, 14 R424 to R426, R438, R439, R446),
the management window (14 R441, R447, R448), the hand-over of firmware (14 R442), power and cooling (14 R449, R450), and attestation
(14 R443 to R445).
-/

namespace Sys2Proof.Machine

def State.modMgmt (s : State) (f : Mgmt → Mgmt) : State := { s with mgmt := f s.mgmt }

/-! The rigging table (14 R438, R439, 01 R20). -/

/-- Whether a role map keeps 14 R439 for n Mizzen clusters. -/
def rolesOk (m : BitVec 128) (n : Nat) : Bool :=
  (List.range 32).all (fun i => if i < n then decide (roleField m i < 8) else roleField m i == 15)
    && (List.range 7).all fun r => (List.range n).any fun i => roleField m i == r

/-- Whether the column roles keep 01 R20. -/
def columnsOk (t : BitVec 1024) : Bool :=
  columnsOf t 0 == 16 && decide (1 ≤ columnsOf t 1 ∧ columnsOf t 1 ≤ 2)

/-- Whether a limit field is 0 or lies in its range. -/
def limitOk (v lo hi : Nat) : Bool := v == 0 || decide (lo ≤ v ∧ v ≤ hi)

/-- Whether the boot core accepts a table whose signature and image digest hold (14 R439). -/
def riggingOk (t : BitVec 1024) : Bool :=
  let f := fun (hi lo : Nat) => bitsOf t.toNat hi lo
  f 31 0 == 0x47474952 && columnsOk t && f 703 320 == 0 && f 191 166 == 0 && f 103 101 == 0
    && limitOk (f 165 156) 350 600 && limitOk (f 155 149) 1 64 && limitOk (f 148 144) 16 31 && limitOk (f 127 112) 256 65535
    && rolesOk (BitVec.ofNat 128 (f 319 192)) (16 * columnsOf t 1)

/-- The default power cap of a table. -/
def capOf (t : BitVec 1024) : Nat := let w := bitsOf t.toNat 165 156; if w = 0 then 600 else w

/-- The firewall registers of the Mizzen columns as a role map gives them (14 R440). -/
def State.setFirewalls (s : State) (roles : BitVec 128) : State :=
  let cols := columnsWith s.mgmt.rigging 1
  { s with routers := s.routers.mapIdx fun i r => match cols.idxOf? (i % 18) with
      | some j => { r with firewall := firewallRegs roles j (i % 18) }
      | none => r }

/-! Bring-up (14 R446). -/

/-- POWER_ON (14 R438, R439, R446): the boot core checks the table and the image set; a rejected table leaves the mesh dies in reset with
no ready bit. -/
def execPowerOn (table : BitVec 1024) (sigOk imgOk : Bool) (s : State) : Out :=
  let base : State := { State.reset with tick := s.tick, sched := s.sched, stalls := s.stalls, hdmBase := s.hdmBase, hostPages := s.hostPages, powered := true }
  if sigOk && imgOk && riggingOk table then
    let roles := table.extractLsb' 192 128
    let digest := table.extractLsb' 768 256
    .next (({ base with dev := table.extractLsb' 100 1 }.modMgmt fun m => { m with
      rigging := table, readyMap := 1, powerCap := capOf table, imageDigest := digest, imageVersion := Config.imageVersion digest, roles := roles }).setFirewalls roles)
  else .next ({ base with halted := true }.modMgmt fun m => { m with rigging := table, readyMap := 0, bootError := true })

/-- READY_BIT_SET (14 R446): not in a package whose mesh dies stay in reset or have stopped (01 R20, 14 R424). -/
def execReadyBitSet (n : Fin 334) (s : State) : Out :=
  if s.halted then .next s else .next ((s.modMgmt fun m => { m with readyMap := m.readyMap ||| (1#334 <<< n.val) }).post .gangPlacement)

/-! The stay link (01 R32, 10 R341). -/

/-- STAY_LINK_TRAINED (01 R1, R32): packages of equal number report the link absent. -/
def execStayLinkTrained (peerDev : BitVec 1) (base : BitVec 57) (s : State) : Out :=
  if peerDev = s.dev ∨ s.halted then .next s
  else .next ({ s with peerTrained := true, peerBase := base }.modMgmt fun m => { m with readyMap := m.readyMap ||| 0x10#334 })

/-- LINK_LEVEL_RETRY (10 R341): the flits are replayed. -/
def execLinkLevelRetry (s : State) : Out := .next (s.modMgmt fun m => { m with linkRetries := m.linkRetries + 1 })

/-! Device-fatal errors (14 R424, R425) and function reset (R426). -/

/-- The first entry of the error log that is not in use; none while all 64 are. -/
def logFree (es : List (BitVec 128)) : Option Nat :=
  match es.findIdx? fun e => !e.getLsbD 64 with
  | some i => some i
  | none => if es.length < 64 then some es.length else none

/-- An entry appended to the error log: where none is free, OVF of the last one is set; and the bit that this sets. -/
def logAppend (es : List (BitVec 128)) (e : BitVec 128) : List (BitVec 128) × HwBit :=
  match logFree es with
  | some i => (if i < es.length then es.set i e else es ++ [e], .valid i)
  | none => (es.modify 63 fun o => o ||| (1#128 <<< 65), .overflow)

/-- An error-log entry (14 R425). -/
def logEntry (cyc : Nat) (loc : BitVec 9) (kind : BitVec 4) (addr : BitVec 57) : BitVec 128 :=
  BitVec.ofNat 128 (cyc % 2 ^ 32 * 2 ^ 96 + loc.toNat * 2 ^ 87 + 2 ^ 64 + kind.toNat * 2 ^ 60 + if kind = 1 then addr.toNat else 0)

/-- Every line written back: no cache holds any. -/
def State.writeBack (s : State) : State :=
  let t := ((s.lines.map (·.1)).foldl State.recall s).emptyL1s fun _ _ => true
  { t with lines := [], l1s := [] }

/-- The package with every queue, launch, message, handler and command discarded; memory, the tables that firmware registered, and the
management state are kept. -/
def State.discard (s : State) : State :=
  let t := s.writeBack
  { State.reset with
    tick := t.tick, sched := t.sched, stalls := t.stalls, cyc := t.cyc, powered := t.powered, dev := t.dev, hdmBase := t.hdmBase
    peerTrained := false, peerBase := t.peerBase, mem := t.mem, tags := t.tags, stale := t.stale, hostPages := t.hostPages, toHost := t.toHost
    peerOut := t.peerOut, spaces := t.spaces, partitions := t.partitions, cores := t.cores.map fun k => (idleCore k).cold
    routers := t.routers.map fun r => { r with merge := [] }, reef := t.reef, mgmt := t.mgmt, torn := t.torn }

/-- A device-fatal error (14 R424): every mesh core stops, all work is discarded, the stay link is dropped, the error is logged and the
host signalled; what hardware has set in this cycle stays set through a clearing write of it (00 R7). -/
def State.fatalError (s : State) (kind : BitVec 4) (loc : BitVec 9) (addr : BitVec 57) : State :=
  let g := logAppend s.mgmt.errorLog (logEntry s.cyc loc kind addr)
  (({ s.discard with halted := true, setAt := s.setAt }.modMgmt fun m => { m with
    errorLog := g.1, fatal := true, readyMap := m.readyMap &&& ~~~(0x10#334)
    poisoned := if kind = 1 then addr.toNat / 64 :: m.poisoned else m.poisoned }).hwSet g.2)

/-- DEVICE_FATAL_ERROR (14 R424). -/
def execDeviceFatalError (kind : BitVec 4) (loc : BitVec 9) (addr : BitVec 57) (s : State) : Out := .next (s.fatalError kind loc addr)

/-- STAY_LINK_LOSS (10 R341): the loss of a link that has trained is device-fatal. -/
def execStayLinkLoss (s : State) : Out := if s.peerTrained then .next (s.fatalError 4 0x1FF 0) else .next s

/-- A line that the error log names written with zeros, its tags at VALUE. -/
def State.zeroLine (s : State) (l : Nat) : State :=
  { s with mem := s.mem.write (64 * l) (toBytes 64 0), tags := s.tags.filter fun e => e.1 / 8 != l }

/-- Whether an event is one of a firmware core: the Mizzen columns go on through a function reset (14 R426). -/
def State.ofFirmware (s : State) (i : Instr) : Bool :=
  match i with
  | .homeOperation op => s.firmwareCore op.core
  | .homeResponse c _ _ | .issueSlotHandoff c | .sendCommit c _ | .waitaArm c _ | .waitaWake c _ => s.firmwareCore c
  | _ => false

/-- A wait whose limit counts from the new cycle 0. -/
def Wait.fromZero (w : Wait) : Wait :=
  match w with
  | .waita w => .waita { w with issued := 0 }
  | w => w

/-- A firmware core after a function reset: as it was, with its times taken from the new cycle 0 (log 46). -/
def Core.keepOn (k : Core) : Core :=
  let r := k.retime fun _ => 0
  { r with ctxs := r.ctxs.map fun q => { q with status := match q.status with
      | .suspended w => .suspended w.fromZero
      | t => t } }

/-- FUNCTION_RESET (14 R426): the mesh of a package whose table was rejected stays in reset (01 R20); a migration under way ends with its answer 4 (R436), for the firmware context that waits for it is kept. -/
def execFunctionReset (s0 : State) : Out :=
  let s := s0.migrations.foldl State.endMigration s0
  let t := s.discard
  let named := (t.mgmt.errorLog.filter fun e => e.getLsbD 64 && bitsOf e.toNat 63 60 == 1).map fun e => bitsOf e.toNat 56 0 / 64
  let u : State := { named.foldl State.zeroLine t with
    cyc := 0, checked := 0, pending := s.pending.filter s.ofFirmware, parked := s.parked.filter s.ofFirmware
    halted := s.mgmt.bootError
    cores := Vector.ofFn fun c => if s.firmwareCore c then (s.coreAt c).keepOn else { t.coreAt c with net := Net.reset }
    clusters := Vector.ofFn fun (k : Fin 288) => if 256 ≤ k.val then { t.clusters[k] with cleat := s.clusters[k].cleat } else t.clusters[k]
    waits := (s.waits.filter fun e => e.2.2.dev = s.dev && s.firmwareCore e.1).map fun e => (e.1, e.2.1, { e.2.2 with issued := 0 })
    routers := t.routers.map fun r => { Router.reset with firewall := r.firewall }
    tags := [], spaces := [], partitions := Vector.replicate 16 Partition.reset, reef := Vector.replicate 4 Reef.reset, torn := [], toHost := [], peerOut := [] }
  .next (u.modMgmt fun m => { m with
    readyMap := m.readyMap &&& ~~~(0x30#334), refusedReqs := 0, corrected := 0, saveRefused := 0, powerCap := capOf m.rigging, share := 64, hold := false
    doeOut := [], doeLog := [], latch := (0, []), linkRetries := 0, fatal := false, poisoned := [] })

/-! Writing the management window (14 R425, R441, R446, R447). -/

/-- A request to the CXL.io function: an Unsupported Request, which is counted, while it is not usable (14 R446). -/
def withIo (go : State → State) (s : State) : Out := .next (if s.ready 1 then go s else s.refusal .unsupported)

/-- The W1C bits of an error-log entry cleared (14 R425), but for those that hardware sets in the same cycle (00 R7). -/
def State.clearLog (s : State) (n : Nat) (bits : BitVec 128) : State :=
  let v : BitVec 128 := if s.setNow (.valid n) then 0 else 1#128 <<< 64
  let o : BitVec 128 := if n = 63 ∧ s.setNow .overflow then 0 else 1#128 <<< 65
  s.modMgmt fun m => { m with errorLog := m.errorLog.modify n fun e => e &&& ~~~(bits &&& (v ||| o)) }

/-- The power cap written (14 R449): it stays between 350 and 600 W. -/
def State.writeCap (s : State) (v : Word) : State :=
  s.modMgmt fun m => { m with powerCap := if 350 ≤ v.toNat ∧ v.toNat ≤ 600 then v.toNat else max 350 (min 600 (Config.openCap v)) }

/-- A write to the window: it takes effect in the power register and the error log (14 R447). -/
def State.windowWrite (s : State) (a : BitVec 36) (v : Word) : State :=
  match winAt a with
  | .power => s.writeCap v
  | .log n w => s.clearLog n (v.setWidth 128 <<< (64 * w))
  | _ => s

/-- A write by firmware (14 R441): it takes effect in a scratchpad too; what the spec gives no layout is left as it is (log 72). -/
def State.firmwareWrite (s : State) (a : BitVec 36) (v : Word) : State :=
  match winAt a with
  | .scratch p o => (match s.physCluster (p / 4) with
    | some k => s.storeSp ⟨4 * k.val + p % 4, by omega⟩ o (toBytes 8 v.toNat)
    | none => s)
  | _ => s.windowWrite a v

/-- READBACK_LATCH (14 R448). -/
def execReadbackLatch (addr : BitVec 36) (s : State) : Out := .next (s.latchEntry addr)

/-- ERROR_LOG_CLEAR (14 R425): a host write. -/
def execErrorLogClear (n : Fin 64) (bits : BitVec 128) (s : State) : Out := withIo (fun s => s.clearLog n.val bits) s

/-- POWER_CAP_WRITE (14 R449): a host write. -/
def execPowerCapWrite (v : Word) (s : State) : Out := withIo (fun s => s.writeCap v) s

/-- REGISTER_WRITE (00 R6, 14 R447): a host write to the window. -/
def execRegisterWrite (addr : BitVec 36) (v : Word) (s : State) : Out := withIo (fun s => s.windowWrite addr v) s

/-- A host read of the window (14 R447). -/
def State.hostWindowRead (s : State) (a : BitVec 36) : State :=
  if s.ready 1 then (s.windowRead a).2.reply (.word (s.windowRead a).1) else s.refusal .unsupported

/-- A read over the I3C sideband (01 R33): it needs no function of the mesh. -/
def State.sidebandRead (s : State) (a : BitVec 36) : State := (s.windowRead a).2.reply (.word (s.windowRead a).1)

/-- Firmware put into its memory by the boot core, and started in a free context of a Mizzen core (14 R446, log 72), once the table has been
accepted. -/
def State.firmwareLoad (s : State) (va : Word) (bs : List Byte) : State :=
  if s.ready 0 && !s.halted then { s with mem := s.mem.write (firmwareBase + low57 va) bs } else s
def State.firmwareStart (s : State) (c : CoreId) (x : CtxId) (pc : Word) : State :=
  if s.ready 0 && !s.halted && s.firmwareCore c && (s.ctxAt c x).status == .free then
    (s.modCtx c x fun _ => { Ctx.reset with status := .ready, pc := va57 pc }).wakeCore c
  else s

/-- MGRD (14 R441): ordered as an atomic .ar at .system. -/
def execMgrd (d a : BitVec 5) (s : State) : Out :=
  firmwareStep d a 2 (releasing true 6 fun s =>
    let r := s.windowRead ((s.ctx.rx a).setWidth 36)
    ctxStep 4 1 (fun q => q.wx d r.1) r.2) s

/-- MGWR (14 R441): ordered as an atomic .ar at .system. -/
def execMgwr (d a : BitVec 5) (s : State) : Out :=
  firmwareStep d a 3 (releasing true 6 fun s => (s.firmwareWrite ((s.ctx.rx a).setWidth 36) (s.ctx.rx d)).done 4 1 id) s

/-! Hand-over of firmware (14 R442). -/

/-- The descriptor at an address of firmware memory. -/
def State.descriptorAt (s : State) (va : Word) : Staged :=
  let bs := s.mem.bytes (firmwareBase + low57 va) 512
  { digest := Config.stagedDigest bs, version := Config.stagedVersion bs, rolemap := Config.stagedRoles bs, good := Config.stagedGood bs }

/-- A descriptor is staged (14 R442, R444): one while another is staged is not. -/
def State.stage (s : State) (g : Staged) : State :=
  if s.mgmt.staged.isSome then s else s.modMgmt fun m => { m with staged := some g, handover := 1 }

/-- RTSWAP (14 R442): the staged image takes over in this cycle, or the code says why not. -/
def execRtswap (d a : BitVec 5) (s : State) : Out :=
  firmwareStep d a 4 (fun s =>
    let g := s.descriptorAt (s.ctx.rx a)
    if s.mgmt.staged.any (· != g) then ctxStep 4 1 (fun q => q.wx d 2) s
    else if !g.good || !rolesOk g.rolemap (16 * columnsOf s.mgmt.rigging 1) then ctxStep 4 1 (fun q => q.wx d 1) s
    else ctxStep 4 1 (fun q => q.wx d 0) ((s.modMgmt fun m => { m with
      imageDigest := g.digest, imageVersion := g.version, roles := g.rolemap, staged := none, handover := 2 }).setFirewalls g.rolemap)) s

/-! Power and cooling (14 R449, R450). -/

/-- The cap in force. -/
def Mgmt.cap (m : Mgmt) : Nat := max 350 (m.powerCap - m.thermalCut)

/-- Dispatch is held once the share is at 1/8 and the estimate exceeds the cap, until the estimate has dropped 10 W below the cap; then
the launch unit goes on. -/
def State.reviewHold (s : State) : State :=
  let m := s.mgmt
  if m.share = 8 ∧ m.cap < m.estimate then s.modMgmt fun m => { m with hold := true }
  else if m.hold ∧ m.estimate + 10 ≤ m.cap then ((s.modMgmt fun m => { m with hold := false }).post .gangPlacement).kickReady
  else s

/-- POWER_MEASUREMENT (14 R449). -/
def execPowerMeasurement (watts : Nat) (s : State) : Out := .next (s.modMgmt fun m => { m with estimate := watts }).reviewHold

/-- MATRIX_CAP_UPDATE (14 R449): the share, in 64ths and from 1/8 to 1, is the power manager's choice. -/
def execMatrixCapUpdate (estimate : Nat) (s : State) : Out :=
  .next ((s.modMgmt fun m => { m with estimate := estimate, share := max 8 (min 64 (Config.matrixShare s.tick estimate m.cap)) }).tock).reviewHold

/-- THERMAL_STEP (14 R450): down by 25 W to 350 W above 100 °C, and back below 95 °C. -/
def execThermalStep (celsius : Nat) (s : State) : Out :=
  if 100 < celsius then .next (s.modMgmt fun m => { m with thermalCut := if 350 < m.powerCap - m.thermalCut then m.thermalCut + 25 else m.thermalCut })
  else if celsius < 95 then .next (s.modMgmt fun m => { m with thermalCut := m.thermalCut - 25 })
  else .next s

/-- THERMAL_TRIP (14 R450): at 110 °C, device-fatal. -/
def execThermalTrip (celsius : Nat) (s : State) : Out := if 110 ≤ celsius then .next (s.fatalError 6 0x1FF 0) else .next s

/-! Attestation (14 R443 to R445). -/

/-- A request over DOE, which CXL.io carries (14 R443, R446): an Unsupported Request while that is not usable. -/
def doe (go : State → State) (s : State) : Out := withIo go s

/-- A response leaves, and joins the transcript after its request. -/
def State.respond (s : State) (kind : Nat) (req content : List Byte) : State :=
  let r := Config.spdmResponse kind content
  s.modMgmt fun m => { m with doeOut := r, doeLog := m.doeLog ++ req ++ r }

/-- A response whose content ends with a signature over the transcript, the request and the content. -/
def State.respondSigned (s : State) (kind : Nat) (req content : List Byte) : State :=
  (s.tock).respond kind req (content ++ Config.sign s.tick (s.mgmt.doeLog ++ req ++ content))

/-- The measurement blocks (14 R444) with their indices. -/
def Mgmt.blocks (m : Mgmt) : List (Nat × List Byte) :=
  [(1, toBytes 32 Config.bootRomDigest.toNat), (2, toBytes 32 (Config.sha256 (toBytes 128 m.rigging.toNat)).toNat)
  , (3, toBytes 32 m.imageDigest.toNat ++ toBytes 4 m.imageVersion.toNat)]
    ++ (match m.staged with
      | some g => [(4, toBytes 32 g.digest.toNat ++ toBytes 4 g.version.toNat)]
      | none => [])
    ++ [(5, [m.handover.setWidth 8])]

/-- GET_VERSION (14 R443): SPDM 1.2. A new transcript begins. -/
def execGetVersion (req : List Byte) (s : State) : Out := doe (fun s => (s.modMgmt fun m => { m with doeLog := [] }).respond 1 req [0x12]) s

/-- GET_CAPABILITIES (14 R443). -/
def execGetCapabilities (req : List Byte) (s : State) : Out := doe (fun s => s.respond 2 req []) s

/-- NEGOTIATE_ALGORITHMS (14 R443): RSASSA-PSS with RSA-3072, SHA-256. -/
def execNegotiateAlgorithms (req : List Byte) (s : State) : Out := doe (fun s => s.respond 3 req []) s

/-- GET_DIGESTS (14 R443): the digest of the chain. -/
def execGetDigests (req : List Byte) (s : State) : Out := doe (fun s => s.respond 4 req (toBytes 32 (Config.sha256 Config.certificateChain).toNat)) s

/-- GET_CERTIFICATE (14 R443). -/
def execGetCertificate (req : List Byte) (s : State) : Out := doe (fun s => s.respond 5 req Config.certificateChain) s

/-- CHALLENGE (14 R443): signed. -/
def execChallenge (req : List Byte) (s : State) : Out := doe (fun s => s.respondSigned 6 req []) s

/-- GET_MEASUREMENTS (14 R444, R445): the blocks as of this cycle, under one signature. -/
def execGetMeasurements (req : List Byte) (s : State) : Out :=
  doe (fun s => s.respondSigned 7 req (s.mgmt.blocks.flatMap fun b => BitVec.ofNat 8 b.1 :: b.2)) s

end Sys2Proof.Machine
end

