-- ==== Sys2Proof/Machine/Matrix.lean ====
section
/-!
DEFINITION. The matrix engine (10 R327 to R336): banks, MX.LDB, MX.MMA, MX.STC, MX.ZC and MX.MARK, and the Reef governor (10 R337).
-/

namespace Sys2Proof.Machine

/-! Banks (10 R327, R328). -/

/-- Stored rows of each 16 logical rows. -/
def keepOf (sparse : BitVec 2) : Nat := 16 / 2 ^ sparse.toNat

/-- K rows of a bank. -/
def Bank.km (b : Bank) : Nat := 64 * 2 ^ b.sparse.toNat

/-- Columns of a bank. -/
def Bank.nm (b : Bank) : Nat := if b.int4 then 128 else 64

/-- The set bits of a mask, ascending. -/
def maskBits (m : BitVec 16) : List Nat := (List.range 16).filter fun i => m.getLsbD i

/-- The logical row of each stored row. -/
def Bank.rows (b : Bank) : List Nat :=
  if b.sparse = 0 then List.range 64
  else ((List.range b.masks.length).zip b.masks).flatMap fun e => (maskBits e.2).map fun i => 16 * e.1 + i

/-- Stored row j, column c. -/
def Bank.cell (b : Bank) (j c : Nat) : Int := Sparse.get 0 b.cells (128 * j + c)

/-- Whether two banks may be active together. -/
def Bank.agrees (a b : Bank) : Bool := a.km == b.km && a.nm == b.nm && a.sparse == b.sparse && a.float == b.float

def kseg (config m : Nat) : Nat := match config with
  | 0 => 0
  | 1 => m / 2
  | _ => m
def nseg (config m : Nat) : Nat := match config with
  | 0 => m
  | 1 => m % 2
  | _ => 0

/-- A's row length and the number of output columns. -/
def rowLength (config : Nat) (b : Bank) : Nat := 2 ^ config * b.km
def totalColumns (config : Nat) (b : Bank) : Nat := 4 / 2 ^ config * b.nm

/-! Elements (10 R330, R331). -/

/-- Whether a format is one of the floating source formats. -/
def floatFmt (f : Nat) : Bool := decide (4 ≤ f ∧ f ≤ 8)

/-- An element as an integer. -/
def intElem (f : BitVec 4) (x : Nat) : Int := if unsignedCode f then ((x : Nat) : Int) else toSigned (formatBits f) x

/-- An element with its scale byte, exactly; a scale of 0xFF makes it a NaN (03 R85). -/
def scaledElem (f : BitVec 4) (xt : Bool) (scale : Option Nat) (x : Nat) : FVal :=
  match scale with
  | none => codeValue f xt x
  | some n => if n = 255 then .nan false else (codeValue f xt x).scale ((n : Int) - 127)

/-- Bytes of a block of 128 elements (03 R86). -/
def blockBytes (f : BitVec 4) : Nat := 16 * formatBits f

/-- The scale bytes of n bytes at distance o from the first element: index of the first and their number. -/
def scaleRange (f : BitVec 4) (o n : Nat) : Nat × Nat := (o / blockBytes f, (o + n - 1) / blockBytes f + 1 - o / blockBytes f)

/-- The elements of a row of bytes at distance o, with their scale bytes where there are any. -/
def rowElems (f : BitVec 4) (xt : Bool) (o n : Nat) (row : List Byte) (scales : Option (List Byte)) : List FVal :=
  let z := formatBits f
  let x := ofBytes row
  (List.range n).map fun i =>
    scaledElem f xt (scales.map fun ss => ((ss.getD ((o + i * z / 8) / blockBytes f - o / blockBytes f) 0).toNat)) ((x >>> (i * z)) % 2 ^ z)

/-- Greatest exponent of the nonzero elements, and whether the block is a NaN block (03 R87). -/
def blockExponent (vs : List FVal) : Option Int × Bool :=
  (((vs.filter fun v => !v.special && !v.isZero).map FVal.exponent).max?, vs.any FVal.special)

/-! MX.LDB (10 R330). -/

/-- One column aligned with W = 8 and no floor but for the all-zero column: exponent, NaN mark, integers. -/
def alignColumn (vs : List FVal) : Int × Bool × List Int :=
  let r := blockExponent vs
  let e := r.1.getD (-127)
  (e, r.2, vs.map (blockFixed 8 e))

/-- A sparse map of the entries (key, value) of a list that are not 0. -/
def sparseInts (xs : List (Nat × Int)) : Sparse Int := xs.foldl (fun m e => Sparse.set 0 m e.1 e.2) []

/-- The bank that rows of bytes make. -/
def makeBank (f : BitVec 4) (xt : Bool) (sparse : BitVec 2) (masks : List (BitVec 16)) (stride : Nat) (rows : List (List Byte))
    (scales : Option (List (List Byte))) : Bank :=
  let n := if f = 3 then 128 else 64
  let base : Bank := { Bank.zero with int4 := f == 3, sparse := sparse, masks := masks }
  if floatFmt f.toNat then
    let vss := ((List.range 64).zip rows).map fun e => rowElems f xt (e.1 * stride) n e.2 (scales.map fun ss => ss.getD e.1 [])
    let cols := (List.range n).map fun c => alignColumn (vss.map fun vs => vs.getD c (.fin false 0 0))
    { base with
      float := true
      cells := sparseInts ((List.range 64).flatMap fun j => ((List.range n).zip cols).map fun e => (128 * j + e.1, e.2.2.2.getD j 0))
      eb := sparseInts (((List.range n).zip cols).map fun e => (e.1, e.2.1))
      nanCols := (((List.range n).zip cols).filter fun e => e.2.2.1).map (·.1) }
  else
    let z := formatBits f
    { base with
      signed := !unsignedCode f
      cells := sparseInts (((List.range 64).zip rows).flatMap fun e =>
        (List.range n).map fun c => (128 * e.1 + c, intElem f ((ofBytes e.2 >>> (c * z)) % 2 ^ z))) }

/-- A macro's shadow bank replaced. -/
def State.setShadow (s : State) (c : CoreId) (m : Nat) (b : Bank) : State :=
  s.modCore c fun k => { k with matrix := { k.matrix with shadow := k.matrix.shadow.mapIdx fun i old => if i = m then b else old } }

/-- MX.LDB as one unit of work: every byte read, the masks checked, the shadow bank written. A dense one with a nonzero MASKP runs, and its
MASKP is a pointer of its scratchpad all the same (log 64). -/
def ldbGo (c : CoreId) (p : Packet) (s : State) : Except EngStop State :=
  let w := p.word
  let me := Eng.unit c 1
  let f := BitVec.ofNat 4 (Msg.field w 167 164)
  let sparse := BitVec.ofNat 2 (Msg.field w 169 168)
  let scalep := Msg.word w 3
  let stride := Msg.field w 159 128
  let n := if f = 3 then 128 else 64
  let src := Msg.word w 1
  let z := n * formatBits f / 8
  let b := blockBytes f
  match firstCause [
      (!reservedClear w [(319, 192), (169, 164), (161, 64)] || decide (f = 0 ∨ 8 < f.toNat) || (scalep != 0 && !floatFmt f.toNat), 0x083),
      (src.extractLsb' 60 4 != 15, 0x047)] with
  | some q => .error (.cause q)
  | none => do
    let a ← (s.engAddr me .own src).mapError EngStop.cause
    let sa ← (s.engAddr me .own scalep).mapError EngStop.cause
    let ma ← (s.engAddr me .own (Msg.word w 4)).mapError EngStop.cause
    if scalep ≠ 0 ∧ (a.num % b ≠ 0 ∨ stride % b ≠ 0) then .error (.cause 0x042)
    let groups := 64 / keepOf sparse
    let masksAt := if sparse = 0 then [] else [(ma, 2 * groups)]
    let rowsAt := (List.range 64).map fun j => (a.plus (j * stride), z)
    let scalesAt := if scalep = 0 then [] else (List.range 64).map fun j =>
      let r := scaleRange f (j * stride) z
      (sa.plus r.1, r.2)
    let (bs, t) ← s.engRead me (masksAt ++ rowsAt ++ scalesAt)
    let masks := if sparse = 0 then [] else (List.range groups).map fun g => BitVec.ofNat 16 (ofBytes (((bs.headD []).drop (2 * g)).take 2))
    let rest := if sparse = 0 then bs else bs.drop 1
    if masks.any (fun m => (maskBits m).length != keepOf sparse) then .error (.cause 0x083)
    let bank := makeBank f (Msg.field w 4 4 == 1) sparse masks stride (rest.take 64) (if scalep = 0 then none else some (rest.drop 64))
    return (t.setShadow c (Msg.field w 161 160) bank).finishCmd me 0 64 0 0

/-- MX_LDB (10 R330). -/
def execMxLdb (c : CoreId) (s : State) : Out := engStep (.unit c 1) 1 (ldbGo c) s

/-! The Reef governor (10 R337): it changes timing only. -/

/-- The cores of a mesh die that are not dark (10 R337; log 67). -/
def State.activeCores (s : State) (die : Fin 4) : Nat :=
  4 * ((List.finRange 288).filter fun k => decide (k.val < 256 + 16 * s.mizzenColumns) && dieAt (s.placeOf k) == die).length

/-- Macro-cycles of an engine in a window at full rate. -/
def enginePeak : Nat := 4 * 1500

/-- Macro-cycles of a die in a window at full rate. -/
def State.reefPeak (s : State) (die : Fin 4) : Nat := enginePeak * s.activeCores die

def State.modReef (s : State) (die : Fin 4) (f : Reef → Reef) : State := { s with reef := s.reef.set die (f s.reef[die]) }

/-- Macro-cycles used by a core. -/
def State.reefUse (s : State) (c : CoreId) (n : Nat) : State :=
  s.modReef (s.dieOf c) fun r => { r with used := r.used + n, byCore := Sparse.set 0 r.byCore c.val (Sparse.get 0 r.byCore c.val + n) }

/-- Whether the share of an engine is spent: it holds its next row. One that had no MMA work as the window began has no bound in it
(log 67). -/
def State.reefHolds (s : State) (c : CoreId) : Bool :=
  let r := s.reef[s.dieOf c]
  r.bound.contains c && decide (r.share ≤ Sparse.get 0 r.byCore c.val)

/-- A row held back, from this cycle on. -/
def State.holdRow (s : State) (c : CoreId) : State :=
  s.modReef (s.dieOf c) fun r => if r.held.any (·.1 == c) then r else { r with held := r.held ++ [(c, s.cyc)] }

/-- The cores of a die with MMA work pending. -/
def State.mmaCores (s : State) (die : Fin 4) : List CoreId :=
  (List.finRange 1152).filter fun c => ((s.coreAt c).mx.inq.any fun p => hidOf p.word == 2) && s.dieOf c == die

/-- REEF_WINDOW (10 R337): the activity of the window that ends, with the empty slots that its lower bound has asked of each engine and the
cycles for which rows were held; and the bounds of the next one. -/
def execReefWindow (die : Fin 4) (s : State) : Out :=
  let r := s.reef[die]
  let peak := s.reefPeak die
  let n := s.activeCores die
  let low := r.floor / max 1 n
  let empty := (n - r.byCore.length) * low + (r.byCore.map fun e => low - e.2).foldl (· + ·) 0
  let a := min peak (r.used + empty)
  let step := peak * s.rigging 155 149 8 / 64
  let cores := s.mmaCores die
  let next : Reef :=
    { used := 0, byCore := [], activity := a, floor := a - step, bound := cores
      share := min enginePeak (min (peak * s.mgmt.share / 64) (a + step) / max 1 cores.length)
      held := r.held.map fun e => (e.1, s.cyc), heldCycles := (r.held.map fun e => s.cyc - e.2).foldl (· + ·) 0, emptySlots := empty }
  .next (s.modReef die fun _ => next)

/-! MX.MMA (10 R331 to R334). -/

/-- The banks an MMA multiplies by: the shadow banks when its exchange is still to come. -/
def Matrix.banksFor (m : Matrix) (swap : Bool) : Vector Bank 4 := if swap then m.shadow else m.active

/-- The exchange of the banks. -/
def Matrix.exchange (m : Matrix) : Matrix := { m with active := m.shadow, shadow := m.active }

/-- A segment of A aligned to width wa (03 R87): integers, exponent, NaN mark. -/
def alignSegment (wa : Nat) (vs : List FVal) : List Int × Int × Bool :=
  let r := blockExponent vs
  let e := max (-127) (r.1.getD (-127))
  (vs.map (blockFixed wa e), e, r.2)

/-- Σ over the stored rows of qa × qb. -/
def dot (qa : List Int) (b : Bank) (c : Nat) : Int := ((List.range qa.length).zip qa).foldl (fun t e => t + e.2 * b.cell e.1 c) 0

/-- An accumulator word after one product of a macro (10 R332). -/
def accumulate (b : Bank) (wa : Nat) (ea : Int) (nanA : Bool) (c : Nat) (p : Int) (old : BitVec 32) : BitVec 32 :=
  if !b.float then BitVec.ofInt 32 (satInt (old.toInt + p) (-(2 ^ 31)) (2 ^ 31 - 1))
  else if nanA || b.nanCols.contains c || (fp32.value old.toNat).isNan then 0x7FC00000
  else BitVec.ofNat 32 (addF32ne old.toNat (fp32.ofVal 0 ((FVal.ofInt p).scale (ea - wa + 2 + Sparse.get 0 b.eb c - 6))).1)

/-- The accumulator after macro m has multiplied its segment of a row. -/
def macroRow (config m row0 : Nat) (b : Bank) (wa : Nat) (vs : List FVal) (is : List Int) (acc : Sparse (BitVec 32)) : Sparse (BitVec 32) :=
  let k0 := kseg config m * b.km
  let q := if b.float then alignSegment wa (b.rows.map fun k => vs.getD (k0 + k) (.fin false 0 0))
    else (b.rows.map fun k => is.getD (k0 + k) 0, 0, false)
  (List.range b.nm).foldl (fun acc c =>
    let j := row0 + nseg config m * b.nm + c
    Sparse.set 0 acc j (accumulate b wa q.2.1 q.2.2 c (dot q.1 b c) (Sparse.get 0 acc j))) acc

/-- Words of the accumulator set to 0. -/
def zeroWords (acc : Sparse (BitVec 32)) (lo n : Nat) : Sparse (BitVec 32) := acc.filter fun e => !(decide (lo ≤ e.1 ∧ e.1 < lo + n))

/-- One row of an MMA computed: the macros in ascending order. -/
def mmaRow (config row0 : Nat) (fresh : Bool) (banks : Vector Bank 4) (wa : Nat) (vs : List FVal) (is : List Int) (acc : Sparse (BitVec 32)) :
    Sparse (BitVec 32) :=
  let start := if fresh then zeroWords acc row0 (totalColumns config banks[0]) else acc
  (List.finRange 4).foldl (fun acc m => macroRow config m.val row0 banks[m] wa vs is acc) start

/-- Width of A (10 R331). -/
def widthA (f : BitVec 4) (aw16 : Bool) : Nat := if floatFmt f.toNat then (if aw16 then 16 else 8) else formatBits f

/-- The checks of an MMA that raise 0x083 (10 R328, R329, R331). -/
def mmaBad (w : Msg) (banks : Vector Bank 4) : Bool :=
  let f := BitVec.ofNat 4 (Msg.field w 163 160)
  let config := Msg.field w 166 165
  let fl := floatFmt f.toNat
  !reservedClear w [(255, 192), (184, 64)] || config == 3 || !(fl || [1, 2, 3, 9].contains f.toNat)
    || !(List.finRange 4).all (fun m => banks[0].agrees banks[m]) || banks[0].float != fl
    || (!fl && (Msg.word w 3 != 0 || Msg.field w 164 164 == 1))
    || decide (4096 < Msg.field w 184 173 + (Msg.field w 172 169 + 1) * totalColumns config banks[0])

/-- One row of MX.MMA: with row 0 the checks, the bounds of a scratchpad A and, once the row is read, the exchange. -/
def mmaGo (c : CoreId) (p : Packet) (s : State) : Except EngStop State :=
  let w := p.word
  let me := Eng.unit c 1
  let r := (s.runOf me).progress
  let swap := r == 0 && Msg.field w 167 167 == 1
  let banks := (s.coreAt c).matrix.banksFor swap
  let f := BitVec.ofNat 4 (Msg.field w 163 160)
  let config := Msg.field w 166 165
  let rows := Msg.field w 172 169 + 1
  let stride := Msg.field w 159 128
  let ascale := Msg.word w 3
  let aw16 := Msg.field w 164 164 == 1
  let n := rowLength config banks[0]
  let z := n * formatBits f / 8
  let b := blockBytes f
  if r = 0 ∧ mmaBad w banks then .error (.cause 0x083)
  else do
    let a ← (s.engAddr me .own (Msg.word w 1)).mapError EngStop.cause
    let sa ← (s.engAddr me .own ascale).mapError EngStop.cause
    if r = 0 then
      match a with
      | .sp _ _ => let _ ← s.allOf me false ((List.range rows).map fun i => (a.plus (i * stride), z))
      | .mem _ => pure ()
    if ascale ≠ 0 ∧ (a.num % b ≠ 0 ∨ stride % b ≠ 0) then .error (.cause 0x042)
    let sr := scaleRange f (r * stride) z
    let (bs, t) ← s.engRead me ((a.plus (r * stride), z) :: (if ascale = 0 then [] else [(sa.plus sr.1, sr.2)]))
    let row := bs.headD []
    let vs := if floatFmt f.toNat then rowElems f (Msg.field w 4 4 == 1) (r * stride) n row (if ascale = 0 then none else some (bs.getD 1 [])) else []
    let is := if floatFmt f.toNat then [] else (List.range n).map fun i => intElem f ((ofBytes row >>> (i * formatBits f)) % 2 ^ formatBits f)
    let row0 := Msg.field w 184 173 + r * totalColumns config banks[0]
    let u := t.modCore c fun k =>
      let m := if swap then k.matrix.exchange else k.matrix
      { k with matrix := { m with acc := mmaRow config row0 (Msg.field w 168 168 == 1) banks (widthA f aw16) vs is m.acc } }
    let used := u.reefUse c (4 * widthA f aw16)
    if r + 1 = rows then return used.finishCmd me 0 (BitVec.ofNat 32 rows) 0 0 else return used.engMore me (r + 1)

/-- MX_MMA (10 R332, R334, R337): the Reef governor may hold the row. -/
def execMxMma (c : CoreId) (s : State) : Out :=
  if (s.running (.unit c 1)).any (fun p => hidOf p.word == 2) && s.engReady (.unit c 1) && s.reefHolds c then
    .next ((s.holdRow c).park (.mxMma c))
  else engStep (.unit c 1) 2 (mmaGo c) (s.modReef (s.dieOf c) fun r => { r with held := r.held.filter fun e => e.1 != c })

/-! MX.STC, MX.ZC, MX.MARK (10 R335, R336). -/

/-- An accumulator word converted for its store (03 R105 with RNE, no flags). -/
def stcElem (sint satd xt : Bool) (f : BitVec 4) (x : BitVec 32) : Nat :=
  (convertVal 0 satd xt sint (if sint then FVal.ofInt x.toInt else fp32.value x.toNat) f).1

/-- One row of MX.STC (10 R335); a DFMT that no element can be stored in, 0xF among them, raises 0x046 (log 56). -/
def stcGo (c : CoreId) (p : Packet) (s : State) : Except EngStop State :=
  let w := p.word
  let me := Eng.unit c 1
  let i := (s.runOf me).progress
  let pitch := Msg.field w 216 204
  let rows := Msg.field w 170 167 + 1
  let n := Msg.field w 180 171 + 1
  let dptr := Msg.word w 1
  let own : BitVec 4 := if dptr.extractLsb' 60 4 = 15 then 0 else dptr.extractLsb' 60 4
  let f : BitVec 4 := if Msg.field w 163 160 = 0 then own else BitVec.ofNat 4 (Msg.field w 163 160)
  let base := Msg.field w 203 192 + i * pitch
  match firstCause [
      (!reservedClear w [(216, 192), (180, 64)] || decide (pitch = 0 ∨ 4096 < pitch)
        || decide (4096 < Msg.field w 203 192 + (rows - 1) * pitch + n), 0x083),
      (!convertible f, 0x046)] with
  | some q => .error (.cause q)
  | none => do
    let a ← (s.engAddr me .own dptr).mapError EngStop.cause
    let z := formatBits f
    let at' := a.plus (i * Msg.field w 159 128)
    let len := (n * z + 7) / 8
    let ps ← s.engCheck me [(at', len)]
    let acc := (s.coreAt c).matrix.acc
    let x := packElems z ((List.range n).map fun k =>
      stcElem (Msg.field w 164 164 == 1) (Msg.field w 165 165 == 1) (Msg.field w 4 4 == 1) f (Sparse.get 0 acc (base + k)))
    let keep := if n * z % 8 = 0 then 0 else ((ps.flatMap (s.spanBytes me)).getLastD 0).toNat / 16 * 2 ^ (n * z)
    let t := s.engWrite me ps (toBytes len (x + keep))
    let u := if Msg.field w 166 166 = 1 then t.modCore c fun k => { k with matrix := { k.matrix with acc := zeroWords k.matrix.acc base n } } else t
    if i + 1 = rows then return u.tock.finishCmd me (Config.unstated u.tick) (BitVec.ofNat 32 rows) 0 0 else return u.engMore me (i + 1)

/-- MX_STC (10 R335). -/
def execMxStc (c : CoreId) (s : State) : Out := engStep (.unit c 1) 3 (stcGo c) s

/-- MX.ZC. -/
def zcGo (c : CoreId) (p : Packet) (s : State) : Except EngStop State :=
  let w := p.word
  let lo := Msg.field w 139 128
  let n := Msg.field w 152 140
  if !reservedClear w [(152, 128)] ∨ n = 0 ∨ 4096 < lo + n then .error (.cause 0x083)
  else
    let t := s.modCore c fun k => { k with matrix := { k.matrix with acc := zeroWords k.matrix.acc lo n } }
    let u : State := { t with tick := t.tick + 2 }
    .ok (u.finishCmd (.unit c 1) (Config.unstated t.tick) (Config.unstated (t.tick + 1)) 0 0)

/-- MX_ZC (10 R336). -/
def execMxZc (c : CoreId) (s : State) : Out := engStep (.unit c 1) 4 (zcGo c) s

/-- MX.MARK. -/
def markGo (c : CoreId) (p : Packet) (s : State) : Except EngStop State :=
  if !reservedClear p.word [] then .error (.cause 0x083)
  else .ok (s.tock.finishCmd (.unit c 1) 0 (Config.unstated s.tick) 0 0)

/-- MX_MARK (10 R336). -/
def execMxMark (c : CoreId) (s : State) : Out := engStep (.unit c 1) 5 (markGo c) s

end Sys2Proof.Machine
end

