-- ==== Sys2Proof/Machine/Dispatch.lean ====
section
/-! DEFINITION. One arm for every constructor of Instr: the meaning of the instruction or of the event. -/

namespace Sys2Proof.Machine

def exec (i : Instr) (s : State) : Host.Outcome State Fault Refusal :=
  match i with
  | .watchdog c x => Sys2Proof.Machine.execWatchdog c x s
  | .mxLdb c => Sys2Proof.Machine.execMxLdb c s
  | .mxMma c => Sys2Proof.Machine.execMxMma c s
  | .mxStc c => Sys2Proof.Machine.execMxStc c s
  | .mxZc c => Sys2Proof.Machine.execMxZc c s
  | .mxMark c => Sys2Proof.Machine.execMxMark c s
  | .cpLin c => Sys2Proof.Machine.execCpLin c s
  | .cp2d c => Sys2Proof.Machine.execCp2d c s
  | .cpGath c => Sys2Proof.Machine.execCpGath c s
  | .tdDec c => Sys2Proof.Machine.execTdDec c s
  | .gmF2v c => Sys2Proof.Machine.execGmF2v c s
  | .gmV2f c => Sys2Proof.Machine.execGmV2f c s
  | .gmBel c => Sys2Proof.Machine.execGmBel c s
  | .gmMean c => Sys2Proof.Machine.execGmMean c s
  | .gmDamp c => Sys2Proof.Machine.execGmDamp c s
  | .slStart c => Sys2Proof.Machine.execSlStart c s
  | .slStop c => Sys2Proof.Machine.execSlStop c s
  | .slDrain c => Sys2Proof.Machine.execSlDrain c s
  | .lkAred n => Sys2Proof.Machine.execLkAred n s
  | .lkCopy n => Sys2Proof.Machine.execLkCopy n s
  | .aredChunkExchange n peer => Sys2Proof.Machine.execAredChunkExchange n peer s
  | .engineCommandArrival p => Sys2Proof.Machine.execEngineCommandArrival p s
  | .completionElementArrival lid dst u e reply rel => Sys2Proof.Machine.execCompletionElementArrival lid dst u e reply rel s
  | .reefWindow die => Sys2Proof.Machine.execReefWindow die s
  | .messageArrival p => Sys2Proof.Machine.execMessageArrival p s
  | .issueSlotHandoff c => Sys2Proof.Machine.execIssueSlotHandoff c s
  | .sendCommit c x => Sys2Proof.Machine.execSendCommit c x s
  | .dequeReload c => Sys2Proof.Machine.execDequeReload c s
  | .acknowledgement lid p mid => Sys2Proof.Machine.execAcknowledgement lid p mid s
  | .nack lid p mid counted => Sys2Proof.Machine.execNack lid p mid counted s
  | .retryResend lid p mid => Sys2Proof.Machine.execRetryResend lid p mid s
  | .stealRequest c => Sys2Proof.Machine.execStealRequest c s
  | .stealRequestArrival victim thief => Sys2Proof.Machine.execStealRequestArrival victim thief s
  | .stealReply thief ts => Sys2Proof.Machine.execStealReply thief ts s
  | .drainAndSwap part tables => Sys2Proof.Machine.execDrainAndSwap part tables s
  | .escapeRecovery router inp q => Sys2Proof.Machine.execEscapeRecovery router inp q s
  | .partitionDrop router p => Sys2Proof.Machine.execPartitionDrop router p s
  | .partitionRefusal lid p mid => Sys2Proof.Machine.execPartitionRefusal lid p mid s
  | .firewallDrop router kind src dst => Sys2Proof.Machine.execFirewallDrop router kind src dst s
  | .gets c line => Sys2Proof.Machine.execGets c line s
  | .getm c line => Sys2Proof.Machine.execGetm c line s
  | .getu c line op w => Sys2Proof.Machine.execGetu c line op w s
  | .uPartial c line => Sys2Proof.Machine.execUPartial c line s
  | .hostRead line => Sys2Proof.Machine.execHostRead line s
  | .hostReadOwn line => Sys2Proof.Machine.execHostReadOwn line s
  | .hostWrite line data keep => Sys2Proof.Machine.execHostWrite line data keep s
  | .bisnpResponse line data keep => Sys2Proof.Machine.execBisnpResponse line data keep s
  | .bisnpReread line => Sys2Proof.Machine.execBisnpReread line s
  | .snoopShare c line => Sys2Proof.Machine.execSnoopShare c line s
  | .snoopInvalidate c line => Sys2Proof.Machine.execSnoopInvalidate c line s
  | .recallLine line => Sys2Proof.Machine.execRecall line s
  | .lineFill c line st => Sys2Proof.Machine.execLineFill c line st s
  | .hostSnpdata line => Sys2Proof.Machine.execHostSnpdata line s
  | .hostSnpinv line => Sys2Proof.Machine.execHostSnpinv line s
  | .homeOperation op => Sys2Proof.Machine.execHomeOperation op s
  | .homeResponse c x r => Sys2Proof.Machine.execHomeResponse c x r s
  | .mergeRead router line c => Sys2Proof.Machine.execMergeRead router line c s
  | .mergeReply router line => Sys2Proof.Machine.execMergeReply router line s
  | .atsResponse who pasid va write => Sys2Proof.Machine.execAtsResponse who pasid va write s
  | .priResponse who pasid va g => Sys2Proof.Machine.execPriResponse who pasid va g s
  | .atsInvalidation pasid va log => Sys2Proof.Machine.execAtsInvalidation pasid va log s
  | .pasidStop pasid => Sys2Proof.Machine.execPasidStop pasid s
  | .regionTableDrain pasid table => Sys2Proof.Machine.execRegionTableDrain pasid table s
  | .waitaArm c x => Sys2Proof.Machine.execWaitaArm c x s
  | .waitaWake c x => Sys2Proof.Machine.execWaitaWake c x s
  | .waitaExpiry c x => Sys2Proof.Machine.execWaitaExpiry c x s
  | .waitaPoll c x => Sys2Proof.Machine.execWaitaPoll c x s
  | .barrierNotification g phase round rank => Sys2Proof.Machine.execBarrierNotification g phase round rank s
  | .gatherReport g phase rank => Sys2Proof.Machine.execGatherReport g phase rank s
  | .barrierCompletion g phase c => Sys2Proof.Machine.execBarrierCompletion g phase c s
  | .vredgContribution g phase k => Sys2Proof.Machine.execVredgContribution g phase k s
  | .vredgResult g phase => Sys2Proof.Machine.execVredgResult g phase s
  | .ringOpAtHome op => Sys2Proof.Machine.execRingOpAtHome op s
  | .ringAnswer c x r => Sys2Proof.Machine.execRingAnswer c x r s
  | .ringResend c x => Sys2Proof.Machine.execRingResend c x s
  | .ringWaitExpiry c x => Sys2Proof.Machine.execRingWaitExpiry c x s
  | .doorbell q tail => Sys2Proof.Machine.execDoorbell q tail s
  | .directMessage q core pc arg1 arg2 => Sys2Proof.Machine.execDirectMessage q core pc arg1 arg2 s
  | .launchRecordRead n => Sys2Proof.Machine.execLaunchRecordRead n s
  | .slotIdleTimeout n => Sys2Proof.Machine.execSlotIdleTimeout n s
  | .gateRead n => Sys2Proof.Machine.execGateRead n s
  | .gangPlacement => Sys2Proof.Machine.execGangPlacement s
  | .deadlinePreempt => Sys2Proof.Machine.execDeadlinePreempt s
  | .preemptionSaved lid => Sys2Proof.Machine.execPreemptionSaved lid s
  | .gangResume lid => Sys2Proof.Machine.execGangResume lid s
  | .rtReservationMiss n => Sys2Proof.Machine.execRtReservationMiss n s
  | .launchCompletion lid value who => Sys2Proof.Machine.execLaunchCompletion lid value who s
  | .queueTeardown q => Sys2Proof.Machine.execQueueTeardown q s
  | .queueRegister q desc => Sys2Proof.Machine.execQueueRegister q desc s
  | .readyQueueSend => Sys2Proof.Machine.execReadyQueueSend s
  | .readyQueueReoffer pa => Sys2Proof.Machine.execReadyQueueReoffer pa s
  | .furledRequestAtHome r => Sys2Proof.Machine.execFurledRequestAtHome r s
  | .evaluationMessage r w => Sys2Proof.Machine.execEvaluationMessage r w s
  | .recordFailureReport pa => Sys2Proof.Machine.execRecordFailureReport pa s
  | .evaluationFailureReport pa => Sys2Proof.Machine.execEvaluationFailureReport pa s
  | .furledWake r a => Sys2Proof.Machine.execFurledWake r a s
  | .furlWaitLimit r => Sys2Proof.Machine.execFurlWaitLimit r s
  | .furlWaiterResend r => Sys2Proof.Machine.execFurlWaiterResend r s
  | .spliceAnnihilate c => Sys2Proof.Machine.execSpliceAnnihilate c s
  | .spliceCommute c => Sys2Proof.Machine.execSpliceCommute c s
  | .spliceErase c => Sys2Proof.Machine.execSpliceErase c s
  | .spliceTemplate c => Sys2Proof.Machine.execSpliceTemplate c s
  | .spliceHandler c => Sys2Proof.Machine.execSpliceHandler c s
  | .spliceEngine c => Sys2Proof.Machine.execSpliceEngine c s
  | .engineRuleElement c n e => Sys2Proof.Machine.execEngineRuleElement c n e s
  | .bagReload c => Sys2Proof.Machine.execBagReload c s
  | .spliceSteal c => Sys2Proof.Machine.execSpliceSteal c s
  | .bagStealArrival victim thief => Sys2Proof.Machine.execBagStealArrival victim thief s
  | .trapRecordArrival c lid r => Sys2Proof.Machine.execTrapRecordArrival c lid r s
  | .migrationForward c p => Sys2Proof.Machine.execMigrationForward c p s
  | .mapAcknowledged c => Sys2Proof.Machine.execMapAcknowledged c s
  | .stayLinkTrained peerDev base => Sys2Proof.Machine.execStayLinkTrained peerDev base s
  | .stayLinkLoss => Sys2Proof.Machine.execStayLinkLoss s
  | .deviceFatalError kind loc addr => Sys2Proof.Machine.execDeviceFatalError kind loc addr s
  | .functionReset => Sys2Proof.Machine.execFunctionReset s
  | .powerOn table sigOk imgOk => Sys2Proof.Machine.execPowerOn table sigOk imgOk s
  | .readyBitSet n => Sys2Proof.Machine.execReadyBitSet n s
  | .powerMeasurement watts => Sys2Proof.Machine.execPowerMeasurement watts s
  | .matrixCapUpdate estimate => Sys2Proof.Machine.execMatrixCapUpdate estimate s
  | .thermalStep celsius => Sys2Proof.Machine.execThermalStep celsius s
  | .thermalTrip celsius => Sys2Proof.Machine.execThermalTrip celsius s
  | .getVersion req => Sys2Proof.Machine.execGetVersion req s
  | .getCapabilities req => Sys2Proof.Machine.execGetCapabilities req s
  | .negotiateAlgorithms req => Sys2Proof.Machine.execNegotiateAlgorithms req s
  | .getDigests req => Sys2Proof.Machine.execGetDigests req s
  | .getCertificate req => Sys2Proof.Machine.execGetCertificate req s
  | .challenge req => Sys2Proof.Machine.execChallenge req s
  | .getMeasurements req => Sys2Proof.Machine.execGetMeasurements req s
  | .readbackLatch addr => Sys2Proof.Machine.execReadbackLatch addr s
  | .errorLogClear n bits => Sys2Proof.Machine.execErrorLogClear n bits s
  | .powerCapWrite v => Sys2Proof.Machine.execPowerCapWrite v s
  | .registerWrite addr v => Sys2Proof.Machine.execRegisterWrite addr v s
  | .illegalInstruction c x enc => Sys2Proof.Machine.execIllegalInstruction c x enc s
  | .instructionFetchFault c x va cause => Sys2Proof.Machine.execInstructionFetchFault c x va cause s
  | .childLaunchRequest c x rec r => Sys2Proof.Machine.execChildLaunchRequest c x rec r s
  | .launchAnswer c x cause r => Sys2Proof.Machine.execLaunchAnswer c x cause r s
  | .migrationImageInstalled src dst => Sys2Proof.Machine.execMigrationImageInstalled src dst s
  | .aredPartnerEnded n => Sys2Proof.Machine.execAredPartnerEnded n s
  | .linkLevelRetry => Sys2Proof.Machine.execLinkLevelRetry s
  | .add d a b => Sys2Proof.Machine.execAdd d a b s
  | .sub d a b => Sys2Proof.Machine.execSub d a b s
  | .and d a b => Sys2Proof.Machine.execAnd d a b s
  | .or d a b => Sys2Proof.Machine.execOr d a b s
  | .xor d a b => Sys2Proof.Machine.execXor d a b s
  | .andn d a b => Sys2Proof.Machine.execAndn d a b s
  | .sll d a b => Sys2Proof.Machine.execSll d a b s
  | .srl d a b => Sys2Proof.Machine.execSrl d a b s
  | .sra d a b => Sys2Proof.Machine.execSra d a b s
  | .rol d a b => Sys2Proof.Machine.execRol d a b s
  | .ror d a b => Sys2Proof.Machine.execRor d a b s
  | .min d a b => Sys2Proof.Machine.execMin d a b s
  | .max d a b => Sys2Proof.Machine.execMax d a b s
  | .minu d a b => Sys2Proof.Machine.execMinu d a b s
  | .maxu d a b => Sys2Proof.Machine.execMaxu d a b s
  | .slt d a b => Sys2Proof.Machine.execSlt d a b s
  | .sltu d a b => Sys2Proof.Machine.execSltu d a b s
  | .seq d a b => Sys2Proof.Machine.execSeq d a b s
  | .sne d a b => Sys2Proof.Machine.execSne d a b s
  | .csel d a b => Sys2Proof.Machine.execCsel d a b s
  | .addi d a imm => Sys2Proof.Machine.execAddi d a imm s
  | .andi d a imm => Sys2Proof.Machine.execAndi d a imm s
  | .ori d a imm => Sys2Proof.Machine.execOri d a imm s
  | .xori d a imm => Sys2Proof.Machine.execXori d a imm s
  | .slli d a sc => Sys2Proof.Machine.execSlli d a sc s
  | .srli d a sc => Sys2Proof.Machine.execSrli d a sc s
  | .srai d a sc => Sys2Proof.Machine.execSrai d a sc s
  | .rori d a sc => Sys2Proof.Machine.execRori d a sc s
  | .slti d a imm => Sys2Proof.Machine.execSlti d a imm s
  | .sltiu d a imm => Sys2Proof.Machine.execSltiu d a imm s
  | .seqi d a imm => Sys2Proof.Machine.execSeqi d a imm s
  | .snei d a imm => Sys2Proof.Machine.execSnei d a imm s
  | .liu d imm => Sys2Proof.Machine.execLiu d imm s
  | .adrp d imm => Sys2Proof.Machine.execAdrp d imm s
  | .mul d a b => Sys2Proof.Machine.execMul d a b s
  | .mulhu d a b => Sys2Proof.Machine.execMulhu d a b s
  | .mulh d a b => Sys2Proof.Machine.execMulh d a b s
  | .mulhus d a b => Sys2Proof.Machine.execMulhus d a b s
  | .divu d a b => Sys2Proof.Machine.execDivu d a b s
  | .div d a b => Sys2Proof.Machine.execDiv d a b s
  | .remu d a b => Sys2Proof.Machine.execRemu d a b s
  | .rem d a b => Sys2Proof.Machine.execRem d a b s
  | .mod d a b => Sys2Proof.Machine.execMod d a b s
  | .clz d a => Sys2Proof.Machine.execClz d a s
  | .ctz d a => Sys2Proof.Machine.execCtz d a s
  | .popc d a => Sys2Proof.Machine.execPopc d a s
  | .brev d a => Sys2Proof.Machine.execBrev d a s
  | .extB d a => Sys2Proof.Machine.execExtB d a s
  | .extH d a => Sys2Proof.Machine.execExtH d a s
  | .extW d a => Sys2Proof.Machine.execExtW d a s
  | .extBu d a => Sys2Proof.Machine.execExtBu d a s
  | .extHu d a => Sys2Proof.Machine.execExtHu d a s
  | .extWu d a => Sys2Proof.Machine.execExtWu d a s
  | .bfx d a b => Sys2Proof.Machine.execBfx d a b s
  | .bfxu d a b => Sys2Proof.Machine.execBfxu d a b s
  | .bfi d a b => Sys2Proof.Machine.execBfi d a b s
  | .ptag d a f l => Sys2Proof.Machine.execPtag d a f l s
  | .padd d a b => Sys2Proof.Machine.execPadd d a b s
  | .pchk d a => Sys2Proof.Machine.execPchk d a s
  | .fadd d a b p => Sys2Proof.Machine.execFadd d a b p s
  | .fsub d a b p => Sys2Proof.Machine.execFsub d a b p s
  | .fmul d a b p => Sys2Proof.Machine.execFmul d a b p s
  | .fdiv d a b p => Sys2Proof.Machine.execFdiv d a b p s
  | .fsqrt d a p => Sys2Proof.Machine.execFsqrt d a p s
  | .fmin d a b p => Sys2Proof.Machine.execFmin d a b p s
  | .fmax d a b p => Sys2Proof.Machine.execFmax d a b p s
  | .fma d a b p => Sys2Proof.Machine.execFma d a b p s
  | .feq d a b p => Sys2Proof.Machine.execFeq d a b p s
  | .flt d a b p => Sys2Proof.Machine.execFlt d a b p s
  | .fle d a b p => Sys2Proof.Machine.execFle d a b p s
  | .fclass d a p => Sys2Proof.Machine.execFclass d a p s
  | .ftoi d a p => Sys2Proof.Machine.execFtoi d a p s
  | .ftoiu d a p => Sys2Proof.Machine.execFtoiu d a p s
  | .itof d a p => Sys2Proof.Machine.execItof d a p s
  | .iutof d a p => Sys2Proof.Machine.execIutof d a p s
  | .ftof d a p => Sys2Proof.Machine.execFtof d a p s
  | .beq a b o => Sys2Proof.Machine.execBeq a b o s
  | .bne a b o => Sys2Proof.Machine.execBne a b o s
  | .blt a b o => Sys2Proof.Machine.execBlt a b o s
  | .bge a b o => Sys2Proof.Machine.execBge a b o s
  | .bltu a b o => Sys2Proof.Machine.execBltu a b o s
  | .bgeu a b o => Sys2Proof.Machine.execBgeu a b o s
  | .jal d o => Sys2Proof.Machine.execJal d o s
  | .jalr d a imm => Sys2Proof.Machine.execJalr d a imm s
  | .loop a o => Sys2Proof.Machine.execLoop a o s
  | .loopi c o => Sys2Proof.Machine.execLoopi c o s
  | .endTask => Sys2Proof.Machine.execEndTask s
  | .yield => Sys2Proof.Machine.execYield s
  | .done a => Sys2Proof.Machine.execDone a s
  | .nop => Sys2Proof.Machine.execNop s
  | .end16 => Sys2Proof.Machine.execEnd16 s
  | .yield16 => Sys2Proof.Machine.execYield16 s
  | .nop16 => Sys2Proof.Machine.execNop16 s
  | .mv16 d a => Sys2Proof.Machine.execMv16 d a s
  | .li16 d imm => Sys2Proof.Machine.execLi16 d imm s
  | .addi16 d imm => Sys2Proof.Machine.execAddi16 d imm s
  | .add16 d a => Sys2Proof.Machine.execAdd16 d a s
  | .sub16 d a => Sys2Proof.Machine.execSub16 d a s
  | .and16 d a => Sys2Proof.Machine.execAnd16 d a s
  | .andi16 d imm => Sys2Proof.Machine.execAndi16 d imm s
  | .slli16 d sc => Sys2Proof.Machine.execSlli16 d sc s
  | .srli16 d sc => Sys2Proof.Machine.execSrli16 d sc s
  | .srai16 d sc => Sys2Proof.Machine.execSrai16 d sc s
  | .ldD16 d a o => Sys2Proof.Machine.execLdD16 d a o s
  | .stD16 d a o => Sys2Proof.Machine.execStD16 d a o s
  | .beqz16 a o => Sys2Proof.Machine.execBeqz16 a o s
  | .bnez16 a o => Sys2Proof.Machine.execBnez16 a o s
  | .j16 o => Sys2Proof.Machine.execJ16 o s
  | .ldB d b imm => Sys2Proof.Machine.execLdB d b imm s
  | .ldH d b imm => Sys2Proof.Machine.execLdH d b imm s
  | .ldW d b imm => Sys2Proof.Machine.execLdW d b imm s
  | .ldD d b imm => Sys2Proof.Machine.execLdD d b imm s
  | .ldBu d b imm => Sys2Proof.Machine.execLdBu d b imm s
  | .ldHu d b imm => Sys2Proof.Machine.execLdHu d b imm s
  | .ldWu d b imm => Sys2Proof.Machine.execLdWu d b imm s
  | .stB d b imm => Sys2Proof.Machine.execStB d b imm s
  | .stH d b imm => Sys2Proof.Machine.execStH d b imm s
  | .stW d b imm => Sys2Proof.Machine.execStW d b imm s
  | .stD d b imm => Sys2Proof.Machine.execStD d b imm s
  | .ldAcq d b sc z => Sys2Proof.Machine.execLdAcq d b sc z s
  | .stRel d b sc z => Sys2Proof.Machine.execStRel d b sc z s
  | .fence sc o => Sys2Proof.Machine.execFence sc o s
  | .pref b r => Sys2Proof.Machine.execPref b r s
  | .ifence => Sys2Proof.Machine.execIfence s
  | .vld v a k w => Sys2Proof.Machine.execVld v a k w s
  | .vst v a k w => Sys2Proof.Machine.execVst v a k w s
  | .vlds v a b k w => Sys2Proof.Machine.execVlds v a b k w s
  | .vsts v a b k w => Sys2Proof.Machine.execVsts v a b k w s
  | .vldg v a b k w => Sys2Proof.Machine.execVldg v a b k w s
  | .vstg v a b k w => Sys2Proof.Machine.execVstg v a b k w s
  | .vldt v a k w c => Sys2Proof.Machine.execVldt v a k w c s
  | .vstt v a k w c => Sys2Proof.Machine.execVstt v a k w c s
  | .vldf v a b k f => Sys2Proof.Machine.execVldf v a b k f s
  | .vstf v a b k f => Sys2Proof.Machine.execVstf v a b k f s
  | .amoaddW d a b sc o => Sys2Proof.Machine.execAmoaddW d a b sc o s
  | .amoaddD d a b sc o => Sys2Proof.Machine.execAmoaddD d a b sc o s
  | .amoandD d a b sc o => Sys2Proof.Machine.execAmoandD d a b sc o s
  | .amoorD d a b sc o => Sys2Proof.Machine.execAmoorD d a b sc o s
  | .amoxorD d a b sc o => Sys2Proof.Machine.execAmoxorD d a b sc o s
  | .amominD d a b sc o => Sys2Proof.Machine.execAmominD d a b sc o s
  | .amomaxD d a b sc o => Sys2Proof.Machine.execAmomaxD d a b sc o s
  | .amominuD d a b sc o => Sys2Proof.Machine.execAmominuD d a b sc o s
  | .amomaxuD d a b sc o => Sys2Proof.Machine.execAmomaxuD d a b sc o s
  | .amoswapW d a b sc o => Sys2Proof.Machine.execAmoswapW d a b sc o s
  | .amoswapD d a b sc o => Sys2Proof.Machine.execAmoswapD d a b sc o s
  | .amocasW d a b sc o => Sys2Proof.Machine.execAmocasW d a b sc o s
  | .amocasD d a b sc o => Sys2Proof.Machine.execAmocasD d a b sc o s
  | .amocas2Q d a b sc o => Sys2Proof.Machine.execAmocas2Q d a b sc o s
  | .famoaddF32 d a b sc o => Sys2Proof.Machine.execFamoaddF32 d a b sc o s
  | .redadd w a b sc o => Sys2Proof.Machine.execRedadd w a b sc o s
  | .redand w a b sc o => Sys2Proof.Machine.execRedand w a b sc o s
  | .redor w a b sc o => Sys2Proof.Machine.execRedor w a b sc o s
  | .redxor w a b sc o => Sys2Proof.Machine.execRedxor w a b sc o s
  | .redmin w a b sc o => Sys2Proof.Machine.execRedmin w a b sc o s
  | .redmax w a b sc o => Sys2Proof.Machine.execRedmax w a b sc o s
  | .redminu w a b sc o => Sys2Proof.Machine.execRedminu w a b sc o s
  | .redmaxu w a b sc o => Sys2Proof.Machine.execRedmaxu w a b sc o s
  | .waita d a b sc w => Sys2Proof.Machine.execWaita d a b sc w s
  | .bar n => Sys2Proof.Machine.execBar n s
  | .bara n => Sys2Proof.Machine.execBara n s
  | .barw n => Sys2Proof.Machine.execBarw n s
  | .vredg a b c t n => Sys2Proof.Machine.execVredg a b c t n s
  | .send a => Sys2Proof.Machine.execSend a s
  | .spawn a => Sys2Proof.Machine.execSpawn a s
  | .flush => Sys2Proof.Machine.execFlush s
  | .clsen n => Sys2Proof.Machine.execClsen n s
  | .clsdis n => Sys2Proof.Machine.execClsdis n s
  | .clspend d => Sys2Proof.Machine.execClspend d s
  | .qpush a b l => Sys2Proof.Machine.execQpush a b l s
  | .qpop a b c l => Sys2Proof.Machine.execQpop a b c l s
  | .qeos b l => Sys2Proof.Machine.execQeos b l s
  | .launch a => Sys2Proof.Machine.execLaunch a s
  | .depset a b c p => Sys2Proof.Machine.execDepset a b c p s
  | .depdec a => Sys2Proof.Machine.execDepdec a s
  | .signal a b sc => Sys2Proof.Machine.execSignal a b sc s
  | .enq a => Sys2Proof.Machine.execEnq a s
  | .deq a u => Sys2Proof.Machine.execDeq a u s
  | .epoll a u => Sys2Proof.Machine.execEpoll a u s
  | .furl d a b p => Sys2Proof.Machine.execFurl d a b p s
  | .unfurl d a b => Sys2Proof.Machine.execUnfurl d a b s
  | .fpeek d a => Sys2Proof.Machine.execFpeek d a s
  | .ftag d a => Sys2Proof.Machine.execFtag d a s
  | .fcancel d a => Sys2Proof.Machine.execFcancel d a s
  | .spop d => Sys2Proof.Machine.execSpop d s
  | .spush a b => Sys2Proof.Machine.execSpush a b s
  | .salloc d => Sys2Proof.Machine.execSalloc d s
  | .sfree a => Sys2Proof.Machine.execSfree a s
  | .slink d a b => Sys2Proof.Machine.execSlink d a b s
  | .sread d a => Sys2Proof.Machine.execSread d a s
  | .vadd d a b k w => Sys2Proof.Machine.execVadd d a b k w s
  | .vsub d a b k w => Sys2Proof.Machine.execVsub d a b k w s
  | .vaddSat d a b k w => Sys2Proof.Machine.execVaddSat d a b k w s
  | .vsubSat d a b k w => Sys2Proof.Machine.execVsubSat d a b k w s
  | .vadduSat d a b k w => Sys2Proof.Machine.execVadduSat d a b k w s
  | .vsubuSat d a b k w => Sys2Proof.Machine.execVsubuSat d a b k w s
  | .vmul d a b k w => Sys2Proof.Machine.execVmul d a b k w s
  | .vmulh d a b k w => Sys2Proof.Machine.execVmulh d a b k w s
  | .vmulhu d a b k w => Sys2Proof.Machine.execVmulhu d a b k w s
  | .vmin d a b k w => Sys2Proof.Machine.execVmin d a b k w s
  | .vmax d a b k w => Sys2Proof.Machine.execVmax d a b k w s
  | .vminu d a b k w => Sys2Proof.Machine.execVminu d a b k w s
  | .vmaxu d a b k w => Sys2Proof.Machine.execVmaxu d a b k w s
  | .vabs d a k w => Sys2Proof.Machine.execVabs d a k w s
  | .vand d a b k w => Sys2Proof.Machine.execVand d a b k w s
  | .vor d a b k w => Sys2Proof.Machine.execVor d a b k w s
  | .vxor d a b k w => Sys2Proof.Machine.execVxor d a b k w s
  | .vandn d a b k w => Sys2Proof.Machine.execVandn d a b k w s
  | .vnot d a k w => Sys2Proof.Machine.execVnot d a k w s
  | .vsll d a b k w => Sys2Proof.Machine.execVsll d a b k w s
  | .vsrl d a b k w => Sys2Proof.Machine.execVsrl d a b k w s
  | .vsra d a b k w => Sys2Proof.Machine.execVsra d a b k w s
  | .vsel d a b k w => Sys2Proof.Machine.execVsel d a b k w s
  | .vceq d a b k w => Sys2Proof.Machine.execVceq d a b k w s
  | .vcne d a b k w => Sys2Proof.Machine.execVcne d a b k w s
  | .vclt d a b k w => Sys2Proof.Machine.execVclt d a b k w s
  | .vcle d a b k w => Sys2Proof.Machine.execVcle d a b k w s
  | .vcltu d a b k w => Sys2Proof.Machine.execVcltu d a b k w s
  | .vcleu d a b k w => Sys2Proof.Machine.execVcleu d a b k w s
  | .vfceq d a b k w => Sys2Proof.Machine.execVfceq d a b k w s
  | .vfclt d a b k w => Sys2Proof.Machine.execVfclt d a b k w s
  | .vfcle d a b k w => Sys2Proof.Machine.execVfcle d a b k w s
  | .vfcun d a b k w => Sys2Proof.Machine.execVfcun d a b k w s
  | .vfadd d a b k w => Sys2Proof.Machine.execVfadd d a b k w s
  | .vfsub d a b k w => Sys2Proof.Machine.execVfsub d a b k w s
  | .vfmul d a b k w => Sys2Proof.Machine.execVfmul d a b k w s
  | .vfma d a b k w => Sys2Proof.Machine.execVfma d a b k w s
  | .vfnma d a b k w => Sys2Proof.Machine.execVfnma d a b k w s
  | .vfmin d a b k w => Sys2Proof.Machine.execVfmin d a b k w s
  | .vfmax d a b k w => Sys2Proof.Machine.execVfmax d a b k w s
  | .vfabs d a k w => Sys2Proof.Machine.execVfabs d a k w s
  | .vfneg d a k w => Sys2Proof.Machine.execVfneg d a k w s
  | .vfrcpe d a k w => Sys2Proof.Machine.execVfrcpe d a k w s
  | .vfrsqrte d a k w => Sys2Proof.Machine.execVfrsqrte d a k w s
  | .vfclass d a k w => Sys2Proof.Machine.execVfclass d a k w s
  | .vperm d a b k w => Sys2Proof.Machine.execVperm d a b k w s
  | .vbcast d a k w => Sys2Proof.Machine.execVbcast d a k w s
  | .vext d a b w => Sys2Proof.Machine.execVext d a b w s
  | .vins d a b w => Sys2Proof.Machine.execVins d a b w s
  | .vslideup d a b k w => Sys2Proof.Machine.execVslideup d a b k w s
  | .vslidedn d a b k w => Sys2Proof.Machine.execVslidedn d a b k w s
  | .vziplo d a b k w => Sys2Proof.Machine.execVziplo d a b k w s
  | .vziphi d a b k w => Sys2Proof.Machine.execVziphi d a b k w s
  | .vunziplo d a b k w => Sys2Proof.Machine.execVunziplo d a b k w s
  | .vunziphi d a b k w => Sys2Proof.Machine.execVunziphi d a b k w s
  | .vredadd d a k w => Sys2Proof.Machine.execVredadd d a k w s
  | .vredmin d a k w => Sys2Proof.Machine.execVredmin d a k w s
  | .vredmax d a k w => Sys2Proof.Machine.execVredmax d a k w s
  | .vredminu d a k w => Sys2Proof.Machine.execVredminu d a k w s
  | .vredmaxu d a k w => Sys2Proof.Machine.execVredmaxu d a k w s
  | .vfredadd d a k w => Sys2Proof.Machine.execVfredadd d a k w s
  | .vfredmin d a k w => Sys2Proof.Machine.execVfredmin d a k w s
  | .vfredmax d a k w => Sys2Proof.Machine.execVfredmax d a k w s
  | .vdot4 d a b k => Sys2Proof.Machine.execVdot4 d a b k s
  | .vdot4u d a b k => Sys2Proof.Machine.execVdot4u d a b k s
  | .kand d a b => Sys2Proof.Machine.execKand d a b s
  | .kor d a b => Sys2Proof.Machine.execKor d a b s
  | .kxor d a b => Sys2Proof.Machine.execKxor d a b s
  | .knot d a => Sys2Proof.Machine.execKnot d a s
  | .kpopc d a => Sys2Proof.Machine.execKpopc d a s
  | .kfirst d a => Sys2Proof.Machine.execKfirst d a s
  | .kany d a => Sys2Proof.Machine.execKany d a s
  | .kmov d a => Sys2Proof.Machine.execKmov d a s
  | .kfromx d a => Sys2Proof.Machine.execKfromx d a s
  | .ktox d a => Sys2Proof.Machine.execKtox d a s
  | .vaddi d a imm k w => Sys2Proof.Machine.execVaddi d a imm k w s
  | .vandi d a imm k w => Sys2Proof.Machine.execVandi d a imm k w s
  | .vori d a imm k w => Sys2Proof.Machine.execVori d a imm k w s
  | .vxori d a imm k w => Sys2Proof.Machine.execVxori d a imm k w s
  | .vslli d a imm k w => Sys2Proof.Machine.execVslli d a imm k w s
  | .vsrli d a imm k w => Sys2Proof.Machine.execVsrli d a imm k w s
  | .vsrai d a imm k w => Sys2Proof.Machine.execVsrai d a imm k w s
  | .vceqi d a imm k w => Sys2Proof.Machine.execVceqi d a imm k w s
  | .vclti d a imm k w => Sys2Proof.Machine.execVclti d a imm k w s
  | .vmovi d imm k w => Sys2Proof.Machine.execVmovi d imm k w s
  | .cvt d a sc f => Sys2Proof.Machine.execCvt d a sc f s
  | .vcvt d a sc k f => Sys2Proof.Machine.execVcvt d a sc k f s
  | .vpack d a sc f => Sys2Proof.Machine.execVpack d a sc f s
  | .vunpk d a sc g f => Sys2Proof.Machine.execVunpk d a sc g f s
  | .bscale d a k f => Sys2Proof.Machine.execBscale d a k f s
  | .balignExp d a k => Sys2Proof.Machine.execBalignExp d a k s
  | .balignQ8 d a b k => Sys2Proof.Machine.execBalignQ8 d a b k s
  | .balignQ16 d a b k => Sys2Proof.Machine.execBalignQ16 d a b k s
  | .csrr d r => Sys2Proof.Machine.execCsrr d r s
  | .csrw d a r => Sys2Proof.Machine.execCsrw d a r s
  | .csrset d a r => Sys2Proof.Machine.execCsrset d a r s
  | .csrclr d a r => Sys2Proof.Machine.execCsrclr d a r s
  | .trap a n => Sys2Proof.Machine.execTrap a n s
  | .tlbinv a => Sys2Proof.Machine.execTlbinv a s
  | .iclean a => Sys2Proof.Machine.execIclean a s
  | .migrate d a => Sys2Proof.Machine.execMigrate d a s
  | .mgrd d a => Sys2Proof.Machine.execMgrd d a s
  | .mgwr d a => Sys2Proof.Machine.execMgwr d a s
  | .rtswap d a => Sys2Proof.Machine.execRtswap d a s

end Sys2Proof.Machine
end

