-- ==== Sys2Proof/Machine/Moves.lean ====
section
/-!
DEFINITION. What the next step of the package is (log 3): the order State.sched gives, else the events in flight, oldest first,
else the timers that are due, else the next core that can issue, else a cycle without work.
-/

namespace Sys2Proof.Machine

/-- The next step: an instruction or event to execute in a state, a step without one, or a stop. -/
inductive Choice where
  | run (i : Instr) (s : State)
  | rest (s : State)
  | stop (f : Fault)

/-- n cycles pass without an issue. -/
def State.pass (s : State) (n : Nat) : State := { s with cyc := s.cyc + n }

/-! Timers. -/

/-- Whether a period that began at base has ended once more between two cycles. -/
def crossed (a b base period : Nat) : Bool := decide ((a - base) / period < (b - base) / period)

/-- Timers of a context: the end of a wait (07 R238, 08 R281) and the readings of an overflowed one (07 R241). -/
def State.ctxTimers (s : State) (c : CoreId) (x : CtxId) : List Instr :=
  (match (s.ctxAt c x).status with
    | .suspended (.waita w) =>
      (if w.polled && crossed s.checked s.cyc w.issued 1024 then [.waitaPoll c x] else [])
        ++ if w.deadline ≤ s.cyc then [.waitaExpiry c x] else []
    | _ => [])
  ++ match s.waitingRing c x with
    | some op => if op.issued + 2 ^ op.lim.toNat ≤ s.cyc then [.ringWaitExpiry c x] else []
    | none => []

/-- Held entries of a retry buffer whose back-off has expired (08 R258). -/
def resends (now : Nat) (p : Party) (es : List RetryEntry) : List Instr :=
  es.filterMap fun e => if e.held && decide (e.since + e.delay ≤ now) then some (.retryResend e.pkt.lid p (packetMid e.pkt)) else none

/-- Timers of a core of a launch that runs. -/
def State.coreTimers (s : State) (l : Launch) (c : CoreId) : List Instr :=
  let n := (s.coreAt c).net
  resends s.cyc (.core s.dev (s.coreAt c).ident.rel) n.retryBuf
    ++ (n.rings.filterMap fun op => if crossed s.checked s.cyc op.issued 1024 then some (.ringResend c op.ctx) else none)
    ++ if l.phase = .running then (List.finRange 4).flatMap (s.ctxTimers c) else []

/-- Timers of furled waiters (11 R352, R355). -/
def State.furlTimers (s : State) : List Instr :=
  let limit := fun (r : FurlReq) => decide (r.issued + 2 ^ s.rigging 148 144 22 ≤ s.cyc)
  (s.refused.map fun e => if limit e.1 then [Instr.furlWaitLimit e.1] else if e.2 + 1024 ≤ s.cyc then [.furlWaiterResend e.1] else []).flatten
    ++ s.allCleat.filterMap fun k => (k.waiter).bind fun w => if limit w.2 then some (.furlWaitLimit w.2) else none

/-- Whether the head of a queue, a launch that awaits resumption or the slot's, is late and not yet counted (09 R301). -/
def State.missDue (s : State) (q : BitVec 16) (h : Option Head) : Bool :=
  match s.firstSaved q, h with
  | some l, _ => !l.missed && s.rtLate q l.enteredAt
  | none, some h => !h.missed && s.rtLate q h.since
  | none, none => false

/-- Timers of a hardware slot (09 R286, R301, R304); a step of a head's age may change the ranking (R298). -/
def State.slotTimers (s : State) (n : Fin 128) : List Instr :=
  (if s.slotIdle n && decide ((s.slotAt n).idleSince + s.rigging 143 128 200 * usCycles ≤ s.cyc) then [.slotIdleTimeout n] else [])
    ++ (if (s.slotAt n).queue.any fun q => s.missDue q (s.slotAt n).head then [.rtReservationMiss n] else [])
    ++ (if (s.slotAt n).head.any fun h => crossed s.checked s.cyc h.since (100 * usCycles) then [.gangPlacement] else [])
    ++ if (s.slotAt n).head.any fun h => gated h.args && decide (h.gateAt + 10 * usCycles ≤ s.cyc) then [.gateRead n] else []

/-- Armed lines whose exclusive host copy is to be asked for again (07 R225). -/
def State.rereads (s : State) : List Instr :=
  s.lines.filterMap fun e => if e.2.host == .exclusive && s.armed e.1 && decide (e.2.reread ≤ s.cyc) then some (.bisnpReread e.1) else none

/-- The timers that are due. -/
def State.due (s : State) : List Instr :=
  ((s.launches.filter Launch.live).flatMap fun l => l.cores.flatMap (s.coreTimers l))
    ++ ((List.finRange 1152).filter s.firmwareCore).flatMap (fun c => (List.finRange 4).flatMap (s.ctxTimers c)) ++ resends s.cyc .linkDie s.linkRetry
    ++ s.furlTimers ++ s.rereads ++ (List.finRange 128).flatMap s.slotTimers
    ++ (if s.blocked.any fun b => !b.tried && decide (b.deadline ≤ s.cyc) then [.deadlinePreempt] else [])
    ++ (if s.launches.any fun l => l.phase == .saved && crossed s.checked s.cyc l.enteredAt (100 * usCycles) then [.gangPlacement] else [])
    ++ (s.held.filterMap fun h => if crossed s.checked s.cyc h.cycle 1024 then some (.readyQueueReoffer h.pa) else none)
    ++ if crossed s.checked s.cyc 0 1500 then (List.finRange 4).map .reefWindow else []

/-- The timers looked at: those that are due are in flight, and so is again what could not take place; what the launch unit owes is tried
again. -/
def State.lookAtTimers (s : State) : State :=
  State.payOwed (State.sendFailures { s with pending := s.parked ++ s.pending ++ s.due, parked := [], checked := s.cyc })

/-! Cores. -/

/-- The event for a fetch whose translation no TLB holds (02 R70, 06 R184): the host's answer where it has granted the page, else
the fault, a trap where the context can never be granted it. -/
def State.fetchMiss (s : State) (c : CoreId) (x : CtxId) (va : Word) : Instr :=
  let pasid := (s.coreAt c).ident.pasid
  if (s.hostPhys pasid va false).isSome then .atsResponse (.ctx c x) pasid va false
  else .instructionFetchFault c x va (if (s.space pasid).stopped then 0x041 else 0x040)

/-- A fetch that does not go ahead: a fault or a trap before any instruction is decoded (02 R70), or a cycle in which the host is asked for its
copy of the line. -/
def State.fetchStop (s : State) (c : CoreId) (x : CtxId) (st : Stop) : Choice :=
  match st with
  | .trap cause va => .run (.instructionFetchFault c x va cause) s
  | .miss va _ => .run (s.fetchMiss c x va) s
  | .busy ls => .rest (ls.foldl State.snoopHost (s.spend 1))

/-- The holder of core c's issue slot issues (02 R47, 04 R114, R147): the watchdog first, then the fetch, then the instruction. Where it
cannot issue in this cycle, the cycle ends. -/
noncomputable def State.issueAt (s : State) (c : CoreId) : Choice :=
  match (s.coreAt c).slot with
  | none => .rest (s.pass 1)
  | some x =>
    let k := s.ctxAt c x
    if !s.mayRun c ∨ k.status ≠ .running ∨ s.cyc < k.busy then .rest (s.pass 1)
    else
      let t := { s with cur := c, hot := x }
      if k.budget.toNat ≤ s.usedOf k then .run (.watchdog c x) t
      else match t.fetch c k.pc with
        | .instr i t' => .run i t'
        | .illegal enc t' => .run (.illegalInstruction c x enc) t'
        | .stop st => t.fetchStop c x st

/-- Whether a core can issue in this cycle. -/
def State.canIssue (s : State) (c : CoreId) : Bool :=
  ((s.coreAt c).slot.any fun x => (s.ctxAt c x).status == .running && decide ((s.ctxAt c x).busy ≤ s.cyc)) && s.mayRun c

/-- The next core after cur, in ascending cyclic order, that can issue in this cycle. -/
def State.nextCore (s : State) : Option CoreId :=
  let able := (List.finRange 1152).filter s.canIssue
  match able.find? (fun c => decide (s.cur < c)) with
  | some c => some c
  | none => able.head?

/-! The order of events. -/

/-- A sender as a number. -/
def partyNo (p : Party) : Nat := match p with
  | .core d rel => 1024 * d.toNat + rel.toNat
  | .linkDie => 2048

/-- The channel of packets of one sender, receiver and class (08 R260). -/
def packetChannel (p : Packet) : Nat × Nat × Nat :=
  (8 * p.lid, 8 * p.dst.toNat + (packetUnit p).toNat, 64 * partyNo p.src + packetClass p)

/-- The channel of an event: events of one channel take place in order (07 R213, R232; 08 R259, R260). -/
def channelOf (i : Instr) : Option (Nat × Nat × Nat) :=
  match i with
  | .messageArrival p => some (packetChannel p)
  | .engineCommandArrival p => some (packetChannel p)
  | .migrationForward _ p => some (packetChannel p)
  | .homeOperation op => some (2, op.core.val, op.ctx.val)
  | .completionElementArrival lid _ u _ _ rel => some (3, lid, 8 * rel.toNat + u.toNat)
  | .engineRuleElement c _ _ => some (4, c.val, 0)
  | .trapRecordArrival c _ _ => some (5, c.val, 0)
  | .ringOpAtHome op => some (6, op.core.val, op.ctx.val)
  | .sendCommit c _ => some (7, c.val, 0)
  | _ => none

/-- Whether an event in flight may take place before those ahead of it. -/
def mayOvertake (ahead : List Instr) (i : Instr) : Bool := (channelOf i).isNone || ahead.all fun j => channelOf j != channelOf i

/-- Whether the owner of a deque may pop from it in this cycle, or the owner of a bag from that: the core is about to choose its work, or the unit to
take a pair, or the core to issue. -/
def State.popsTask (s : State) (v : CoreId) : Bool := s.pending.contains (.issueSlotHandoff v)
def State.popsPair (s : State) (v : CoreId) : Bool := (s.slTakes v && (s.slEvent v).any fun i => s.pending.contains i) || s.canIssue v

/-- Whether requests of one cycle are taken in the order of the spec, as far as this one goes: in ascending core number (01 R40, 09 R310), and a
steal after the pop of the deque's or bag's owner (08 R265, 13 R400). -/
def State.inOrder (s : State) (i : Instr) : Bool :=
  match i with
  | .homeOperation op => (match op.kind with
    | .depset _ _ _ | .depdec => !s.passedBy (.counter op.pa) op.core
    | _ => true)
  | .launchCompletion lid _ (some w) => !s.passedBy (.launch lid) w.1
  | .stealRequestArrival v _ => !s.popsTask v
  | .bagStealArrival v _ => !s.popsPair v
  | _ => true

/-- The n-th event in flight, if it can take place next. -/
def State.arriving (s : State) (n : Nat) : Option Instr :=
  (s.pending[n]?).filter fun i => mayOvertake (s.parked ++ s.pending.take n) i && s.inOrder i && s.mayEnter i

/-- Whether a doorbell can come now: of two queues that become ready for one free slot in one cycle, the one that 09 R287 puts first comes
first. -/
def State.bellInOrder (s : State) (q : BitVec 16) : Bool :=
  (s.slotOfQueue q).isSome || s.slots.all fun k => match k.queue with
    | some p => k.idleSince != s.cyc || !s.waitBefore (q, s.cyc) (p, s.bellOf p)
    | none => true

/-- Whether a packet comes from the peer package over a trained link (10 R341). -/
def State.fromPeer (s : State) (p : Packet) : Bool :=
  s.peerTrained && s.isHere p && match p.src with
    | .core d _ => d != s.dev
    | .linkDie => false

/-- Whether a sender has a packet under way to the peer, which the peer answers (08 R258). -/
def State.atPeer (s : State) (lid : Nat) (p : Party) (mid : BitVec 16) : Bool :=
  s.peerTrained && (s.retryOf lid p).any fun e => e.is lid mid && !e.held && !e.barred && !s.isHere e.pkt

/-- Whether an operation of the peer package can reach a home: at this package's memory or, as far as it is seen here, at the peer's; the counters
of 09 R309 are each package's own. -/
def State.peerOp (s : State) (op : HomeOp) : Bool :=
  s.peerTrained && op.dev != s.dev && (s.ownMem op.pa || s.peerMem op.pa) && match op.kind with
    | .depset _ _ _ | .depdec => false
    | _ => true

/-- Whether a furled request of the peer can reach a home. -/
def State.peerReq (s : State) (r : FurlReq) : Bool := s.peerTrained && r.dev != s.dev && (s.ownMem r.pa || s.peerMem r.pa)

/-- Whether a line is one that the peer's cores can touch. -/
def State.peerLine (s : State) (pa : Nat) : Bool := s.peerTrained && (s.ownMem pa || s.peerMem pa)

/-- Whether an event can come from outside the package, from firmware, or from a unit that acts by itself at a time the spec leaves open. -/
def State.isInput (s : State) (i : Instr) : Bool :=
  match i with
  | .stealRequest _ | .spliceSteal _ | .drainAndSwap _ _ | .escapeRecovery _ _ _ | .partitionDrop _ _ | .firewallDrop _ _ _ _ => true
  | .gets _ _ | .getm _ _ | .getu _ _ _ _ | .uPartial _ _ | .snoopShare _ _ | .snoopInvalidate _ _ | .recallLine _ | .lineFill _ _ _ => true
  | .hostRead _ | .hostReadOwn _ | .hostWrite _ _ _ | .bisnpResponse _ _ _ | .hostSnpdata _ | .hostSnpinv _ => true
  | .priResponse _ _ _ _ | .atsInvalidation _ _ _ | .pasidStop _ | .regionTableDrain _ _ => true
  | .doorbell q _ => s.bellInOrder q
  | .directMessage _ _ _ _ _ | .queueTeardown _ | .queueRegister _ _ => true
  | .messageArrival p | .engineCommandArrival p => s.fromPeer p
  | .acknowledgement lid p mid | .nack lid p mid _ | .partitionRefusal lid p mid => s.atPeer lid p mid
  | .completionElementArrival _ _ _ _ _ _ | .trapRecordArrival _ _ _ => s.peerTrained
  | .homeOperation op => s.peerOp op
  | .furledRequestAtHome r => s.peerReq r
  | .recordFailureReport pa | .evaluationFailureReport pa => s.peerLine pa
  | .aredChunkExchange _ _ | .aredPartnerEnded _ | .stayLinkTrained _ _ | .stayLinkLoss | .linkLevelRetry => true
  | .deviceFatalError _ _ _ | .functionReset | .powerOn _ _ _ | .readyBitSet _ | .powerMeasurement _ | .matrixCapUpdate _ => true
  | .thermalStep _ | .thermalTrip _ | .readbackLatch _ | .errorLogClear _ _ | .powerCapWrite _ | .registerWrite _ _ => true
  | .getVersion _ | .getCapabilities _ | .negotiateAlgorithms _ | .getDigests _ | .getCertificate _ | .challenge _ | .getMeasurements _ => true
  | _ => false

/-- Bytes of one line stored from outside: by the host or an I/O agent to host memory, after which the slice holds the line no more (07 R221, R227), or
by a core of the peer to device memory (10 R341), once the host holds no exclusive copy. -/
def State.outsideStore (s : State) (pa : Nat) (bs : List Byte) : State :=
  let l := pa / 64
  if 64 < pa % 64 + bs.length then s
  else if s.hostMem pa then
    let t := s.claimHome l
    (t.setLine l { t.line l with own := false }).put pa bs
  else if s.peerLine pa then if s.hostHolds l then s.snoopHost l else (s.claimHome l).store pa bs
  else s

/-- A core of the peer loads a line (07 R224, R225): the owner shares it, and the directory records the peer's copy. -/
def State.peerLoad (s : State) (l : Nat) : State :=
  if s.hostHolds l then s.snoopHost l
  else
    let t := (s.recall l).shareOwner l
    t.setLine l { t.line l with peer := true }

/-- A WAITA of the peer at its home (07 R239). -/
def State.peerWait (s : State) (c : CoreId) (x : CtxId) (w : WaitaOp) : State :=
  match w.target with
  | .phys pa =>
    if s.peerLine pa && w.dev != s.dev then if s.hostHolds (pa / 64) then s.snoopHost (pa / 64) else s.armHome c x w pa w.attr else s
  | .scratch _ => s

/-- An act of host or firmware, of a fetch buffer, or of the peer package. -/
def State.act (s : State) (a : Setup) : State :=
  match a with
  | .notes pasid r => s.setSpace pasid { s.space pasid with notes := r }
  | .partition pasid p => s.setSpace pasid { s.space pasid with partition := p }
  | .stage g => s.stage g
  | .corrected => s.modMgmt fun m => { m with corrected := m.corrected + 1 }
  | .doorbellRead q => if s.ready 1 then s.reply (.word (BitVec.ofNat 64 (s.qf q 223 192))) else s.refusal .unsupported
  | .windowRead a => s.hostWindowRead a
  | .sidebandRead a => s.sidebandRead a
  | .sidebandWrite a v => s.windowWrite a v
  | .firmwareLoad va bs => s.firmwareLoad va bs
  | .firmwareStart c x pc => s.firmwareStart c x pc
  | .fetchAhead c va => s.fetchAhead c va
  | .store pa bs => s.outsideStore pa bs
  | .peerLoad l => if s.peerLine (64 * l) then s.peerLoad l else s
  | .peerWait c x w => s.peerWait c x w
  | .peerGone c x => s.forget (s.dev ^^^ 1) c x
  | .peerDropped p => s.clearNack p
  | .peerHalf h cores => { s with peerPlaced := s.peerPlaced.filter (fun e => e.1 != h) ++ (cores.map fun cs => (h, cs)).toList }

/-- Whether an event turns the package on. -/
def isPowerOn (i : Instr) : Bool := match i with
  | .powerOn _ _ _ => true
  | _ => false

/-- What the order of moves says when State.sched is empty. -/
noncomputable def State.free (s : State) : Choice :=
  match (List.range s.pending.length).findSome? fun n => (s.arriving n).map fun i => (n, i) with
  | some (n, i) => .run i { s with pending := s.pending.eraseIdx n }
  | none =>
    if s.halted then .rest (s.pass 1)
    else if s.checked < s.cyc then .rest s.lookAtTimers
    else match s.nextCore with
      | some c => s.issueAt c
      | none => .rest (s.pass 1)

/-- The next step. Without power only POWER_ON can come. -/
noncomputable def State.choose (s : State) : Choice :=
  match s.sched with
  | [] => if s.powered then s.free else .stop .poweredOff
  | m :: r =>
    let t := { s with sched := r }
    match m with
    | .issue c => if s.powered ∧ !s.halted then t.issueAt c else .rest (t.pass 1)
    | .deliver n => (match s.arriving n with
      | some i => .run i { t with pending := s.pending.eraseIdx n }
      | none => .rest (t.pass 1))
    | .input i => if s.isInput i && (s.powered || isPowerOn i) then .run i t else .rest (t.pass 1)
    | .setup a => .rest (if s.powered then t.act a else t.pass 1)
    | .pass n => .rest (t.pass n)

end Sys2Proof.Machine
end

