-- ==== Sys2Proof/Machine/Step.lean ====
section
/-! DEFINITION. One step of the package, and the placing of one instruction where the next step fetches it. -/

namespace Sys2Proof.Machine

/-- One step: what State.choose answers, executed. -/
noncomputable def step (s : State) : Host.Outcome State Fault Refusal :=
  match s.choose with
  | .run i t => exec i t
  | .rest t => .next t
  | .stop f => .fault f

/-- The four bytes at the place of an instruction: the first halfword at the lower address, each halfword with its low byte first, and
zeros after a halfword. -/
def placedBytes (nbits w : Nat) : List Byte :=
  if nbits ≤ 16 then toBytes 2 (w % 65536) ++ [0, 0] else toBytes 2 (w / 65536 % 65536) ++ toBytes 2 (w % 65536)

/-- Core 0 ready to fetch at pc: context 0 holds the slot and runs within its budget, its TLB translates the two lines from pc on to device
memory, and no line of the instruction cache hides the bytes. -/
def Core.toFetch (k : Core) (now : Nat) (pc : Word) (g : Grant) : Core :=
  { k.modCtx 0 (fun q => { q with status := .running, pc := pc, since := now, busy := 0, budget := if q.budget = 0 then 1 else q.budget }) with
    slot := some 0, tlb1 := g :: k.tlb1, net := { k.net with refusing := false }
    icache := k.icache.filter fun e => e.1 != lineVa pc && e.1 != lineVa (va57 (pc + 2)) }

/-- s with the instruction whose bits are w placed where the next step fetches it: at the pc of context 0 of core 0, which is the next
to issue (log 32). -/
def State.withFetchWord (s : State) (nbits w : Nat) : State :=
  let pc := va57 ((s.ctxAt 0 0).pc &&& ~~~1)
  let pasid := (s.coreAt 0).ident.pasid
  let g : Grant := { pasid := pasid, va := low57 pc / 64 * 64, log := 7, pa := s.hdmBase, write := true }
  let a := grantPhys g pc
  let t := s.modCore 0 fun k => k.toFetch s.cyc pc g
  let open' := [pc, va57 (pc + 2)].all fun va => decide (2 ≤ (s.region pasid va).attr.toNat)
  let u : State := { t.setSpace pasid { t.space pasid with table := if open' then (t.space pasid).table else [] } with
    mem := t.mem.write a (placedBytes nbits w), powered := true, halted := false, sched := [.issue 0]
    launches := t.launches.map fun l => if some l.lid = (s.coreAt 0).ident.lid then { l with phase := .running } else l }
  (u.setLine (a / 64) Line.empty).setLine ((a + 3) / 64) Line.empty

end Sys2Proof.Machine
end

