-- ==== Sys2Proof/Safety.lean ====
section
/-!
DEFINITION. The terms in which the statements are made: what an instruction leaves (its registers, its next address, and that nothing
else differs), the canonical form of every memory, runs of the package, and the safe run: no step stops.
-/

namespace Sys2Proof.Machine

/-! Runs. -/

/-- A step that answers a next state. -/
def Steps (s t : State) : Prop := step s = .next t

/-- A run: n steps that all answer a next state. -/
inductive Runs (s : State) : Nat → State → Prop where
  | zero : Runs s 0 s
  | more {n : Nat} {t u : State} : Runs s n t → Steps t u → Runs s (n + 1) u

/-- An outcome is a next state, and the next state meets p. -/
def Gives (o : Out) (p : State → Prop) : Prop := ∃ t, o = .next t ∧ p t

/-! Frames. -/

/-- Every byte of memory and of every scratchpad reads as before. -/
def SameBytes (s t : State) : Prop :=
  (∀ a, t.mem.byte a = s.mem.byte a) ∧ ∀ c o, (t.coreAt c).sp.byte o = (s.coreAt c).sp.byte o

/-- The issuing context as c, and the cycle of its core's next issue (04 R114). -/
def State.withHot (s : State) (c : Ctx) (next : Nat) : State := s.modCore s.cur fun k => { k.modCtx s.hot (fun _ => c) with next := next }

/-- Of all cores, nothing but the issuing context and the cycle of its core's next issue differs. -/
def OnlyCtx (s t : State) : Prop := t.cur = s.cur ∧ t.hot = s.hot ∧ t.cores = (s.withHot t.ctx t.core.next).cores

/-- Nothing but the issuing context, the cycle of its core's next issue and the stall cycles to come differs. -/
def OnlyHot (s t : State) : Prop := t = { s.withHot t.ctx t.core.next with stalls := t.stalls }

/-- Of a context, nothing but x, v, k, fmt, the program counter, the cycle of its next issue and the loop counters differs, and what the instruction
waited on is forgotten. -/
def CtxKeeps (c d : Ctx) : Prop :=
  d = { c with x := d.x, v := d.v, k := d.k, fmt := d.fmt, pc := d.pc, busy := d.busy, lstat := d.lstat, lc0 := d.lc0, lc1 := d.lc1
               asked := [], answers := [] }

/-- The program counter and the loop counters of d are those that the loop check of 04 R141 leaves after an instruction of length len in
context c whose next address is next; with no loop armed the program counter is next and the counters stay. -/
structure Flow (c : Ctx) (len : Nat) (next : Word) (d : Ctx) : Prop where
  pc : d.pc = (c.retire len next).pc
  lstat : d.lstat = (c.retire len next).lstat
  lc0 : d.lc0 = (c.retire len next).lc0
  lc1 : d.lc1 = (c.retire len next).lc1
  plain : c.lstat = 0 → d.pc = next ∧ d.lstat = 0 ∧ d.lc0 = c.lc0 ∧ d.lc1 = c.lc1

/-- A context c after an instruction of length len whose next address is next: its registers read as x, v, k and fmt say, and every other
register is as before. -/
structure Registers (c : Ctx) (len : Nat) (next : Word) (x : BitVec 5 → Word) (v : BitVec 5 → Msg) (k : BitVec 3 → Word) (fmt : Word)
    (d : Ctx) : Prop where
  keeps : CtxKeeps c d
  x : ∀ r, d.rx r = x r
  v : ∀ r, d.rv r = v r
  k : ∀ r, d.rk r = k r
  fmt : d.fmt = fmt
  flow : Flow c len next d

/-- The scalar registers with x[d] written; x0 discards the write (00 R11). -/
def Ctx.withX (c : Ctx) (d : BitVec 5) (w : Word) (r : BitVec 5) : Word := if r = d ∧ r ≠ 0 then w else c.rx r

/-- The vector registers with v[d] written. -/
def Ctx.withV (c : Ctx) (d : BitVec 5) (w : Msg) (r : BitVec 5) : Msg := if r = d then w else c.rv r

/-- The mask registers with k[d] written; k0 discards the write (00 R11). -/
def Ctx.withK (c : Ctx) (d : BitVec 3) (w : Word) (r : BitVec 3) : Word := if r = d ∧ r ≠ 0 then w else c.rk r

/-- An instruction that writes registers alone and whose next address is next. -/
def RegistersTo (s : State) (len : Nat) (next : Word) (x : BitVec 5 → Word) (v : BitVec 5 → Msg) (k : BitVec 3 → Word) (fmt : Word)
    (o : Out) : Prop :=
  Gives o fun t => OnlyHot s t ∧ SameBytes s t ∧ Registers s.ctx len next x v k fmt t.ctx

/-- An instruction that writes registers alone and falls through. -/
def RegisterOnly (s : State) (len : Nat) (x : BitVec 5 → Word) (v : BitVec 5 → Msg) (k : BitVec 3 → Word) (fmt : Word) (o : Out) : Prop :=
  RegistersTo s len (va57 (s.ctx.pc + BitVec.ofNat 64 len)) x v k fmt o

/-- No register is written. -/
def NoneWritten (s : State) (len : Nat) (o : Out) : Prop := RegisterOnly s len s.ctx.rx s.ctx.rv s.ctx.rk s.ctx.fmt o

/-- x[d] alone is written, with w. -/
def XWritten (s : State) (len : Nat) (d : BitVec 5) (w : Word) (o : Out) : Prop :=
  RegisterOnly s len (s.ctx.withX d w) s.ctx.rv s.ctx.rk s.ctx.fmt o

/-- x[d] is written with the bits of r, and the flags of r are added to fmt (03 R83). -/
def FpWritten (s : State) (len : Nat) (d : BitVec 5) (r : Nat × Flags) (o : Out) : Prop :=
  RegisterOnly s len (s.ctx.withX d (BitVec.ofNat 64 r.1)) s.ctx.rv s.ctx.rk (s.ctx.fmt ||| r.2.setWidth 64) o

/-- v[d] alone is written. -/
def VWritten (s : State) (d : BitVec 5) (w : Msg) (o : Out) : Prop :=
  RegisterOnly s 4 s.ctx.rx (s.ctx.withV d w) s.ctx.rk s.ctx.fmt o

/-- v[d] is written and flags are added to fmt. -/
def VfWritten (s : State) (d : BitVec 5) (w : Msg) (f : Flags) (o : Out) : Prop :=
  RegisterOnly s 4 s.ctx.rx (s.ctx.withV d w) s.ctx.rk (s.ctx.fmt ||| f.setWidth 64) o

/-- k[d] is written and flags are added to fmt. -/
def KWritten (s : State) (d : BitVec 3) (w : Word) (f : Flags) (o : Out) : Prop :=
  RegisterOnly s 4 s.ctx.rx s.ctx.rv (s.ctx.withK d w) (s.ctx.fmt ||| f.setWidth 64) o

/-- v[d] is written element by element, in n elements of w bits: an active element i takes f i, an inactive one keeps its value (05
R149); flags are added to fmt. -/
def Elements (s : State) (d : BitVec 5) (w n : Nat) (k : BitVec 3) (f : Nat → Nat) (g : Flags) (o : Out) : Prop :=
  ∃ r, (∀ i, i < n → elem r w i = if (s.ctx.rk k).getLsbD i then f i % 2 ^ w else elem (s.ctx.rv d) w i) ∧ VfWritten s d r g o

/-- k[d] is written from a test of the active ones of n elements; the other bits become 0 (05 R158); flags are added to fmt. -/
def Tested (s : State) (d : BitVec 3) (n : Nat) (k : BitVec 3) (p : Nat → Bool) (g : Flags) (o : Out) : Prop :=
  ∃ m : Word, (∀ i, i < 64 → m.getLsbD i = (decide (i < n) && (s.ctx.rk k).getLsbD i && p i)) ∧ KWritten s d m g o

/-- The flags of the active ones of n results. -/
def flagsOver (s : State) (n : Nat) (k : BitVec 3) (g : Nat → Flags) : Flags :=
  (List.range n).foldl (fun a i => if (s.ctx.rk k).getLsbD i then a ||| g i else a) 0

/-! Instructions that act on more than their context's registers. -/

/-- Every core but the issuing one is as before, and so is every other context of the issuing core. -/
def Others (s t : State) : Prop :=
  (∀ c, c ≠ s.cur → t.coreAt c = s.coreAt c) ∧ ∀ x, x ≠ s.hot → t.ctxAt s.cur x = s.ctxAt s.cur x

/-- The issuing context after an instruction of length len that writes no register and falls through. -/
def Plain (s : State) (len : Nat) (d : Ctx) : Prop :=
  Registers s.ctx len (va57 (s.ctx.pc + BitVec.ofNat 64 len)) s.ctx.rx s.ctx.rv s.ctx.rk s.ctx.fmt d

/-- The issuing context after an instruction of length len that writes x[d] alone and falls through. -/
def PlainX (s : State) (len : Nat) (d : BitVec 5) (w : Word) (c : Ctx) : Prop :=
  Registers s.ctx len (va57 (s.ctx.pc + BitVec.ofNat 64 len)) (s.ctx.withX d w) s.ctx.rv s.ctx.rk s.ctx.fmt c

/-- The issuing context after a vector instruction that writes v[d] alone and falls through. -/
def PlainV (s : State) (d : BitVec 5) (w : Msg) (fmt : Word) (c : Ctx) : Prop :=
  Registers s.ctx 4 (va57 (s.ctx.pc + 4)) s.ctx.rx (s.ctx.withV d w) s.ctx.rk fmt c

/-- A context ended (04 R143, R145, 08 R254): it is free with its registers discarded, it holds no slot, no mailbox or trap-queue entry and
no uncommitted send; every other context is as before and no byte of memory has changed. -/
structure Freed (s t : State) (c : CoreId) (x : CtxId) : Prop where
  free : t.ctxAt c x = Ctx.reset
  others : ∀ d y, d ≠ c ∨ y ≠ x → t.ctxAt d y = s.ctxAt d y
  slot : (t.coreAt c).slot ≠ some x
  handoff : (s.coreAt c).slot = some x → Instr.issueSlotHandoff c ∈ t.pending
  mailbox : ∀ e ∈ (t.coreAt c).net.mailbox, e.started ≠ some x
  trapq : ∀ e ∈ (t.coreAt c).net.trapq, e.started ≠ some x
  sends : t.sendsOf c x = []
  bytes : SameBytes s t

/-- An instruction raises a trap: its issue cycle passes, and taking the trap is all that happens (00 R13, 01 R41). -/
def Traps (s : State) (cause : BitVec 9) (val : Word) (o : Out) : Prop := o = .next ((s.spend 1).takeTrapAt s.cur s.hot cause val 0)

/-- A control register of context x of core c after a write of v to register r (14 R427, R429). -/
structure CsrWritten (s : State) (r : BitVec 12) (v : Word) (t : State) : Prop where
  fmt : t.ctx.fmt = if r = 0x001 then v &&& 0x1D1F else s.ctx.fmt
  budget : t.ctx.budget = if r = 0x002 then (if (v.setWidth 32).toNat < 1024 then 1024 else v.setWidth 32) else s.ctx.budget
  clsen : (t.coreAt s.cur).net.clsen = if r = 0x008 then v else s.core.net.clsen
  loops : s.ctx.lstat = 0 → r ≠ 0x010 →
    t.ctx.lstat = 0 ∧ t.ctx.lc0 = (if r = 0x011 then v else s.ctx.lc0) ∧ t.ctx.ls0 = (if r = 0x012 then va57 v &&& ~~~1 else s.ctx.ls0)
      ∧ t.ctx.le0 = (if r = 0x013 then va57 v &&& ~~~1 else s.ctx.le0) ∧ t.ctx.lc1 = (if r = 0x014 then v else s.ctx.lc1)
      ∧ t.ctx.ls1 = (if r = 0x015 then va57 v &&& ~~~1 else s.ctx.ls1) ∧ t.ctx.le1 = (if r = 0x016 then va57 v &&& ~~~1 else s.ctx.le1)
  lstat : r = 0x010 → t.ctx.lstat
    = (({ s.ctx with lstat := if v.getLsbD 0 then v.setWidth 2 else 0 } : Ctx).retire 4 (va57 (s.ctx.pc + 4))).lstat
  ev : t.ctx.evCell = (if r = 0x020 then v &&& 0x1FFFFFFFFFFFFF9 else s.ctx.evCell)
    ∧ t.ctx.evChain0 = (if r = 0x021 then v &&& 0x1FFFFFFFFFFFFF9 else s.ctx.evChain0)
    ∧ t.ctx.evChain1 = (if r = 0x022 then v &&& 0x1FFFFFFFFFFFFF9 else s.ctx.evChain1)
    ∧ t.ctx.evChain2 = (if r = 0x023 then v &&& 0x1FFFFFFFFFFFFF9 else s.ctx.evChain2)
  splice : (t.coreAt s.cur).splice.free = (if r = 0x030 then v &&& 0x1FFFFFFFFFFFFE0 else s.core.splice.free)
    ∧ (t.coreAt s.cur).splice.rules = (if r = 0x031 then v &&& 0x1FFFFFFFFFFFFE0 else s.core.splice.rules)
    ∧ (t.coreAt s.cur).splice.spill = (if r = 0x032 then v &&& 0x1FFFFFFFFFFFE1F else s.core.splice.spill)
  readOnly : t.ctx.tcause = s.ctx.tcause ∧ t.ctx.tpc = s.ctx.tpc ∧ t.ctx.tval = s.ctx.tval ∧ t.ctx.tmsg = s.ctx.tmsg
    ∧ (t.coreAt s.cur).ident = s.core.ident

/-! Loads and stores. -/

/-- Every line of a private region in core c's L1 is as memory has it (06 R179): what the L1 writes back changes nothing. -/
def State.tidy (s : State) (c : CoreId) : Prop :=
  ∀ e ∈ s.l1s, e.1 = c.val → ∀ w ∈ e.2.ways, ∀ d b, w.what = .own d b → d = s.lineData w.line

/-- No update-only partial is out, and no L1 has a private line to write back. -/
def State.calmAll (s : State) : Prop := (∀ l, (s.line l).u = []) ∧ ∀ c, s.tidy c

/-- Whether a place lies in a core-owned region. -/
def Place.coreOwned (q : Place) : Bool :=
  match q with
  | .phys _ _ 0 => true
  | _ => false

/-- The lines of memory that n bytes at a place touch. -/
def Place.linesAt (q : Place) (n : Nat) : List Nat :=
  match q with
  | .sp _ => []
  | .phys pa _ _ => linesOf pa n

/-- An access of n bytes at a place does nothing to memory but its own: no update-only partial is to be combined on its lines, no cell it
touches is UNFURLING (a store would wake its waiters), and no line request of it leads to a notification record (06 R185). -/
def State.calm (s : State) (c : CoreId) (q : Place) (n : Nat) : Prop :=
  match q with
  | .sp _ => True
  | .phys pa _ _ => (∀ l ∈ linesOf pa n, (s.line l).u = []) ∧ (∀ e ∈ s.openCells pa n, s.tag e ≠ 2)
      ∧ (s.hostMem pa = false ∨ (s.space (s.coreAt c).ident.pasid).notes = none)

/-- What a load changes besides its own registers: nothing of any core, and no byte when its accesses are calm and the L1 has nothing to
write back. -/
def LoadFrame (s t : State) (qs : List Place) (ps : List Piece) : Prop :=
  OnlyCtx s t ∧ (s.tidy s.cur → (∀ e ∈ qs.zip ps, s.calm s.cur e.1 e.2.len) → SameBytes s t)

/-- Memory after bytes are stored at places one after the other. -/
def storedMem (m : Mem) (es : List (Place × List Byte)) : Mem :=
  es.foldl (fun m e => match e.1 with
    | .phys pa _ _ => m.write pa e.2
    | .sp _ => m) m

/-- A scratchpad after bytes are stored at places one after the other. -/
def storedSp (m : Mem) (es : List (Place × List Byte)) : Mem :=
  es.foldl (fun m e => match e.1 with
    | .sp o => m.write o e.2
    | .phys _ _ _ => m) m

/-- Whether n bytes at a place of memory include address a. -/
def Place.memHas (q : Place) (n a : Nat) : Prop := ∃ pa va r, q = .phys pa va r ∧ pa ≤ a ∧ a < pa + n

/-- Whether n bytes at a place of the scratchpad include offset o. -/
def Place.spHas (q : Place) (n o : Nat) : Prop := ∃ b, q = .sp b ∧ b ≤ o ∧ o < b + n

/-- The places of an access outside core-owned regions lie on lines that core c's L1 does not hold as private ones, and that no private
place of the access touches. -/
def State.unmixed (s : State) (c : CoreId) (es : List (Place × List Byte)) : Prop :=
  ∀ e ∈ es, e.1.coreOwned = false → ∀ l ∈ e.1.linesAt e.2.length,
    (∀ w ∈ (s.l1 c).ways, w.line = l → ∀ d b, w.what ≠ .own d b) ∧ ∀ d ∈ es, d.1.coreOwned = true → l ∉ d.1.linesAt d.2.length

/-- Memory after core c has stored bytes at places, in the order of the list: what core c reads there has them, memory has those outside
core-owned regions (those inside stand in core c's L1 until they are written back), and every other byte of memory is as before. -/
structure MemoryStored (s t : State) (c : CoreId) (es : List (Place × List Byte)) : Prop where
  reads : ∀ a, t.ownByte c a = (storedMem s.mem es).byte a
  memory : ∀ a, ∀ e ∈ es, e.1.coreOwned = false → e.1.memHas e.2.length a → t.mem.byte a = (storedMem s.mem es).byte a
  rest : ∀ a, (∀ e ∈ es, ¬ e.1.memHas e.2.length a) → t.mem.byte a = s.mem.byte a

/-- What a store of bytes at places changes: those bytes, in the order of the list, and nothing else of memory or of any scratchpad, and no
other core or context; `rs` are the other places that the instruction reads. The bytes are as stated when the accesses are calm and the
L1 has nothing to write back. -/
def StoreFrameWith (s t : State) (rs es : List (Place × List Byte)) : Prop :=
  Others s t ∧ (s.tidy s.cur → s.unmixed s.cur (rs ++ es) → (∀ e ∈ rs ++ es, s.calm s.cur e.1 e.2.length) →
    MemoryStored s t s.cur es ∧ (∀ o, (t.coreAt s.cur).sp.byte o = (storedSp s.core.sp es).byte o)
    ∧ (∀ o, (∀ e ∈ es, ¬ e.1.spHas e.2.length o) → (t.coreAt s.cur).sp.byte o = s.core.sp.byte o))

/-- What a store changes that reads nothing else. -/
def StoreFrame (s t : State) (es : List (Place × List Byte)) : Prop := StoreFrameWith s t [] es

/-- One of the two nibbles of a byte, the lower one first (03 R76). -/
def nibble (b : Byte) (n : Nat) : Nat := b.toNat / 2 ^ (4 * n) % 16

/-- What a store of INT4 elements changes (03 R76, 06 R209): the nibble of each element i at its place, and neither the other nibble of the
byte, unless its element is stored too, nor another byte, when the accesses are calm and the L1 has nothing to write back. -/
def NibblesStored (s t : State) (rs : List (Place × List Byte)) (es : List (Nat × Place)) (f : Nat → Nat) : Prop :=
  let all := rs ++ es.map fun e => (e.2, [0])
  let sets := fun (i : Nat) (old new : Byte) => nibble new (i % 2) = f i % 16
    ∧ ((∀ e ∈ es, e.1 ≠ i + 1 - 2 * (i % 2)) → nibble new (1 - i % 2) = nibble old (1 - i % 2))
  Others s t ∧ (s.tidy s.cur → s.unmixed s.cur all → (∀ e ∈ all, s.calm s.cur e.1 1) →
    (∀ e ∈ es, ∀ pa va r, e.2 = .phys pa va r → sets e.1 (s.mem.byte pa) (t.ownByte s.cur pa) ∧ (r ≠ 0 → t.mem.byte pa = t.ownByte s.cur pa))
    ∧ (∀ e ∈ es, ∀ o, e.2 = .sp o → sets e.1 (s.core.sp.byte o) ((t.coreAt s.cur).sp.byte o))
    ∧ (∀ a, (∀ e ∈ es, ¬ e.2.memHas 1 a) → t.mem.byte a = s.mem.byte a)
    ∧ (∀ o, (∀ e ∈ es, ¬ e.2.spHas 1 o) → (t.coreAt s.cur).sp.byte o = s.core.sp.byte o))

/-- Whether a store is an ordered one: a release (06 R198, 07 R215). -/
def isRelease (i : Instr) : Bool :=
  match i with
  | .stRel _ _ _ _ => true
  | _ => false

/-- Whether a store is a release at .device or wider: an ordered one of such a scope through a pointer that is no scratchpad pointer (06 R179,
R198). -/
def State.writesBack (s : State) (i : Instr) : Bool :=
  match i with
  | .stRel _ b sc _ => (s.ctx.rx b).extractLsb' 60 4 != 15 && decide (5 ≤ sc.toNat)
  | _ => false

/-- A cycle in which the issuing context waits: nothing but its next issue differs, and no byte has changed. -/
def Waits (s : State) (o : Out) : Prop := Gives o fun t => OnlyHot s t ∧ SameBytes s t ∧ t.ctx = { s.ctx with busy := t.ctx.busy }

/-- A scalar load: its length, size, whether it sign-extends, destination, base and offset (06 R194, R195, R198; 02 R55). -/
def scalarLoad (i : Instr) : Option (Nat × Nat × Bool × BitVec 5 × BitVec 5 × Int) :=
  match i with
  | .ldB d b o => some (4, 1, true, d, b, o.toInt)
  | .ldH d b o => some (4, 2, true, d, b, o.toInt)
  | .ldW d b o => some (4, 4, true, d, b, o.toInt)
  | .ldD d b o => some (4, 8, true, d, b, o.toInt)
  | .ldBu d b o => some (4, 1, false, d, b, o.toInt)
  | .ldHu d b o => some (4, 2, false, d, b, o.toInt)
  | .ldWu d b o => some (4, 4, false, d, b, o.toInt)
  | .ldD16 d a o => some (2, 8, true, d.zeroExtend 5, a.zeroExtend 5, 8 * o.toNat)
  | .ldAcq d b _ z => some (4, 2 ^ (z.toNat % 4), z.toNat < 4, d, b, 0)
  | _ => none

/-- A scalar store: its length, size, data register, base and offset. -/
def scalarStore (i : Instr) : Option (Nat × Nat × BitVec 5 × BitVec 5 × Int) :=
  match i with
  | .stB d b o => some (4, 1, d, b, o.toInt)
  | .stH d b o => some (4, 2, d, b, o.toInt)
  | .stW d b o => some (4, 4, d, b, o.toInt)
  | .stD d b o => some (4, 8, d, b, o.toInt)
  | .stD16 d a o => some (2, 8, d.zeroExtend 5, a.zeroExtend 5, 8 * o.toNat)
  | .stRel d b _ z => some (4, 2 ^ (z.toNat % 4), d, b, 0)
  | _ => none

/-- The scope of an ordered access names group slot 0 and that slot holds no group: 0x0C8, except through a scratchpad pointer (07 R211). -/
def State.noGroup (s : State) (i : Instr) (p : Piece) : Prop :=
  match i with
  | .ldAcq _ _ sc _ => sc = 2 ∧ s.slotGroup s.cur 0 = none ∧ ∃ va, p.loc = .mem va
  | .stRel _ _ sc _ => sc = 2 ∧ s.slotGroup s.cur 0 = none ∧ ∃ va, p.loc = .mem va
  | _ => False

/-- A vector load: width, destination, pointer, active elements and their offsets (06 R204 to R207). -/
def vectorLoad (s : State) (i : Instr) : Option (Nat × BitVec 5 × Word × List Nat × (Nat → Int)) :=
  match i with
  | .vld v a k w => some (widthOf w, v, s.ctx.rx a, activeOf (s.ctx.rk k) (lanesOf w), fun n => n * (widthOf w / 8 : Nat))
  | .vlds v a b k w => some (widthOf w, v, s.ctx.rx a, activeOf (s.ctx.rk k) (lanesOf w), fun n => n * (s.ctx.rx b).toInt)
  | .vldg v a b k w => some (widthOf w, v, s.ctx.rx a, activeOf (s.ctx.rk k) 16, fun n => toSigned 32 (elem (s.ctx.rv b) 32 n))
  | _ => none

/-- A vector store: width, source, pointer, active elements and their offsets (06 R204 to R207). -/
def vectorStore (s : State) (i : Instr) : Option (Nat × BitVec 5 × Word × List Nat × (Nat → Int)) :=
  match i with
  | .vst v a k w => some (widthOf w, v, s.ctx.rx a, activeOf (s.ctx.rk k) (lanesOf w), fun n => n * (widthOf w / 8 : Nat))
  | .vsts v a b k w => some (widthOf w, v, s.ctx.rx a, activeOf (s.ctx.rk k) (lanesOf w), fun n => n * (s.ctx.rx b).toInt)
  | .vstg v a b k w => some (widthOf w, v, s.ctx.rx a, activeOf (s.ctx.rk k) 16, fun n => toSigned 32 (elem (s.ctx.rv b) 32 n))
  | _ => none

/-! Atomics and reductions (07 R230, R234). -/

/-- An atomic: operation code, d, a, b, scope, whether it is a release, bytes, the value written from the old one, the operand and the comparand (none when a
comparison fails), and whether a word result is sign-extended. -/
structure AtomicRow where
  fn : BitVec 4
  d : BitVec 5
  a : BitVec 5
  b : BitVec 5
  scope : BitVec 4
  release : Bool
  z : Nat
  new : Nat → Nat → Nat → Option Nat
  signed : Bool

/-- The lesser or greater of two doublewords, signed. -/
def signedPick (big : Bool) (x y : Nat) : Nat := if ((BitVec.ofNat 64 x).toInt < (BitVec.ofNat 64 y).toInt) = (big = false) then x else y

def atomicRow (i : Instr) : Option AtomicRow :=
  match i with
  | .amoaddW d a b sc o => some ⟨0, d, a, b, sc, o.getLsbD 1, 4, fun m v _ => some ((m + v) % 2 ^ 32), true⟩
  | .amoaddD d a b sc o => some ⟨1, d, a, b, sc, o.getLsbD 1, 8, fun m v _ => some ((m + v) % 2 ^ 64), false⟩
  | .amoandD d a b sc o => some ⟨2, d, a, b, sc, o.getLsbD 1, 8, fun m v _ => some (m &&& v), false⟩
  | .amoorD d a b sc o => some ⟨3, d, a, b, sc, o.getLsbD 1, 8, fun m v _ => some (m ||| v), false⟩
  | .amoxorD d a b sc o => some ⟨4, d, a, b, sc, o.getLsbD 1, 8, fun m v _ => some (m ^^^ v), false⟩
  | .amominD d a b sc o => some ⟨5, d, a, b, sc, o.getLsbD 1, 8, fun m v _ => some (signedPick false m v), false⟩
  | .amomaxD d a b sc o => some ⟨6, d, a, b, sc, o.getLsbD 1, 8, fun m v _ => some (signedPick true m v), false⟩
  | .amominuD d a b sc o => some ⟨7, d, a, b, sc, o.getLsbD 1, 8, fun m v _ => some (min m v), false⟩
  | .amomaxuD d a b sc o => some ⟨8, d, a, b, sc, o.getLsbD 1, 8, fun m v _ => some (max m v), false⟩
  | .amoswapW d a b sc o => some ⟨9, d, a, b, sc, o.getLsbD 1, 4, fun _ v _ => some v, true⟩
  | .amoswapD d a b sc o => some ⟨10, d, a, b, sc, o.getLsbD 1, 8, fun _ v _ => some v, false⟩
  | .amocasW d a b sc o => some ⟨11, d, a, b, sc, o.getLsbD 1, 4, fun m v c => if m = c then some v else none, true⟩
  | .amocasD d a b sc o => some ⟨12, d, a, b, sc, o.getLsbD 1, 8, fun m v c => if m = c then some v else none, false⟩
  | .amocas2Q d a b sc o => some ⟨13, d, a, b, sc, o.getLsbD 1, 16, fun m v c => if m = c then some v else none, false⟩
  | .famoaddF32 d a b sc o => some ⟨14, d, a, b, sc, o.getLsbD 1, 4, fun m v _ => some (fp32.add 0 (fp32.value m) (fp32.value v)).1, false⟩
  | _ => none

/-- The operand of z bytes in a register or, for 16 bytes, in a pair with the lower half first. -/
def operandOf (z : Nat) (lo hi : Word) : Nat := if z = 16 then hi.toNat * 2 ^ 64 + lo.toNat else lo.toNat % 2 ^ (8 * z)

/-- The registers after an atomic has answered. -/
def AtomicRow.answer (r : AtomicRow) (c : Ctx) (old : Nat) (n : BitVec 5) : Word :=
  if r.z = 16 then (if n = r.d + 1 ∧ n ≠ 0 then BitVec.ofNat 64 (old / 2 ^ 64) else c.withX r.d (BitVec.ofNat 64 old) n)
  else if r.signed then c.withX r.d (((BitVec.ofNat 64 old).setWidth 32).signExtend 64) n
  else c.withX r.d (BitVec.ofNat 64 old) n

/-- A reduction: function code, width code, a, b, scope, whether it is a release, and the value written from the old one and the operand. -/
structure ReductionRow where
  fn : BitVec 4
  w : BitVec 5
  a : BitVec 5
  b : BitVec 5
  scope : BitVec 4
  release : Bool
  new : Nat → Nat → Nat

/-- Bytes of a width code: .d is 8, .w and .f32 are 4. -/
def redBytes (w : BitVec 5) : Nat := if w = 1 then 8 else 4

/-- The lesser or greater of two numbers of z bytes, signed. -/
def signedPickAt (z : Nat) (big : Bool) (x y : Nat) : Nat :=
  if ((BitVec.ofNat (8 * z) x).toInt < (BitVec.ofNat (8 * z) y).toInt) = (big = false) then x else y

def reductionRow (i : Instr) : Option ReductionRow :=
  match i with
  | .redadd w a b sc o => some ⟨0, w, a, b, sc, o.getLsbD 1, fun m v =>
      if w = 2 then (fp32.add 0 (fp32.value m) (fp32.value v)).1 else (m + v) % 2 ^ (8 * redBytes w)⟩
  | .redand w a b sc o => some ⟨1, w, a, b, sc, o.getLsbD 1, fun m v => m &&& v⟩
  | .redor w a b sc o => some ⟨2, w, a, b, sc, o.getLsbD 1, fun m v => m ||| v⟩
  | .redxor w a b sc o => some ⟨3, w, a, b, sc, o.getLsbD 1, fun m v => m ^^^ v⟩
  | .redmin w a b sc o => some ⟨4, w, a, b, sc, o.getLsbD 1, fun m v => signedPickAt (redBytes w) false m v⟩
  | .redmax w a b sc o => some ⟨5, w, a, b, sc, o.getLsbD 1, fun m v => signedPickAt (redBytes w) true m v⟩
  | .redminu w a b sc o => some ⟨6, w, a, b, sc, o.getLsbD 1, fun m v => min m v⟩
  | .redmaxu w a b sc o => some ⟨7, w, a, b, sc, o.getLsbD 1, fun m v => max m v⟩
  | _ => none

/-- A scope that names group slot 0 where the access is to memory and the slot holds no group (07 R211). -/
def State.groupless (s : State) (sc : BitVec 4) (p : Piece) : Prop := sc = 2 ∧ s.slotGroup s.cur 0 = none ∧ ∃ va, p.loc = .mem va

/-- A context whose handler is no longer restartable (01 R41, 07 R232). -/
def Ctx.committed (c : Ctx) : Ctx := { c with nonRestart := true }

/-- The issuing context after a 4-byte instruction that makes its handler non-restartable and writes x alone. -/
def CommittedX (s : State) (x : BitVec 5 → Word) (d : Ctx) : Prop :=
  Registers s.ctx.committed 4 (va57 (s.ctx.pc + 4)) x s.ctx.rv s.ctx.rk s.ctx.fmt d

/-- The context of an instruction of 4 bytes that ends when its answer comes: it is in status st and writes x and v alone. -/
def Answered (c : Ctx) (st : Status) (x : BitVec 5 → Word) (v : BitVec 5 → Msg) (d : Ctx) : Prop :=
  Registers { c with status := st } 4 (va57 (c.pc + 4)) x v c.rk c.fmt d

/-- An operation on va and pa of the issuing context leaves for its home, and nothing but that context has changed, but for what a release
writes back of the core's private lines. -/
def LeavesFor (s t : State) (release : Bool) (d : BitVec 5) (va : Word) (pa : Nat) (kind : HomeKind) : Prop :=
  OnlyCtx s t ∧ (release = false ∨ s.tidy s.cur → SameBytes s t) ∧ ∃ op, Instr.homeOperation op ∈ t.pending ∧ op.dev = s.dev ∧ op.core = s.cur ∧ op.ctx = s.hot ∧ op.d = d ∧ op.va = va
    ∧ op.pa = pa ∧ op.kind = kind ∧ op.issued = s.cyc

/-- The issuing context holds its slot for an answer, its handler no longer restartable where commit says so. -/
def Holds (s t : State) (commit : Bool) : Prop :=
  t.ctx = { s.ctx with busy := t.ctx.busy, nonRestart := s.ctx.nonRestart || commit, status := .stalled }

/-- Every core and context but one is as before. -/
def AllBut (s t : State) (c : CoreId) (x : CtxId) : Prop := ∀ d y, d ≠ c ∨ y ≠ x → t.ctxAt d y = s.ctxAt d y

/-- The fault service of the package has an endpoint, and its column's firewall admits a packet of the launch's core 0 to it (01 R42, 14
R440). -/
def State.serviced (s : State) (l : Launch) : Prop :=
  ∃ e c, s.endpoint 0 = some e ∧ l.cores.head? = some c ∧ (s.routers[e.1]).admits 1 (s.physCore c) e.2 = true

/-- A node of the slice-order tree over contributions c (03 R100). -/
def sliceNode (c : Nat → Option Nat) (l i : Nat) : Option Nat :=
  match l with
  | 0 => c i
  | k + 1 => (match sliceNode c k (2 * i), sliceNode c k (2 * i + 1) with
    | none, b => b
    | a, none => a
    | some a, some b => some (fp32.add 0 (fp32.value a) (fp32.value b)).1)

/-! Engines (10 R317 to R325). -/

/-- An engine runs a command of a code and waits for nothing. -/
abbrev State.working (s : State) (w : Eng) (code : Nat) (p : Packet) : Prop :=
  s.running w = some p ∧ hidOf p.word = code ∧ s.engReady w = true ∧ s.engFree w = true

/-- Nothing that a read or a write of an engine of core c meets changes any byte but its own: no update-only partial is out, every cell is
VALUE, no wait is armed, the core's L1 has nothing to write back, and its address space has no notification ring (06 R185). -/
def State.quiet (s : State) (c : CoreId) : Prop :=
  (∀ l, (s.line l).u = []) ∧ s.tags = [] ∧ (∀ l, s.armed l = false) ∧ s.tidy c ∧ (s.space (s.coreAt c).ident.pasid).notes = none

/-- The parts of an access that lie in memory, with the bytes that go to them. -/
def spanParts (ps : List Span) (bs : List Byte) : List (Place × List Byte) :=
  match ps with
  | [] => []
  | .sp _ _ n :: r => spanParts r (bs.drop n)
  | .mem q n :: r => (q, bs.take n) :: spanParts r (bs.drop n)

/-- Core d's scratchpad after bytes are written to the parts of an access, one after the other. -/
def spansSp (d : CoreId) (m : Mem) (ps : List Span) (bs : List Byte) : Mem :=
  match ps with
  | [] => m
  | .sp c o n :: r => spansSp d (if c = d then m.write o (bs.take n) else m) r (bs.drop n)
  | .mem _ n :: r => spansSp d m r (bs.drop n)

/-- What an engine of core c leaves of memory: bytes written to parts, and no other byte and no context changed. -/
def EngineWrote (s t : State) (c : CoreId) (ps : List Span) (bs : List Byte) : Prop :=
  (∀ d y, t.ctxAt d y = s.ctxAt d y) ∧ (s.quiet c → s.unmixed c (spanParts ps bs) → MemoryStored s t c (spanParts ps bs)
    ∧ ∀ d o, (t.coreAt d).sp.byte o = (spansSp d (s.coreAt d).sp ps bs).byte o)

/-- The element of a command leaves: to the splice unit that issued it, or to the commanding core of this package when REPLY is 1 or the
command has failed (10 R319, 13 R407). -/
def Sent (s t : State) (p : Packet) (u : BitVec 3) (rel : BitVec 10) (e : BitVec 128) : Prop :=
  (∀ c n, p.kind = .mark c n → Instr.engineRuleElement c n e ∈ t.pending)
  ∧ ((∀ c n, p.kind ≠ .mark c n) → Msg.field p.word 1 1 = 1 ∨ elemCause e ≠ 0 → ∀ r, p.src = .core s.dev r →
      Instr.completionElementArrival p.lid p.src u e (Msg.field p.word 1 1 == 1) rel ∈ t.pending)

/-- The fields of a completion element of a command (10 R318); PROGRESS and RESULT where they are stated. -/
structure ElementOf (p : Packet) (u : BitVec 3) (status : Nat) (cause : BitVec 9) (progress result : Option (BitVec 32)) (e : BitVec 128) : Prop where
  status : (e.extractLsb' 0 4).toNat = status
  code : (e.extractLsb' 8 12).toNat = hidOf p.word
  unit : e.extractLsb' 20 3 = u
  cause : e.extractLsb' 23 9 = cause
  progress : ∀ n, progress = some n → e.extractLsb' 32 32 = n
  mid : (e.extractLsb' 64 16).toNat = Msg.field p.word 31 16
  tag : (e.extractLsb' 80 16).toNat = Msg.field p.word 511 496
  result : ∀ n, result = some n → e.extractLsb' 96 32 = n

/-- The command p of core c's unit u is over, with a status, a cause, PROGRESS and RESULT, and its element leaves. -/
def Ended (s t : State) (c : CoreId) (u : BitVec 3) (p : Packet) (status : Nat) (cause : BitVec 9) (progress result : Option (BitVec 32)) : Prop :=
  (t.unitAt c u).inq <:+ (s.unitAt c u).inq.tail
  ∧ ∃ e, ElementOf p u status cause progress result e ∧ Sent s t p u (s.coreAt c).ident.rel e

/-- A command of core c's unit fails: no byte and no context changes. -/
def FailsWith (s : State) (c : CoreId) (u : BitVec 3) (p : Packet) (cause : BitVec 9) (progress result : Option (BitVec 32)) (o : Out) : Prop :=
  Gives o fun t => Ended s t c u p 1 cause progress result ∧ SameBytes s t ∧ ∀ d y, t.ctxAt d y = s.ctxAt d y

/-- The command goes on with n units completed, and its next event is in flight. -/
def GoesOn (t : State) (w : Eng) (p : Packet) (n : Nat) (i : Instr) : Prop :=
  t.running w = some p ∧ (t.runOf w).progress = n ∧ (t.runOf w).answers = [] ∧ i ∈ t.pending

/-- The state in which an engine begins a row, chunk or block. -/
def State.begun (s : State) (w : Eng) : State := s.modRun w fun r => { r with lines := [] }

/-- A command of the link engine is over: its element leaves (10 R318, R319, R343, R344). -/
def LinkEnded (s t : State) (p : Packet) (status : Nat) (cause : BitVec 9) (progress result : Option (BitVec 32)) : Prop :=
  ∃ e, ElementOf p 6 status cause progress result e ∧ Sent s t p 6 0x3FF e

/-- An element of a Gaussian damped towards its old value (12 R380). -/
def GRec.damped (o : GRec) (old new : List Nat) : List Nat :=
  (old.zip new).map fun e => if o.null = true ∨ (fp32.value o.beta).isZero = true then e.2 else gFma o.beta (gSub e.1 e.2) e.2

/-- The bytes of the record that replaces message record o: its header with the next version, η, Λ, and zeros to its length (12 R375, R380). -/
def GRec.bytes (o : GRec) (eta lam : List Nat) : List Byte :=
  let b := toBytes 8 (o.dim + (o.ver + 1) % 2 ^ 16 * 2 ^ 16 + o.beta * 2 ^ 32) ++ (eta ++ lam).flatMap (toBytes 4)
  b ++ List.replicate (recordLen o.dim - b.length) 0

/-! The canonical form. -/

/-- A memory in its canonical form (log 5): addresses strictly rising, no entry zero. -/
def Mem.wf (m : Mem) : Prop := Sparse.wf 0 m = true

/-- Memory, the tags and every scratchpad, those of saved gangs among them, are in their canonical form. -/
def State.canonical (s : State) : Prop :=
  Mem.wf s.mem ∧ Sparse.wf 0 s.tags = true ∧ (∀ c, Mem.wf (s.coreAt c).sp) ∧ ∀ l ∈ s.launches, ∀ k ∈ l.images, Mem.wf k.sp

end Sys2Proof.Machine
end

