-- ==== Sys2Proof/Certificates/Slice0/Obligations.lean ====
section
/-!
DEFINITION. The statements about the QV1024: what each instruction and each event does, what it leaves unchanged, and what holds of the
whole machine.
-/

section

open Sys2Proof Sys2Proof.Machine

/-- 04 R122, 00 R11: every instruction of major 0x01 writes x[d] with the value its row gives (a write to x0 is discarded) and nothing
else of any register, flag or byte of memory; with no loop armed the program counter goes on by 4.
04 R123, R124, R125: the immediate forms; ADRP takes its own address.
02 R55, R56: a 16-bit form of an integer instruction has the effect of its expansion, with the program counter going on by 2.
Their encodings are those of R122 to R125, and selector values 4 to 7 of majors 0x06 and 0x07 decode to nothing. -/
def Obligations.IntegerInstructions : Prop :=
  (∀ (s : State) (d a b : BitVec 5),
    let x := s.ctx.rx a
    let y := s.ctx.rx b
    let n := y.toNat % 64
    let signed := x.toInt < y.toInt
    let unsigned := x.toNat < y.toNat
    XWritten s 4 d (x + y) (exec (.add d a b) s) ∧ XWritten s 4 d (x - y) (exec (.sub d a b) s)
    ∧ XWritten s 4 d (x &&& y) (exec (.and d a b) s) ∧ XWritten s 4 d (x ||| y) (exec (.or d a b) s)
    ∧ XWritten s 4 d (x ^^^ y) (exec (.xor d a b) s) ∧ XWritten s 4 d (x &&& ~~~y) (exec (.andn d a b) s)
    ∧ XWritten s 4 d (x <<< n) (exec (.sll d a b) s) ∧ XWritten s 4 d (x >>> n) (exec (.srl d a b) s)
    ∧ XWritten s 4 d (x.sshiftRight n) (exec (.sra d a b) s)
    ∧ XWritten s 4 d (x <<< n ||| x >>> (64 - n)) (exec (.rol d a b) s) ∧ XWritten s 4 d (x >>> n ||| x <<< (64 - n)) (exec (.ror d a b) s)
    ∧ XWritten s 4 d (if signed then x else y) (exec (.min d a b) s) ∧ XWritten s 4 d (if signed then y else x) (exec (.max d a b) s)
    ∧ XWritten s 4 d (if unsigned then x else y) (exec (.minu d a b) s) ∧ XWritten s 4 d (if unsigned then y else x) (exec (.maxu d a b) s)
    ∧ XWritten s 4 d (if signed then 1 else 0) (exec (.slt d a b) s) ∧ XWritten s 4 d (if unsigned then 1 else 0) (exec (.sltu d a b) s)
    ∧ XWritten s 4 d (if x = y then 1 else 0) (exec (.seq d a b) s) ∧ XWritten s 4 d (if x = y then 0 else 1) (exec (.sne d a b) s)
    ∧ XWritten s 4 d (if s.ctx.rx d ≠ 0 then x else y) (exec (.csel d a b) s))
  ∧ (∀ (s : State) (d a : BitVec 5) (i : BitVec 15) (h : BitVec 12) (n : BitVec 6) (u : BitVec 20),
    let x := s.ctx.rx a
    let si : Word := i.signExtend 64
    let zi : Word := i.zeroExtend 64
    let sh : Word := h.signExtend 64
    XWritten s 4 d (x + si) (exec (.addi d a i) s) ∧ XWritten s 4 d (x &&& si) (exec (.andi d a i) s)
    ∧ XWritten s 4 d (x ||| zi) (exec (.ori d a i) s) ∧ XWritten s 4 d (x ^^^ zi) (exec (.xori d a i) s)
    ∧ XWritten s 4 d (x <<< n.toNat) (exec (.slli d a n) s) ∧ XWritten s 4 d (x >>> n.toNat) (exec (.srli d a n) s)
    ∧ XWritten s 4 d (x.sshiftRight n.toNat) (exec (.srai d a n) s)
    ∧ XWritten s 4 d (x >>> n.toNat ||| x <<< (64 - n.toNat)) (exec (.rori d a n) s)
    ∧ XWritten s 4 d (if x.toInt < sh.toInt then 1 else 0) (exec (.slti d a h) s)
    ∧ XWritten s 4 d (if x.toNat < sh.toNat then 1 else 0) (exec (.sltiu d a h) s)
    ∧ XWritten s 4 d (if x = sh then 1 else 0) (exec (.seqi d a h) s) ∧ XWritten s 4 d (if x = sh then 0 else 1) (exec (.snei d a h) s)
    ∧ XWritten s 4 d (u.signExtend 64 * 4096) (exec (.liu d u) s)
    ∧ XWritten s 4 d ((s.ctx.pc &&& ~~~0xFFF) + u.signExtend 64 * 4096) (exec (.adrp d u) s))
  ∧ (∀ (s : State) (d a : BitVec 4) (i : BitVec 7) (n : BitVec 6),
    let xd := s.ctx.rx (d.zeroExtend 5)
    let xa := s.ctx.rx (a.zeroExtend 5)
    let w := fun (v : Word) => XWritten s 2 (d.zeroExtend 5) v
    w xa (exec (.mv16 d a) s) ∧ w (i.signExtend 64) (exec (.li16 d i) s) ∧ w (xd + i.signExtend 64) (exec (.addi16 d i) s)
    ∧ w (xd + xa) (exec (.add16 d a) s) ∧ w (xd - xa) (exec (.sub16 d a) s) ∧ w (xd &&& xa) (exec (.and16 d a) s)
    ∧ w (xd &&& i.signExtend 64) (exec (.andi16 d i) s) ∧ w (xd <<< n.toNat) (exec (.slli16 d n) s)
    ∧ w (xd >>> n.toNat) (exec (.srli16 d n) s) ∧ w (xd.sshiftRight n.toNat) (exec (.srai16 d n) s)
    ∧ NoneWritten s 4 (exec .nop s) ∧ NoneWritten s 2 (exec .nop16 s))
  ∧ (∀ (d a b : BitVec 5) (i : BitVec 15) (h : BitVec 12) (n : BitVec 6) (u : BitVec 20) (sel : BitVec 3) (j : Instr),
    decodeWord (65#7 ++ d ++ a ++ b ++ 0#10) = .ok (.add d a b) ∧ decodeWord (65#7 ++ d ++ a ++ b ++ 1#10) = .ok (.sub d a b)
    ∧ decodeWord (65#7 ++ d ++ a ++ b ++ 2#10) = .ok (.and d a b) ∧ decodeWord (65#7 ++ d ++ a ++ b ++ 3#10) = .ok (.or d a b)
    ∧ decodeWord (65#7 ++ d ++ a ++ b ++ 4#10) = .ok (.xor d a b) ∧ decodeWord (65#7 ++ d ++ a ++ b ++ 5#10) = .ok (.andn d a b)
    ∧ decodeWord (65#7 ++ d ++ a ++ b ++ 6#10) = .ok (.sll d a b) ∧ decodeWord (65#7 ++ d ++ a ++ b ++ 7#10) = .ok (.srl d a b)
    ∧ decodeWord (65#7 ++ d ++ a ++ b ++ 8#10) = .ok (.sra d a b) ∧ decodeWord (65#7 ++ d ++ a ++ b ++ 9#10) = .ok (.rol d a b)
    ∧ decodeWord (65#7 ++ d ++ a ++ b ++ 10#10) = .ok (.ror d a b) ∧ decodeWord (65#7 ++ d ++ a ++ b ++ 11#10) = .ok (.min d a b)
    ∧ decodeWord (65#7 ++ d ++ a ++ b ++ 12#10) = .ok (.max d a b) ∧ decodeWord (65#7 ++ d ++ a ++ b ++ 13#10) = .ok (.minu d a b)
    ∧ decodeWord (65#7 ++ d ++ a ++ b ++ 14#10) = .ok (.maxu d a b) ∧ decodeWord (65#7 ++ d ++ a ++ b ++ 15#10) = .ok (.slt d a b)
    ∧ decodeWord (65#7 ++ d ++ a ++ b ++ 16#10) = .ok (.sltu d a b) ∧ decodeWord (65#7 ++ d ++ a ++ b ++ 17#10) = .ok (.seq d a b)
    ∧ decodeWord (65#7 ++ d ++ a ++ b ++ 18#10) = .ok (.sne d a b) ∧ decodeWord (65#7 ++ d ++ a ++ b ++ 19#10) = .ok (.csel d a b)
    ∧ decodeWord (66#7 ++ d ++ a ++ i) = .ok (.addi d a i) ∧ decodeWord (67#7 ++ d ++ a ++ i) = .ok (.andi d a i)
    ∧ decodeWord (68#7 ++ d ++ a ++ i) = .ok (.ori d a i) ∧ decodeWord (69#7 ++ d ++ a ++ i) = .ok (.xori d a i)
    ∧ decodeWord (70#7 ++ d ++ a ++ 0#3 ++ 0#6 ++ n) = .ok (.slli d a n) ∧ decodeWord (70#7 ++ d ++ a ++ 1#3 ++ 0#6 ++ n) = .ok (.srli d a n)
    ∧ decodeWord (70#7 ++ d ++ a ++ 2#3 ++ 0#6 ++ n) = .ok (.srai d a n) ∧ decodeWord (70#7 ++ d ++ a ++ 3#3 ++ 0#6 ++ n) = .ok (.rori d a n)
    ∧ decodeWord (71#7 ++ d ++ a ++ 0#3 ++ h) = .ok (.slti d a h) ∧ decodeWord (71#7 ++ d ++ a ++ 1#3 ++ h) = .ok (.sltiu d a h)
    ∧ decodeWord (71#7 ++ d ++ a ++ 2#3 ++ h) = .ok (.seqi d a h) ∧ decodeWord (71#7 ++ d ++ a ++ 3#3 ++ h) = .ok (.snei d a h)
    ∧ decodeWord (72#7 ++ d ++ u) = .ok (.liu d u) ∧ decodeWord (73#7 ++ d ++ u) = .ok (.adrp d u)
    ∧ (4 ≤ sel.toNat → decodeWord (70#7 ++ d ++ a ++ sel ++ h) ≠ .ok j) ∧ (4 ≤ sel.toNat → decodeWord (71#7 ++ d ++ a ++ sel ++ h) ≠ .ok j))

/-- 04 R126: products by their 128-bit values, quotients and remainders as integers, and division by zero, which raises no cause.
04 R127, R128, R129: bit counts and extensions, bit fields (position x[b][5:0], length x[b][13:8] with 0 for 64), and PTAG where its
codes are legal.
04 R130, R131, 03 R98: PADD adds to the offset of a scratchpad pointer or to the 57-bit address and leaves the tag bits, where the sum
stays in range; PCHK tests a scratchpad pointer, or reports format, region, attribute and index.
Their encodings are those of R126 to R128 and R131. -/
def Obligations.MultiplyDivideBitsPointers : Prop :=
  (∀ (s : State) (d a b : BitVec 5),
    let x := s.ctx.rx a
    let y := s.ctx.rx b
    let ones : Word := 0xFFFFFFFFFFFFFFFF
    XWritten s 4 d (x * y) (exec (.mul d a b) s)
    ∧ XWritten s 4 d ((x.zeroExtend 128 * y.zeroExtend 128).extractLsb' 64 64) (exec (.mulhu d a b) s)
    ∧ XWritten s 4 d ((x.signExtend 128 * y.signExtend 128).extractLsb' 64 64) (exec (.mulh d a b) s)
    ∧ XWritten s 4 d ((x.zeroExtend 128 * y.signExtend 128).extractLsb' 64 64) (exec (.mulhus d a b) s)
    ∧ XWritten s 4 d (if y = 0 then ones else x / y) (exec (.divu d a b) s)
    ∧ XWritten s 4 d (if y = 0 then ones else x.sdiv y) (exec (.div d a b) s)
    ∧ XWritten s 4 d (if y = 0 then x else x % y) (exec (.remu d a b) s)
    ∧ XWritten s 4 d (if y = 0 then x else x.srem y) (exec (.rem d a b) s)
    ∧ XWritten s 4 d (if y = 0 then x else BitVec.ofInt 64 (x.toInt - (x.toInt.fdiv y.toInt) * y.toInt)) (exec (.mod d a b) s))
  ∧ (∀ (s : State) (d a b : BitVec 5) (f : BitVec 4) (l : BitVec 3),
    let x := s.ctx.rx a
    let pos := ((s.ctx.rx b).extractLsb' 0 6).toNat
    let len := if (s.ctx.rx b).extractLsb' 8 6 = 0 then 64 else ((s.ctx.rx b).extractLsb' 8 6).toNat
    let m : Word := BitVec.ofNat 64 ((2 ^ len - 1) * 2 ^ pos)
    XWritten s 4 d x.clz (exec (.clz d a) s) ∧ XWritten s 4 d x.ctz (exec (.ctz d a) s)
    ∧ XWritten s 4 d x.cpop (exec (.popc d a) s) ∧ XWritten s 4 d x.reverse (exec (.brev d a) s)
    ∧ XWritten s 4 d ((x.setWidth 8).signExtend 64) (exec (.extB d a) s) ∧ XWritten s 4 d ((x.setWidth 16).signExtend 64) (exec (.extH d a) s)
    ∧ XWritten s 4 d ((x.setWidth 32).signExtend 64) (exec (.extW d a) s) ∧ XWritten s 4 d ((x.setWidth 8).zeroExtend 64) (exec (.extBu d a) s)
    ∧ XWritten s 4 d ((x.setWidth 16).zeroExtend 64) (exec (.extHu d a) s) ∧ XWritten s 4 d ((x.setWidth 32).zeroExtend 64) (exec (.extWu d a) s)
    ∧ XWritten s 4 d (((x.sshiftRight pos).setWidth len).signExtend 64) (exec (.bfx d a b) s)
    ∧ XWritten s 4 d (((x >>> pos).setWidth len).setWidth 64) (exec (.bfxu d a b) s)
    ∧ XWritten s 4 d ((s.ctx.rx d &&& ~~~m) ||| ((x <<< pos) &&& m)) (exec (.bfi d a b) s)
    ∧ (f = 0xF → l = 0 → XWritten s 4 d (0xF000000000000000 ||| (x &&& 0x0FFFFFFFFFFFFFFF)) (exec (.ptag d a f l) s))
    ∧ (f ≠ 0xF → f ≠ 0xE →
        XWritten s 4 d (f.zeroExtend 64 <<< 60 ||| l.zeroExtend 64 <<< 57 ||| (x &&& 0x01FFFFFFFFFFFFFF)) (exec (.ptag d a f l) s)))
  ∧ (∀ (s : State) (d a b : BitVec 5),
    let p := s.ctx.rx a
    let n := (s.ctx.rx b).toInt
    let off : Int := ((p.extractLsb' 0 19).toNat : Int) + n
    let sum : Int := (p.extractLsb' 0 57).toInt + n
    (p.extractLsb' 60 4 = 15 → 0 ≤ off → off < 393216 →
      XWritten s 4 d (p.extractLsb' 19 45 ++ BitVec.ofInt 19 off) (exec (.padd d a b) s))
    ∧ (p.extractLsb' 60 4 ≠ 15 → -(2 ^ 56) ≤ sum → sum < 2 ^ 56 →
      XWritten s 4 d (p.extractLsb' 57 7 ++ BitVec.ofInt 57 sum) (exec (.padd d a b) s))
    ∧ (p.extractLsb' 60 4 = 15 →
      XWritten s 4 d (if p.extractLsb' 19 30 = 0 ∧ (p.extractLsb' 0 19).toNat < 393216
          ∧ (p.getLsbD 49 = true ∨ ∃ l, s.launchOf s.cur = some l ∧ (p.extractLsb' 50 10).toNat < l.cores.length) then 2 else 0) (exec (.pchk d a) s))
    ∧ (p.extractLsb' 60 4 ≠ 15 → ∀ w, w = (if p.extractLsb' 60 4 ∈ [0, 11, 12, 14] then 0 else 1) →
      (∀ i, (s.region s.core.ident.pasid p).index = some i →
        XWritten s 4 d (BitVec.ofNat 64 (w + 4 + 8 * (s.region s.core.ident.pasid p).attr.toNat + 32 * i)) (exec (.pchk d a) s))
      ∧ ((s.region s.core.ident.pasid p).index = none → XWritten s 4 d (BitVec.ofNat 64 w) (exec (.pchk d a) s))))
  ∧ (∀ (d a b : BitVec 5) (n : BitVec 10) (j : Instr),
    decodeWord (74#7 ++ d ++ a ++ b ++ 0#10) = .ok (.mul d a b) ∧ decodeWord (74#7 ++ d ++ a ++ b ++ 1#10) = .ok (.mulhu d a b)
    ∧ decodeWord (74#7 ++ d ++ a ++ b ++ 2#10) = .ok (.mulh d a b) ∧ decodeWord (74#7 ++ d ++ a ++ b ++ 3#10) = .ok (.mulhus d a b)
    ∧ decodeWord (74#7 ++ d ++ a ++ b ++ 8#10) = .ok (.divu d a b) ∧ decodeWord (74#7 ++ d ++ a ++ b ++ 9#10) = .ok (.div d a b)
    ∧ decodeWord (74#7 ++ d ++ a ++ b ++ 10#10) = .ok (.remu d a b) ∧ decodeWord (74#7 ++ d ++ a ++ b ++ 11#10) = .ok (.rem d a b)
    ∧ decodeWord (74#7 ++ d ++ a ++ b ++ 12#10) = .ok (.mod d a b) ∧ ((4 ≤ n.toNat ∧ n.toNat ≤ 7) ∨ 13 ≤ n.toNat → decodeWord (74#7 ++ d ++ a ++ b ++ n) ≠ .ok j)
    ∧ decodeWord (75#7 ++ d ++ a ++ 0#15) = .ok (.clz d a) ∧ decodeWord (75#7 ++ d ++ a ++ 1#15) = .ok (.ctz d a)
    ∧ decodeWord (75#7 ++ d ++ a ++ 2#15) = .ok (.popc d a) ∧ decodeWord (75#7 ++ d ++ a ++ 3#15) = .ok (.brev d a)
    ∧ decodeWord (75#7 ++ d ++ a ++ 4#15) = .ok (.extB d a) ∧ decodeWord (75#7 ++ d ++ a ++ 5#15) = .ok (.extH d a)
    ∧ decodeWord (75#7 ++ d ++ a ++ 6#15) = .ok (.extW d a) ∧ decodeWord (75#7 ++ d ++ a ++ 7#15) = .ok (.extBu d a)
    ∧ decodeWord (75#7 ++ d ++ a ++ 8#15) = .ok (.extHu d a) ∧ decodeWord (75#7 ++ d ++ a ++ 9#15) = .ok (.extWu d a)
    ∧ decodeWord (75#7 ++ d ++ a ++ b ++ 16#10) = .ok (.bfx d a b) ∧ decodeWord (75#7 ++ d ++ a ++ b ++ 17#10) = .ok (.bfxu d a b)
    ∧ decodeWord (75#7 ++ d ++ a ++ b ++ 18#10) = .ok (.bfi d a b) ∧ decodeWord (76#7 ++ d ++ a ++ 2#3 ++ 0#12) = .ok (.pchk d a))

/-- 04 R133, R134, R135, 03 R83: the scalar floating-point instructions in either precision write x[d], zero-extended, and add their
flags to fmt, where a set flag stays set. -/
def Obligations.ScalarFloatOps : Prop := ∀ (s : State) (d a b : BitVec 5) (p : BitVec 1),
  let f := if p = 0 then fp32 else fp64
  let g := if p = 0 then fp64 else fp32
  let bits := fun r => (s.ctx.rx r).toNat % (if p = 0 then 2 ^ 32 else 2 ^ 64)
  let val := fun r => f.value (bits r)
  let rm := s.ctx.rm
  FpWritten s 4 d (f.add rm (val a) (val b)) (exec (.fadd d a b p) s) ∧ FpWritten s 4 d (f.sub rm (val a) (val b)) (exec (.fsub d a b p) s)
  ∧ FpWritten s 4 d (f.mul rm (val a) (val b)) (exec (.fmul d a b p) s) ∧ FpWritten s 4 d (f.div rm (val a) (val b)) (exec (.fdiv d a b p) s)
  ∧ FpWritten s 4 d (f.sqrt rm (val a)) (exec (.fsqrt d a p) s)
  ∧ FpWritten s 4 d (f.minmax false (bits a) (bits b)) (exec (.fmin d a b p) s)
  ∧ FpWritten s 4 d (f.minmax true (bits a) (bits b)) (exec (.fmax d a b p) s)
  ∧ FpWritten s 4 d (f.fma rm (val a) (val b) (val d)) (exec (.fma d a b p) s)
  ∧ FpWritten s 4 d (if (val a).eqv (val b) then 1 else 0, if (val a).isSig || (val b).isSig then flagNV else 0) (exec (.feq d a b p) s)
  ∧ FpWritten s 4 d (if (val a).lt (val b) then 1 else 0, if (val a).isNan || (val b).isNan then flagNV else 0) (exec (.flt d a b p) s)
  ∧ FpWritten s 4 d (if (val a).lt (val b) || (val a).eqv (val b) then 1 else 0, if (val a).isNan || (val b).isNan then flagNV else 0)
      (exec (.fle d a b p) s)
  ∧ XWritten s 4 d (BitVec.ofNat 64 (f.classWord (bits a))) (exec (.fclass d a p) s)
  ∧ FpWritten s 4 d (ofSigned 64 ((val a).toInt rm (-(2 ^ 63)) (2 ^ 63 - 1)).1, ((val a).toInt rm (-(2 ^ 63)) (2 ^ 63 - 1)).2)
      (exec (.ftoi d a p) s)
  ∧ FpWritten s 4 d (ofSigned 64 ((val a).toInt rm 0 (2 ^ 64 - 1)).1, ((val a).toInt rm 0 (2 ^ 64 - 1)).2) (exec (.ftoiu d a p) s)
  ∧ FpWritten s 4 d (f.ofVal rm (.ofInt (s.ctx.rx a).toInt)) (exec (.itof d a p) s)
  ∧ FpWritten s 4 d (f.ofVal rm (.ofInt (s.ctx.rx a).toNat)) (exec (.iutof d a p) s)
  ∧ FpWritten s 4 d (g.ofVal rm (val a)) (exec (.ftof d a p) s)

/-- 04 R136, R137, 02 R55: the branches go to pc + 2 × offset, formed in 57 bits, when their condition holds, and to the next instruction
otherwise; no register changes.
04 R138, R139, 02 R55, R60: JAL and JALR with an even target link pc + 4 and go to their target, taken from x[a] before the link is
written; the 16-bit jump writes no link.
Their encodings are those of R137 to R139. -/
def Obligations.BranchesAndJumps : Prop :=
  (∀ (s : State) (a b : BitVec 5) (o : BitVec 15) (c : BitVec 4) (h : BitVec 7),
    let x := s.ctx.rx a
    let y := s.ctx.rx b
    let z := s.ctx.rx (c.zeroExtend 5)
    let br := fun (len : Nat) (p : Bool) (off : Word) (out : Out) =>
      RegistersTo s len (va57 (s.ctx.pc + if p then 2 * off else BitVec.ofNat 64 len)) s.ctx.rx s.ctx.rv s.ctx.rk s.ctx.fmt out
    br 4 (decide (x = y)) (o.signExtend 64) (exec (.beq a b o) s) ∧ br 4 (decide (x ≠ y)) (o.signExtend 64) (exec (.bne a b o) s)
    ∧ br 4 (decide (x.toInt < y.toInt)) (o.signExtend 64) (exec (.blt a b o) s)
    ∧ br 4 (decide (y.toInt ≤ x.toInt)) (o.signExtend 64) (exec (.bge a b o) s)
    ∧ br 4 (decide (x.toNat < y.toNat)) (o.signExtend 64) (exec (.bltu a b o) s)
    ∧ br 4 (decide (y.toNat ≤ x.toNat)) (o.signExtend 64) (exec (.bgeu a b o) s)
    ∧ br 2 (decide (z = 0)) (h.signExtend 64) (exec (.beqz16 c h) s) ∧ br 2 (decide (z ≠ 0)) (h.signExtend 64) (exec (.bnez16 c h) s))
  ∧ (∀ (s : State) (d a : BitVec 5) (o : BitVec 20) (i : BitVec 15) (j : BitVec 11),
    let link := s.ctx.withX d (va57 (s.ctx.pc + 4))
    let target := va57 (s.ctx.rx a + i.signExtend 64)
    RegistersTo s 4 (va57 (s.ctx.pc + 2 * o.signExtend 64)) link s.ctx.rv s.ctx.rk s.ctx.fmt (exec (.jal d o) s)
    ∧ (target.getLsbD 0 = false → RegistersTo s 4 target link s.ctx.rv s.ctx.rk s.ctx.fmt (exec (.jalr d a i) s))
    ∧ RegistersTo s 2 (va57 (s.ctx.pc + 2 * j.signExtend 64)) s.ctx.rx s.ctx.rv s.ctx.rk s.ctx.fmt (exec (.j16 j) s))
  ∧ (∀ (s : State) (d a b : BitVec 5) (o : BitVec 15) (j : BitVec 20),
    decodeWord (80#7 ++ a ++ b ++ o) = .ok (.beq a b o) ∧ decodeWord (81#7 ++ a ++ b ++ o) = .ok (.bne a b o)
    ∧ decodeWord (82#7 ++ a ++ b ++ o) = .ok (.blt a b o) ∧ decodeWord (83#7 ++ a ++ b ++ o) = .ok (.bge a b o)
    ∧ decodeWord (84#7 ++ a ++ b ++ o) = .ok (.bltu a b o) ∧ decodeWord (85#7 ++ a ++ b ++ o) = .ok (.bgeu a b o)
    ∧ decodeWord (86#7 ++ d ++ j) = .ok (.jal d j) ∧ decodeWord (87#7 ++ d ++ a ++ o) = .ok (.jalr d a o)
    ∧ decodeWord 0xAC100080 = .ok (.jal 1 128) ∧ decodeWord 0xAE008000 = .ok (.jalr 0 1 0)
    ∧ ((va57 (s.ctx.rx a + o.signExtend 64)).getLsbD 0 = true → Traps s 0x004 (va57 (s.ctx.rx a + o.signExtend 64)) (exec (.jalr d a o) s)))

/-- 04 R140: LOOP and LOOPI with a count arm the outer loop, or the inner one when the outer is armed; the loop check of R141 follows. With
count 0 they go on after the end instruction, whose first halfword gives its length.
04 R141: the loop check after an instruction that falls through at the end of its loops (the inner loop counts first, and the outer one
only when the inner is exhausted), after one that is at no end, and after a transfer that leaves a body.
04 R143, R144, R145, 02 R55: END without uncommitted sends frees the context, and with some waits for their commit without the slot;
DONE frees it and gives its value to the launch unit; YIELD gives up the slot and leaves the context ready with all its state, to fall
through when it goes on (R142, stated in SlotHandoffs). -/
def Obligations.LoopsAndTaskControl : Prop :=
  (∀ (s : State) (a : BitVec 5) (n : BitVec 9) (o : BitVec 15) (count : Word) (i : Instr),
    (i = .loop a o ∧ count = s.ctx.rx a) ∨ (i = .loopi n o ∧ count = n.zeroExtend 64) →
    let le := va57 (s.ctx.pc + 2 * o.zeroExtend 64)
    let next := va57 (s.ctx.pc + 4)
    (count ≠ 0 → s.ctx.lstat.getLsbD 0 = false → Gives (exec i s) fun t => OnlyHot s t ∧ SameBytes s t ∧
      t.ctx = ({ s.ctx with busy := t.ctx.busy, lc0 := count, ls0 := next, le0 := le, lstat := s.ctx.lstat ||| 1 } : Ctx).retire 4 next)
    ∧ (count ≠ 0 → s.ctx.lstat = 1 → Gives (exec i s) fun t => OnlyHot s t ∧ SameBytes s t ∧
      t.ctx = ({ s.ctx with busy := t.ctx.busy, lc1 := count, ls1 := next, le1 := le, lstat := 3 } : Ctx).retire 4 next)
    ∧ (count = 0 → s.ctx.lstat ≠ 3 →
      (∀ h u, s.fetchHalf s.cur le = .ok (h, u) → Gives (exec i s) fun t => Others s t ∧ SameBytes u t ∧
        Registers s.ctx 4 (va57 (le + if h.getLsbD 15 then 4 else 2)) s.ctx.rx s.ctx.rv s.ctx.rk s.ctx.fmt t.ctx)
      ∧ (∀ cause va, s.fetchHalf s.cur le = .error (.trap cause va) → Traps s cause va (exec i s))
      ∧ (∀ va w, s.fetchHalf s.cur le = .error (.miss va w) → Gives (exec i s) fun t => OnlyCtx s t ∧ SameBytes s t
          ∧ t.ctx = { s.ctx with busy := t.ctx.busy, status := .stalled }
          ∧ Instr.atsResponse (.ctx s.cur s.hot) s.core.ident.pasid va w ∈ t.pending)))
  ∧ (∀ (c : Ctx) (len : Nat) (next : Word),
    let seq := va57 (c.pc + BitVec.ofNat 64 len)
    let d := c.retire len next
    let inside := fun (p ls le : Word) => ls.toInt ≤ p.toInt ∧ p.toInt ≤ le.toInt
    (next = seq → c.lstat.getLsbD 1 = true → c.pc = c.le1 → c.lc1 ≠ 1 → c.ls1 ≠ seq → inside c.ls1 c.ls1 c.le1 → (c.lstat.getLsbD 0 = true → inside c.ls1 c.ls0 c.le0) →
      d.pc = c.ls1 ∧ d.lc1 = c.lc1 - 1 ∧ d.lc0 = c.lc0 ∧ d.lstat = c.lstat)
    ∧ (next = seq → c.lstat = 3 → c.pc = c.le1 → c.pc = c.le0 → c.lc1 = 1 → c.lc0 ≠ 1 → inside c.ls0 c.ls0 c.le0 →
      d.pc = c.ls0 ∧ d.lc1 = 0 ∧ d.lc0 = c.lc0 - 1 ∧ d.lstat = 1)
    ∧ (next = seq → c.lstat = 1 → c.pc = c.le0 → c.lc0 ≠ 1 → inside c.ls0 c.ls0 c.le0 →
      d.pc = c.ls0 ∧ d.lc0 = c.lc0 - 1 ∧ d.lc1 = c.lc1 ∧ d.lstat = 1)
    ∧ (next = seq → c.lstat = 1 → c.pc = c.le0 → c.lc0 = 1 → d.pc = seq ∧ d.lc0 = 0 ∧ d.lc1 = c.lc1 ∧ d.lstat = 0)
    ∧ (next = seq → c.lstat = 3 → c.pc ≠ c.le1 → c.pc = c.le0 → c.lc0 = 1 → d.pc = seq ∧ d.lc0 = 0 ∧ d.lc1 = c.lc1 ∧ d.lstat = 0)
    ∧ (next = seq → (c.lstat.getLsbD 1 = true → c.pc ≠ c.le1 ∧ inside seq c.ls1 c.le1) → (c.lstat.getLsbD 0 = true → c.pc ≠ c.le0 ∧ inside seq c.ls0 c.le0) →
      d.pc = seq ∧ d.lc0 = c.lc0 ∧ d.lc1 = c.lc1 ∧ d.lstat = c.lstat)
    ∧ (next ≠ seq → d.pc = next ∧ d.lc0 = c.lc0 ∧ d.lc1 = c.lc1)
    ∧ (next ≠ seq → c.lstat.getLsbD 0 = true → ¬ inside next c.ls0 c.le0 → d.lstat = 0)
    ∧ (next ≠ seq → c.lstat = 3 → inside next c.ls0 c.le0 → ¬ inside next c.ls1 c.le1 → d.lstat = 1)
    ∧ (next ≠ seq → (c.lstat.getLsbD 0 = true → inside next c.ls0 c.le0) → (c.lstat.getLsbD 1 = true → inside next c.ls1 c.le1) → d.lstat = c.lstat))
  ∧ (∀ (s : State) (a : BitVec 5) (i : Instr),
    (i = .endTask ∨ i = .end16 →
      (s.sendsOf s.cur s.hot = [] → Gives (exec i s) fun t => Freed s t s.cur s.hot)
      ∧ (s.sendsOf s.cur s.hot ≠ [] → Gives (exec i s) fun t => t.ctx.status = .ending ∧ (t.coreAt s.cur).slot ≠ some s.hot
          ∧ Instr.sendCommit s.cur s.hot ∈ t.pending ∧ t.sendsOf s.cur s.hot = s.sendsOf s.cur s.hot ∧ Others s t ∧ SameBytes s t))
    ∧ (i = .done a → Gives (exec i s) fun t => Freed s t s.cur s.hot
        ∧ ∀ lid, s.core.ident.lid = some lid → Instr.launchCompletion lid (s.ctx.rx a) (some (s.cur, s.hot)) ∈ t.pending)
    ∧ (∀ len, (i = .yield ∧ len = 4) ∨ (i = .yield16 ∧ len = 2) → Gives (exec i s) fun t =>
        t.ctx = { s.ctx with busy := t.ctx.busy, status := .ready, falls := len, used := t.ctx.used }
        ∧ (t.coreAt s.cur).slot ≠ some s.hot
        ∧ (s.core.slot = some s.hot → t.ctx.used = t.core.next - s.ctx.since ∧ Instr.issueSlotHandoff s.cur ∈ t.pending)
        ∧ Others s t ∧ SameBytes s t))

/-- The causes that the instructions above and those of major 0x3E raise, with their values: 0x045 of PADD (04 R130), 0x004 of JALR (04
R139), 0x007 of LOOP (04 R140), 0x001 for a number that is no control register and 0x003 for sl.rules and sl.spill while the splice unit
runs (14 R429), 0x1C0 + n of TRAP (14 R430).
04 R147, 02 R70, 06 R184: the watchdog, an illegal encoding and a fetch that may not be granted abort the running handler with causes
0x005, 0x001 and the fault's own; a page that is not present suspends it in place.
TRAP is encoded as R430 says. -/
def Obligations.CausesAndTheirValues : Prop :=
  (∀ (s : State) (d a b : BitVec 5) (i : BitVec 15) (o : BitVec 15) (m : BitVec 9) (n : BitVec 6) (r : BitVec 12),
    let p := s.ctx.rx a
    let y := (s.ctx.rx b).toInt
    let off : Int := ((p.extractLsb' 0 19).toNat : Int) + y
    let sum : Int := (p.extractLsb' 0 57).toInt + y
    let target := va57 (p + i.signExtend 64)
    let enc := fun (a : BitVec 5) (sel : BitVec 3) => (126#7 ++ d ++ a ++ sel ++ r).zeroExtend 64
    (p.extractLsb' 60 4 = 15 → (off < 0 ∨ 393216 ≤ off) → Traps s 0x045 p (exec (.padd d a b) s))
    ∧ (p.extractLsb' 60 4 ≠ 15 → (sum < -(2 ^ 56) ∨ 2 ^ 56 ≤ sum) → Traps s 0x045 p (exec (.padd d a b) s))
    ∧ (target.getLsbD 0 = true → Traps s 0x004 target (exec (.jalr d a i) s))
    ∧ (s.ctx.lstat = 3 → Traps s 0x007 p (exec (.loop a o) s) ∧ Traps s 0x007 (m.zeroExtend 64) (exec (.loopi m o) s))
    ∧ (s.csr s.cur s.hot r = none → Traps s 0x001 (enc 0 0) (exec (.csrr d r) s) ∧ Traps s 0x001 (enc a 1) (exec (.csrw d a r) s)
        ∧ Traps s 0x001 (enc a 2) (exec (.csrset d a r) s) ∧ Traps s 0x001 (enc a 3) (exec (.csrclr d a r) s))
    ∧ (r = 0x031 ∨ r = 0x032 → s.core.splice.run = true → Traps s 0x003 (r.zeroExtend 64) (exec (.csrw d a r) s)
        ∧ (a ≠ 0 → Traps s 0x003 (r.zeroExtend 64) (exec (.csrset d a r) s) ∧ Traps s 0x003 (r.zeroExtend 64) (exec (.csrclr d a r) s)))
    ∧ Traps s (0x1C0 + n.zeroExtend 9) p (exec (.trap a n) s))
  ∧ (∀ (s : State) (c : CoreId) (x : CtxId) (enc va : Word) (cause : BitVec 9),
    (s.ctxAt c x).status = .running →
    ((s.ctxAt c x).budget.toNat ≤ s.usedOf (s.ctxAt c x) → exec (.watchdog c x) s = .next (s.takeTrapAt c x 0x005 (s.ctxAt c x).pc 0))
    ∧ Traps { s with cur := c, hot := x } 0x001 enc (exec (.illegalInstruction c x enc) s)
    ∧ (cause ≠ 0x040 → exec (.instructionFetchFault c x va cause) s = .next (s.takeTrapAt c x cause va 0))
    ∧ Gives (exec (.instructionFetchFault c x va 0x040) s) fun t =>
        t.ctxAt c x = { s.ctxAt c x with status := .suspended (.fault va), used := (t.ctxAt c x).used } ∧ (t.coreAt c).slot ≠ some x ∧ SameBytes s t)
  ∧ (∀ (a : BitVec 5) (n : BitVec 6), decodeWord (126#7 ++ 0#5 ++ a ++ 4#3 ++ 0#6 ++ n) = .ok (.trap a n)) ∧ decodeWord 0xFC03C005 = .ok (.trap 7 5)

/-- 01 R41, 04 R147, 08 R254, 14 R419 to R421: a trap in a handler that a message or a task started frees its context and puts a trap
record at the end of the core's trap queue, with the class and the id of the launch's trap handler, the core's next message id, the cause,
the pc, the value and the handler's message. The message is returned to its queue when the handler is restartable, the cause is not the
watchdog's, it was returned fewer than 3 times, and the handler evaluates no cell.
14 R421, R422: a trap in a handler that a trap record started, in a launch without a trap handler, or with the trap queue full goes to
the fault service, which completes the launch with 0xFFFF_FFFF_FFFF_FFFD; the context is freed all the same. -/
def Obligations.TakingATrap : Prop :=
  (∀ (s : State) (c : CoreId) (x : CtxId) (cause : BitVec 9) (val aux : Word) (g : Trigger) (l : Launch)
      (cl : BitVec 6) (pc : Word),
    let k := s.ctxAt c x
    let back := k.nonRestart = false ∧ cause ≠ 0x005 ∧ g.returns < 3 ∧ k.evCell.getLsbD 0 = false
    k.trigger = some g → g.src ≠ .trapq → g.returns < 4 → s.launchOf c = some l → l.field 480 480 = 1 →
    s.handler c (l.field 479 468) = some (cl, pc) → (s.coreAt c).net.trapq.length < 16 →
    (g.src = .deque → back → (s.coreAt c).net.deque.length < 32) →
    let t := s.takeTrapAt c x cause val aux
    let hdr := fun (w : Word) => w.extractLsb' 58 6 = cl ∧ (w.extractLsb' 46 12).toNat = l.field 479 468 ∧ w.extractLsb' 45 1 = s.dev
        ∧ w.extractLsb' 35 10 = (s.coreAt c).ident.rel ∧ w.extractLsb' 32 3 = 0 ∧ w.extractLsb' 16 16 = (s.coreAt c).net.mid
        ∧ w.extractLsb' 6 10 = (s.coreAt c).ident.rel ∧ w.extractLsb' 2 2 = 1 ∧ w.extractLsb' 1 1 = 0
    let summary := fun (w : Word) => (w.extractLsb' 0 9) = cause ∧ w.extractLsb' 27 3 = 0 ∧ w.getLsbD 30 = k.nonRestart
        ∧ (w.getLsbD 31 = true ↔ back) ∧ (w.extractLsb' 32 2).toNat = g.returns ∧ (w.extractLsb' 34 2).toNat = x.val
        ∧ w.extractLsb' 36 12 = (Msg.word g.word 0).extractLsb' 46 12 ∧ w.extractLsb' 48 16 = (Msg.word g.word 0).extractLsb' 16 16
    t.ctxAt c x = Ctx.reset ∧ (t.coreAt c).slot ≠ some x ∧ SameBytes s t
    ∧ (∃ w, (t.coreAt c).net.trapq = ((s.coreAt c).net.trapq.filter fun e => e.started ≠ some x) ++ [{ word := w, pc := pc, started := none }]
        ∧ hdr (Msg.word w 0) ∧ summary (Msg.word w 1) ∧ Msg.word w 2 = k.pc ∧ Msg.word w 3 = val ∧ Msg.word w 4 = aux
        ∧ Msg.word w 5 = Msg.word g.word 0 ∧ Msg.word w 7 = Msg.word g.word 1)
    ∧ (t.coreAt c).net.mailbox = (if back then ((s.coreAt c).net.mailbox.filter fun e => e.started = some x).map fun e => { e with started := none, returns := e.returns + 1 }
        else []) ++ (s.coreAt c).net.mailbox.filter (fun e => e.started ≠ some x)
    ∧ (g.src = .deque → back → (t.coreAt c).net.deque = (s.coreAt c).net.deque ++ [{ word := g.word, prio := g.prio, returns := g.returns + 1 }]))
  ∧ (∀ (s : State) (c : CoreId) (x : CtxId) (cause : BitVec 9) (val aux : Word) (g : Trigger) (l : Launch),
    (s.ctxAt c x).trigger = some g → (s.coreAt c).ident.lid = some l.lid → s.launch? l.lid = some l → s.serviced l →
    g.src = .trapq ∨ (g.src = .mailbox ∧ (l.field 480 480 = 0 ∨ s.handler c (l.field 479 468) = none
      ∨ 16 ≤ ((s.coreAt c).net.trapq.filter fun e => e.started ≠ some x).length)) →
    let t := s.takeTrapAt c x cause val aux
    t.ctxAt c x = Ctx.reset ∧ SameBytes s t ∧ Instr.launchCompletion l.lid 0xFFFFFFFFFFFFFFFD none ∈ t.pending)

/-- 14 R427, R429: CSRR, and CSRSET and CSRCLR with a = 0, read a control register into x[d] and write nothing else.
14 R427, R429, 03 R79, 04 R120, R121, 08 R251, 11 R349, 13 R394: CSRW, CSRSET and CSRCLR write the RW fields of a control register and
x[d] with its old value; every other control register, register and byte stays. -/
def Obligations.ControlRegisters : Prop :=
  (∀ (s : State) (d : BitVec 5),
    let q := s.ctx
    let k := s.core
    let reads := fun (r : BitVec 12) (v : Word) => XWritten s 4 d v (exec (.csrr d r) s) ∧ XWritten s 4 d v (exec (.csrset d 0 r) s)
      ∧ XWritten s 4 d v (exec (.csrclr d 0 r) s)
    reads 0x001 q.fmt ∧ (q.status = .running → reads 0x002 (BitVec.ofNat 32 (s.cyc - q.since) ++ q.budget)) ∧ reads 0x004 (k.ident.hbase.signExtend 64)
    ∧ reads 0x005 (k.ident.pasid.zeroExtend 64)
    ∧ reads 0x006 (if s.peerTrained then 1#1 ++ 0#6 ++ s.peerBase.extractLsb' 30 27 ++ 0#30 else 0)
    ∧ reads 0x008 k.net.clsen ∧ reads 0x010 (q.lstat.zeroExtend 64) ∧ reads 0x011 q.lc0 ∧ reads 0x012 q.ls0 ∧ reads 0x013 q.le0
    ∧ reads 0x014 q.lc1 ∧ reads 0x015 q.ls1 ∧ reads 0x016 q.le1 ∧ reads 0x018 q.tcause ∧ reads 0x019 q.tpc ∧ reads 0x01A q.tval
    ∧ reads 0x01B q.tmsg ∧ reads 0x020 q.evCell ∧ reads 0x021 q.evChain0 ∧ reads 0x022 q.evChain1 ∧ reads 0x023 q.evChain2
    ∧ reads 0x030 k.splice.free ∧ reads 0x031 k.splice.rules ∧ reads 0x032 k.splice.spill ∧ reads 0x040 (k.ident.rel.zeroExtend 64)
    ∧ reads 0x041 (BitVec.ofNat 64 s.cur.val) ∧ reads 0x044 (s.dev.zeroExtend 64) ∧ reads 0x045 k.ident.grp
    ∧ reads 0x048 k.ident.ext[0] ∧ reads 0x049 k.ident.ext[1] ∧ reads 0x04A k.ident.ext[2] ∧ reads 0x04B k.ident.ext[3]
    ∧ reads 0x04C k.ident.org[0] ∧ reads 0x04D k.ident.org[1] ∧ reads 0x04E k.ident.org[2] ∧ reads 0x04F k.ident.org[3]
    ∧ reads 0x060 (BitVec.ofNat 64 s.cyc))
  ∧ (∀ (s : State) (d a : BitVec 5) (r : BitVec 12) (old : Word),
    s.csr s.cur s.hot r = some old → ¬ ((r = 0x031 ∨ r = 0x032) ∧ s.core.splice.run = true) →
    let wrote := fun (v : Word) (o : Out) => Gives o fun t => CsrWritten s r v t ∧ SameBytes s t ∧ Others s t
      ∧ (∀ n, t.ctx.rx n = s.ctx.withX d old n) ∧ (∀ n, t.ctx.rv n = s.ctx.rv n) ∧ (∀ n, t.ctx.rk n = s.ctx.rk n)
      ∧ (s.ctx.lstat = 0 → r ≠ 0x010 → t.ctx.pc = va57 (s.ctx.pc + 4))
    wrote (s.ctx.rx a) (exec (.csrw d a r) s)
    ∧ (a ≠ 0 → wrote (old ||| s.ctx.rx a) (exec (.csrset d a r) s) ∧ wrote (old &&& ~~~(s.ctx.rx a)) (exec (.csrclr d a r) s)))

/-- 14 R431, R432, 06 R193: TLBINV with a memory pointer removes the entries of the launch's PASID that map the address from the core's and
its cluster's TLB, and with a scratchpad pointer does nothing; ICLEAN discards the line of the address from the instruction cache, IFENCE
every line.
06 R179, R199, 07 R211, R235: a fence ends when the earlier operations of its context are performed, and waits until then; a release at
.device or wider writes the dirty lines of private regions home; PREF writes no register and raises no cause. -/
def Obligations.CacheAndFence : Prop :=
  (∀ (s : State) (a : BitVec 5),
    let p := s.ctx.rx a
    let maps := fun (g : Grant) => grantCovers g s.core.ident.pasid p
    (p.extractLsb' 60 4 = 15 → NoneWritten s 4 (exec (.tlbinv a) s))
    ∧ (p.extractLsb' 60 4 ≠ 15 → Gives (exec (.tlbinv a) s) fun t => Others s t ∧ SameBytes s t ∧ Plain s 4 t.ctx
        ∧ (t.coreAt s.cur).tlb1 = s.core.tlb1.filter (fun g => !maps g)
        ∧ (t.clusters[clusterOf s.cur]).tlb2 = (s.clusters[clusterOf s.cur]).tlb2.filter (fun e => !maps e.grant)
        ∧ findGrant ((t.coreAt s.cur).tlb1 ++ (t.clusters[clusterOf s.cur]).tlb2.map (·.grant)) s.core.ident.pasid p false = none)
    ∧ (Gives (exec (.iclean a) s) fun t => Others s t ∧ SameBytes s t ∧ Plain s 4 t.ctx ∧ icacheLine (t.coreAt s.cur).icache (lineVa p) = none
        ∧ ∀ l, l ≠ lineVa p → icacheLine (t.coreAt s.cur).icache l = icacheLine s.core.icache l)
    ∧ Gives (exec .ifence s) fun t => Others s t ∧ SameBytes s t ∧ Plain s 4 t.ctx ∧ (t.coreAt s.cur).icache = [])
  ∧ (∀ (s : State) (sc : BitVec 4) (o : BitVec 3) (b : BitVec 5) (r : BitVec 1),
    let alone := sc = 2 ∧ s.slotGroup s.cur 0 = none
    (alone → Traps s 0x0C8 0 (exec (.fence sc o) s))
    ∧ (¬ alone → s.homeBusy s.cur s.hot = false → (o ≠ 0 → s.unperformed s.cur s.hot = false) → Gives (exec (.fence sc o) s) fun t =>
        Plain s 4 t.ctx ∧ OnlyCtx s t ∧ (o = 0 ∨ s.tidy s.cur → SameBytes s t)
        ∧ (o ≠ 0 → 5 ≤ sc.toNat → ((s.l1 s.cur).ways.map (·.line)).Nodup →
            ∀ w ∈ (s.l1 s.cur).ways, ∀ d, w.what = .own d true → t.lineData w.line = d))
    ∧ (¬ alone → s.homeBusy s.cur s.hot = true ∨ (o ≠ 0 ∧ s.unperformed s.cur s.hot = true) → Waits s (exec (.fence sc o) s))
    ∧ Gives (exec (.pref b r) s) fun t => Plain s 4 t.ctx ∧ OnlyCtx s t)

/-- 06 R167, R168: the effective address of an access, and its causes 0x047 and 0x046 with the pointer as value.
06 R189, R195, R196, R179, 07 R225, R232: when an access of one element goes ahead, and the first cause that stops it: misalignment
before translation, translation before the attribute.
06 R184, R189, R196: a scalar load or store that does not go ahead raises its cause, or stalls and asks for the translation, or waits
with its context as it was. That a firmware core's memory has no attributes (attribute 2, no attribute cause) is log 19 (DESIGN CHOICE). -/
def Obligations.AddressesAndAccessCauses : Prop :=
  (∀ (rel : BitVec 10) (p : Word) (off : Int),
    let f := p.extractLsb' 60 4
    let o : Int := ((p.extractLsb' 0 19).toNat : Int) + off
    let good := p.extractLsb' 19 30 = 0 ∧ 0 ≤ o ∧ o < 393216 ∧ (p.getLsbD 49 = true ∨ p.extractLsb' 50 10 = rel)
    (f = 15 → good → eff rel p off = .ok (.sp o.toNat)) ∧ (f = 15 → ¬ good → eff rel p off = .error (.trap 0x047 p))
    ∧ (f = 11 ∨ f = 12 ∨ f = 14 → eff rel p off = .error (.trap 0x046 p))
    ∧ (f ∉ [11, 12, 14, 15] → eff rel p off = .ok (.mem ((p.extractLsb' 0 57 + BitVec.ofInt 57 off).signExtend 64))))
  ∧ (∀ (s : State) (c : CoreId) (x : CtxId) (w : Bool) (p : Piece),
    let free := s.scoreboard c w [p] = false ∧ s.homeBusy c x = false
    (p.loc.num % p.align ≠ 0 → s.access c x w [p] = .error (.trap 0x042 p.loc.addr))
    ∧ (∀ o, p.loc = .sp o → o % p.align = 0 → free → s.access c x w [p] = .ok [.sp o])
    ∧ (∀ va, p.loc = .mem va → low57 va % p.align = 0 →
        (s.translate c va w = none → s.access c x w [p] = .error (.miss va w))
        ∧ ∀ pa, s.translate c va w = some pa →
          (s.noPeer pa = true → s.access c x w [p] = .error (.trap 0x041 va))
          ∧ (s.noPeer pa = false →
            let r := s.region (s.coreAt c).ident.pasid va
            let alien := s.firmwareCore c = false ∧ r.attr = 0 ∧ (r.owner ≠ c.val ∨ r.odev ≠ s.dev)
            let shared := s.firmwareCore c = false ∧ r.attr = 1 ∧ w = true
            let q := Place.phys pa va (if s.firmwareCore c then 2 else r.attr)
            (alien → s.access c x w [p] = .error (.trap 0x044 va)) ∧ (shared → s.access c x w [p] = .error (.trap 0x043 va))
            ∧ (¬ alien → ¬ shared → free → (∀ l ∈ q.lines p.len ++ s.ownLines c q p.len, s.hostHolds l = false) →
                s.access c x w [p] = .ok [q]))))
  ∧ (∀ (s : State) (i : Instr) (len z : Nat) (sg wr : Bool) (d b : BitVec 5) (off : Int) (st : Stop),
    (wr = false ∧ scalarLoad i = some (len, z, sg, d, b, off)) ∨ (wr = true ∧ scalarStore i = some (len, z, d, b, off)) →
    s.scalar b off z = .error st ∨ (∃ p, s.scalar b off z = .ok p ∧ ¬ s.noGroup i p ∧ s.access s.cur s.hot wr [p] = .error st) →
    (∀ cause v, st = .trap cause v → Traps s cause v (exec i s))
    ∧ (∀ va w, st = .miss va w → Gives (exec i s) fun t => t.ctx = { s.ctx with busy := t.ctx.busy, status := .stalled } ∧ OnlyCtx s t ∧ SameBytes s t
        ∧ Instr.atsResponse (.ctx s.cur s.hot) s.core.ident.pasid va w ∈ t.pending)
    ∧ (∀ ls, st = .busy ls → (isRelease i = true → s.unperformed s.cur s.hot = false) → Gives (exec i s) fun t =>
        t.ctx = { s.ctx with busy := t.ctx.busy } ∧ OnlyCtx s t ∧ (s.writesBack i = false ∨ s.tidy s.cur → SameBytes s t)
        ∧ ∀ l ∈ ls, (t.line l).snooping = true))

/-- 06 R168, R179, R195, R180, 07 R226: the bytes that an access that goes ahead loads, when no cell it touches has to answer: those of the
scratchpad, those of a private region as the core's L1 has them, or those of memory with its update-only partials combined.
06 R195, R198, 02 R55, 07 R211: a scalar load that goes ahead writes x[d] with its bytes, lowest address first, sign- or
zero-extended; an ordered load whose scope names a group that is not there raises 0x0C8.
06 R195, R198, 02 R55, 07 R211: a scalar store that goes ahead stores the low bytes of x[data], lowest address first, at the place of its
effective address, and writes no register.
07 R215: an ordered store waits for the operations of its context that are not performed. -/
def Obligations.ScalarLoadsAndStores : Prop :=
  (∀ (s : State) (p : Piece),
    (∀ o, s.access s.cur s.hot false [p] = .ok [.sp o] → s.load [p] = .bytes [s.core.sp.bytes o p.len] [.sp o])
    ∧ (∀ pa va, s.access s.cur s.hot false [p] = .ok [.phys pa va 0] →
        s.load [p] = .bytes [s.ownBytes s.cur pa p.len] [.phys pa va 0])
    ∧ (∀ pa va, s.access s.cur s.hot false [p] = .ok [.phys pa va 2] →
        s.load [p] = .bytes [(((Place.phys pa va 2).lines p.len).foldl State.recall s).mem.bytes pa p.len] [.phys pa va 2])
    ∧ (∀ pa va, s.access s.cur s.hot false [p] = .ok [.phys pa va 1] → s.stale = [] →
        s.load [p] = .bytes [s.mem.bytes pa p.len] [.phys pa va 1])
    ∧ (∀ pa va, s.access s.cur s.hot false [p] = .ok [.phys pa va 3] → s.tags = [] → s.ctx.answers = [] →
        (∀ l ∈ (Place.phys pa va 3).lines p.len, (s.line l).u = []) → s.load [p] = .bytes [s.mem.bytes pa p.len] [.phys pa va 3]))
  ∧ (∀ (s : State) (i : Instr) (len z : Nat) (sg : Bool) (d b : BitVec 5) (off : Int) (p : Piece) (bs : List Byte)
      (qs : List Place),
    scalarLoad i = some (len, z, sg, d, b, off) → s.scalar b off z = .ok p → s.load [p] = .bytes [bs] qs →
    let v : BitVec 64 := BitVec.ofNat 64 (ofBytes bs)
    let w : Word := if sg then (v.setWidth (8 * z)).signExtend 64 else (v.setWidth (8 * z)).setWidth 64
    (¬ s.noGroup i p → Gives (exec i s) fun t => PlainX s len d w t.ctx ∧ LoadFrame s t qs [p])
    ∧ (s.noGroup i p → Traps s 0x0C8 0 (exec i s)))
  ∧ (∀ (s : State) (i : Instr) (len z : Nat) (d b : BitVec 5) (off : Int) (p : Piece) (q : Place),
    scalarStore i = some (len, z, d, b, off) → s.scalar b off z = .ok p → s.access s.cur s.hot true [p] = .ok [q] →
    (¬ s.noGroup i p → (isRelease i = true → s.unperformed s.cur s.hot = false) →
      Gives (exec i s) fun t => Plain s len t.ctx ∧ StoreFrame s t [(q, toBytes z (s.ctx.rx d).toNat)])
    ∧ (¬ s.noGroup i p → isRelease i = true → s.unperformed s.cur s.hot = true → Waits s (exec i s))
    ∧ (s.noGroup i p → Traps s 0x0C8 0 (exec i s)))

/-- 06 R202, R204 to R207: a vector load that goes ahead writes element i of v[d] with the bytes at its offset when it is active and not
clipped, and +0 otherwise.
06 R202, R203, R205 to R207: a vector store that goes ahead stores its active, unclipped elements in ascending order, so that of two that
name one byte the higher one remains.
03 R95: a vector access through a TK8E4 or TK8E5 pointer raises 0x046, whatever its mask.
06 R208, R209: formatted loads and stores of a group of 16 elements that goes ahead, with the scale byte when field b names one: every
active lane is the element converted, an inactive lane of VLDF reads +0, and the flags are those of the conversions. -/
def Obligations.VectorMemoryAccesses : Prop :=
  (∀ (s : State) (i : Instr) (w : Nat) (v : BitVec 5) (ptr : Word) (act : List Nat) (off : Nat → Int)
      (ps : List Piece) (bs : List (List Byte)) (qs : List Place),
    (vectorLoad s i = some (w, v, ptr, act, off)
      ∨ ∃ a k wc col o, i = .vldt v a k wc col ∧ w = widthOf wc ∧ ptr = s.ctx.rx a ∧ ptr.extractLsb' 60 4 = 15 ∧ eff s.core.ident.rel ptr 0 = .ok (.sp o)
        ∧ act = (activeOf (s.ctx.rk k) (lanesOf wc)).filter (fun n =>
            if col = 1 then o + 1536 * n < 393216 else (o + n * (w / 8)) / 1536 = o / 1536)
        ∧ off = fun n => ((if col = 1 then 1536 * n else n * (w / 8) : Nat) : Int)) →
    s.pieces ptr (w / 8) act off = .ok ps → s.load ps = .bytes bs qs →
    Gives (exec i s) fun t => LoadFrame s t qs ps ∧ ∃ r, PlainV s v r s.ctx.fmt t.ctx
      ∧ ∀ n, n < 512 / w → elem r w n = match (act.zip bs).find? (fun e => e.1 = n) with
        | some e => ofBytes e.2 % 2 ^ w
        | none => 0)
  ∧ (∀ (s : State) (i : Instr) (w : Nat) (v : BitVec 5) (ptr : Word) (act : List Nat) (off : Nat → Int)
      (ps : List Piece) (qs : List Place),
    (vectorStore s i = some (w, v, ptr, act, off)
      ∨ ∃ a k wc col o, i = .vstt v a k wc col ∧ w = widthOf wc ∧ ptr = s.ctx.rx a ∧ ptr.extractLsb' 60 4 = 15 ∧ eff s.core.ident.rel ptr 0 = .ok (.sp o)
        ∧ act = (activeOf (s.ctx.rk k) (lanesOf wc)).filter (fun n =>
            if col = 1 then o + 1536 * n < 393216 else (o + n * (w / 8)) / 1536 = o / 1536)
        ∧ off = fun n => ((if col = 1 then 1536 * n else n * (w / 8) : Nat) : Int)) →
    s.pieces ptr (w / 8) act off = .ok ps → s.access s.cur s.hot true ps = .ok qs →
    Gives (exec i s) fun t => Plain s 4 t.ctx
      ∧ StoreFrame s t (qs.zip (act.map fun n => toBytes (w / 8) (elem (s.ctx.rv v) w n))))
  ∧ (∀ (s : State) (i : Instr) (w : Nat) (v : BitVec 5) (ptr : Word) (act : List Nat) (off : Nat → Int),
    vectorLoad s i = some (w, v, ptr, act, off) ∨ vectorStore s i = some (w, v, ptr, act, off) →
    ptr.extractLsb' 60 4 = 11 ∨ ptr.extractLsb' 60 4 = 12 → Traps s 0x046 ptr (exec i s))
  ∧ (∀ (s : State) (v a b : BitVec 5) (k : BitVec 3) (f e : BitVec 4) (act : List Nat) (ps : List Piece)
      (scale : Option Nat) (sp : Option Piece) (rs : List (Place × List Byte)),
    s.group f (s.ctx.rx a) (s.ctx.rk k) = .ok (e, act, ps) → s.scalePiece b act = .ok sp →
    (sp = none ∧ scale = none ∧ rs = [])
      ∨ (∃ p y q, sp = some p ∧ s.load [p] = .bytes [[y]] q ∧ scale = some y.toNat ∧ rs = q.map fun n => (n, [0])) →
    let out := fun (n : Nat) => laneOut s.ctx e scale (elem (s.ctx.rv v) 32 n)
    (∀ bs qs, s.load ps = .bytes bs qs → Gives (exec (.vldf v a b k f) s) fun t => ∃ r fl, PlainV s v r (s.ctx.fmt ||| fl) t.ctx ∧ OnlyCtx s t
        ∧ (s.tidy s.cur → (∀ g ∈ qs.zip ps, s.calm s.cur g.1 g.2.len) → (∀ g ∈ rs, s.calm s.cur g.1 1) → SameBytes s t)
        ∧ fl = ((act.zip bs).foldl (fun (g : Flags) n => g ||| (laneIn s.ctx e scale (elemOf e n.1 n.2)).2) 0).setWidth 64
        ∧ ∀ n, n < 16 → elem r 32 n = match (act.zip bs).find? (fun g => g.1 = n) with
          | some g => (laneIn s.ctx e scale (elemOf e g.1 g.2)).1 % 2 ^ 32
          | none => 0)
    ∧ (∀ qs, s.access s.cur s.hot true ps = .ok qs → Gives (exec (.vstf v a b k f) s) fun t => ∃ fl,
        Registers s.ctx 4 (va57 (s.ctx.pc + 4)) s.ctx.rx s.ctx.rv s.ctx.rk (s.ctx.fmt ||| fl) t.ctx
        ∧ fl = (act.foldl (fun (g : Flags) n => g ||| (out n).2) 0).setWidth 64
        ∧ (e ≠ 3 → StoreFrameWith s t rs (qs.zip (act.map fun n => toBytes (formatBits e / 8) (out n).1)))
        ∧ (e = 3 → NibblesStored s t rs (act.zip qs) fun n => (out n).1)))

/-- 07 R230, R231, R232: an atomic in the scratchpad or in core-owned memory reads the old value, writes the new one unless a comparison
fails, answers in x[d], and makes its handler non-restartable.
07 R231, R232: an atomic on other memory leaves its context, which holds its slot and is no longer restartable, for the home; the home
performs it indivisibly on the line's value, with any update-only partials combined first, and sends the old value back.
07 R215: an atomic with release semantics waits for the operations of its context that are not performed.
07 R225, R232, 11 R350, R351, R368: a home operation whose line the host holds exclusively waits for the snoop. An atomic that met cells that
are not VALUE suspends its context, which asks for each of them; a reduction waits at its cell while its context goes on. An answer ends the
instruction of the context that waits for it. -/
def Obligations.Atomics : Prop :=
  (∀ (s : State) (i : Instr) (r : AtomicRow) (p : Piece) (q : Place),
    atomicRow i = some r → s.scalar r.a 0 r.z = .ok p → s.access s.cur s.hot true [p] = .ok [q] → ¬ s.groupless r.scope p →
    let old := ofBytes (s.readPlace s.cur q r.z)
    (r.release = true → s.unperformed s.cur s.hot = true → Waits s (exec i s))
    ∧ ((∃ o, q = .sp o) ∨ (∃ pa va, q = .phys pa va 0) → (r.release = true → s.unperformed s.cur s.hot = false) →
      Gives (exec i s) fun t => CommittedX s (r.answer s.ctx old) t.ctx
      ∧ StoreFrame s t (match r.new old (operandOf r.z (s.ctx.rx r.b) (s.ctx.rx (r.b + 1))) (operandOf r.z (s.ctx.rx r.d) (s.ctx.rx (r.d + 1))) with
        | some v => [(q, toBytes r.z v)]
        | none => [])))
  ∧ (∀ (s : State) (i : Instr) (r : AtomicRow), atomicRow i = some r →
    (∀ p pa va attr, s.scalar r.a 0 r.z = .ok p → s.access s.cur s.hot true [p] = .ok [.phys pa va attr] → ¬ s.groupless r.scope p →
      attr ≠ 0 → (r.release = true → s.unperformed s.cur s.hot = false) →
        Gives (exec i s) fun t => t.ctx = { s.ctx with busy := t.ctx.busy, nonRestart := true, status := .stalled } ∧ OnlyCtx s t
          ∧ (r.release = false ∨ s.tidy s.cur → SameBytes s t)
          ∧ ∃ op, Instr.homeOperation op ∈ t.pending ∧ op.dev = s.dev ∧ op.core = s.cur ∧ op.ctx = s.hot ∧ op.d = r.d ∧ op.va = va ∧ op.pa = pa
            ∧ op.attr = (s.region s.core.ident.pasid va).attr
            ∧ op.kind = .amo r.fn (s.ctx.rx r.b) (s.ctx.rx (r.b + 1)) (s.ctx.rx r.d) (s.ctx.rx (r.d + 1)))
    ∧ ∀ (op : HomeOp) b b1 c c1, op.kind = .amo r.fn b b1 c c1 → s.hostHolds (op.pa / 64) = false →
      (op.attr = 3 → s.openCells op.pa r.z = []) →
      let m := (s.recall (op.pa / 64)).mem
      let old := m.num op.pa r.z
      Gives (exec (.homeOperation op) s) fun t => t.cores = s.cores
        ∧ (∀ a, t.mem.byte a = (match r.new old (operandOf r.z b b1) (operandOf r.z c c1) with
          | some v => m.write op.pa (toBytes r.z v)
          | none => m).byte a)
        ∧ ∃ ans, (op.dev = s.dev → Instr.homeResponse op.core op.ctx ans ∈ t.pending)
          ∧ (op.dev ≠ s.dev → s.peerTrained = true → Instr.homeResponse op.core op.ctx ans ∈ t.peerOut)
          ∧ ans = (if r.z = 16 then .pair op.d (BitVec.ofNat 64 old) (BitVec.ofNat 64 (old / 2 ^ 64))
            else if r.signed then .value op.d (((BitVec.ofNat 64 old).setWidth 32).signExtend 64) else .value op.d (BitVec.ofNat 64 old)))
  ∧ (∀ (s : State) (op : HomeOp) (c : CoreId) (x : CtxId),
    let k := s.ctxAt c x
    (s.hostHolds (op.pa / 64) = true → Gives (exec (.homeOperation op) s) fun t => (t.line (op.pa / 64)).snooping = true
      ∧ Instr.homeOperation op ∈ t.parked ∧ t.cores = s.cores ∧ SameBytes s t)
    ∧ (∀ fn b b1 y y1, op.kind = .amo fn b b1 y y1 → op.dev = s.dev → op.core = c → op.ctx = x → s.hostHolds (op.pa / 64) = false →
        op.attr = 3 → s.openCells op.pa (amoSize fn) ≠ [] → k.status = .stalled ∨ k.status = .suspended (.atomic op) →
        Gives (exec (.homeOperation op) s) fun t => AllBut s t c x ∧ SameBytes s t ∧ (t.coreAt c).slot ≠ some x
          ∧ t.ctxAt c x = { k with status := .suspended (.atomic op), asked := s.openCells op.pa (amoSize fn), answers := [], used := (t.ctxAt c x).used }
          ∧ ∀ e ∈ s.openCells op.pa (amoSize fn), ∃ r, Instr.furledRequestAtHome r ∈ t.pending
            ∧ r.pa = e ∧ r.what = .atomic ∧ r.dev = s.dev ∧ r.core = c ∧ r.ctx = x ∧ r.issued = op.issued)
    ∧ (∀ fn w v, op.kind = .red fn w v → s.hostHolds (op.pa / 64) = false → op.attr = 3 → s.openCells op.pa (redBytes w) ≠ [] →
        Gives (exec (.homeOperation op) s) fun t => t.cores = s.cores ∧ SameBytes s t
          ∧ ∃ r, Instr.furledRequestAtHome r ∈ t.pending
            ∧ r.pa = op.pa ∧ r.what = .red fn w v ∧ r.dev = op.dev ∧ r.core = op.core ∧ r.ctx = op.ctx ∧ r.issued = op.issued)
    ∧ (∀ d v, k.status = .stalled → Gives (exec (.homeResponse c x (.value d v)) s) fun t =>
        Answered k .running (k.withX d v) k.rv (t.ctxAt c x) ∧ AllBut s t c x ∧ SameBytes s t)
    ∧ (∀ d lo hi, k.status = .stalled → Gives (exec (.homeResponse c x (.pair d lo hi)) s) fun t =>
        Answered k .running (fun r => if r = d + 1 ∧ r ≠ 0 then hi else k.withX d lo r) k.rv (t.ctxAt c x) ∧ AllBut s t c x ∧ SameBytes s t)
    ∧ (∀ d v cell, k.status = .stalled → Gives (exec (.homeResponse c x (.status d v cell false)) s) fun t =>
        Answered k .running (k.withX d v) k.rv (t.ctxAt c x) ∧ AllBut s t c x ∧ SameBytes s t)
    ∧ (∀ d v cell, k.status = .stalled → Gives (exec (.homeResponse c x (.status d v cell true)) s) fun t =>
        let k1 := if k.evCell.getLsbD 0 = true ∧ k.evCell.extractLsb' 3 54 = cell.extractLsb' 3 54
          then { k with evCell := 0, evChain0 := 0, evChain1 := 0, evChain2 := 0 } else k
        Answered k1 .running (k.withX d v) k.rv (t.ctxAt c x) ∧ AllBut s t c x ∧ SameBytes s t)
    ∧ (∀ q v, (k.status = .stalled ∨ ∃ o, k.status = .suspended (.atomic o)) → exec (.homeResponse c x (.cause q v)) s = .next (s.takeTrapAt c x q v 0))
    ∧ (∀ o d v, k.status = .suspended (.atomic o) → Gives (exec (.homeResponse c x (.value d v)) s) fun t =>
        Answered k .ready (k.withX d v) k.rv (t.ctxAt c x) ∧ AllBut s t c x ∧ SameBytes s t))

/-- 07 R231 to R234, R224, R225, R228: a reduction combines its operand at the core in the scratchpad, in core-owned memory and in a line
that the core holds in M or E; into the core's update-only copy of another coherent line of device memory; and at the home otherwise. The
handler goes on, no longer restartable.
07 R224, R226, 15 R452: the core's part of an update-only line is its old part, or the identity where it held none for this operation and
width, with the operand combined into its element; an element at the identity takes the operand.
07 R215: a reduction with release semantics waits for the operations of its context that are not performed. -/
def Obligations.Reductions : Prop := ∀ (s : State) (i : Instr) (r : ReductionRow) (p : Piece) (q : Place),
  reductionRow i = some r → s.scalar r.a 0 (redBytes r.w) = .ok p → s.access s.cur s.hot true [p] = .ok [q] → ¬ s.groupless r.scope p →
  let z := redBytes r.w
  let v := (s.ctx.rx r.b).toNat % 2 ^ (8 * z)
  (r.release = true → s.unperformed s.cur s.hot = true → Waits s (exec i s))
  ∧ ((r.release = true → s.unperformed s.cur s.hot = false) → Gives (exec i s) fun t => CommittedX s s.ctx.rx t.ctx ∧ Others s t
    ∧ ((∃ o, q = .sp o) ∨ (∃ pa va, q = .phys pa va 0) → StoreFrame s t [(q, toBytes z (r.new (ofBytes (s.readPlace s.cur q z)) v))])
    ∧ ∀ pa va attr, q = .phys pa va attr → attr ≠ 0 →
      let l := pa / 64
      let home := s.ownMem pa = false ∨ s.lineValue l = false ∨ s.armed l = true
      let mine := s.l1State s.cur l = .m ∨ s.l1State s.cur l = .e
      (home → (r.release = false ∨ s.tidy s.cur → SameBytes s t) ∧ ∃ op, Instr.homeOperation op ∈ t.pending ∧ op.core = s.cur ∧ op.pa = pa
        ∧ op.va = va ∧ op.dev = s.dev ∧ op.ctx = s.hot ∧ op.kind = .red r.fn r.w (BitVec.ofNat 64 v))
      ∧ (¬ home → mine → s.openCells pa z = [] → r.release = false ∨ s.tidy s.cur →
          ∀ a, t.mem.byte a = (s.mem.write pa (toBytes z (r.new (s.mem.num pa z) v))).byte a)
      ∧ (¬ home → ¬ mine → (t.line l).uop = r.fn ∧ (t.line l).uw = r.w
          ∧ (let same := (s.line l).uop = r.fn ∧ (s.line l).uw = r.w
            let old := (if same then ((s.line l).u.find? fun h => h.core = s.cur).map fun h => h.part else none).getD (identityPart r.fn r.w)
            let part := fun (j : Nat) => elem old (8 * z) j
            ∃ h ∈ (t.line l).u, h.core = s.cur ∧ ∀ j, j < 64 / z → elem h.part (8 * z) j
              = if j ≠ pa % 64 / z then part j else if part j = redIdentity r.fn r.w then v else r.new (part j) v)
          ∧ ((s.line l).u = [] ∨ ((s.line l).uop = r.fn ∧ (s.line l).uw = r.w) → s.tidy s.cur → SameBytes s t)))

/-- 07 R236 to R241: WAITA suspends its context with the operation its registers give; a wait on the scratchpad or on core-owned memory is
armed by the core, any other one is sent to its home, which wakes it at once when the condition holds and otherwise holds it in its cleat
table, or polls when the table is full.
07 R238 to R241: arming at the home (that of the peer for a word of the peer's memory), the wake with status 0, the expiry after 2^LIMIT
cycles with status 1 unless the condition holds in that cycle or the wake is on its way, and polling when the table was full, which sets
POLLED; a read-shared word is evaluated once. What needs a word that the host holds exclusively asks for it back and waits.
07 R225, 15 R453: arming invalidates every device copy of the line.
07 R237, R238: what each comparison code asks of the word under the mask; a furled cell that is not VALUE fails every comparison. -/
def Obligations.AddressWaits : Prop :=
  (∀ (s : State) (d a b : BitVec 5) (sc : BitVec 4) (w : BitVec 2) (p : Piece) (q : Place),
    let z := if w = 1 then 8 else 4
    s.scalar a 0 z = .ok p → s.reach s.cur s.hot false false [p] = .ok [q] → ¬ s.groupless sc p →
    let k := s.ctx
    let op : WaitaOp := { dev := s.dev, attr := 0, met := none, d := d, va := p.loc.addr, target := .scratch 0, cmp := (k.rx d).extractLsb' 0 3, dword := decide (w = 1), value := k.rx b
                          mask := k.rx (b + 1), scope := sc, limit := (k.rx d).extractLsb' 8 5, issued := s.cyc, polled := false }
    Gives (exec (.waita d a b sc w) s) fun t => SameBytes s t ∧ Others s t ∧ (t.coreAt s.cur).slot ≠ some s.hot
      ∧ (∀ o, q = .sp o → let e := { op with va := 0, target := .scratch o }
          t.ctx = { k with busy := t.ctx.busy, used := t.ctx.used, status := .suspended (.waita e) }
          ∧ ((s.waitHolds s.cur e = true ∧ Instr.waitaWake s.cur s.hot ∈ t.pending) ∨ (s.waitHolds s.cur e = false ∧ (s.cur, s.hot, e) ∈ t.waits)))
      ∧ (∀ pa va attr, q = .phys pa va attr → let e := { op with va := va, target := .phys pa, attr := attr }
          t.ctx = { k with busy := t.ctx.busy, used := t.ctx.used, status := .suspended (.waita e) }
          ∧ (attr = 0 → (s.waitHolds s.cur e = true ∧ Instr.waitaWake s.cur s.hot ∈ t.pending) ∨ (s.waitHolds s.cur e = false ∧ (s.cur, s.hot, e) ∈ t.waits))
          ∧ (attr ≠ 0 → Instr.waitaArm s.cur s.hot ∈ t.pending)))
  ∧ (∀ (s : State) (c : CoreId) (x : CtxId) (w : WaitaOp),
    (s.ctxAt c x).status = .suspended (.waita w) → w.dev = s.dev →
    let k := s.ctxAt c x
    let ends := fun (u : State) (v : Word) (t : State) => Answered k .ready (k.withX w.d v) k.rv (t.ctxAt c x) ∧ AllBut s t c x ∧ SameBytes u t
      ∧ ∀ e ∈ t.waits, ¬ (e.2.2.dev = s.dev ∧ e.1 = c ∧ e.2.1 = x)
    let polled : Word := if w.polled then 2 else 0
    (∀ pa, w.target = .phys pa → s.hostHolds (pa / 64) = false →
      let u := if w.attr = 1 then s else s.armLine (pa / 64)
      let v := s.recall (pa / 64)
      let room := (u.cleatAt pa).length < 64
      (Gives (exec (.waitaArm c x) s) fun t => AllBut s t c x
        ∧ (u.waitHolds c w = true → Instr.waitaWake c x ∈ t.pending)
        ∧ (w.attr = 1 → u.waitHolds c w = false → t = s)
        ∧ (w.attr ≠ 1 → u.waitHolds c w = false → room → (c, x, w) ∈ t.waits ∧ Cleat.waita s.dev c x pa ∈ t.cleatAt pa
            ∧ (if s.peerMem pa then t.clusters = u.clusters else t.peerCleat = u.peerCleat)
            ∧ (t.line (pa / 64)).owner = none ∧ (t.line (pa / 64)).sharers = 0 ∧ ∀ d, t.l1State d (pa / 64) = .i)
        ∧ (w.attr ≠ 1 → u.waitHolds c w = false → ¬ room →
            (t.ctxAt c x).status = .suspended (.waita { w with polled := true }) ∧ Instr.waitaPoll c x ∈ t.pending))
      ∧ (w.polled = true → v.waitHolds c w = true → Gives (exec (.waitaPoll c x) s) (ends v 2))
      ∧ (w.polled = true → v.waitHolds c w = false → exec (.waitaPoll c x) s = .next v))
    ∧ (∀ pa i, w.target = .phys pa → s.hostHolds (pa / 64) = true → i = .waitaArm c x ∨ (i = .waitaPoll c x ∧ w.polled = true) →
        Gives (exec i s) fun t => (t.line (pa / 64)).snooping = true ∧ i ∈ t.parked ∧ t.cores = s.cores ∧ SameBytes s t)
    ∧ Gives (exec (.waitaWake c x) s) (ends s polled)
    ∧ (w.issued + 2 ^ w.limit.toNat ≤ s.cyc → s.wakePending c x = false →
        Gives (exec (.waitaExpiry c x) s) (ends s (if s.waitHolds c w ∧ s.cyc = w.issued + 2 ^ w.limit.toNat ∧ w.attr ≠ 1 then polled else polled + 1))))
  ∧ (∀ (s : State) (c : CoreId) (w : WaitaOp),
    let z := if w.dword then 64 else 32
    let m := w.mask.toNat % 2 ^ z
    let b := (w.value.toNat % 2 ^ z) &&& m
    let n := z / 8
    let signed := fun (y : Nat) => (BitVec.ofNat z y).toInt
    let is := fun (p : Prop) => s.waitHolds c w = true ↔ p
    (s.waitValue c w = none → s.waitHolds c w = false)
    ∧ (∀ o, w.target = .scratch o → s.waitValue c w = some ((s.coreAt c).sp.num o n))
    ∧ (∀ pa, w.target = .phys pa → s.waitValue c w = if s.tag pa ≠ 0 ∧ w.attr = 3 then none
        else some (ofBytes (if w.attr = 0 then s.ownBytes c pa n else s.mem.bytes pa n)))
    ∧ ∀ v, s.waitValue c w = some v →
      let a := v &&& m
      (w.cmp = 0 → is (a = b)) ∧ (w.cmp = 1 → is (a ≠ b)) ∧ (w.cmp = 2 → is (signed a < signed b))
      ∧ (w.cmp = 3 → is (signed b ≤ signed a)) ∧ (w.cmp = 4 → is (a < b)) ∧ (w.cmp = 5 → is (b ≤ a))
      ∧ (w.cmp = 6 → is (a = m)) ∧ (w.cmp = 7 → is (a ≠ m)))

/-- 07 R242, R243, R245: BAR, BARA and VREDG arrive at the phase of their slot when the core has not arrived; BARA goes on, BAR waits for the
phase, VREDG contributes its lanes under its slice and waits; BARW waits for the context's last arrival or goes on at once. An empty slot
raises 0x0C8, a slice above 4,095 0x0C9 without an arrival; of an empty slot and such a slice the model raises 0x0C8 (its choice, log 61).
07 R217: an arrival waits for the operations of its context that are not performed. -/
def Obligations.BarrierInstructions : Prop := ∀ (s : State) (n : BitVec 2) (a b c : BitVec 5) (ty : BitVec 4) (m : Fin 4), m.val = n.toNat →
  let p := s.core.phase[m]
  let arrived := fun (t : State) => (t.coreAt s.cur).arrived[m] = true ∧ (t.coreAt s.cur).phase[m] = p ∧ t.ctx.arrived[m] = some p
    ∧ t.ctx.nonRestart = true
  let kept := fun (t : State) => (∀ r, t.ctx.rx r = s.ctx.rx r) ∧ (∀ r, t.ctx.rv r = s.ctx.rv r) ∧ (∀ r, t.ctx.rk r = s.ctx.rk r)
    ∧ t.ctx.fmt = s.ctx.fmt ∧ Others s t ∧ SameBytes s t
  (s.slotGroup s.cur n.toNat = none → ∀ i ∈ [Instr.bar n, .bara n, .barw n, .vredg a b c ty n], Traps s 0x0C8 (n.zeroExtend 64) (exec i s))
  ∧ ∀ g, s.slotGroup s.cur n.toNat = some g →
    (s.core.arrived[m] = false → s.unperformed s.cur s.hot = true → ∀ i, i = .bar n ∨ i = .bara n ∨ (i = .vredg a b c ty n ∧ (s.ctx.rx c).toNat ≤ 4095) →
      Waits s (exec i s))
    ∧ (s.core.arrived[m] = false → s.unperformed s.cur s.hot = false →
      (Gives (exec (.bara n) s) fun t => arrived t ∧ kept t ∧ (s.ctx.lstat = 0 → t.ctx.pc = va57 (s.ctx.pc + 4)))
      ∧ (Gives (exec (.bar n) s) fun t => arrived t ∧ kept t ∧ t.ctx.status = .suspended (.barrier m p false) ∧ t.ctx.pc = s.ctx.pc)
      ∧ ((s.ctx.rx c).toNat ≤ 4095 → Gives (exec (.vredg a b c ty n) s) fun t => arrived t ∧ kept t
          ∧ t.ctx.status = .suspended (.vredg m p) ∧ t.ctx.pc = s.ctx.pc
          ∧ Instr.vredgContribution g p { core := s.cur, ctx := s.hot, slice := (s.ctx.rx c).toNat, word := decide (ty = 1), data := s.ctx.rv b, dst := a } ∈ t.pending))
    ∧ (s.core.arrived[m] = true → ∀ i, i = .bar n ∨ i = .bara n ∨ (i = .vredg a b c ty n ∧ (s.ctx.rx c).toNat ≤ 4095) →
        Gives (exec i s) fun t => kept t ∧ t.ctx.status = .suspended (.barrier m p true) ∧ t.ctx.pc = s.ctx.pc ∧ t.ctx.nonRestart = s.ctx.nonRestart)
    ∧ (4095 < (s.ctx.rx c).toNat → Traps s 0x0C9 (s.ctx.rx c) (exec (.vredg a b c ty n) s))
    ∧ (s.ctx.arrived[m] = some p → s.core.arrived[m] = true → Gives (exec (.barw n) s) fun t =>
        kept t ∧ t.ctx.status = .suspended (.barrier m p false) ∧ t.ctx.pc = s.ctx.pc)
    ∧ (s.ctx.arrived[m] ≠ some p ∨ s.core.arrived[m] = false → NoneWritten s 4 (exec (.barw n) s))

/-- 07 R242, R244, R245: notifications and reports are recorded once, a gather completes when every member has reported, a completion
advances the phase of the core's slot and releases its waiters.
07 R245, 03 R100: a group reduction gives every contributor the lane sums, wrapping sums of .w and the slice-order tree of .f32, in which a
sum that is a NaN is the canonical one (log 16); it gives all of them 0x0C9 when two name one slice and 0x0CA when the types differ, with
the values of log 22. -/
def Obligations.BarrierProgress : Prop := ∀ (s : State) (g : Fin 256) (k : Group) (phase : BitVec 16) (round rank : Nat) (c : CoreId) (n : Fin 4),
  s.groups[g] = some k →
  ((phase, round, rank) ∉ k.heard → Gives (exec (.barrierNotification g phase round rank) s) fun t =>
    (t.groups[g]).map (·.heard) = some (k.heard ++ [(phase, round, rank)]) ∧ t.cores = s.cores ∧ SameBytes s t)
  ∧ ((phase, 0, rank) ∉ k.heard → Gives (exec (.gatherReport g phase rank) s) fun t =>
      (t.groups[g]).map (·.heard) = some (k.heard ++ [(phase, 0, rank)]) ∧ t.cores = s.cores ∧ SameBytes s t
      ∧ ((∀ r, r < k.members.length → r = rank ∨ (phase, 0, r) ∈ k.heard) → ∀ r q, r < k.members.length → s.memberCore k r = some q →
          Instr.barrierCompletion g phase q ∈ t.pending))
  ∧ (s.slotOf c g = some n → (s.coreAt c).phase[n] = phase → (s.coreAt c).arrived[n] = true →
      Gives (exec (.barrierCompletion g phase c) s) fun t =>
        (t.coreAt c).phase[n] = phase + 1 ∧ (t.coreAt c).arrived[n] = false ∧ SameBytes s t
        ∧ (∀ x again, (s.ctxAt c x).status = .suspended (.barrier n phase again) → (t.ctxAt c x).status = .ready
            ∧ (again = true → (t.ctxAt c x).pc = (s.ctxAt c x).pc) ∧ (again = false → (s.ctxAt c x).lstat = 0 → (t.ctxAt c x).pc = va57 ((s.ctxAt c x).pc + 4)))
        ∧ (k.rank (s.coreAt c).ident.rel = 0 → Instr.vredgResult g phase ∈ t.pending))
  ∧ (∀ e, Gives (exec (.vredgContribution g phase e) s) fun t => (t.groups[g]).map (·.contribs) = some (k.contribs ++ [(phase, e)])
      ∧ t.cores = s.cores ∧ SameBytes s t)
  ∧ (∀ ks : List Contribution, s.contribPending g phase = false → (k.contribs.filter fun f => f.1 = phase).map (·.2) = ks →
      (ks.map fun e => (e.core, e.ctx)).Nodup → (∀ e ∈ ks, ∃ m, (s.ctxAt e.core e.ctx).status = .suspended (.vredg m phase)) →
      let named := fun (v : Nat) => (ks.filter fun e => e.slice = v).length
      let gone := s.modGroup g fun h => { h with contribs := h.contribs.filter fun f => f.1 ≠ phase }
      let ends := fun (cause : BitVec 9) (v : Word) =>
        exec (.vredgResult g phase) s = .next (ks.foldl (fun t e => t.takeTrapAt e.core e.ctx cause v 0) gone)
      ((∀ v, named v ≤ 1) → (∀ e ∈ ks, ∀ f ∈ ks, e.word = f.word) → Gives (exec (.vredgResult g phase) s) fun t => ∃ r,
        (∀ e ∈ ks, Answered (s.ctxAt e.core e.ctx) .ready (s.ctxAt e.core e.ctx).rx ((s.ctxAt e.core e.ctx).withV e.dst r) (t.ctxAt e.core e.ctx))
        ∧ (∀ d y, (d, y) ∉ ks.map (fun e => (e.core, e.ctx)) → t.ctxAt d y = s.ctxAt d y) ∧ SameBytes s t
        ∧ ((∀ e ∈ ks, e.word = true) → ∀ i, i < 16 → elem r 32 i = (ks.map fun e => elem e.data 32 i).sum % 2 ^ 32)
        ∧ ((∀ e ∈ ks, e.word = false) → ks ≠ [] → ∀ i l, i < 16 → (∀ e ∈ ks, e.slice < 2 ^ l) →
            let sum := (sliceNode (fun j => (ks.find? fun e => e.slice = j).map fun e => elem e.data 32 i) l 0).getD 0
            elem r 32 i = if (fp32.value sum).isNan then fp32.nan else sum))
      ∧ (∀ v, 2 ≤ named v → (∀ u, u < v → named u ≤ 1) → ends 0x0C9 (BitVec.ofNat 64 v))
      ∧ ((∀ v, named v ≤ 1) → (∃ e ∈ ks, e.word = true) → (∃ e ∈ ks, e.word = false) → ends 0x0CA 0))

/-- 08 R255, R257, R274 to R276: SEND and SPAWN with a legal header take one send-buffer entry that holds the record with fmt.XT and no other
hardware field; an illegal header raises 0x0C5, a full share 0x0C6; FLUSH makes the handler non-restartable and waits for its entries.
08 R250, R275: exactly when the header of SEND is legal: CONT and REPLY 0, a valid class, unit 0, a core of the launch in this package or a
trained peer, within the class's REACH (one of 9 to 15, which the spec does not give, reaches as 6, log 58; 0x3FF names the link die, log 23);
and that of SPAWN.
08 R251, R277: CLSEN and CLSDIS set and clear one bit of the core's class enable register; CLSPEND reads the classes that are disabled
and have a message in the mailbox that has not started (log 24). -/
def Obligations.SendInstructions : Prop :=
  (∀ (s : State) (a : BitVec 5) (task : Bool) (i : Instr),
    (task = false ∧ i = .send a) ∨ (task = true ∧ i = .spawn a) →
    let w := s.ctx.rv a
    let ok := if task then s.spawnOk s.cur w else s.sendOk s.cur w
    (ok = true → s.core.sendRoom s.hot = true → Gives (exec i s) fun t => Plain s 4 t.ctx ∧ Others s t ∧ SameBytes s t
      ∧ ∃ e : SendEntry, (t.coreAt s.cur).net.sendBuf = s.core.net.sendBuf ++ [e] ∧ e.ctx = s.hot ∧ e.task = task
        ∧ (∀ j, 0 < j → j < 8 → Msg.word e.word j = Msg.word w j)
        ∧ Msg.word e.word 0 = (Msg.word w 0 &&& 0xFFFFFFFF0000000F) ||| (if s.ctx.xt then 16 else 0))
    ∧ (ok = false → Traps s 0x0C5 (Msg.word w 0) (exec i s))
    ∧ (ok = true → s.core.sendRoom s.hot = false → Traps s 0x0C6 (BitVec.ofNat 64 (s.sendsOf s.cur s.hot).length) (exec i s))
    ∧ (s.sendsOf s.cur s.hot = [] → Gives (exec .flush s) fun t => CommittedX s s.ctx.rx t.ctx ∧ OnlyHot s t ∧ SameBytes s t)
    ∧ (s.sendsOf s.cur s.hot ≠ [] → Gives (exec .flush s) fun t =>
        t.ctx = { s.ctx with busy := t.ctx.busy, nonRestart := true, status := .flushing } ∧ OnlyCtx s t ∧ SameBytes s t
        ∧ Instr.sendCommit s.cur s.hot ∈ t.pending))
  ∧ (∀ (s : State) (w : Msg),
    let h := Msg.word w 0
    let e := s.classEntry s.core.ident.pasid (h.extractLsb' 58 6).toNat
    let reach := (e.extractLsb' 2 4).toNat
    let dest := (h.extractLsb' 35 10).toNat
    let row := fun (d : CoreId) => d.val / 4 / 16
    let col := fun (d : CoreId) => d.val / 4 % 16
    let within := fun (d : CoreId) => (reach = 0 → d = s.cur) ∧ (reach = 1 → d.val / 4 = s.cur.val / 4)
      ∧ (reach = 2 → ∃ g k, s.slotGroup s.cur 0 = some g ∧ s.groups[g] = some k ∧ (s.coreAt d).ident.rel ∈ k.members)
      ∧ (reach = 3 → row d / 4 = row s.cur / 4 ∧ col d / 4 = col s.cur / 4)
      ∧ (reach = 4 → row d / 8 = row s.cur / 8 ∧ col d / 8 = col s.cur / 8)
    (s.sendOk s.cur w = true ↔ h.getLsbD 0 = false ∧ h.getLsbD 1 = false ∧ e.getLsbD 31 = true ∧ h.extractLsb' 32 3 = 0 ∧ dest ≠ 0x3FF
      ∧ ∃ l, s.launchOf s.cur = some l ∧ dest < l.cores.length
        ∧ (h.extractLsb' 45 1 = s.dev → ∃ d, l.cores[dest]? = some d ∧ within d)
        ∧ (h.extractLsb' 45 1 ≠ s.dev → s.peerTrained = true ∧ 6 ≤ reach))
    ∧ (s.spawnOk s.cur w = true ↔ h.getLsbD 0 = false ∧ h.getLsbD 1 = false ∧ h.extractLsb' 2 2 = 0 ∧ e.getLsbD 31 = true))
  ∧ (∀ (s : State) (n : BitVec 6) (d : BitVec 5),
    let en := fun (f : Nat → Bool) (o : Out) => Gives o fun t => Plain s 4 t.ctx ∧ Others s t ∧ SameBytes s t
      ∧ ∀ i, i < 64 → (t.coreAt s.cur).net.clsen.getLsbD i = f i
    en (fun i => if i = n.toNat then true else s.core.net.clsen.getLsbD i) (exec (.clsen n) s)
    ∧ en (fun i => if i = n.toNat then false else s.core.net.clsen.getLsbD i) (exec (.clsdis n) s)
    ∧ ∃ w, XWritten s 4 d w (exec (.clspend d) s) ∧ ∀ i, i < 64 → (w.getLsbD i = true ↔ s.core.net.clsen.getLsbD i = false
        ∧ ∃ e ∈ s.core.net.mailbox, e.started = none ∧ (∀ pc, e.kind ≠ .direct pc) ∧ ((Msg.word e.word 0).extractLsb' 58 6).toNat = i))

/-- 08 R256, R263, R265: a commit gives each entry of a context its message id, its sender and device, in order: a message enters the retry
buffer and leaves, a task enters the deque, once what it releases is performed; when all are committed END frees the context and FLUSH
goes on.
08 R268, R269, 09 R303: a packet as it is injected has the partition of its launch's PASID, the half that its launch is, and in compatibility
mode the parity of source, destination and class as its order (that of the link die goes X first, log 54).
08 R268, R270, R272, R273, 14 R440: a drain stops the injection of a partition, and when none of the packets that were in the mesh then is
under way its routes, its classes and its mode are the new ones and injection resumes; an escape of a class queue that holds a packet, without
real-time class, is counted by its input and marked; a packet for another partition is dropped, counted and refused; a packet that crosses
into or out of a Mizzen column and that no firewall entry admits is dropped and counted. -/
def Obligations.CommitsAndRouterEvents : Prop :=
  (∀ (s : State) (c : CoreId) (x : CtxId) (e : SendEntry) (lid : Nat),
    let k := s.coreAt c
    let h := Msg.word e.word 0
    let release := e.task = true ∨ h.extractLsb' 2 2 ≠ 0
    s.sendsOf c x = [e] → k.net.sendBuf = [e] → k.ident.lid = some lid → k.net.retryBuf.length < 64 → (e.task = true → k.net.deque.length < 32) →
    (release → s.unperformed c x = true → exec (.sendCommit c x) s = .next s)
    ∧ ((release → s.unperformed c x = false) → Gives (exec (.sendCommit c x) s) fun t => (¬ release ∨ s.tidy c → SameBytes s t) ∧ t.sendsOf c x = []
        ∧ ((s.ctxAt c x).status = .ending → (t.ctxAt c x).status = .free) ∧ ((s.ctxAt c x).status = .flushing → (t.ctxAt c x).status = .running)
        ∧ (t.coreAt c).net.mid = k.net.mid + 1
        ∧ (e.task = false → ∃ p, (t.coreAt c).net.retryBuf = k.net.retryBuf ++ [{ pkt := p, refusals := 0, backoff := 0, held := false, since := 0, barred := s.stopped lid }]
            ∧ p.lid = lid ∧ p.src = .core s.dev k.ident.rel ∧ p.dst = h.extractLsb' 35 10 ∧ (∀ j, 0 < j → j < 8 → Msg.word p.word j = Msg.word e.word j)
            ∧ (Msg.word p.word 0).extractLsb' 16 16 = k.net.mid ∧ (Msg.word p.word 0).extractLsb' 6 10 = k.ident.rel
            ∧ (Msg.word p.word 0).extractLsb' 5 1 = s.dev ∧ (Msg.word p.word 0).extractLsb' 32 32 = h.extractLsb' 32 32
            ∧ (h.extractLsb' 45 1 = s.dev → h.extractLsb' 32 3 = 0 → s.stopped lid = false → Instr.messageArrival (s.injected p) ∈ t.pending)
            ∧ (h.extractLsb' 45 1 ≠ s.dev → h.extractLsb' 32 3 = 0 → s.stopped lid = false → s.peerTrained = true →
                Instr.messageArrival (s.injected p) ∈ t.peerOut))
        ∧ (e.task = true → ∃ r, (t.coreAt c).net.deque = k.net.deque ++ [r] ∧ r.returns = 0 ∧ (Msg.word r.word 0).extractLsb' 35 10 = k.ident.rel
            ∧ (Msg.word r.word 0).extractLsb' 32 3 = 0 ∧ (Msg.word r.word 0).extractLsb' 45 1 = s.dev)))
  ∧ (∀ (s : State) (p : Packet) (l : Launch), s.launch? p.lid = some l →
    let q := s.injected p
    q.word = p.word ∧ q.lid = p.lid ∧ q.src = p.src ∧ q.dst = p.dst ∧ q.kind = p.kind ∧ q.part = (s.space l.pasid).partition
    ∧ (∀ h, q.half = some h ↔ l.queue = h.queue ∧ l.pairIndex = some h.index)
    ∧ (∀ d r c e, p.src = .core d r → l.cores[r.toNat]? = some c → (Msg.word p.word 0).extractLsb' 45 1 = s.dev → d = s.dev →
        p.dst ≠ 0x3FF → l.cores[p.dst.toNat]? = some e → q.yFirst
          = decide (((List.range 64).filter fun i => Nat.testBit (c.val ^^^ e.val ^^^ ((Msg.word p.word 0).extractLsb' 58 6).toNat) i).length % 2 = 1))
    ∧ (p.src = .linkDie → q.yFirst = false))
  ∧ (∀ (s : State) (part : BitVec 4) (new : PartTables) (r : Fin 288)
      (inp : Fin 5) (q : Fin 8) (p : Packet) (kind : Fin 7) (src dst : BitVec 11),
    let at' := fun (t : State) => t.partitions[part.toNat]'part.isLt
    let inside := if (at' s).stopped then (at' s).inside else (s.pending ++ s.parked).filter (s.inPartition part)
    let busy := ∃ i ∈ s.pending ++ s.parked, i ∈ inside
    (¬ busy → Gives (exec (.drainAndSwap part new) s) fun t => (at' t).classes = new.classes
      ∧ (at' t).compat = new.compat ∧ (at' t).stopped = false ∧ (at' t).inside = [] ∧ SameBytes s t ∧ (∀ d y, t.ctxAt d y = s.ctxAt d y)
      ∧ ((new.routes.map fun e => (e.1, e.2.1)).Nodup → ∀ e ∈ new.routes, e.2.1 / 2048 = part.toNat →
          Sparse.get none (t.routers[e.1]).routes e.2.1 = some e.2.2)
      ∧ ∀ n m, m / 2048 ≠ part.toNat → Sparse.get none (t.routers[(n : Fin 288)]).routes m = Sparse.get none (s.routers[n]).routes m)
    ∧ (busy → Gives (exec (.drainAndSwap part new) s) fun t =>
        Instr.drainAndSwap part new ∈ t.parked ∧ at' t = { at' s with stopped := true, inside := inside } ∧ t.cores = s.cores ∧ t.routers = s.routers)
    ∧ (s.rtQueue q = false → (r, inp, q) ∉ s.escaped → s.queueHolds (r, inp, q) = true → Gives (exec (.escapeRecovery r inp q) s) fun t => (r, inp, q) ∈ t.escaped
        ∧ (∀ n : Fin 5, (t.routers[r]).recoveries[n] = (s.routers[r]).recoveries[n] + if n = inp then 1 else 0) ∧ t.cores = s.cores ∧ SameBytes s t)
    ∧ (s.rtQueue q = true ∨ s.queueHolds (r, inp, q) = false → exec (.escapeRecovery r inp q) s = .next s)
    ∧ (∀ c, arrivalOf p ∈ s.pending → p.dst ≠ 0x3FF → s.receiver p = some c → (s.space (s.coreAt c).ident.pasid).partition = p.part →
        exec (.partitionDrop r p) s = .next s)
    ∧ (p.dst = 0x3FF → exec (.partitionDrop r p) s = .next s)
    ∧ (∀ c, arrivalOf p ∈ s.pending → p.dst ≠ 0x3FF → s.receiver p = some c → (s.space (s.coreAt c).ident.pasid).partition ≠ p.part →
        (∀ d e, p.src = .core d e → d = s.dev) → Gives (exec (.partitionDrop r p) s) fun t =>
        t.pending = s.pending.erase (arrivalOf p) ++ [.partitionRefusal p.lid p.src (packetMid p)] ∧ (t.routers[r]).drops = (s.routers[r]).drops + 1
        ∧ t.cores = s.cores ∧ SameBytes s t)
    ∧ (let admitted := ∃ e ∈ (s.routers[r]).firewall.toList, e.getLsbD 63 = true ∧ e.getLsbD (56 + kind.val) = true
          ∧ (e.extractLsb' 0 11 = src ∨ e.extractLsb' 0 11 = dst)
      let crosses := s.mizzenPhys src ≠ s.mizzenPhys dst
      (s.mizzenRouter r = true → crosses → ¬ admitted → Gives (exec (.firewallDrop r kind src dst) s) fun t =>
          (t.routers[r]).fireDrops = (s.routers[r]).fireDrops + 1 ∧ t.cores = s.cores ∧ SameBytes s t)
      ∧ (s.mizzenRouter r = false ∨ ¬ crosses ∨ admitted → exec (.firewallDrop r kind src dst) s = .next s)))

/-- 08 R253, R258, R259, 09 R302, 14 R437: an arriving message of a running launch enters the mailbox of its core and is acknowledged; one
behind an earlier refusal of its sender, or that finds 64 entries, is refused; one whose XT differs or whose handler is bad is dropped and
acknowledged; a core of a gang that is pre-empted refuses without counting. One whose handler's page is away waits (log 17).
08 R248, R258, 09 R303: a message of the peer is for the half that is paired with its sender's launch (log 49), and its answer leaves over the
stay link; one for a half that this package has yet to place is refused without counting, and one for a launch that has ended is discarded. -/
def Obligations.MessageArrivals : Prop := (∀ (s : State) (p : Packet) (l : Launch) (c : CoreId),
  s.launchFor p = some l → l.core? p.dst.toNat = some c → packetUnit p = 0 →
  let k := s.coreAt c
  let own := ∀ d r, p.src = .core d r → d = s.dev
  let said := fun (i : Instr) (t : State) => (own → i ∈ t.pending) ∧ (¬ own → s.peerTrained = true → i ∈ t.peerOut)
  let ack := Instr.acknowledgement p.lid p.src (packetMid p)
  let nack := fun (n : Bool) => Instr.nack p.lid p.src (packetMid p) n
  let xt := decide (Msg.field p.word 4 4 = 1)
  (l.phase = .running → s.forwarder c = none → k.net.refusing = false → xt = k.ident.xt → s.mailAway c p = false →
    (∀ pc, s.entryPc c p = some pc →
      (nackBlocks k.net.nacks 0 p.src (packetMid p) = false → k.net.mailbox.length < 64 → Gives (exec (.messageArrival p) s) fun t =>
        said ack t ∧ SameBytes s t ∧ nackOf (t.coreAt c).net.nacks 0 p.src = none ∧ (∀ d y, t.ctxAt d y = s.ctxAt d y)
        ∧ ∃ e : MailEntry, (t.coreAt c).net.mailbox = k.net.mailbox ++ [e] ∧ e.word = p.word ∧ e.kind = p.kind ∧ e.pc = pc ∧ e.returns = 0 ∧ e.started = none
          ∧ e.prio = (match p.kind with
            | .direct _ => 3
            | _ => s.prioOf c p.word))
      ∧ (nackBlocks k.net.nacks 0 p.src (packetMid p) = true ∨ 64 ≤ k.net.mailbox.length → Gives (exec (.messageArrival p) s) fun t =>
        said (nack true) t ∧ SameBytes s t ∧ (t.coreAt c).net.mailbox = k.net.mailbox ∧ nackOf (t.coreAt c).net.nacks 0 p.src ≠ none))
    ∧ (s.entryPc c p = none → Gives (exec (.messageArrival p) s) fun t => said ack t ∧ SameBytes s t ∧ (t.coreAt c).net.mailbox = k.net.mailbox))
  ∧ (l.phase = .running → s.forwarder c = none → k.net.refusing = false → xt ≠ k.ident.xt → Gives (exec (.messageArrival p) s) fun t =>
      said ack t ∧ SameBytes s t ∧ (t.coreAt c).net.mailbox = k.net.mailbox)
  ∧ (l.phase ≠ .running → Gives (exec (.messageArrival p) s) fun t => said (nack false) t ∧ SameBytes s t ∧ (t.coreAt c).net.mailbox = k.net.mailbox)
  ∧ (l.phase = .running → s.forwarder c = none → k.net.refusing = false → xt = k.ident.xt → s.mailAway c p = true →
    Gives (exec (.messageArrival p) s) fun t => Instr.messageArrival p ∈ t.parked ∧ t.cores = s.cores ∧ SameBytes s t)
  ∧ (∀ src, l.phase = .running → s.forwarder c = some src → Gives (exec (.messageArrival p) s) fun t =>
      Instr.migrationForward src p ∈ t.pending ∧ t.cores = s.cores ∧ SameBytes s t))
  ∧ ∀ (s : State) (p : Packet),
    let own := ∀ d r, p.src = .core d r → d = s.dev
    (own → s.launchFor p = s.launch? p.lid)
    ∧ (¬ own → ∀ l, s.launchFor p = some l → l ∈ s.launches ∧ ∃ h, p.half = some h ∧ l.queue = h.queue ∧ l.pairIndex = some h.index)
    ∧ (s.launchFor p = none → Gives (exec (.messageArrival p) s) fun t => t.cores = s.cores ∧ SameBytes s t ∧ t.pending = s.pending
      ∧ (own → t.peerOut = s.peerOut)
      ∧ (¬ own → ∀ h, p.half = some h → s.peerTrained = true → t.peerOut
          = s.peerOut ++ (if Sparse.get 0 s.pairCounts h.queue.toNat ≤ h.index then [.nack p.lid p.src (packetMid p) false] else [])))

/-- 04 R114, R115, R142, R144, R147, 01 R37, 02 R54, 08 R252, 14 R421, R422: the free slot of a core that may run goes, once the cycles of its last
instruction are over, to its next ready context, whose USED restarts, and whose YIELD falls through (the one that gave up the slot by YIELD
only when there is no other work); else its lowest free context starts the oldest trap record that has not started, or the eligible message: x16 is its header, x17
to x23 its payload words, x2 the stack, and every other register its reset value; its first instruction issues 3 cycles later. -/
def Obligations.SlotHandoffs : Prop := ∀ (s : State) (c : CoreId) (x : CtxId),
  let k := s.coreAt c
  k.slot = none → s.mayRun c = true →
  let turn := max s.cyc k.next
  let starts := fun (w : Msg) (t : State) => (t.coreAt c).slot = some x ∧ (∀ d y, d ≠ c ∨ y ≠ x → t.ctxAt d y = s.ctxAt d y) ∧ SameBytes s t
    ∧ (t.ctxAt c x).status = .running ∧ (t.ctxAt c x).budget = k.ident.budget ∧ t.usedOf (t.ctxAt c x) = 0 ∧ (t.ctxAt c x).busy = turn + 3 ∧ (t.ctxAt c x).lstat = 0
    ∧ (t.ctxAt c x).rx 2 = k.ident.stack ∧ (t.ctxAt c x).rx 16 = Msg.word w 0
    ∧ (∀ j, 1 ≤ j → j ≤ 7 → (t.ctxAt c x).rx (BitVec.ofNat 5 (16 + j)) = Msg.word w j)
    ∧ (∀ r : BitVec 5, r ≠ 2 → r.toNat < 16 ∨ 23 < r.toNat → (t.ctxAt c x).rx r = 0) ∧ (∀ r, (t.ctxAt c x).rv r = 0)
    ∧ (t.ctxAt c x).fmt = (if k.ident.xt then 0x500 else 0x400)
  (k.readyCtx = some x ∨ (k.readyCtx = none ∧ k.freeCtx.bind (s.newWork c) = none ∧ x = k.last ∧ (s.ctxAt c x).status = .ready) →
    Gives (exec (.issueSlotHandoff c) s) fun t => (t.coreAt c).slot = some x
    ∧ ((s.ctxAt c x).falls = 0 → t.ctxAt c x = { s.ctxAt c x with status := .running, since := turn, busy := turn })
    ∧ ((s.ctxAt c x).falls ≠ 0 → t.ctxAt c x = { (s.ctxAt c x).retire (s.ctxAt c x).falls
        (va57 ((s.ctxAt c x).pc + BitVec.ofNat 64 (s.ctxAt c x).falls)) with status := .running, since := turn, busy := turn, falls := 0 })
    ∧ AllBut s t c x ∧ SameBytes s t)
  ∧ (∀ r, k.readyCtx = none → k.freeCtx = some x → k.net.trapq.find? (fun e => e.started.isNone) = some r →
      Gives (exec (.issueSlotHandoff c) s) fun t => starts r.word t ∧ (t.ctxAt c x).pc = r.pc ∧ (t.ctxAt c x).tcause = Msg.word r.word 1
        ∧ (t.ctxAt c x).tpc = Msg.word r.word 2 ∧ (t.ctxAt c x).tval = Msg.word r.word 3 ∧ (t.ctxAt c x).tmsg = Msg.word r.word 5)
  ∧ (∀ m, k.readyCtx = none → k.freeCtx = some x → (∀ e ∈ k.net.trapq, e.started ≠ none) → k.net.mailbox = [m] → k.eligible m = true →
      m.kind = .plain → (k.net.deque = [] ∨ k.net.reloading = true) → Gives (exec (.issueSlotHandoff c) s) fun t =>
        starts m.word t ∧ (t.ctxAt c x).pc = m.pc ∧ (t.ctxAt c x).tcause = 0 ∧ (t.ctxAt c x).tpc = 0 ∧ (t.ctxAt c x).tval = 0
        ∧ (t.ctxAt c x).tmsg = 0 ∧ (t.ctxAt c x).evCell = 0 ∧ (t.coreAt c).net.mailbox = [{ m with started := some x }])
  ∧ (k.readyCtx = none → (k.freeCtx.bind (s.newWork c)) = none → k.ctxs[k.last].status ≠ .ready → exec (.issueSlotHandoff c) s = .next s)

/-- 08 R258, R259, R273: an acknowledgement frees the retry-buffer entry of its message; a refusal makes it wait for its back-off, which doubles
from 64 cycles, or drops it after the last resend; a resend leaves once the back-off has passed; a partition refusal drops it.
08 R264 to R267: a reload takes the newest 16 spilled records, no more than there is room for (log 73); an idle core asks a member of its
steal domain chosen by its LFSR (whatever the length of its idleness, log 51); a victim gives the bottom half of its records, rounded up, or none of fewer than two; the thief pushes them oldest first. -/
def Obligations.RetryDequeAndSteal : Prop :=
  (∀ (s : State) (c : CoreId) (lid : Nat) (rel : BitVec 10) (e : RetryEntry) (counted : Bool),
    let k := s.coreAt c
    let p := Party.core s.dev rel
    let mid := packetMid e.pkt
    s.member lid rel = some c → e.pkt.lid = lid → k.net.retryBuf = [e] →
    (Gives (exec (.acknowledgement lid p mid) s) fun t => (t.coreAt c).net.retryBuf = [] ∧ SameBytes s t ∧ ∀ d y, t.ctxAt d y = s.ctxAt d y)
    ∧ (counted = true → e.refusals < s.retryLimit → Gives (exec (.nack lid p mid true) s) fun t => SameBytes s t
        ∧ (t.coreAt c).net.retryBuf = [{ e with refusals := e.refusals + 1, held := true, since := s.cyc
                                                backoff := if e.backoff = 0 then 64 else min 65536 (2 * e.backoff) }])
    ∧ (Gives (exec (.nack lid p mid false) s) fun t => SameBytes s t ∧ (t.coreAt c).net.retryBuf = [{ e with held := true, since := s.cyc }])
    ∧ (s.retryLimit ≤ e.refusals → Gives (exec (.nack lid p mid true) s) fun t => (t.coreAt c).net.retryBuf = [] ∧ SameBytes s t)
    ∧ (e.held = true → e.since + e.delay ≤ s.cyc → Gives (exec (.retryResend lid p mid) s) fun t =>
        (t.coreAt c).net.retryBuf = [{ e with held := false, barred := s.stopped lid }] ∧ SameBytes s t
        ∧ (s.stopped lid = false → packetUnit e.pkt = 0 → s.isHere e.pkt = true → Instr.messageArrival (s.injected e.pkt) ∈ t.pending))
    ∧ (Gives (exec (.partitionRefusal lid p mid) s) fun t => (t.coreAt c).net.retryBuf = [] ∧ SameBytes s t))
  ∧ (∀ (s : State) (c v : CoreId) (ts : List Task),
    let n := (s.coreAt c).net
    let l := lfsrNext n.lfsr
    let room := min (min 16 n.spilled) (32 - n.deque.length)
    (n.reloading = true → ∀ rs, s.spilledTasks c (n.spilled - room) room = some rs →
      Gives (exec (.dequeReload c) s) fun t => (t.coreAt c).net.deque = rs ++ n.deque ∧ (t.coreAt c).net.spilled = n.spilled - room
        ∧ (t.coreAt c).net.reloading = false ∧ SameBytes s t)
    ∧ ((s.coreAt c).isIdle = true → 1 < (s.stealDomain c).length → (s.stealDomain c)[l.toNat % (s.stealDomain c).length]? = some v → v ≠ c →
        Gives (exec (.stealRequest c) s) fun t => Instr.stealRequestArrival v c ∈ t.pending ∧ (t.coreAt c).net.lfsr = l
          ∧ (t.coreAt c).net.stealing = true ∧ SameBytes s t)
    ∧ (let d := (s.coreAt v).net.deque
        let m := if d.length < 2 then 0 else (d.length + 1) / 2
        Gives (exec (.stealRequestArrival v c) s) fun t => (t.coreAt v).net.deque = d.drop m ∧ Instr.stealReply c (d.take m) ∈ t.pending ∧ SameBytes s t)
    ∧ (n.deque.length + ts.length ≤ 32 → Gives (exec (.stealReply c ts) s) fun t => (t.coreAt c).net.deque = n.deque ++ ts
        ∧ (t.coreAt c).net.stealing = false ∧ SameBytes s t))

/-- 08 R278 to R280: a ring instruction on a descriptor that keeps the ring rules leaves for its home and holds the slot; a scratchpad pointer
or a bad descriptor raises 0x0C2 (a ring has at least 8 slots, log 47); QPUSH and QEOS wait for the operations of their context that are
not performed (R282).
08 R280: at its home an operation that can complete is answered, and one that cannot is parked while the cleat table has room; QPUSH and
QEOS complete when the ring has a free slot, QPOP when it holds an element or when every producer has ended. A slot in a page that is not
granted is a fault of the operation's context (log 62).
08 R278, R280: what an operation writes at its home: QPUSH the element, a clear token and TAIL, QEOS a set token and TAIL, QPOP HEAD and, for
each token that it removes, EOSSEEN; one that waits or finds no room writes no more. What an expired QPOP has removed is put back while HEAD
has not moved on (R281; log 66).
08 R280 to R282: the answer of a ring operation ends its instruction, with QPOP's element in v[a] and 0 or 1 in x[c], and its handler is
non-restartable; a parked one suspends its context; a resend leaves again; after 2^LIM cycles a waiting one raises 0x0C0 or 0x0C1. -/
def Obligations.RingQueues : Prop :=
  (∀ (s : State) (a b c lim : BitVec 5) (op : BitVec 2) (i : Instr) (va : Word) (pa : Nat),
    (op = 0 ∧ i = .qpush a b lim) ∨ (op = 1 ∧ i = .qpop a b c lim) ∨ (op = 2 ∧ i = .qeos b lim) →
    (∀ o, eff s.core.ident.rel (s.ctx.rx b) 0 = .ok (.sp o) → Traps s 0x0C2 (BitVec.ofNat 64 o) (exec i s))
    ∧ (let r := s.region s.core.ident.pasid va
      eff s.core.ident.rel (s.ctx.rx b) 0 = .ok (.mem va) → s.translate s.cur va true = some pa → s.noPeer pa = false →
      (s.firmwareCore s.cur = true ∨ r.attr ≠ 0 ∨ (r.owner = s.cur.val ∧ r.odev = s.dev)) →
      let bad := r.attr ≠ 2 ∨ s.ownMem pa = false ∨ va.toNat % 64 ≠ 0 ∨ ringOk (BitVec.ofNat 512 ((s.recall (pa / 64)).mem.num pa 64)) = false
      (bad → Traps s 0x0C2 va (exec i s))
      ∧ (¬ bad → s.homeBusy s.cur s.hot = false → s.hostHolds (pa / 64) = false → op ≠ 1 → s.unperformed s.cur s.hot = true → Waits s (exec i s))
      ∧ (¬ bad → s.homeBusy s.cur s.hot = false → s.hostHolds (pa / 64) = false → (op ≠ 1 → s.unperformed s.cur s.hot = false) → Gives (exec i s) fun t =>
          t.ctx = { s.ctx with busy := t.ctx.busy, status := .stalled } ∧ OnlyCtx s t ∧ (op = 1 ∨ s.tidy s.cur → SameBytes s t)
          ∧ ∃ r, Instr.ringOpAtHome r ∈ t.pending ∧ r.core = s.cur ∧ r.ctx = s.hot ∧ r.op = op ∧ r.va = va ∧ r.pa = pa
            ∧ (op = 0 → r.data = s.ctx.rv a) ∧ (op = 1 → r.a = a ∧ r.c = c) ∧ r.lim = lim ∧ r.issued = s.cyc)))
  ∧ (∀ (s : State) (op : RingOp),
    let u := s.claimHome (op.pa / 64)
    let r := ringOf (BitVec.ofNat 512 (u.mem.num op.pa 64))
    let q : RingAt := { pa := op.pa, pasid := (u.coreAt op.core).ident.pasid, ring := r }
    (s.ringHeld op ≠ [] → Gives (exec (.ringOpAtHome op) s) fun t => Instr.ringOpAtHome op ∈ t.parked ∧ t.cores = s.cores ∧ SameBytes s t
      ∧ ∀ l ∈ s.ringHeld op, (t.line l).snooping = true)
    ∧ (∀ ans, s.ringHeld op = [] → (u.ringTry none op).2 = some ans → Gives (exec (.ringOpAtHome op) s) fun t => Instr.ringAnswer op.core op.ctx ans ∈ t.pending)
    ∧ (s.ringHeld op = [] → (u.ringTry none op).2 = none → (((u.ringTry none op).1.clusters[(u.ringTry none op).1.homeCluster op.pa])).cleat.length < 64 →
        Gives (exec (.ringOpAtHome op) s) fun t => Instr.ringAnswer op.core op.ctx (.parked op) ∈ t.pending)
    ∧ (s.ringHeld op = [] → (u.ringTry none op).2 = none → 64 ≤ (((u.ringTry none op).1.clusters[(u.ringTry none op).1.homeCluster op.pa])).cleat.length →
        Gives (exec (.ringOpAtHome op) s) fun t => op ∈ (t.coreAt op.core).net.rings)
    ∧ (let free := fun (va : Word) (w : Bool) => (u.region q.pasid va).attr = 2 ∧ ∃ p, u.hostPhys q.pasid va w = some p ∧ u.noPeer p = false
      let lost := fun (va : Word) (w : Bool) => (u.region q.pasid va).attr = 2 ∧ u.hostPhys q.pasid va w = none
      (op.op ≠ 1 → r.count < r.cap → (op.op = 0 → free (r.slotVa r.tail) true) → free (r.tokenVa r.tail) true → (u.ringTry none op).2 = some .done)
      ∧ (op.op ≠ 1 → r.cap ≤ r.count → u.ringTry none op = (u, none))
      ∧ (op.op = 0 → r.count < r.cap → lost (r.slotVa r.tail) true → u.ringTry none op = (u, some (.fault (r.slotVa r.tail) true)))
      ∧ (op.op = 1 → 0 < r.count → free (r.tokenVa r.head) false → u.token q r.head = false → free (r.slotVa r.head) false → (u.ringTry none op).2
          = some (.popped (BitVec.ofNat 512 ((u.readVa q.pasid (r.slotVa r.head) r.esize).getD 0)) op))
      ∧ (op.op = 1 → 0 < r.count → free (r.tokenVa r.head) false → u.token q r.head = false → lost (r.slotVa r.head) false →
          u.ringTry none op = (u, some (.fault (r.slotVa r.head) false)))
      ∧ (op.op = 1 → r.count = 0 → (u.ringTry none op).2 = if r.producers ≤ r.eosSeen then some (.ended op) else none)))
  ∧ (∀ (s : State) (op : RingOp),
    let pasid := (s.coreAt op.core).ident.pasid
    let d := BitVec.ofNat 512 (s.mem.num op.pa 64)
    let head := Msg.field d 31 0 + Msg.field d 256 256 * 2 ^ 32
    let tail := Msg.field d 63 32 + Msg.field d 257 257 * 2 ^ 32
    let cap := Msg.field d 127 64
    let size := Msg.field d 135 128
    let seen := Msg.field d 447 384
    let held := fun (h : Nat) => (tail + 2 ^ 33 - h) % 2 ^ 33
    let slot := fun (i : Nat) => BitVec.ofNat 64 (Msg.field d 255 192 + i % cap * size)
    let mark := fun (i : Nat) => BitVec.ofNat 64 (Msg.field d 255 192 + cap * size + i % cap / 8)
    let isAt := fun (va : Word) (p : Nat) => (s.region pasid va).attr = 2 ∧ s.noPeer p = false ∧ s.hostPhys pasid va true = some p ∧ s.hostPhys pasid va false = some p
    let bit := fun (m : Mem) (p i : Nat) => (m.byte p).getLsbD (i % cap % 8)
    let desc := fun (h n e : Nat) (m : Mem) => ((m.write op.pa (toBytes 8 (n % 2 ^ 32 * 2 ^ 32 + h % 2 ^ 32))).write (op.pa + 32)
      (toBytes 1 (n / 2 ^ 32 * 2 + h / 2 ^ 32))).write (op.pa + 48) (toBytes 8 e)
    let next := fun (i : Nat) => (i + 1) % 2 ^ 33
    let leaves := fun (p : Option RingAns) (m : Mem) => Gives (exec (.ringOpAtHome op) s) fun t => (∀ a, t.mem.byte a = m.byte a)
      ∧ ∀ a, p = some a → Instr.ringAnswer op.core op.ctx a ∈ t.pending
    s.ringHeld op = [] → s.parkedOn op.pa = [] → s.tags = [] → (∀ l, (s.line l).u = []) → s.waits = [] → (∀ l ∈ s.launches, l.kept = []) → ringOk d = true →
    (op.op ≠ 1 → held head < cap → ∀ ps pt, isAt (slot tail) ps → isAt (mark tail) pt →
      let m := if op.op = 0 then s.mem.write ps (toBytes size (op.data.toNat % 2 ^ (8 * size))) else s.mem
      let b := 1#8 <<< (tail % cap % 8)
      leaves (some .done) (desc head (next tail) seen (m.write pt [if op.op = 0 then m.byte pt &&& ~~~b else m.byte pt ||| b])))
    ∧ (op.op = 1 → 0 < held head → ∀ ps pt, isAt (slot head) ps → isAt (mark head) pt →
      (bit s.mem pt head = false → leaves (some (.popped (BitVec.ofNat 512 (s.mem.num ps size)) op)) (desc (next head) tail seen s.mem))
      ∧ (bit s.mem pt head = true → held head = 1 →
          leaves (if Msg.field d 383 320 ≤ (seen + 1) % 2 ^ 64 then some (.ended op) else none) (desc (next head) tail ((seen + 1) % 2 ^ 64) s.mem)))
    ∧ (op.op = 1 → held head = 0 → leaves (if Msg.field d 383 320 ≤ seen then some (.ended op) else none) s.mem)
    ∧ (op.op ≠ 1 → cap ≤ held head → leaves none s.mem)
    ∧ ∀ h0, s.cleatAt op.pa = [.ring op (some (h0, head))] → held h0 ≤ cap → ∀ a, (s.putBack op).mem.byte a
        = (desc h0 tail ((seen + 2 ^ 64 - (head + 2 ^ 33 - h0) % 2 ^ 33) % 2 ^ 64) s.mem).byte a)
  ∧ (∀ (s : State) (c : CoreId) (x : CtxId) (w : Msg) (op : RingOp),
    let k := s.ctxAt c x
    let done := fun (st : Status) (y : BitVec 5 → Word) (v : BitVec 5 → Msg) (o : Out) => Gives o fun t =>
      Answered k.committed st y v (t.ctxAt c x) ∧ AllBut s t c x ∧ SameBytes s t
    (∀ st, (k.status = .stalled ∧ st = .running) ∨ ((∃ o, k.status = .suspended (.ring o)) ∧ st = .ready) →
      done st k.rx k.rv (exec (.ringAnswer c x .done) s)
      ∧ done st (k.withX op.c 0) (k.withV op.a w) (exec (.ringAnswer c x (.popped w op)) s)
      ∧ done st (k.withX op.c 1) k.rv (exec (.ringAnswer c x (.ended op)) s))
    ∧ (k.status = .stalled → (none, op) ∈ s.parkedOn op.pa → Gives (exec (.ringAnswer c x (.parked op)) s) fun t =>
        t.ctxAt c x = { k with status := .suspended (.ring op), used := (t.ctxAt c x).used } ∧ (t.coreAt c).slot ≠ some x ∧ AllBut s t c x ∧ SameBytes s t)
    ∧ (∀ va wr q v, k.status = .stalled ∨ (∃ o, k.status = .suspended (.ring o)) →
        exec (.ringAnswer c x (.cause q v)) s = .next (s.takeTrapAt c x q v 0)
        ∧ Gives (exec (.ringAnswer c x (.fault va wr)) s) fun t => AllBut s t c x ∧ SameBytes s t ∧ (t.coreAt c).slot ≠ some x
          ∧ t.ctxAt c x = { k with status := .suspended (.fault va), used := (t.ctxAt c x).used }
          ∧ Instr.atsResponse (.ctx c x) (s.coreAt c).ident.pasid va wr ∈ t.pending)
    ∧ ((s.coreAt c).net.rings.find? (fun o => o.ctx = x) = some op → Gives (exec (.ringResend c x) s) fun t =>
        Instr.ringOpAtHome op ∈ t.pending ∧ t.cores = s.cores ∧ SameBytes s t)
    ∧ (s.waitingRing c x = some op → op.issued + 2 ^ op.lim.toNat ≤ s.cyc → Gives (exec (.ringWaitExpiry c x) s) fun t =>
        let v := s.putBack op
        ((∀ e ∈ s.cleatAt op.pa, ∀ h, e ≠ .ring op (some h)) → v = s)
        ∧ ∃ u, t = u.takeTrapAt c x (if op.op = 1 then 0x0C0 else 0x0C1) op.va (BitVec.ofNat 64 (v.mem.num op.pa 8)) ∧ u.ctxAt c x = k ∧ SameBytes v u
          ∧ Instr.ringOpAtHome op ∉ u.pending ++ u.parked))

/-- 05 R149, R150, R155 to R157: the element-wise integer instructions compute every active element from those of v[a] and of v[b] or the
immediate, modulo 2^w, both read before v[d] is written; the inactive elements, and all else, stay. -/
def Obligations.VectorIntegerOps : Prop := ∀ (s : State) (d a b i : BitVec 5) (k : BitVec 3) (w : BitVec 2),
  let W := 8 * 2 ^ w.toNat
  let n := 512 / W
  let x := fun j => BitVec.ofNat W (elem (s.ctx.rv a) W j)
  let y := fun j => BitVec.ofNat W (elem (s.ctx.rv b) W j)
  let im : BitVec W := BitVec.ofInt W i.toInt
  let clip := fun (lo hi v : Int) => (BitVec.ofInt W (if v < lo then lo else if hi < v then hi else v)).toNat
  let sat := clip (-(2 ^ (W - 1))) (2 ^ (W - 1) - 1)
  let satu := clip 0 (2 ^ W - 1)
  let op := fun (f : Nat → Nat) (o : Out) => Elements s d W n k f 0 o
  op (fun j => (x j + y j).toNat) (exec (.vadd d a b k w) s) ∧ op (fun j => (x j - y j).toNat) (exec (.vsub d a b k w) s)
  ∧ op (fun j => sat ((x j).toInt + (y j).toInt)) (exec (.vaddSat d a b k w) s) ∧ op (fun j => sat ((x j).toInt - (y j).toInt)) (exec (.vsubSat d a b k w) s)
  ∧ op (fun j => satu ((x j).toNat + (y j).toNat)) (exec (.vadduSat d a b k w) s)
  ∧ op (fun j => satu ((x j).toNat - ((y j).toNat : Int))) (exec (.vsubuSat d a b k w) s)
  ∧ op (fun j => (x j * y j).toNat) (exec (.vmul d a b k w) s)
  ∧ op (fun j => (BitVec.ofInt W ((x j).toInt * (y j).toInt / 2 ^ W)).toNat) (exec (.vmulh d a b k w) s)
  ∧ op (fun j => (x j).toNat * (y j).toNat / 2 ^ W) (exec (.vmulhu d a b k w) s)
  ∧ op (fun j => if (x j).toInt ≤ (y j).toInt then (x j).toNat else (y j).toNat) (exec (.vmin d a b k w) s)
  ∧ op (fun j => if (x j).toInt ≤ (y j).toInt then (y j).toNat else (x j).toNat) (exec (.vmax d a b k w) s)
  ∧ op (fun j => min (x j).toNat (y j).toNat) (exec (.vminu d a b k w) s) ∧ op (fun j => max (x j).toNat (y j).toNat) (exec (.vmaxu d a b k w) s)
  ∧ op (fun j => (if (x j).toInt < 0 then 0 - x j else x j).toNat) (exec (.vabs d a k w) s)
  ∧ op (fun j => (x j &&& y j).toNat) (exec (.vand d a b k w) s) ∧ op (fun j => (x j ||| y j).toNat) (exec (.vor d a b k w) s)
  ∧ op (fun j => (x j ^^^ y j).toNat) (exec (.vxor d a b k w) s) ∧ op (fun j => (x j &&& ~~~(y j)).toNat) (exec (.vandn d a b k w) s)
  ∧ op (fun j => (~~~(x j)).toNat) (exec (.vnot d a k w) s)
  ∧ op (fun j => (x j <<< ((y j).toNat % W)).toNat) (exec (.vsll d a b k w) s) ∧ op (fun j => (x j >>> ((y j).toNat % W)).toNat) (exec (.vsrl d a b k w) s)
  ∧ op (fun j => ((x j).sshiftRight ((y j).toNat % W)).toNat) (exec (.vsra d a b k w) s)
  ∧ op (fun j => (x j + im).toNat) (exec (.vaddi d a i k w) s) ∧ op (fun j => (x j &&& im).toNat) (exec (.vandi d a i k w) s)
  ∧ op (fun j => (x j ||| im).toNat) (exec (.vori d a i k w) s) ∧ op (fun j => (x j ^^^ im).toNat) (exec (.vxori d a i k w) s)
  ∧ op (fun j => (x j <<< (i.toNat % W)).toNat) (exec (.vslli d a i k w) s) ∧ op (fun j => (x j >>> (i.toNat % W)).toNat) (exec (.vsrli d a i k w) s)
  ∧ op (fun j => ((x j).sshiftRight (i.toNat % W)).toNat) (exec (.vsrai d a i k w) s) ∧ op (fun _ => im.toNat) (exec (.vmovi d i k w) s)
  ∧ ∃ r, VWritten s d r (exec (.vsel d a b k w) s) ∧ ∀ j, j < n → elem r W j = if (s.ctx.rk k).getLsbD j then (x j).toNat else (y j).toNat

/-- 05 R149, R159 to R161, 03 R83: the element-wise floating-point instructions, in each of their three formats, with the flags of their
active elements. -/
def Obligations.VectorFloatOps : Prop := ∀ (s : State) (d a b : BitVec 5) (k : BitVec 3) (w : BitVec 2) (f : Fp),
  (w = 0 ∧ f = bf16) ∨ (w = 1 ∧ f = fp16) ∨ (w = 2 ∧ f = fp32) →
  let n := 512 / f.width
  let bit := fun (r : BitVec 5) j => elem (s.ctx.rv r) f.width j
  let val := fun (r : BitVec 5) j => f.value (bit r j)
  let rm := s.ctx.rm
  let op := fun (g : Nat → Nat × Flags) (o : Out) => Elements s d f.width n k (fun j => (g j).1) (flagsOver s n k fun j => (g j).2) o
  let signed := fun (neg : Bool) j => if (val a j).isNan then f.nan else bit a j % 2 ^ (f.width - 1) + if neg then 2 ^ (f.width - 1) else 0
  op (fun j => f.add rm (val a j) (val b j)) (exec (.vfadd d a b k w) s) ∧ op (fun j => f.sub rm (val a j) (val b j)) (exec (.vfsub d a b k w) s)
  ∧ op (fun j => f.mul rm (val a j) (val b j)) (exec (.vfmul d a b k w) s)
  ∧ op (fun j => f.fma rm (val a j) (val b j) (val d j)) (exec (.vfma d a b k w) s)
  ∧ op (fun j => f.fma rm (val a j).negate (val b j) (val d j)) (exec (.vfnma d a b k w) s)
  ∧ op (fun j => f.minmax false (bit a j) (bit b j)) (exec (.vfmin d a b k w) s) ∧ op (fun j => f.minmax true (bit a j) (bit b j)) (exec (.vfmax d a b k w) s)
  ∧ op (fun j => (signed false j, 0)) (exec (.vfabs d a k w) s) ∧ op (fun j => (signed (decide (bit a j < 2 ^ (f.width - 1))) j, 0)) (exec (.vfneg d a k w) s)
  ∧ op (fun j => f.rcpe (bit a j)) (exec (.vfrcpe d a k w) s) ∧ op (fun j => f.rsqrte (bit a j)) (exec (.vfrsqrte d a k w) s)
  ∧ op (fun j => (f.classWord (bit a j), 0)) (exec (.vfclass d a k w) s)

/-- 05 R149, R157, R158, R161, 03 R83: the comparisons write the mask of the active elements that meet them and 0 elsewhere; those on
numbers add the flags of their active elements.
05 R166: the mask instructions; a write to k0 or to x0 is discarded.
05 R162: where the elements of a permutation come from. -/
def Obligations.ComparisonsMasksPermutes : Prop :=
  (∀ (s : State) (d k : BitVec 3) (a b i : BitVec 5) (w : BitVec 2),
    let W := 8 * 2 ^ w.toNat
    let n := 512 / W
    let x := fun j => BitVec.ofNat W (elem (s.ctx.rv a) W j)
    let y := fun j => BitVec.ofNat W (elem (s.ctx.rv b) W j)
    let im : BitVec W := BitVec.ofInt W i.toInt
    let t := fun (p : Nat → Bool) (o : Out) => Tested s d n k p 0 o
    (t (fun j => decide (x j = y j)) (exec (.vceq d a b k w) s) ∧ t (fun j => decide (x j ≠ y j)) (exec (.vcne d a b k w) s)
    ∧ t (fun j => decide ((x j).toInt < (y j).toInt)) (exec (.vclt d a b k w) s) ∧ t (fun j => decide ((x j).toInt ≤ (y j).toInt)) (exec (.vcle d a b k w) s)
    ∧ t (fun j => decide ((x j).toNat < (y j).toNat)) (exec (.vcltu d a b k w) s) ∧ t (fun j => decide ((x j).toNat ≤ (y j).toNat)) (exec (.vcleu d a b k w) s)
    ∧ t (fun j => decide (x j = im)) (exec (.vceqi d a i k w) s) ∧ t (fun j => decide ((x j).toInt < im.toInt)) (exec (.vclti d a i k w) s))
    ∧ ∀ (f : Fp), (w = 0 ∧ f = bf16) ∨ (w = 1 ∧ f = fp16) ∨ (w = 2 ∧ f = fp32) →
      let m := 512 / f.width
      let p := fun j => f.value (elem (s.ctx.rv a) f.width j)
      let q := fun j => f.value (elem (s.ctx.rv b) f.width j)
      let quiet := flagsOver s m k fun j => if (p j).isSig || (q j).isSig then flagNV else 0
      let loud := flagsOver s m k fun j => if (p j).isNan || (q j).isNan then flagNV else 0
      Tested s d m k (fun j => (p j).eqv (q j)) quiet (exec (.vfceq d a b k w) s)
      ∧ Tested s d m k (fun j => (p j).lt (q j)) loud (exec (.vfclt d a b k w) s)
      ∧ Tested s d m k (fun j => (p j).lt (q j) || (p j).eqv (q j)) loud (exec (.vfcle d a b k w) s)
      ∧ Tested s d m k (fun j => (p j).isNan || (q j).isNan) quiet (exec (.vfcun d a b k w) s))
  ∧ (∀ (s : State) (d a b : BitVec 3) (e f : BitVec 5),
    let p := s.ctx.rk a
    let q := s.ctx.rk b
    KWritten s d (p &&& q) 0 (exec (.kand d a b) s) ∧ KWritten s d (p ||| q) 0 (exec (.kor d a b) s) ∧ KWritten s d (p ^^^ q) 0 (exec (.kxor d a b) s)
    ∧ KWritten s d (~~~p) 0 (exec (.knot d a) s) ∧ KWritten s d p 0 (exec (.kmov d a) s) ∧ KWritten s d (s.ctx.rx f) 0 (exec (.kfromx d f) s)
    ∧ XWritten s 4 e p.cpop (exec (.kpopc e a) s) ∧ XWritten s 4 e p.ctz (exec (.kfirst e a) s)
    ∧ XWritten s 4 e (if p = 0 then 0 else 1) (exec (.kany e a) s) ∧ XWritten s 4 e p (exec (.ktox e a) s))
  ∧ (∀ (s : State) (d a b : BitVec 5) (k : BitVec 3) (w : BitVec 2),
    let W := 8 * 2 ^ w.toNat
    let n := 512 / W
    let x := fun j => elem (s.ctx.rv a) W j
    let y := fun j => elem (s.ctx.rv b) W j
    let c := (s.ctx.rx b).toNat
    let op := fun (f : Nat → Nat) (o : Out) => Elements s d W n k f 0 o
    op (fun j => if y j < n then x (y j) else 0) (exec (.vperm d a b k w) s) ∧ op (fun _ => (s.ctx.rx a).toNat) (exec (.vbcast d a k w) s)
    ∧ XWritten s 4 d (if c < n then (BitVec.ofNat W (x c)).signExtend 64 else 0) (exec (.vext d a b w) s)
    ∧ (∃ r, VWritten s d r (exec (.vins d a b w) s)
        ∧ ∀ j, j < n → elem r W j = if j = c then (s.ctx.rx a).toNat % 2 ^ W else elem (s.ctx.rv d) W j)
    ∧ op (fun j => if c ≤ j then x (j - c) else elem (s.ctx.rv d) W j) (exec (.vslideup d a b k w) s)
    ∧ op (fun j => if j + c < n then x (j + c) else 0) (exec (.vslidedn d a b k w) s)
    ∧ op (fun j => if j % 2 = 0 then x (j / 2) else y (j / 2)) (exec (.vziplo d a b k w) s)
    ∧ op (fun j => if j % 2 = 0 then x (n / 2 + j / 2) else y (n / 2 + j / 2)) (exec (.vziphi d a b k w) s)
    ∧ op (fun j => if j < n / 2 then x (2 * j) else y (2 * (j - n / 2))) (exec (.vunziplo d a b k w) s)
    ∧ op (fun j => if j < n / 2 then x (2 * j + 1) else y (2 * (j - n / 2) + 1)) (exec (.vunziphi d a b k w) s))

/-- 05 R163 to R165, 03 R100: reductions of the active elements into x[d], with the identity where there is none, and dot products of four
bytes. The floating-point sum is that of the slice-order tree, rounded in fmt.RM. A lone NaN made canonical is log 16 (DEDUCED), and that VFREDADD
sets no NV for a lone signalling NaN is log 60 (DESIGN CHOICE). -/
def Obligations.VectorReductions : Prop := ∀ (s : State) (d a b : BitVec 5) (k : BitVec 3) (w : BitVec 2),
  let W := 8 * 2 ^ w.toNat
  let n := 512 / W
  let act := (List.range n).filter fun j => (s.ctx.rk k).getLsbD j
  let sx := act.map fun j => (BitVec.ofNat W (elem (s.ctx.rv a) W j)).toInt
  let ux := act.map fun j => elem (s.ctx.rv a) W j
  XWritten s 4 d (BitVec.ofInt 64 sx.sum) (exec (.vredadd d a k w) s)
  ∧ (∃ r : Int, XWritten s 4 d (BitVec.ofInt 64 r) (exec (.vredmin d a k w) s) ∧ (sx = [] → r = 2 ^ (W - 1) - 1) ∧ (sx ≠ [] → r ∈ sx ∧ ∀ v ∈ sx, r ≤ v))
  ∧ (∃ r : Int, XWritten s 4 d (BitVec.ofInt 64 r) (exec (.vredmax d a k w) s) ∧ (sx = [] → r = -(2 ^ (W - 1))) ∧ (sx ≠ [] → r ∈ sx ∧ ∀ v ∈ sx, v ≤ r))
  ∧ (∃ r : Nat, XWritten s 4 d (BitVec.ofNat 64 r) (exec (.vredminu d a k w) s) ∧ (ux = [] → r = 2 ^ W - 1) ∧ (ux ≠ [] → r ∈ ux ∧ ∀ v ∈ ux, r ≤ v))
  ∧ (∃ r : Nat, XWritten s 4 d (BitVec.ofNat 64 r) (exec (.vredmaxu d a k w) s) ∧ (ux = [] → r = 0) ∧ (ux ≠ [] → r ∈ ux ∧ ∀ v ∈ ux, v ≤ r))
  ∧ Elements s d 32 16 k (fun j => (BitVec.ofInt 32 (elem (s.ctx.rv d) 32 j + ((List.range 4).map fun i =>
      (BitVec.ofNat 8 (elem (s.ctx.rv a) 8 (4 * j + i))).toInt * (BitVec.ofNat 8 (elem (s.ctx.rv b) 8 (4 * j + i))).toInt).sum)).toNat) 0
      (exec (.vdot4 d a b k) s)
  ∧ Elements s d 32 16 k (fun j => elem (s.ctx.rv d) 32 j + ((List.range 4).map fun i =>
      elem (s.ctx.rv a) 8 (4 * j + i) * elem (s.ctx.rv b) 8 (4 * j + i)).sum) 0 (exec (.vdot4u d a b k) s)
  ∧ ∀ (f : Fp) (h : Nat), (w = 0 ∧ f = bf16 ∧ h = 5) ∨ (w = 1 ∧ f = fp16 ∧ h = 5) ∨ (w = 2 ∧ f = fp32 ∧ h = 4) →
    let m := 512 / f.width
    let xs := ((List.range m).filter fun j => (s.ctx.rk k).getLsbD j).map fun j => elem (s.ctx.rv a) f.width j
    let add := fun (p q : Nat × Flags) =>
      ((f.add s.ctx.rm (f.value p.1) (f.value q.1)).1, p.2 ||| q.2 ||| (f.add s.ctx.rm (f.value p.1) (f.value q.1)).2)
    let t := (treeReduce add h ((List.range m).map fun j =>
      if (s.ctx.rk k).getLsbD j then some (elem (s.ctx.rv a) f.width j, (0 : Flags)) else none)).getD (0, 0)
    let pick := fun big => xs.foldl (fun (p : Nat × Flags) x => ((f.minmax big p.1 x).1, p.2 ||| (f.minmax big p.1 x).2)) (f.nan, 0)
    FpWritten s 4 d (if (f.value t.1).isNan then f.nan else t.1, t.2) (exec (.vfredadd d a k w) s)
    ∧ FpWritten s 4 d (pick false) (exec (.vfredmin d a k w) s) ∧ FpWritten s 4 d (pick true) (exec (.vfredmax d a k w) s)

/-- 03 R105 to R112: conversions between formats: of a register, of the elements of a vector, narrowed into the top of v[d] and widened from
a group; block scales and exponents over the active FP32 lanes, and lanes aligned to a block exponent. -/
def Obligations.Conversions : Prop := ∀ (s : State) (d a b : BitVec 5) (k : BitVec 3) (sf df : BitVec 4) (g : BitVec 3),
  let c := s.ctx
  let conv := fun x => convert c.rm c.satd c.xt sf df x
  let ws := formatBits sf
  let wd := formatBits df
  let sumOf := fun (n : Nat) (f : Nat → Flags) => (List.range n).foldl (fun z i => z ||| f i) 0
  let lanes := ((List.range 16).filter fun i => (c.rk k).getLsbD i).map fun i => fp32.value (elem (c.rv a) 32 i)
  ((Instr.cvt d a sf df).check = none →
    let r := conv ((c.rx a).toNat % 2 ^ ws)
    FpWritten s 4 d (if df ∈ [1, 3, 9, 10] then (((BitVec.ofNat wd r.1).signExtend 64).toNat, r.2) else r) (exec (.cvt d a sf df) s))
  ∧ ((Instr.vcvt d a sf k df).check = none →
    let n := 512 / max ws wd
    let r := fun i => conv (elem (c.rv a) ws i)
    ∃ v, VfWritten s d v (flagsOver s n k fun i => (r i).2) (exec (.vcvt d a sf k df) s)
      ∧ ∀ i, i < 512 / wd → elem v wd i = if i < n then (if (c.rk k).getLsbD i then (r i).1 % 2 ^ wd else elem (c.rv d) wd i) else 0)
  ∧ ((Instr.vpack d a sf df).check = none →
    let n := 512 / ws
    let r := fun i => conv (elem (c.rv a) ws i)
    let m := 512 / wd
    ∃ v, VfWritten s d v (sumOf n fun i => (r i).2) (exec (.vpack d a sf df) s)
      ∧ ∀ i, i < m → elem v wd i = if i < m - n then elem (c.rv d) wd (i + n) else (r (i - (m - n))).1 % 2 ^ wd)
  ∧ ((Instr.vunpk d a sf g df).check = none →
    let n := 512 / wd
    let r := fun i => conv (elem (c.rv a) ws (g.toNat * n + i))
    ∃ v, VfWritten s d v (sumOf n fun i => (r i).2) (exec (.vunpk d a sf g df) s) ∧ ∀ i, i < n → elem v wd i = (r i).1 % 2 ^ wd)
  ∧ XWritten s 4 d (BitVec.ofNat 64 (lanes.foldl (bscaleLane (scaleEmax df c.xt)) ((c.rx d).toNat % 256))) (exec (.bscale d a k df) s)
  ∧ XWritten s 4 d (BitVec.ofInt 64 (lanes.foldl balignLane (max (c.rx d).toInt (-127)))) (exec (.balignExp d a k) s)
  ∧ ∀ w i, (w = 8 ∧ i = Instr.balignQ8 d a b k) ∨ (w = 16 ∧ i = Instr.balignQ16 d a b k) →
    let e := max (c.rx b).toInt (-127)
    ∃ v, VWritten s d v (exec i s) ∧ ∀ j, j < 16 → elem v 32 j
      = if (c.rk k).getLsbD j = true ∧ e < 128 then (BitVec.ofInt 32 (blockFixed w e (fp32.value (elem (c.rv a) 32 j)))).toNat else 0

/-- 09 R314 to R316, 11 R368 to R372, 07 R231, R232: SIGNAL, DEPSET, DEPDEC, FURL, UNFURL and FCANCEL on a place they accept leave for its
home, FURL, UNFURL and FCANCEL holding the slot for their status; SIGNAL stores at once in the scratchpad; 0x0CC and 0x104 where the place is
not acceptable; FPEEK and FTAG read a cell whatever its tag.
09 R309, R316, 07 R215, R217, 11 R365, 06 R179: SIGNAL, DEPSET, DEPDEC, FURL and UNFURL wait for the operations of their context that are not
performed, and write back the core's private lines (SIGNAL at a scope of .device or wider). -/
def Obligations.HomeRequests : Prop := ∀ (s : State) (d a b c : BitVec 5) (sc : BitVec 4) (pl : BitVec 2) (p : Piece) (q : Place),
  let x := s.ctx.rx b
  let y := s.ctx.rx c
  let performed := s.unperformed s.cur s.hot = false
  (s.scalar a 0 8 = .ok p → s.access s.cur s.hot true [p] = .ok [q] → ¬ s.groupless sc p →
    (¬ performed → Waits s (exec (.signal a b sc) s))
    ∧ (performed → (∃ o, q = .sp o) → Gives (exec (.signal a b sc) s) fun t =>
      CommittedX s s.ctx.rx t.ctx ∧ StoreFrame s t [(q, toBytes 8 x.toNat)])
    ∧ ∀ pa va attr, q = .phys pa va attr → performed → Gives (exec (.signal a b sc) s) fun t =>
      CommittedX s s.ctx.rx t.ctx ∧ LeavesFor s t (decide (5 ≤ sc.toNat)) 0 va pa (.signal x))
  ∧ (s.scalar a 0 16 = .ok p → s.reach s.cur s.hot true false [p] = .ok [q] →
    let counter := ∃ pa va, q = .phys pa va 2 ∧ s.ownMem pa = true
    (¬ counter → Traps s 0x0CC p.loc.addr (exec (.depset a b c pl) s) ∧ Traps s 0x0CC p.loc.addr (exec (.depdec a) s))
    ∧ ∀ pa va, q = .phys pa va 2 → s.ownMem pa = true →
      (2 ^ 32 ≤ x.toNat ∨ y.toNat % 64 ≠ 0 → Traps s 0x0CC va (exec (.depset a b c pl) s))
      ∧ (¬ performed → Waits s (exec (.depdec a) s) ∧ (x.toNat < 2 ^ 32 → y.toNat % 64 = 0 → Waits s (exec (.depset a b c pl) s)))
      ∧ (performed → x.toNat < 2 ^ 32 → y.toNat % 64 = 0 → Gives (exec (.depset a b c pl) s) fun t =>
          CommittedX s s.ctx.rx t.ctx ∧ LeavesFor s t true 0 va pa (.depset (x.setWidth 32) pl (y.setWidth 57)))
      ∧ (performed → Gives (exec (.depdec a) s) fun t => CommittedX s s.ctx.rx t.ctx ∧ LeavesFor s t true 0 va pa .depdec))
  ∧ (s.scalar a 0 8 = .ok p → s.reach s.cur s.hot true false [p] = .ok [q] →
    let cell := ∃ pa va, q = .phys pa va 3 ∧ (s.ownMem pa = true ∨ s.peerMem pa = true)
    (¬ cell → Traps s 0x104 p.loc.addr (exec (.furl d a b pl) s) ∧ Traps s 0x104 p.loc.addr (exec (.unfurl d a b) s)
      ∧ Traps s 0x104 p.loc.addr (exec (.fcancel d a) s))
    ∧ ∀ pa va, q = .phys pa va 3 → s.ownMem pa = true ∨ s.peerMem pa = true →
      (x.extractLsb' 0 6 ≠ 0 → Traps s 0x042 x (exec (.furl d a b pl) s))
      ∧ (x.extractLsb' 0 6 = 0 → ¬ performed → Waits s (exec (.furl d a b pl) s))
      ∧ (x.extractLsb' 0 6 = 0 → performed → Gives (exec (.furl d a b pl) s) fun t =>
          Holds s t false ∧ LeavesFor s t true d va pa (.furl ((x &&& 0x1FFFFFFFFFFFFC0) ||| (pl.zeroExtend 64 <<< 4))))
      ∧ (¬ performed → Waits s (exec (.unfurl d a b) s))
      ∧ (performed → Gives (exec (.unfurl d a b) s) fun t => Holds s t true ∧ LeavesFor s t true d va pa (.unfurl x))
      ∧ Gives (exec (.fcancel d a) s) fun t => Holds s t false ∧ LeavesFor s t false d va pa .fcancel)
  ∧ (s.scalar a 0 8 = .ok p → s.reach s.cur s.hot false false [p] = .ok [q] →
    (Gives (exec (.fpeek d a) s) fun t => PlainX s 4 d (BitVec.ofNat 64 (ofBytes (s.readPlace s.cur q 8))) t.ctx ∧ LoadFrame s t [q] [p])
    ∧ Gives (exec (.ftag d a) s) fun t => LoadFrame s t [q] [p] ∧ PlainX s 4 d (match q with
      | .phys pa _ 3 => (s.tag pa).zeroExtend 64
      | _ => 0) t.ctx)

/-- 09 R310, R314 to R316, 11 R368 to R372, 13 R412: what the home does for each of these operations: SIGNAL stores, and no copy of the line is
left; DEPSET writes the counter; DEPDEC counts down, sets the released bit with the last one, and leaves a counter at 0 as it is; FURL makes any
cell but an UNFURLING one FURLED with its word; UNFURL makes an UNFURLING cell VALUE with its value and wakes the waiters with it; FCANCEL makes
every cell VALUE with its word as it is and wakes the waiters with 0x105; SLINK writes its link where the word is the one expected; the answers
tell the former tag and the failure, or the word read.
11 R350, R351: a SLINK that met a cell that is not VALUE waits for it. -/
def Obligations.HomeEffects : Prop := ∀ (s : State) (op : HomeOp), s.hostHolds (op.pa / 64) = false → (s.line (op.pa / 64)).u = [] →
  let m := (s.claimHome (op.pa / 64)).mem
  let tag := s.tag op.pa
  let wrote := fun (t : State) (bs : List Byte) => ∀ a, t.mem.byte a = (m.write op.pa bs).byte a
  let same := fun (t : State) => ∀ a, t.mem.byte a = m.byte a
  let answers := fun (t : State) (a : HomeAns) => (op.dev = s.dev → Instr.homeResponse op.core op.ctx a ∈ t.pending)
    ∧ (op.dev ≠ s.dev → s.peerTrained = true → Instr.homeResponse op.core op.ctx a ∈ t.peerOut)
  let said := fun (t : State) (fails unfurl : Bool) =>
    answers t (.status op.d (BitVec.ofNat 64 (2 * tag.toNat + if fails then 1 else 0)) op.va unfurl)
  let woken := fun (t : State) (v : FurlAns) => t.furlEntries op.pa = [] ∧ ∀ k ∈ s.furlEntries op.pa, ∀ g r, k.waiter = some (g, r) → r.dev = s.dev →
    (g = none → Instr.furledWake r v ∈ t.pending) ∧ ∀ lid, g = some lid → ∀ l ∈ t.launches, l.lid = lid → Instr.furledWake r v ∈ l.inbox
  (∀ v, op.kind = .signal v → op.attr ≠ 3 ∨ s.openCells op.pa 8 = [] → s.tidy op.core → Gives (exec (.homeOperation op) s) fun t => wrote t (toBytes 8 v.toNat)
    ∧ (t.line (op.pa / 64)).owner = none ∧ (t.line (op.pa / 64)).sharers = 0 ∧ (t.line (op.pa / 64)).own = false ∧ ∀ d, t.l1State d (op.pa / 64) = .i)
  ∧ (op.kind = .depdec → s.openCells op.pa 16 = [] → let w := m.num op.pa 8
    Gives (exec (.homeOperation op) s) fun t => (1 < w % 2 ^ 32 → wrote t (toBytes 8 (w - 1)))
      ∧ (w % 2 ^ 32 = 1 → wrote t (toBytes 8 (w - 1 ||| 2 ^ 34))) ∧ (w % 2 ^ 32 = 0 → same t))
  ∧ (∀ n pr task, op.kind = .depset n pr task → s.openCells op.pa 16 = [] → Gives (exec (.homeOperation op) s) fun t =>
      wrote t (toBytes 8 (n.toNat + pr.toNat * 2 ^ 32 + if n = 0 then 2 ^ 34 else 0) ++ toBytes 8 task.toNat))
  ∧ (∀ w, op.kind = .furl w → Gives (exec (.homeOperation op) s) fun t =>
      (tag ≠ 2 → t.tag op.pa = 1 ∧ wrote t (toBytes 8 w.toNat) ∧ said t false false) ∧ (tag = 2 → t.tag op.pa = 2 ∧ same t ∧ said t true false))
  ∧ (∀ v, op.kind = .unfurl v → op.pa % 8 = 0 → (∀ k ∈ s.furlEntries op.pa, ∀ g f wd o, k.waiter = some g → g.2.what ≠ .red f wd o) →
    Gives (exec (.homeOperation op) s) fun t => said t (tag ≠ 2) true
      ∧ (tag = 2 → wrote t (toBytes 8 v.toNat) ∧ t.tag op.pa = 0 ∧ woken t (.word v)) ∧ (tag ≠ 2 → t.tag op.pa = tag ∧ same t))
  ∧ (op.kind = .fcancel → Gives (exec (.homeOperation op) s) fun t => t.tag op.pa = 0 ∧ same t ∧ said t false false
      ∧ (tag = 2 → woken t (.cause 0x105)))
  ∧ (∀ e l, op.kind = .slink e l → op.attr ≠ 3 ∨ s.openCells op.pa 8 = [] → Gives (exec (.homeOperation op) s) fun t =>
      let old := BitVec.ofNat 64 (m.num op.pa 8)
      answers t (.value op.d old) ∧ ((∀ c, (s.spliceAt c).pend = []) → (old = e → wrote t (toBytes 8 l.toNat)) ∧ (old ≠ e → same t)))
  ∧ (∀ e l, op.kind = .slink e l → op.attr = 3 → s.openCells op.pa 8 ≠ [] → op.dev = s.dev → (s.ctxAt op.core op.ctx).status = .stalled →
      Gives (exec (.homeOperation op) s) fun t => AllBut s t op.core op.ctx ∧ SameBytes s t
        ∧ (t.ctxAt op.core op.ctx).status = .suspended (.atomic op) ∧ (t.ctxAt op.core op.ctx).asked = s.openCells op.pa 8
        ∧ ∀ c ∈ s.openCells op.pa 8, ∃ r, Instr.furledRequestAtHome r ∈ t.pending ∧ r.pa = c ∧ r.what = .atomic ∧ r.core = op.core ∧ r.ctx = op.ctx)

/-- 10 R320 to R323: ENQ with a legal header gives its command the next message id and puts it into the core's own unit or the retry buffer,
an illegal header raises 0x0C5, a full output FIFO 0x0CF, and it waits in its slot for room; DEQ takes the oldest element, waits for one that
is reserved, or raises 0x0D0 or the cause an element carries; EPOLL reads the FIFOs. -/
def Obligations.EngineInstructions : Prop := ∀ (s : State) (a : BitVec 5) (u : BitVec 3) (lid : Nat),
  let w := s.ctx.rv a
  let o := s.unitAt s.cur (outUnit w)
  let reply := (Msg.word w 0).getLsbD 1
  let here := (Msg.word w 0).extractLsb' 32 3 ≠ 6 ∧ (Msg.word w 0).extractLsb' 45 1 = s.dev ∧ (Msg.word w 0).extractLsb' 35 10 = s.core.ident.rel
  let full := reply = true ∧ 16 ≤ o.reserved + o.out.length
  let busy := s.unperformed s.cur s.hot = true ∨ (here ∧ o.room (outUnit w) = false) ∨ (¬ here ∧ 64 ≤ s.core.net.retryBuf.length)
  let q := s.unitAt s.cur u
  (s.enqOk s.cur w = false → Traps s 0x0C5 (Msg.word w 0) (exec (.enq a) s))
  ∧ (s.enqOk s.cur w = true → full → Traps s 0x0CF (Msg.word w 0) (exec (.enq a) s))
  ∧ (s.enqOk s.cur w = true → ¬ full → busy → Gives (exec (.enq a) s) fun t => t.ctx = { s.ctx with busy := t.ctx.busy } ∧ OnlyCtx s t ∧ SameBytes s t)
  ∧ (s.enqOk s.cur w = true → ¬ full → ¬ busy → s.core.ident.lid = some lid → Gives (exec (.enq a) s) fun t =>
      CommittedX s s.ctx.rx t.ctx ∧ Others s t ∧ (s.tidy s.cur → SameBytes s t) ∧ (t.coreAt s.cur).net.mid = s.core.net.mid + 1 ∧ ∃ p : Packet, p.lid = lid
        ∧ (∀ j, 0 < j → j < 8 → Msg.word p.word j = Msg.word w j) ∧ (Msg.word p.word 0).extractLsb' 16 16 = s.core.net.mid
        ∧ (Msg.word p.word 0).extractLsb' 32 32 = (Msg.word w 0).extractLsb' 32 32
        ∧ (here → o.inq ≠ [] ∨ unitEvent s.cur (outUnit w) ((Msg.word w 0).extractLsb' 46 12).toNat ≠ none →
            (t.unitAt s.cur (outUnit w)).inq = o.inq ++ [p] ∧ (t.unitAt s.cur (outUnit w)).reserved = o.reserved + if reply then 1 else 0)
        ∧ (¬ here → ∃ e, (t.coreAt s.cur).net.retryBuf = s.core.net.retryBuf ++ [e] ∧ e.pkt = p))
  ∧ (q.out = [] → q.reserved = 0 → Traps s 0x0D0 (u.zeroExtend 64) (exec (.deq a u) s))
  ∧ (q.out = [] → q.reserved ≠ 0 → Gives (exec (.deq a u) s) fun t => t.ctx = { s.ctx with busy := t.ctx.busy, used := t.ctx.used, status := .suspended (.deq u) }
      ∧ (t.coreAt s.cur).slot ≠ some s.hot ∧ Others s t ∧ SameBytes s t)
  ∧ (∀ e r, q.out = e :: r →
      (e.extractLsb' 0 4 ≠ 1 → Gives (exec (.deq a u) s) fun t => PlainV s a (e.zeroExtend 512) s.ctx.fmt t.ctx ∧ (t.unitAt s.cur u).out = r
        ∧ (t.unitAt s.cur u).reserved = q.reserved ∧ Others s t ∧ SameBytes s t)
      ∧ (e.extractLsb' 0 4 = 1 → ∃ z, (z.unitAt s.cur u).out = r ∧ OnlyCtx (s.modUnit s.cur u fun k => { k with out := r }) z ∧ SameBytes s z
          ∧ exec (.deq a u) s = .next (z.takeTrapAt s.cur s.hot (e.extractLsb' 23 9) (e.extractLsb' 32 64)
              ((e.extractLsb' 8 12).zeroExtend 64 ||| (e.extractLsb' 80 16).zeroExtend 64 <<< 12))))
  ∧ XWritten s 4 a (BitVec.ofNat 64 (q.out.length + q.reserved * 2 ^ 8 + (q.inq.length - 1) * 2 ^ 16 + (if q.inq = [] then 0 else 2 ^ 20)
      + if (s.runOf (.unit s.cur u)).fault ≠ none ∧ (s.runOf (.unit s.cur u)).denied = true then 2 ^ 21 else 0)) (exec (.epoll a u) s)

/-- 13 R399, R401, R409 to R413: SPOP takes the top pair, reading the spilled ones back first when none is resident, or answers zeros; SPUSH puts
a pair on top, with 64 resident once the oldest 32 are spilled, and raises 0x184 where they have no room; SALLOC takes the head of the free
list, whose ports become free links, or raises 0x181; SFREE puts a node back; SLINK leaves for its home, or is performed by the core in core-owned
memory, and SREAD reads there. A scratchpad pointer raises 0x047, then a misaligned address 0x042, a link that is none or a header's address
0x182.
06 R179, 07 R215, 13 R409, R411, R412: SPUSH and SLINK are releases at .device: they wait for the operations of their context that are not
performed, and write back the core's private lines. -/
def Obligations.SpliceInstructions : Prop := ∀ (s : State) (d a b : BitVec 5),
  let k := s.core.splice
  let x := s.ctx.rx a
  let y := s.ctx.rx b
  let open3 := toBytes 8 2 ++ toBytes 8 2 ++ toBytes 8 2
  let far := fun (z : Word) => z.extractLsb' 60 4 ≠ 15
  let at' := fun (z : Word) (n : Nat) => (z.extractLsb' 0 57).toNat % n = 0
  let node := fun (n : Nat) => far x ∧ at' x n
  let performed := s.unperformed s.cur s.hot = false
  let pair := fun (p : Word × Word) (r : BitVec 5) => if r = d + 1 ∧ r ≠ 0 then p.2 else s.ctx.withX d p.1 r
  let nodes := fun (e : Word × Word) => toBytes 8 (e.1 &&& 0x1FFFFFFFFFFFFE0).toNat ++ toBytes 8 (e.2 &&& 0x1FFFFFFFFFFFFE0).toNat
  let entry := fun (i : Nat) => va57 ((k.spill &&& 0x1FFFFFFFFFFFE00) + BitVec.ofNat 64 (16 * i))
  let link := [{ loc := .mem (va57 x), len := 8, align := 8 : Piece }]
  (k.bag = [] → k.spilled = 0 → RegisterOnly s 4 (pair (0, 0)) s.ctx.rv s.ctx.rk s.ctx.fmt (exec (.spop d) s))
  ∧ (∀ p, k.bag.getLast? = some p → k.pend = [] → Gives (exec (.spop d) s) fun t => (t.coreAt s.cur).splice.bag = k.bag.dropLast ∧ Others s t
      ∧ SameBytes s t ∧ CommittedX s (pair p) t.ctx)
  ∧ (∀ bs qs p, let m := min 32 k.spilled
      let ps := (List.range m).map fun i => ({ loc := .mem (entry (k.spilled - m + i)), len := 16, align := 1 } : Piece)
      let got := (List.range m).map fun i => (nodeAt (BitVec.ofNat 64 (ofBytes ((bs.flatten.drop (16 * i)).take 8))),
        nodeAt (BitVec.ofNat 64 (ofBytes ((bs.flatten.drop (16 * i + 8)).take 8))))
      k.bag = [] → 0 < k.spilled → k.pend = [] → s.load ps = .bytes bs qs → got.getLast? = some p → Gives (exec (.spop d) s) fun t =>
        (t.coreAt s.cur).splice.bag = got.dropLast ∧ (t.coreAt s.cur).splice.spilled = k.spilled - m ∧ Others s t ∧ CommittedX s (pair p) t.ctx
        ∧ (s.tidy s.cur → (∀ e ∈ qs.zip ps, s.calm s.cur e.1 e.2.len) → SameBytes s t))
  ∧ (¬ far x → Traps s 0x047 x (exec (.spush a b) s) ∧ Traps s 0x047 x (exec (.sfree a) s) ∧ Traps s 0x047 x (exec (.slink d a b) s)
      ∧ Traps s 0x047 x (exec (.sread d a) s))
  ∧ (far x → ¬ far y → Traps s 0x047 y (exec (.spush a b) s))
  ∧ (far x → far y → ¬ at' x 32 → Traps s 0x042 (va57 x) (exec (.spush a b) s))
  ∧ (node 32 → far y → ¬ at' y 32 → Traps s 0x042 (va57 y) (exec (.spush a b) s))
  ∧ (far x → ¬ node 32 → Traps s 0x042 (va57 x) (exec (.sfree a) s))
  ∧ (far x → ¬ node 8 → Traps s 0x042 (va57 x) (exec (.slink d a b) s) ∧ Traps s 0x042 (va57 x) (exec (.sread d a) s))
  ∧ (node 32 → far y → at' y 32 →
      (¬ performed → Waits s (exec (.spush a b) s))
      ∧ (performed → k.bag.length < 64 → k.pend = [] → Gives (exec (.spush a b) s) fun t =>
        (t.coreAt s.cur).splice.bag = k.bag ++ [(va57 x, va57 y)] ∧ (t.coreAt s.cur).splice.spilled = k.spilled ∧ CommittedX s s.ctx.rx t.ctx
        ∧ Others s t ∧ (s.tidy s.cur → SameBytes s t))
      ∧ (performed → 64 ≤ k.bag.length → spillCap k.spill < k.spilled + 32 → Traps (s.releaseAt 5) 0x184 (va57 x) (exec (.spush a b) s))
      ∧ (performed → 64 ≤ k.bag.length → k.spilled + 32 ≤ spillCap k.spill → k.pend = [] → ∀ u,
        ((s.releaseAt 5).cleanOwn s.cur).slWrite s.cur (entry k.spilled) ((k.bag.take 32).flatMap nodes) = .ok u → Gives (exec (.spush a b) s) fun t =>
          (t.coreAt s.cur).splice.bag = k.bag.drop 32 ++ [(va57 x, va57 y)] ∧ (t.coreAt s.cur).splice.spilled = k.spilled + 32
          ∧ CommittedX s s.ctx.rx t.ctx ∧ ∀ i, (t.mem.byte i) = u.mem.byte i))
  ∧ (k.free = 0 → Traps s 0x181 0 (exec (.salloc d) s))
  ∧ (∀ bs qs q, let h := nodeAt k.free
      k.free ≠ 0 → s.load [{ loc := .mem (va57 (h + 8)), len := 8, align := 1 }] = .bytes [bs] qs →
      s.reach s.cur s.hot true false [{ loc := .mem (va57 (h + 8)), len := 24, align := 1 }] = .ok [q] → Gives (exec (.salloc d) s) fun t =>
        CommittedX s (s.ctx.withX d h) t.ctx ∧ StoreFrameWith s t (qs.map fun n => (n, List.replicate 8 0)) [(q, open3)]
        ∧ (t.coreAt s.cur).splice.free = BitVec.ofNat 64 (ofBytes bs) &&& 0x1FFFFFFFFFFFFE0)
  ∧ (∀ q, node 32 → s.reach s.cur s.hot true false [{ loc := .mem (va57 (va57 x + 8)), len := 24, align := 1 }] = .ok [q] →
      Gives (exec (.sfree a) s) fun t => CommittedX s s.ctx.rx t.ctx ∧ (t.coreAt s.cur).splice.free = x &&& 0x1FFFFFFFFFFFFE0
        ∧ StoreFrame s t [(q, toBytes 8 (k.free ||| 2).toNat ++ toBytes 8 2 ++ toBytes 8 2)])
  ∧ (node 8 → at' x 32 ∨ y.extractLsb' 57 7 ≠ 0 ∨ viewLink y = .bad → Traps s 0x182 (va57 x) (exec (.slink d a b) s))
  ∧ (∀ pa va attr, node 8 → ¬ at' x 32 → y.extractLsb' 57 7 = 0 → viewLink y ≠ .bad →
      s.access s.cur s.hot true link = .ok [.phys pa va attr] →
      (¬ performed → Waits s (exec (.slink d a b) s))
      ∧ (performed → attr ≠ 0 → Gives (exec (.slink d a b) s) fun t => Holds s t true ∧ LeavesFor s t true d va pa (.slink (s.ctx.rx d) y))
      ∧ (performed → attr = 0 → (∀ c, (s.spliceAt c).pend = []) → s.tidy s.cur → s.calm s.cur (.phys pa va attr) 8 → Gives (exec (.slink d a b) s) fun t =>
        let old := BitVec.ofNat 64 (ofBytes (s.readPlace s.cur (.phys pa va attr) 8))
        CommittedX s (s.ctx.withX d old) t.ctx ∧ AllBut s t s.cur s.hot
        ∧ ∀ i, t.ownByte s.cur i = ((if old = s.ctx.rx d then s.mem.write pa (toBytes 8 y.toNat) else s.mem).byte i)))
  ∧ (∀ bs qs, node 8 → s.load link = .bytes [bs] qs → Gives (exec (.sread d a) s) fun t =>
      PlainX s 4 d (BitVec.ofNat 64 (ofBytes bs)) t.ctx ∧ LoadFrame s t qs link)

/-- 09 R312, R313, R309: LAUNCH, once the operations of its context are performed, reads its record and holds the slot while the launch unit
checks it: a valid record enters the child list of the launch's slot and the answer ends LAUNCH; an invalid one is 0x0CD, a full list
0x0CE, and the answer raises it. A record whose argument page is absent faults the context, which executes LAUNCH again (log 39).
01 R40, 09 R306: the completion of a launch, by the first DONE that comes and once the operations of its context are performed, frees its
cores with every context at reset, takes the launch away, and writes its value to its completion word before the vector is raised. Which
contexts go on until then is log 71, and what becomes of a completion word that cannot be written log 38.
09 R307: the teardown of a queue ends every launch of it and writes 0xFFFF_FFFF_FFFF_FFFF to its completion words; once every word is
written, or cannot be, it takes the pending records and unmaps the queue; until then the queue dispatches nothing. Its order is log 40.
The bytes are as stated when no Gaussian command of the launch is in the middle of its result, which it then finishes (12 R378). -/
def Obligations.LaunchingAndEnding : Prop :=
  (∀ (s : State) (a : BitVec 5) (p : Piece) (bs : List Byte) (qs : List Place) (c : CoreId) (x : CtxId) (rec : Msg)
      (r : Word) (l : Launch) (n : Fin 128) (cause : BitVec 9),
    (s.scalar a 0 64 = .ok p → s.load [p] = .bytes [bs] qs →
      (s.unperformed s.cur s.hot = true → Waits s (exec (.launch a) s))
      ∧ (s.unperformed s.cur s.hot = false → Gives (exec (.launch a) s) fun t =>
        t.ctx = { s.ctx with busy := t.ctx.busy, status := .stalled } ∧ LoadFrame s t qs [p]
        ∧ Instr.childLaunchRequest s.cur s.hot (BitVec.ofNat 512 (ofBytes bs)) p.loc.addr ∈ t.pending))
    ∧ (s.launchOf c = some l → s.slotOfQueue l.queue = some n →
      let answers := fun (q : BitVec 9) (t : State) => Instr.launchAnswer c x q r ∈ t.pending ∧ t.cores = s.cores ∧ SameBytes s t
      (s.checkRecord l.pasid rec = .invalid → Gives (exec (.childLaunchRequest c x rec r) s) (answers 0x0CD))
      ∧ (s.checkRecord l.pasid rec = .ok () →
        (16 ≤ (s.slotAt n).children.length → Gives (exec (.childLaunchRequest c x rec r) s) (answers 0x0CE))
        ∧ ((s.slotAt n).children.length < 16 → Gives (exec (.childLaunchRequest c x rec r) s) fun t =>
            answers 0 t ∧ (t.slotAt n).children = (s.slotAt n).children ++ [(rec, s.cyc)]))
      ∧ ∀ va, s.checkRecord l.pasid rec = .stop .miss va → Gives (exec (.childLaunchRequest c x rec r) s) fun t =>
          Instr.atsResponse (.ctx c x) l.pasid va false ∈ t.pending ∧ t.cores = s.cores ∧ SameBytes s t)
    ∧ ((s.ctxAt c x).status = .stalled → Gives (exec (.launchAnswer c x 0 r) s) fun t =>
        Answered (s.ctxAt c x).committed .running (s.ctxAt c x).rx (s.ctxAt c x).rv (t.ctxAt c x) ∧ AllBut s t c x ∧ SameBytes s t)
    ∧ ((s.ctxAt c x).status = .stalled → cause ≠ 0 → exec (.launchAnswer c x cause r) s = .next (s.takeTrapAt c x cause r 0)))
  ∧ (∀ (s : State) (l : Launch) (value : Word) (who : Option (CoreId × CtxId)),
    let busy := ∃ w, who = some w ∧ s.unperformed w.1 w.2 = true
    let settled := ∀ c ∈ l.cores, (s.runOf (.unit c 4)).final = none
    (s.launch? l.lid = some l → (l.doneBy ≠ none ∧ l.doneBy ≠ who) → exec (.launchCompletion l.lid value who) s = .next s)
    ∧ (s.launch? l.lid = some l → (l.doneBy = none ∨ l.doneBy = who) →
      (busy → Gives (exec (.launchCompletion l.lid value who) s) fun t => Instr.launchCompletion l.lid value who ∈ t.parked ∧ t.cores = s.cores ∧ SameBytes s t)
      ∧ (¬ busy → Gives (exec (.launchCompletion l.lid value who) s) fun t => t.launch? l.lid = none ∧ Instr.gangPlacement ∈ t.pending
        ∧ (l.live = true → ∀ c ∈ l.cores, (t.coreAt c).ident.lid = none ∧ (∀ x, t.ctxAt c x = Ctx.reset) ∧ (settled → (t.coreAt c).sp = (s.coreAt c).sp))
        ∧ ∀ pa, settled → s.cwordBad l.pasid (cwordOf l.record) = false → s.wordReady l.pasid (cwordOf l.record) = true →
          s.hostPhys l.pasid (cwordOf l.record) true = some pa → s.calmAll → s.openCells pa 8 = [] →
            (∀ a, t.mem.byte a = (s.mem.write pa (toBytes 8 value.toNat)).byte a)
            ∧ t.raised = s.raised ++ (if l.field 483 483 = 1 then s.vectorOf l.queue else none).toList))
    ∧ (s.launch? l.lid = none → exec (.launchCompletion l.lid value who) s = .next s))
  ∧ (∀ (s : State) (q : BitVec 16) (l : Launch) (pa : Nat),
    let after := fun (f : State → Prop) => Gives (exec (.queueTeardown q) s) f
    let emptySlot := ∀ n, s.slotOfQueue q = some n →
      (s.slotAt n).head = none ∧ (s.slotAt n).aside = none ∧ (s.slotAt n).taken = none ∧ (s.slotAt n).children = []
    s.owed = [] → (∀ a b : Fin 128, (s.slotAt a).queue = some q → (s.slotAt b).queue = some q → a = b) →
    (after fun t => t.launchesOf q = [] ∧ ((∃ o ∈ t.owed, o.seq = some q) → q ∈ t.deadQueues)
      ∧ ((∀ o ∈ t.owed, o.seq ≠ some q) → t.ringPending q = 0 ∧ t.slotOfQueue q = none ∧ q ∉ t.deadQueues ∧ ∀ e ∈ t.waiting, e.1 ≠ q))
    ∧ (s.ringPending q = 0 → emptySlot →
      (s.launchesOf q = [] → after fun t => t.owed = [])
      ∧ (s.launchesOf q = [l] → (∀ c ∈ l.cores, (s.runOf (.unit c 4)).final = none) → (s.queuePasid q = l.pasid) → s.cwordBad l.pasid (cwordOf l.record) = false →
        s.wordReady l.pasid (cwordOf l.record) = true → s.hostPhys l.pasid (cwordOf l.record) true = some pa → s.calmAll → s.openCells pa 8 = [] →
          after fun t => t.owed = [] ∧ ∀ a, t.mem.byte a = (s.mem.write pa (toBytes 8 0xFFFFFFFFFFFFFFFF)).byte a)))

/-- 02 R70, 14 R436, R437, R441, R442, R447: MIGRATE, MGRD, MGWR and RTSWAP raise 0x002 in a launch handler; in firmware MIGRATE begins the
move of a running launch's core to a free one or says why not (in the order of log 43), MGRD reads the management window and MGWR writes it, a
scratchpad's doublewords included, both once the operations of their context are performed, and RTSWAP hands over to a good image unless another
is staged. The power register as a whole doubleword (log 9), what RTSWAP finds in a descriptor and answer 2 (log 10), and that a write where the
spec gives no layout changes nothing (log 72) are the model's choices. -/
def Obligations.FirmwareInstructions : Prop := ∀ (s : State) (d a : BitVec 5),
  let enc := fun (n : BitVec 12) => (126#7 ++ d ++ a ++ 7#3 ++ n).zeroExtend 64
  let x := s.ctx.rx a
  let src := logicalCore (x.extractLsb' 0 10).toNat
  let dst := logicalCore (x.extractLsb' 16 10).toNat
  let w := x.extractLsb' 0 36
  let v := (s.windowRead w).1
  let g := s.descriptorAt x
  let performed := s.unperformed s.cur s.hot = false
  (s.firmwareCore s.cur = false → Traps s 0x002 (enc 1) (exec (.migrate d a) s) ∧ Traps s 0x002 (enc 2) (exec (.mgrd d a) s)
    ∧ Traps s 0x002 (enc 3) (exec (.mgwr d a) s) ∧ Traps s 0x002 (enc 4) (exec (.rtswap d a) s))
  ∧ (s.firmwareCore s.cur = true →
    (∀ n, s.migrateCode src dst = n → n ≠ 0 → XWritten s 4 d (BitVec.ofNat 64 n) (exec (.migrate d a) s))
    ∧ (s.migrateCode src dst = 0 → Gives (exec (.migrate d a) s) fun t => t.ctx.status = .stalled ∧ (t.coreAt src).net.refusing = true
        ∧ Instr.migrationImageInstalled src dst ∈ t.pending ∧ SameBytes s t)
    ∧ (¬ performed → Waits s (exec (.mgrd d a) s) ∧ Waits s (exec (.mgwr d a) s))
    ∧ (performed → Gives (exec (.mgrd d a) s) fun t => PlainX s 4 d v t.ctx ∧ OnlyCtx s t ∧ (s.tidy s.cur → SameBytes s t))
    ∧ (winAt w = .nowhere → v = 0xFFFFFFFFFFFFFFFF)
    ∧ (∀ i, winAt w = .ready i → v = BitVec.ofNat 64 (s.mgmt.readyMap.toNat / 2 ^ (64 * i)))
    ∧ (winAt w = .power → v = BitVec.ofNat 64 s.mgmt.powerCap)
    ∧ (∀ i, winAt w = .rigging i → v = s.mgmt.rigging.extractLsb' (64 * i) 64)
    ∧ (∀ n, winAt w = .log n 0 → v = (s.mgmt.errorLog.getD n 0).extractLsb' 0 64)
    ∧ (performed → Gives (exec (.mgwr d a) s) fun t => Plain s 4 t.ctx
        ∧ ((∀ p o, winAt w ≠ .scratch p o) → OnlyCtx s t ∧ (s.tidy s.cur → SameBytes s t))
        ∧ (∀ p o k, winAt w = .scratch p o → s.physCluster (p / 4) = some k → (∀ c x, c ≠ s.cur ∨ x ≠ s.hot → t.ctxAt c x = s.ctxAt c x)
            ∧ (s.tidy s.cur → ∀ i, t.mem.byte i = s.mem.byte i) ∧ ∀ (c : CoreId) i, (t.coreAt c).sp.byte i
              = (if c.val = 4 * k.val + p % 4 then (s.coreAt c).sp.write o (toBytes 8 (s.ctx.rx d).toNat) else (s.coreAt c).sp).byte i)
        ∧ t.mgmt.readyMap = s.mgmt.readyMap
        ∧ t.mgmt.rigging = s.mgmt.rigging ∧ (winAt w ≠ .power → t.mgmt.powerCap = s.mgmt.powerCap)
        ∧ (winAt w = .power → 350 ≤ (s.ctx.rx d).toNat → (s.ctx.rx d).toNat ≤ 600 → t.mgmt.powerCap = (s.ctx.rx d).toNat)
        ∧ ∀ n j, winAt w = .log n j → s.setAt = [] →
          t.mgmt.errorLog = s.mgmt.errorLog.modify n fun e => e &&& ~~~(((s.ctx.rx d).zeroExtend 128 <<< (64 * j)) &&& (3#128 <<< 64)))
    ∧ (s.mgmt.staged.any (· != g) = true → XWritten s 4 d 2 (exec (.rtswap d a) s))
    ∧ (s.mgmt.staged.any (· != g) = false → Gives (exec (.rtswap d a) s) fun t => OnlyCtx s t ∧ SameBytes s t ∧
        if g.good = true ∧ rolesOk g.rolemap (16 * columnsOf s.mgmt.rigging 1) = true then
          PlainX s 4 d 0 t.ctx ∧ t.mgmt.imageDigest = g.digest ∧ t.mgmt.imageVersion = g.version ∧ t.mgmt.roles = g.rolemap
            ∧ t.mgmt.staged = none ∧ t.routers = (s.setFirewalls g.rolemap).routers
        else PlainX s 4 d 1 t.ctx ∧ t.mgmt = s.mgmt))

/-- 07 R223 to R228, R236: a device request for a line. While the host holds it exclusively the request waits for the snoop. GETS puts a copy
into the requester's L1, in E where nobody else holds the line, no wait is armed on it and a line of host memory has been read for
ownership, and an owner keeps an O copy; GETM makes the requester the owner in M and takes every other copy away; GETU makes it a U holder
with the operation and width. No copy is granted of a line with a cell that is not VALUE, and no M or U copy of a line with an armed wait.
An evicted partial is combined into the home value. -/
def Obligations.CoherenceRequests : Prop := ∀ (s : State) (c : CoreId) (line : Nat) (op : BitVec 4) (w : BitVec 5),
  let e := s.line line
  let free := s.hostHolds line = false
  let plain := s.lineValue line = true
  let after := fun (i : Instr) (f : State → Line → Prop) =>
    Gives (exec i s) fun t => t.cores = s.cores ∧ (e.u = [] → s.tidy c → SameBytes s t) ∧ f t (t.line line)
  let gone := fun (t : State) (l : Line) => l.owner = none ∧ l.sharers = 0 ∧ l.peer = false ∧ l.u = [] ∧ l.host = .none ∧ ∀ d, t.l1State d line = .i
  let alone := (∀ o, e.owner = some o → o.1 = c) ∧ e.sharers = 0 ∧ e.peer = false ∧ e.host = .none ∧ s.armed line = false ∧ (s.hostMem (64 * line) = true → e.own = true)
  (s.hostHolds line = true → ∀ i ∈ [Instr.gets c line, .getm c line], Gives (exec i s) fun t =>
      (t.line line).snooping = true ∧ i ∈ t.parked ∧ t.cores = s.cores ∧ SameBytes s t)
  ∧ (free → plain → after (.gets c line) fun t l => l.u = [] ∧ t.l1State c line ≠ .i ∧ t.l1State c line ≠ .u
      ∧ (e.u = [] → alone → l.owner = some (c, .e))
      ∧ (e.u = [] → ¬ alone → c.val < 1024 → l.sharers.getLsbD (c.val / 4) = true ∧ ∀ o, l.owner ≠ some (o, .e))
      ∧ ∀ o, o ≠ c → e.owner = some (o, .m) → l.owner = some (o, .o))
  ∧ (free → plain → s.armed line = false → after (.getm c line) fun t l => l.owner = some (c, .m) ∧ l.sharers = 0 ∧ l.u = [] ∧ l.host = .none
      ∧ l.own = s.hostMem (64 * line) ∧ t.l1State c line = .m ∧ ∀ d, d ≠ c → t.l1State d line = .i)
  ∧ (free → plain → s.armed line = false → s.ownMem (64 * line) = true → after (.getu c line op w) fun t l =>
      l.owner = none ∧ l.sharers = 0 ∧ l.host = .none ∧ l.uop = op ∧ l.uw = w ∧ (∃ h ∈ l.u, h.core = c) ∧ t.l1State c line = .u
      ∧ (e.u = [] → l.u = [{ core := c, part := identityPart op w }] ∧ ∀ d, d ≠ c → t.l1State d line = .i))
  ∧ (free → ¬ plain → after (.gets c line) gone)
  ∧ (free → ¬ plain ∨ s.armed line = true → after (.getm c line) gone ∧ (s.ownMem (64 * line) = true → after (.getu c line op w) gone))
  ∧ (s.ownMem (64 * line) = false → free → exec (.getu c line op w) s = .next s)
  ∧ (∀ h, e.u.find? (fun g => g.core == c) = some h → plain → Gives (exec (.uPartial c line) s) fun t => t.cores = s.cores
      ∧ (t.line line).u = e.u.filter (fun g => g.core != c)
      ∧ ∀ a, t.mem.byte a = (s.mem.write (64 * line) (toBytes 64 (combinePart e.uop e.uw (s.lineData line) h.part).toNat)).byte a)
  ∧ ((∀ h ∈ e.u, h.core ≠ c) → exec (.uPartial c line) s = .next s)

/-- 07 R224 to R227, 06 R180, 11 R350, 14 R424, R446: a host read leaves no device copy in M or E and no partial; a host read for ownership
leaves none at all; a host write stores its data, makes every cell of the line VALUE, and leaves the host the copy it keeps; a read is
answered with the line, or poisoned; while the memory is not ready all three are refused and counted; the answer to a snoop brings the host's
data home; snoops share or drop a copy; a recall combines every partial; a fill puts a line into an L1 where the directory allows.
06 R181: a read of a read-shared line on its way to the home joins the entry of its line at a router while that has fewer than 8 waiters
beside the first; a core's read makes an entry while there are fewer than 16 and goes on with the router's tag; else the read goes on as it is;
at the home's router, or for a line of the peer's memory at the attach router on its way there (06 R176, 01 R18), it is answered. The reply answers the requester and every waiter, and frees the entry. -/
def Obligations.CoherenceSnoopsAndMerging : Prop :=
  (∀ (s : State) (c : CoreId) (line : Nat) (data : Msg) (keep : HostCopy) (st : LineSt),
    let e := s.line line
    let plain := s.lineValue line = true
    let served := s.ownMem (64 * line) = true ∧ s.memReady line = true
    let quiet := ∀ n ∈ s.openCells (64 * line) 64, s.tag n ≠ 2
    let after := fun (i : Instr) (f : State → Line → Prop) => Gives (exec i s) fun t => t.cores = s.cores ∧ f t (t.line line)
    let same := fun (f : State → Line → Prop) (t : State) (l : Line) => (e.u = [] → SameBytes s t) ∧ f t l
    let wrote := fun (bs : Msg) (t : State) => ∀ a, t.mem.byte a = (s.mem.write (64 * line) (toBytes 64 bs.toNat)).byte a
    let shared := fun (l : Line) => ∀ o, l.owner ≠ some (o, .m) ∧ l.owner ≠ some (o, .e)
    let gone := fun (t : State) (l : Line) => l.owner = none ∧ l.sharers = 0 ∧ l.u = [] ∧ ∀ d, t.l1State d line = .i
    let answer := if line ∈ s.mgmt.poisoned then HostReply.poisoned line else .line line (s.lineData line)
    let settled := if keep = .none then HostCopy.none else .shared
    let hosts := [Instr.hostRead line, .hostReadOwn line, .hostWrite line data keep]
    (s.ownMem (64 * line) = false → ∀ i ∈ hosts, exec i s = .next s)
    ∧ (s.ownMem (64 * line) = true → s.memReady line = false → ∀ i ∈ hosts, Gives (exec i s) fun t =>
        t.toHost = s.toHost ++ [.poisoned line] ∧ t.mgmt.refusedReqs = s.mgmt.refusedReqs + 1 ∧ t.cores = s.cores ∧ SameBytes s t)
    ∧ (served → after (.hostRead line) (same fun t l => shared l ∧ l.u = [] ∧ l.host ≠ .none
        ∧ (e.u = [] → t.toHost = s.toHost ++ [answer] ∧ t.l1s = s.l1s)))
    ∧ (served → after (.hostReadOwn line) (same fun t l => gone t l ∧ l.host = .exclusive ∧ (e.u = [] → t.toHost = s.toHost ++ [answer])))
    ∧ (served → quiet → after (.hostWrite line data keep) fun t l => wrote data t ∧ t.lineValue line = true ∧ gone t l ∧ l.host = keep)
    ∧ (e.snooping = true → quiet → after (.bisnpResponse line (some data) keep) fun t l =>
        wrote data t ∧ l = { e with host := settled, reread := 0, snooping := false })
    ∧ (e.snooping = true → after (.bisnpResponse line none keep) fun t l => SameBytes s t ∧ l = { e with host := settled, reread := 0, snooping := false })
    ∧ (e.snooping = false → exec (.bisnpResponse line (some data) keep) s = .next s)
    ∧ (s.armed line = true → s.hostHolds line = true → e.reread ≤ s.cyc → after (.bisnpReread line) fun t l =>
        SameBytes s t ∧ l = { e with snooping := true, reread := s.cyc + 1024 })
    ∧ (e.owner = some (c, .m) → after (.snoopShare c line) fun t l => SameBytes s t ∧ l.owner = some (c, .o) ∧ l.sharers = e.sharers)
    ∧ (e.owner = some (c, .e) → after (.snoopShare c line) fun t l => SameBytes s t ∧ l.owner = none
        ∧ (s.l1State c line = .e → c.val < 1024 → l.sharers.getLsbD (c.val / 4) = true))
    ∧ ((∀ h ∈ e.u, h.core ≠ c) → after (.snoopInvalidate c line) fun t l => SameBytes s t ∧ t.l1State c line = .i
        ∧ (∀ st, l.owner ≠ some (c, st)) ∧ ∀ d, d ≠ c → t.l1 d = s.l1 d)
    ∧ (after (.recallLine line) (same fun _ l => l.u = []))
    ∧ (∀ h, e.u = [h] → plain → after (.recallLine line) fun t _ => wrote (combinePart e.uop e.uw (s.lineData line) h.part) t)
    ∧ (s.readShared line = false → e.u = [] → e.owner = some (c, st) → st = .e ∨ st = .m ∨ st = .o →
        after (.lineFill c line st) fun t l => (s.tidy c → SameBytes s t) ∧ l = e ∧ t.l1State c line = st)
    ∧ (s.readShared line = false → e.u = [] → plain → e.sharers.getLsbD (c.val / 4) = true →
        after (.lineFill c line .s) fun t l => (s.tidy c → SameBytes s t) ∧ l = e ∧ t.l1State c line ≠ .i)
    ∧ (s.readShared line = true → after (.lineFill c line st) fun t _ => (s.tidy c → SameBytes s t) ∧ t.holds c line = true)
    ∧ (s.hostMem (64 * line) = true → (after (.hostSnpdata line) fun t l => SameBytes s t ∧ shared l ∧ l.own = false)
        ∧ after (.hostSnpinv line) fun t l => SameBytes s t ∧ l.owner = none ∧ l.sharers = 0 ∧ l.own = false ∧ ∀ d, t.l1State d line = .i))
  ∧ (∀ (s : State) (r : Fin 288) (line : Nat) (who : Reader) (c : CoreId),
    let ms := (s.routers[r]).merge
    let on := fun (w : Reader) (t : State) => Instr.mergeRead (s.nextRouter r line who) line w ∈ t.pending
    let after := fun (i : Instr) (p : State → List Merge → Prop) => Gives (exec i s) fun t => p t (t.routers[r]).merge ∧ t.cores = s.cores ∧ SameBytes s t
    let home := if s.peerMem (64 * line) then routerAt (if (placeAt r).1 ≤ 8 then 8 else 9, 15) else s.routerOf (s.homeCluster (64 * line))
    let away := s.readShared line = true ∧ r ≠ home
    (s.readShared line = true → r = home → after (.mergeRead r line who) fun t ns => ns = ms ∧ replyTo line who ∈ t.pending)
    ∧ (away → ∀ a m b, ms = a ++ m :: b → m.line = line → (∀ n ∈ a ++ b, n.line ≠ line) → after (.mergeRead r line who) fun t ns =>
        if m.waiters.length < 9 then ns = a ++ { m with waiters := m.waiters ++ [who] } :: b else ns = ms ∧ on who t)
    ∧ (away → (∀ m ∈ ms, m.line ≠ line) →
        (who = .core c → ms.length < 16 → after (.mergeRead r line who) fun t ns =>
          ns = ms ++ [{ line := line, waiters := [.core c] }] ∧ on (.router r) t)
        ∧ (16 ≤ ms.length ∨ (∃ q, who = .router q) → after (.mergeRead r line who) fun t ns => ns = ms ∧ on who t))
    ∧ (s.readShared line = false → exec (.mergeRead r line who) s = .next s)
    ∧ after (.mergeReply r line) fun t ns => (ns = ms.filter fun m => m.line ≠ line)
        ∧ ∀ m ∈ ms, m.line = line → ∀ w ∈ m.waiters, replyTo line w ∈ t.pending)

/-- 06 R183 to R188: with a page that the host has granted, a translation response puts an entry for the address into the core's TLBs and the
context goes on; without, the context suspends on the address. A page response makes the page the host's grant and asks again; the tags of its
furl-capable cells become VALUE where the address space did not map them (11 R346). A refusal is a trap with cause 0x041 and the address. An
invalidation waits for the accesses that used the range and leaves no entry and no grant of it; what waits at a home for an address of the range is
issued again (log 74); after the stop of a PASID its responses change nothing. The stop ends every launch of the PASID's queues, their contexts
reset, and records the contexts that waited for a page with their addresses. A region table is installed once the accesses of its space are complete,
with no copy of a line of the space left in a cache. That a grant takes the place of those that it meets, and an invalidation takes every grant that
meets its range, is log 45. -/
def Obligations.Translations : Prop := ∀ (s : State) (c : CoreId) (x : CtxId) (pasid : BitVec 20) (va : Word) (wr : Bool) (g : Grant) (log : Nat),
  let k := s.ctxAt c x
  let lo := low57 va / 2 ^ log * 2 ^ log
  let inside := fun (h : Grant) => h.pasid = pasid ∧ h.va < lo + 2 ^ log ∧ lo < h.va + 2 ^ h.log
  let busy := (∃ i ∈ s.pending ++ s.parked, s.usesPage pasid lo (2 ^ log) i = true) ∨ ∃ d, s.gmWriting pasid d = true
  let open' := (∃ i ∈ s.pending ++ s.parked, s.accessOf pasid i = true) ∨ ∃ d, s.gmWriting pasid d = true
  ((s.space pasid).stopped = false →
    (findGrant s.hostPages pasid va wr = some g → k.status = .stalled → Gives (exec (.atsResponse (.ctx c x) pasid va wr) s) fun t =>
      t.ctxAt c x = { k with status := .running } ∧ AllBut s t c x ∧ SameBytes s t ∧ (t.coreAt c).tlb1.head? = some (s.entryFor g va))
    ∧ (∀ a, findGrant s.hostPages pasid va wr = some g → k.status = .suspended (.fault a) → Gives (exec (.atsResponse (.ctx c x) pasid va wr) s) fun t =>
      t.ctxAt c x = { k with status := .ready } ∧ AllBut s t c x ∧ SameBytes s t ∧ ((s.coreAt c).slot = none → Instr.issueSlotHandoff c ∈ t.pending))
    ∧ (findGrant s.hostPages pasid va wr = none → k.status = .stalled → Gives (exec (.atsResponse (.ctx c x) pasid va wr) s) fun t =>
      t.ctxAt c x = { k with status := .suspended (.fault va), used := (t.ctxAt c x).used } ∧ (t.coreAt c).slot ≠ some x ∧ AllBut s t c x ∧ SameBytes s t)
    ∧ (grantOk g pasid va = true → s.owed = [] → s.heard (.ctx c x) = true → Gives (exec (.priResponse (.ctx c x) pasid va (some g)) s) fun t =>
      t.hostPages = g :: (s.hostPages.filter fun h => !(h.pasid == pasid && meets h.va (2 ^ h.log) g.va (2 ^ g.log)))
      ∧ Instr.atsResponse (.ctx c x) pasid va false ∈ t.pending ∧ (∀ d y, t.ctxAt d y = s.ctxAt d y) ∧ SameBytes s t
      ∧ ∀ n, (s.mapsTo pasid (8 * n) ≠ [] → t.tag (8 * n) = s.tag (8 * n))
        ∧ (s.mapsTo pasid (8 * n) = [] → g.pa ≤ 8 * n → 8 * n < g.pa + 2 ^ g.log →
            (s.region pasid (va57 (BitVec.ofNat 64 (g.va + (8 * n - g.pa))))).attr = 3 → t.tag (8 * n) = 0))
    ∧ (∀ a, k.status = .suspended (.fault a) → s.owed = [] → s.heard (.ctx c x) = true → Gives (exec (.priResponse (.ctx c x) pasid va none) s) fun t =>
      let u := s.takeTrapAt c x 0x041 a 0
      t.ctxAt c x = Ctx.reset ∧ (∀ d y, d ≠ c ∨ y ≠ x → t.ctxAt d y = s.ctxAt d y) ∧ (u.coreAt c).net.trapq <+: (t.coreAt c).net.trapq
      ∧ ∀ n v w, Instr.launchCompletion n v w ∈ u.pending → Instr.launchCompletion n v w ∈ t.pending)
    ∧ (s.heard (.ctx c x) = false → exec (.priResponse (.ctx c x) pasid va none) s = .next s))
  ∧ ((s.space pasid).stopped = true → exec (.atsResponse (.ctx c x) pasid va wr) s = .next s ∧ exec (.priResponse (.ctx c x) pasid va (some g)) s = .next s)
  ∧ (¬ busy → Gives (exec (.atsInvalidation pasid va log) s) fun t =>
      (∀ h ∈ t.hostPages, ¬ inside h) ∧ (∀ d, ∀ h ∈ (t.coreAt d).tlb1, ¬ inside h) ∧ (∀ j : Fin 288, ∀ h ∈ (t.clusters[j]).tlb2, ¬ inside h.grant)
      ∧ ((∀ d y, s.waitsThrough d y lo (2 ^ log) = false) → ∀ d y, t.ctxAt d y = s.ctxAt d y)
      ∧ ((s.coreAt c).ident.pasid = pasid → (s.coreAt c).ident.lid.isSome = true → s.calmAll → s.waitsThrough c x lo (2 ^ log) = true →
          t.ctxAt c x = { k with status := if k.status = .stalled then .running else .ready, asked := [], answers := [] }
          ∧ ∀ e ∈ t.waits, ¬ (e.2.2.dev = s.dev ∧ e.1 = c ∧ e.2.1 = x))
      ∧ (s.allCleat = [] → s.refused = [] → s.calmAll → SameBytes s t))
  ∧ (busy → Gives (exec (.atsInvalidation pasid va log) s) fun t =>
      Instr.atsInvalidation pasid va log ∈ t.parked ∧ (∀ d, ∀ h ∈ (t.coreAt d).tlb1, ¬ inside h) ∧ SameBytes s t)
  ∧ (s.owed = [] → s.migrations = [] → (s.launches.map (·.lid)).Nodup → Gives (exec (.pasidStop pasid) s) fun t => (t.space pasid).stopped = true
      ∧ (∀ e ∈ s.queues, (∃ d, e.2 = some d ∧ Msg.field d 115 96 = pasid.toNat) → t.launchesOf (BitVec.ofNat 16 e.1) = []
        ∧ ∀ l ∈ s.launchesOf (BitVec.ofNat 16 e.1), l.live = true → ∀ d ∈ l.cores, ∀ y, t.ctxAt d y = Ctx.reset)
      ∧ ∀ a, (s.coreAt c).ident.lid.isSome = true → (s.coreAt c).ident.pasid = pasid → k.status = .suspended (.fault a) → (pasid, c, x, a) ∈ t.torn)
  ∧ (∀ table, s.tableOk pasid table = true →
      (¬ open' → Gives (exec (.regionTableDrain pasid table) s) fun t => (t.space pasid).table = table
        ∧ (∀ l, s.inSpace pasid l = true → (t.line l).owner = none ∧ (t.line l).sharers = 0 ∧ (t.line l).u = []
          ∧ ∀ d, ∀ w ∈ (t.l1 d).ways, w.line ≠ l)
        ∧ (∀ d, ∀ h ∈ (t.coreAt d).tlb1, h.pasid ≠ pasid) ∧ (∀ d y, t.ctxAt d y = s.ctxAt d y) ∧ (s.calmAll → SameBytes s t))
      ∧ (open' → Gives (exec (.regionTableDrain pasid table) s) fun t =>
        Instr.regionTableDrain pasid table ∈ t.parked ∧ t.cores = s.cores ∧ SameBytes s t))
  ∧ (∀ table, s.tableOk pasid table = false → exec (.regionTableDrain pasid table) s = .next s)

/-- 10 R317, R324, R325, R338, R339: a chunk of a copy is read in full and then written, at most 64 bytes of a linear copy, a run of at most 64
within a row of a two-dimensional one, one element of a gather; the last chunk ends the command with the number of bytes in PROGRESS and
RESULT. A set bit that no field uses is 0x083; that it comes before every other cause, and PROGRESS modulo 2^32, are log 28. -/
def Obligations.CopyEngine : Prop := ∀ (s : State) (c : CoreId) (p : Packet) (src dst idx : EAddr) (bs js : List Byte) (t1 t2 : State) (ps : List Span),
  let me := Eng.unit c 2
  let w := p.word
  let i := (s.runOf me).progress
  let num := fun (n : Nat) => some (BitVec.ofNat 32 n)
  let from1 := s.engAddr me .any (Msg.word w 1) = .ok src ∧ s.engAddr me .any (Msg.word w 2) = .ok dst
  let chunk := fun (z : State) (a b : EAddr) (n : Nat) => z.engRead me [(a, n)] = .ok ([bs], t1) ∧ t1.engCheck me [(b, n)] = .ok ps
  let copies := fun (ev : Instr) (upto total : Nat) => Gives (exec ev s) fun t => EngineWrote s t c ps bs
    ∧ (upto = total → Ended s t c 2 p 0 0 (num total) (num total)) ∧ (upto ≠ total → GoesOn t me p upto ev)
  (s.working me 1 p → reservedClear w [(231, 192), (191, 64)] = false → FailsWith s c 2 p 0x083 (num i) (num i) (exec (.cpLin c) s))
  ∧ (s.working me 2 p → reservedClear w [(239, 192), (383, 256), (191, 64)] = false → FailsWith s c 2 p 0x083 (num i) (num i) (exec (.cp2d c) s))
  ∧ (s.working me 3 p → reservedClear w [(290, 192), (191, 64)] = false ∨ Msg.field w 290 288 = 7 → FailsWith s c 2 p 0x083 (num i) (num i) (exec (.cpGath c) s))
  ∧ (s.working me 1 p → reservedClear w [(231, 192), (191, 64)] = true → from1 →
      let n := min 64 (Msg.field w 231 192 - i)
      chunk (s.begun me) (src.plus i) (dst.plus i) n → copies (.cpLin c) (i + n) (Msg.field w 231 192))
  ∧ (s.working me 2 p → reservedClear w [(239, 192), (383, 256), (191, 64)] = true → from1 →
      let rowb := Msg.field w 223 192
      let j := i / rowb
      let o := i % rowb
      let n := min 64 (rowb - o)
      chunk (s.begun me) (src.plus (j * (Msg.word w 4).toInt + o)) (dst.plus (j * (Msg.word w 5).toInt + o)) n →
        copies (.cp2d c) (i + n) (rowb * (Msg.field w 239 224 + 1)))
  ∧ (s.working me 3 p → reservedClear w [(290, 192), (191, 64)] = true → Msg.field w 290 288 ≠ 7 → from1 → s.engAddr me .any (Msg.word w 3) = .ok idx →
      let z := 2 ^ Msg.field w 290 288
      let total := Msg.field w 287 256 * z
      (i = total → Gives (exec (.cpGath c) s) fun t => Ended s t c 2 p 0 0 (num total) (num total) ∧ SameBytes s t)
      ∧ (i ≠ total → (s.begun me).engRead me [(idx.plus (4 * (i / z : Nat)), 4)] = .ok ([js], t2) →
          chunk t2 (src.plus (ofBytes js * z)) (dst.plus i) z → copies (.cpGath c) (i + z) total))

/-- 10 R327 to R330, R335, R336: LDB fills a macro's shadow bank from 64 rows, with the masks that it needs; STC stores a row of converted
accumulator words and clears them where it says so; ZC clears words; MARK ends when it begins.
10 R330, 03 R85 to R87: an element of a bank is the integer at its place of its row, or, of a floating format, the element with its scale aligned
to width 8 under its column's exponent, which is the greatest of its nonzero elements and -127 where there is none; a column with a NaN or an
infinity is marked. An element aligned to a width is the nearest integer to x × 2^(W - 2 - E), ties to even, clamped. -/
def Obligations.MatrixLoadsAndStores : Prop := ∀ (s : State) (c : CoreId) (p : Packet) (a sa ma : EAddr) (bss : List (List Byte)) (t1 : State) (ps : List Span),
  let me := Eng.unit c 1
  let w := p.word
  let i := (s.runOf me).progress
  let sparse := BitVec.ofNat 2 (Msg.field w 169 168)
  let f := BitVec.ofNat 4 (Msg.field w 167 164)
  let z := (if f = 3 then 128 else 64) * formatBits f / 8
  let stride := Msg.field w 159 128
  let scaled := Msg.word w 3 ≠ 0
  let groups := 64 / keepOf sparse
  let masks := if sparse = 0 then [] else (List.range groups).map fun g => BitVec.ofNat 16 (ofBytes (((bss.headD []).drop (2 * g)).take 2))
  let rest := if sparse = 0 then bss else bss.drop 1
  let words := fun (t : State) j => Sparse.get 0 (t.coreAt c).matrix.acc j
  (s.working me 1 p → reservedClear w [(319, 192), (169, 164), (161, 64)] = true → f ≠ 0 → f.toNat ≤ 8 → (scaled → floatFmt f.toNat = true) →
    (Msg.word w 1).extractLsb' 60 4 = 15 → s.engAddr me .own (Msg.word w 1) = .ok a → s.engAddr me .own (Msg.word w 3) = .ok sa →
    s.engAddr me .own (Msg.word w 4) = .ok ma → (scaled → a.num % blockBytes f = 0 ∧ stride % blockBytes f = 0) →
    (s.begun me).engRead me ((if sparse = 0 then [] else [(ma, 2 * groups)]) ++ ((List.range 64).map fun j => (a.plus (j * stride), z))
      ++ (if scaled then (List.range 64).map fun j => (sa.plus (scaleRange f (j * stride) z).1, (scaleRange f (j * stride) z).2) else [])) = .ok (bss, t1) →
    ((∀ m ∈ masks, (maskBits m).length = keepOf sparse) → Gives (exec (.mxLdb c) s) fun t => EngineWrote s t c [] []
      ∧ Ended s t c 1 p 0 0 (some 64) (some 0) ∧ (t.coreAt c).matrix.active = (s.coreAt c).matrix.active ∧ (t.coreAt c).matrix.acc = (s.coreAt c).matrix.acc
      ∧ ∀ m : Fin 4, (t.coreAt c).matrix.shadow[m] = if m.val = Msg.field w 161 160 then
          makeBank f (Msg.field w 4 4 == 1) sparse masks stride (rest.take 64) (if scaled then some (rest.drop 64) else none)
        else (s.coreAt c).matrix.shadow[m])
    ∧ ((∃ m ∈ masks, (maskBits m).length ≠ keepOf sparse) → FailsWith s c 1 p 0x083 (some (BitVec.ofNat 32 i)) none (exec (.mxLdb c) s)))
  ∧ (s.working me 3 p → reservedClear w [(216, 192), (180, 64)] = true →
    let pitch := Msg.field w 216 204
    let rows := Msg.field w 170 167 + 1
    let n := Msg.field w 180 171 + 1
    let base := Msg.field w 203 192 + i * pitch
    let tag := (Msg.word w 1).extractLsb' 60 4
    let g : BitVec 4 := if Msg.field w 163 160 = 0 then (if tag = 15 then 0 else tag) else BitVec.ofNat 4 (Msg.field w 163 160)
    let len := (n * formatBits g + 7) / 8
    let conv := fun k => stcElem (Msg.field w 164 164 == 1) (Msg.field w 165 165 == 1) (Msg.field w 4 4 == 1) g (words s (base + k))
    0 < pitch → pitch ≤ 4096 → Msg.field w 203 192 + (rows - 1) * pitch + n ≤ 4096 → convertible g = true → s.engAddr me .own (Msg.word w 1) = .ok a →
    (s.begun me).engCheck me [(a.plus (i * Msg.field w 159 128), len)] = .ok ps → Gives (exec (.mxStc c) s) fun t => ∃ bs, bs.length = len
      ∧ EngineWrote s t c ps bs ∧ (∀ k, k < n → (ofBytes bs >>> (k * formatBits g)) % 2 ^ formatBits g = conv k % 2 ^ formatBits g)
      ∧ (∀ j, words t j = if Msg.field w 166 166 = 1 ∧ base ≤ j ∧ j < base + n then 0 else words s j)
      ∧ (i + 1 = rows → Ended s t c 1 p 0 0 (some (BitVec.ofNat 32 rows)) none) ∧ (i + 1 ≠ rows → GoesOn t me p (i + 1) (.mxStc c)))
  ∧ (s.working me 4 p →
    let lo := Msg.field w 139 128
    let n := Msg.field w 152 140
    let bad := reservedClear w [(152, 128)] = false ∨ n = 0 ∨ 4096 < lo + n
    (bad → FailsWith s c 1 p 0x083 (some (BitVec.ofNat 32 i)) none (exec (.mxZc c) s))
    ∧ (¬ bad → Gives (exec (.mxZc c) s) fun t => EngineWrote s t c [] [] ∧ Ended s t c 1 p 0 0 none none
        ∧ ∀ j, words t j = if lo ≤ j ∧ j < lo + n then 0 else words s j))
  ∧ (s.working me 5 p → (reservedClear w [] = true → Gives (exec (.mxMark c) s) fun t => EngineWrote s t c [] [] ∧ Ended s t c 1 p 0 0 none (some 0)
        ∧ (t.coreAt c).matrix = (s.coreAt c).matrix)
    ∧ (reservedClear w [] = false → FailsWith s c 1 p 0x083 (some (BitVec.ofNat 32 i)) none (exec (.mxMark c) s)))
  ∧ (∀ (h : BitVec 4) (xt : Bool) (sp : BitVec 2) (ks : List (BitVec 16)) (step : Nat) (rows : List (List Byte)) (scales : Option (List (List Byte))) (j k : Nat),
    rows.length = 64 → j < 64 → k < (if h = 3 then 128 else 64) → h ≠ 0 → h.toNat ≤ 8 →
    let b := makeBank h xt sp ks step rows scales
    let n := formatBits h
    let bits := fun i => ofBytes (rows.getD i []) / 2 ^ (k * n) % 2 ^ n
    let scale := fun i => scales.map fun ss => ((ss.getD i []).getD ((i * step + k * n / 8) / blockBytes h - i * step / blockBytes h) 0).toNat
    let v := fun i => scaledElem h xt (scale i) (bits i)
    let finite := fun i => ∃ g m x, v i = .fin g m x ∧ m ≠ 0
    b.sparse = sp ∧ b.masks = ks ∧ b.int4 = decide (h = 3) ∧ b.float = floatFmt h.toNat
    ∧ (floatFmt h.toNat = false → b.cell j k = if h = 2 then (bits j : Int) else (BitVec.ofNat n (bits j)).toInt)
    ∧ (floatFmt h.toNat = true → ∃ e : Int, Sparse.get 0 b.eb k = e ∧ b.cell j k = blockFixed 8 e (v j)
      ∧ ((∃ i, i < 64 ∧ finite i) → (∃ i, i < 64 ∧ finite i ∧ (v i).exponent = e) ∧ ∀ i, i < 64 → finite i → (v i).exponent ≤ e)
      ∧ ((∀ i, i < 64 → ¬ finite i) → e = -127) ∧ (k ∈ b.nanCols ↔ ∃ i, i < 64 ∧ (v i).special = true)))
  ∧ (∀ (wa m : Nat) (e x : Int) (neg : Bool), wa = 8 ∨ wa = 16 →
    let y : ℚ := (if neg then -1 else 1) * m * 2 ^ (x + wa - 2 - e)
    let u := FVal.fin neg m x
    (∃ q : Int, |y - q| ≤ 1 / 2 ∧ (|y - q| = 1 / 2 → Even q) ∧ blockFixed wa e u = max (-(2 ^ (wa - 1) - 1)) (min (2 ^ (wa - 1) - 1) q))
    ∧ (m ≠ 0 → (2 : ℚ) ^ u.exponent ≤ m * 2 ^ x ∧ (m * 2 ^ x : ℚ) < 2 ^ (u.exponent + 1)))

/-- 10 R328, R329, R331 to R334, R337, 03 R87: a row of MMA reads its row of A, multiplies it by the banks of the four macros, in ascending order, and
adds the products to the accumulator words of its columns: for each column the exact sum over the stored rows of the aligned A times the bank's
element, added with saturation, or rounded to FP32, scaled by the exponents, and added in FP32, a NaN where a NaN is met; its first row exchanges the banks where the command says so, and CLEAR starts the words from 0. Banks
that do not agree and the other faults of a command are 0x083. A row whose engine has spent its share of the window is held (10 R337). -/
def Obligations.MatrixMultiply : Prop := ∀ (s : State) (c : CoreId) (p : Packet) (a sa : EAddr) (bss : List (List Byte)) (t1 : State),
  let me := Eng.unit c 1
  let w := p.word
  let r := (s.runOf me).progress
  let swap := decide (r = 0 ∧ Msg.field w 167 167 = 1)
  let m0 := (s.coreAt c).matrix
  let banks := m0.banksFor swap
  let f := BitVec.ofNat 4 (Msg.field w 163 160)
  let config := Msg.field w 166 165
  let rows := Msg.field w 172 169 + 1
  let stride := Msg.field w 159 128
  let scaled := Msg.word w 3 ≠ 0
  let n := rowLength config banks[0]
  let z := n * formatBits f / 8
  let row0 := Msg.field w 184 173 + r * totalColumns config banks[0]
  s.working me 2 p →
  (s.reefHolds c = true → Gives (exec (.mxMma c) s) fun t => Instr.mxMma c ∈ t.parked ∧ t.cores = s.cores ∧ SameBytes s t
    ∧ ∃ e ∈ (t.reef[s.dieOf c]).held, e.1 = c)
  ∧ (s.reefHolds c = false → r = 0 → mmaBad w banks = true → FailsWith s c 1 p 0x083 (some 0) none (exec (.mxMma c) s))
  ∧ (s.reefHolds c = false → (r = 0 → mmaBad w banks = false) → s.engAddr me .own (Msg.word w 1) = .ok a → s.engAddr me .own (Msg.word w 3) = .ok sa →
    (r = 0 → ∀ d o, a = .sp d o → ∃ l, (s.begun me).allOf me false ((List.range rows).map fun i => (a.plus (i * stride), z)) = .ok l) →
    (scaled → a.num % blockBytes f = 0 ∧ stride % blockBytes f = 0) →
    (s.begun me).engRead me ((a.plus (r * stride), z) :: (if scaled then [(sa.plus (scaleRange f (r * stride) z).1, (scaleRange f (r * stride) z).2)] else []))
      = .ok (bss, t1) →
    let row := bss.headD []
    let vs := if floatFmt f.toNat then rowElems f (Msg.field w 4 4 == 1) (r * stride) n row (if scaled then some (bss.getD 1 []) else none) else []
    let is := if floatFmt f.toNat then [] else (List.range n).map fun i => intElem f ((ofBytes row >>> (i * formatBits f)) % 2 ^ formatBits f)
    Gives (exec (.mxMma c) s) fun t => EngineWrote s t c [] []
      ∧ (t.coreAt c).matrix.active = (if swap then m0.shadow else m0.active) ∧ (t.coreAt c).matrix.shadow = (if swap then m0.active else m0.shadow)
      ∧ (t.coreAt c).matrix.acc = mmaRow config row0 (Msg.field w 168 168 == 1) banks (widthA f (Msg.field w 164 164 == 1)) vs is m0.acc
      ∧ (r + 1 = rows → Ended s t c 1 p 0 0 (some (BitVec.ofNat 32 rows)) (some 0)) ∧ (r + 1 ≠ rows → GoesOn t me p (r + 1) (.mxMma c)))
  ∧ (∀ (b : Bank) (wa k : Nat) (ea q : Int) (nan : Bool) (old : BitVec 32),
    let spoiled := nan = true ∨ k ∈ b.nanCols ∨ (fp32.value old.toNat).isNan = true
    (b.float = false → (accumulate b wa ea nan k q old).toInt = max (-(2 ^ 31)) (min (2 ^ 31 - 1) (old.toInt + q)))
    ∧ (b.float = true → spoiled → accumulate b wa ea nan k q old = 0x7FC00000)
    ∧ (b.float = true → ¬ spoiled → accumulate b wa ea nan k q old = BitVec.ofNat 32 (fp32.add 0 (fp32.value old.toNat)
        (fp32.value (fp32.ofVal 0 ((FVal.ofInt q).scale (ea - wa + 2 + Sparse.get 0 b.eb k - 6))).1)).1))
  ∧ (∀ (config m row0 wa j : Nat) (b : Bank) (vs : List FVal) (is : List Int) (acc : Sparse (BitVec 32)),
    let t := macroRow config m row0 b wa vs is acc
    let first := row0 + nseg config m * b.nm
    let seg := alignSegment wa (b.rows.map fun k => vs.getD (kseg config m * b.km + k) (.fin false 0 0))
    let qa := if b.float then seg.1 else b.rows.map fun k => is.getD (kseg config m * b.km + k) 0
    (∀ k, k < b.nm → Sparse.get 0 t (first + k) = accumulate b wa seg.2.1 seg.2.2 k
      (((List.range qa.length).map fun i => qa.getD i 0 * b.cell i k).sum) (Sparse.get 0 acc (first + k)))
    ∧ (j < first ∨ first + b.nm ≤ j → Sparse.get 0 t j = Sparse.get 0 acc j)
    ∧ (b.sparse = 0 → b.rows = List.range 64)
    ∧ (b.sparse ≠ 0 → b.rows.Pairwise (· < ·) ∧ ∀ k, k ∈ b.rows ↔ k / 16 < b.masks.length ∧ (b.masks.getD (k / 16) 0).getLsbD (k % 16) = true))
  ∧ (∀ (wa : Nat) (vs : List FVal),
    let r := alignSegment wa vs
    let finite := fun (v : FVal) => ∃ g m x, v = .fin g m x ∧ m ≠ 0
    r.1 = vs.map (blockFixed wa r.2.1) ∧ -127 ≤ r.2.1 ∧ (∀ v ∈ vs, finite v → v.exponent ≤ r.2.1)
    ∧ (r.2.1 = -127 ∨ ∃ v ∈ vs, finite v ∧ v.exponent = r.2.1) ∧ (r.2.2 = true ↔ ∃ v ∈ vs, v.special = true))
  ∧ ∀ (config row0 wa : Nat) (fresh : Bool) (bs : Vector Bank 4) (vs : List FVal) (is : List Int) (acc : Sparse (BitVec 32)), ∃ acc0,
    (∀ j, Sparse.get 0 acc0 j = if fresh = true ∧ row0 ≤ j ∧ j < row0 + totalColumns config bs[0] then 0 else Sparse.get 0 acc j)
    ∧ mmaRow config row0 fresh bs wa vs is acc = (List.finRange 4).foldl (fun a m => macroRow config m.val row0 bs[m] wa vs is a) acc0

/-- 03 R89 to R94, 10 R340: a block of DEC is read where its group's table entry says, decoded and written as 128 FP8 bytes with its scale byte
in the scale table, or aligned to 132 bytes; a malformed block is 0x082. That DST and SDST are checked for 0x047 before the group table is read is
log 28 (DEDUCED). -/
def Obligations.DecodeEngine : Prop := ∀ (s : State) (c : CoreId) (p : Packet) (data gtab d sd : EAddr) (g h bs : List Byte) (t1 t2 t3 : State) (ps ss : List Span),
  let me := Eng.unit c 3
  let w := p.word
  let b := (s.runOf me).progress
  let n := Msg.field w 223 192 + b
  let lens := (g.drop 4).map (·.toNat)
  let len := lens.getD (n % 16) 0
  let start := data.plus ((ofBytes (g.take 4) + 4 * (lens.take (n % 16)).foldl (· + ·) 0 : Nat) : Int)
  let spf := fun (x : Word) => x.extractLsb' 60 4 = 15
  let fixed := Msg.field w 240 240 = 1
  let z : Nat := if fixed then 132 else 128
  let progress := some (BitVec.ofNat 32 b)
  let done := some (BitVec.ofNat 32 (b + 1))
  s.working me 1 p →
  (reservedClear w [(383, 256), (240, 64)] = false → FailsWith s c 3 p 0x083 progress progress (exec (.tdDec c) s))
  ∧ (reservedClear w [(383, 256), (240, 64)] = true → ¬ spf (Msg.word w 4) → FailsWith s c 3 p 0x047 progress progress (exec (.tdDec c) s))
  ∧ (reservedClear w [(383, 256), (240, 64)] = true → spf (Msg.word w 4) → Msg.word w 5 = 0 ∨ spf (Msg.word w 5) →
    s.engAddr me .own (Msg.word w 1) = .ok data → s.engAddr me .own (Msg.word w 2) = .ok gtab → s.engAddr me .own (Msg.word w 4) = .ok d →
    s.engAddr me .own (Msg.word w 5) = .ok sd → (s.begun me).engRead me [(gtab.plus (20 * (n / 16 : Nat)), 20)] = .ok ([g], t1) →
    t1.engRead me [(start, 4)] = .ok ([h], t2) → t2.engRead me [(start, 4 * len)] = .ok ([bs], t3) →
    (len = 0 ∨ bitsOf (ofBytes h) 15 8 ≠ len → Gives (exec (.tdDec c) s) fun t => Ended s t c 3 p 1 0x082 progress progress)
    ∧ (len ≠ 0 → bitsOf (ofBytes h) 15 8 = len → decodeToken len bs = none → Gives (exec (.tdDec c) s) fun t => Ended s t c 3 p 1 0x082 progress progress)
    ∧ ∀ scale e5 es, len ≠ 0 → bitsOf (ofBytes h) 15 8 = len → decodeToken len bs = some (scale, e5, es) → t3.engCheck me [(d.plus (z * b : Nat), z)] = .ok ps →
      (if fixed ∨ Msg.word w 5 = 0 then ss = [] else t3.engCheck me [(sd.plus b, 1)] = .ok ss) → Gives (exec (.tdDec c) s) fun t => ∃ out, out.length = z
        ∧ EngineWrote s t c (ps ++ ss) (out ++ if ss = [] then [] else [scale]) ∧ (¬ fixed → out = es)
        ∧ (b = Msg.field w 239 224 → Ended s t c 3 p 0 0 done done) ∧ (b ≠ Msg.field w 239 224 → GoesOn t me p (b + 1) (.tdDec c)))

/-- 12 R374 to R390: the five Gaussian commands. A step reads one element that the command still needs; once it has its records it has what it
writes: the new Gaussian of V2F is a difference, of BEL a sum, of F2V the factor with the other messages added and eliminated, of DAMP its
input; it is damped into the output record, whose version goes on by one, and RESULT is the residual; of MEAN the solution. Each further
step writes one element, and after the last the command ends. A pivot that fails is 0x140 with its index in PROGRESS. -/
def Obligations.GaussianEngine : Prop := ∀ (s : State) (c : CoreId) (p : Packet) (o b : GRec) (m pr : Option GRec) (ms : List GRec) (a fa : EAddr)
    (t1 : State) (h : Nat) (bs : List Byte) (vms : List (Nat × GRec)) (ps : List Span) (f : BitVec 32 × BitVec 32) (e : EAddr × List Byte) (r : List (EAddr × List Byte)),
  let me := Eng.unit c 4
  let w := p.word
  let z := s.begun me
  let get := fun (g : Option GRec) (f : GRec → List Nat) i => (g.map fun r => (f r).getD i 0).getD 0
  let out := fun (n : Nat) => Msg.word w n
  let calm := fun (t : State) => SameBytes s t ∧ ∀ d y, t.ctxAt d y = s.ctxAt d y
  let reads := fun (ev : Instr) (x : Except EngStop Unit) => ∀ a n, x = .error (.fetch a n) → z.engRead me [(a, n)] = .ok ([bs], t1) → Gives (exec ev s) fun t =>
    (t.runOf me).words = (s.runOf me).words ++ [(a, bs)] ∧ ev ∈ t.pending ∧ EngineWrote s t c [] []
  let computes := fun (ev : Instr) (es : List (EAddr × List Byte)) (result progress : BitVec 32) => Gives (exec ev s) fun t =>
    (t.runOf me).outs = es ∧ (t.runOf me).final = some (result, progress) ∧ ev ∈ t.pending ∧ calm t
  let record := fun (ev : Instr) (n : Nat) (eta lam : List Nat) => z.gmAddr me (out n) 64 = .ok a → z.engCheck me [(a, recordLen o.dim)] = .ok ps →
    let all := o.bytes (o.damped o.eta eta) (o.damped o.lam lam)
    computes ev ((a, all.take 8) :: cutElems 4 (a.plus 8) (all.drop 8)) (BitVec.ofNat 32 (residual ((o.damped o.eta eta).zip o.eta))) 1
  let fails := fun (ev : Instr) (q : BitVec 9) => FailsWith s c 4 p q (some 0) (some 0) (exec ev s)
  let singular := fun (ev : Instr) (j : Nat) => FailsWith s c 4 p 0x140 (some (BitVec.ofNat 32 j)) (some 0) (exec ev s)
  let unit := fun (x : Except EngStop GRec) => x.map fun _ => ()
  ((s.runOf me).final = some f → ∀ k ev, (k, ev) ∈ [(1, Instr.gmF2v c), (2, .gmV2f c), (3, .gmBel c), (4, .gmMean c), (5, .gmDamp c)] → s.working me k p →
    ((s.runOf me).outs = e :: r → z.engCheck me [(e.1, e.2.length)] = .ok ps → Gives (exec ev s) fun t =>
      EngineWrote s t c ps e.2 ∧ (t.runOf me).outs = r ∧ ev ∈ t.pending)
    ∧ ((s.runOf me).outs = [] → Gives (exec ev s) fun t => Ended s t c 4 p 0 0 (some f.2) (some f.1) ∧ calm t))
  ∧ ((s.runOf me).final = none →
    (s.working me 2 p → (reservedClear w [(255, 64)] = false → fails (.gmV2f c) 0x083)
      ∧ (reservedClear w [(255, 64)] = true → reads (.gmV2f c) (unit (z.gmMessage me (out 3) none true))
        ∧ (z.gmMessage me (out 3) none true = .ok o → reads (.gmV2f c) (unit (z.gmMessage me (out 1) (some o.dim) false))
          ∧ (z.gmMessage me (out 1) (some o.dim) false = .ok b → z.gmOptional me (out 2) o.dim = .ok m →
            record (.gmV2f c) 3 (((List.range b.eta.length).zip b.eta).map fun e => gSub e.2 (get m GRec.eta e.1))
              (((List.range b.lam.length).zip b.lam).map fun e => gSub e.2 (get m GRec.lam e.1))))))
    ∧ (s.working me 3 p → (reservedClear w [(262, 64)] = false ∨ 64 < Msg.field w 262 256 → fails (.gmBel c) 0x083)
      ∧ (reservedClear w [(262, 64)] = true → Msg.field w 262 256 ≤ 64 → reads (.gmBel c) (unit (z.gmMessage me (out 3) none true))
        ∧ (z.gmMessage me (out 3) none true = .ok o → z.gmOptional me (out 1) o.dim = .ok pr →
          let n := Msg.field w 262 256
          let sum := fun (f : GRec → List Nat) => (ms.filter fun g => !g.null).foldl (fun (q : List Nat) g => (q.zip (f g)).map fun e => gAdd e.1 e.2)
            ((pr.map f).getD (List.replicate (f o).length 0))
          z.gmAddr me (out 2) 8 = .ok fa → z.gmRead me fa (8 * n) = .ok bs →
          z.gmList me ((List.range n).map fun i => BitVec.ofNat 64 (ofBytes ((bs.drop (8 * i)).take 8))) o.dim = .ok ms →
          record (.gmBel c) 3 (sum GRec.eta) (sum GRec.lam))))
    ∧ (s.working me 5 p → (reservedClear w [(191, 64)] = false → fails (.gmDamp c) 0x083)
      ∧ (reservedClear w [(191, 64)] = true → reads (.gmDamp c) (unit (z.gmMessage me (out 2) none true))
        ∧ (z.gmMessage me (out 2) none true = .ok o → reads (.gmDamp c) (unit (z.gmMessage me (out 1) (some o.dim) false))
          ∧ (z.gmMessage me (out 1) (some o.dim) false = .ok b → record (.gmDamp c) 2 b.eta b.lam))))
    ∧ (s.working me 1 p → (reservedClear w [(449, 64)] = false → fails (.gmF2v c) 0x083)
      ∧ (reservedClear w [(449, 64)] = true → z.gmAddr me (out 1) 64 = .ok fa → reads (.gmF2v c) ((z.gmHead me fa).map fun _ => ())
        ∧ (z.gmHead me fa = .ok h →
          let v := Msg.field w 449 448
          let ds := factorDims h
          let n := ds.foldl (· + ·) 0
          (∀ q, factorCause h = some q → fails (.gmF2v c) q)
          ∧ (factorCause h = none → (∀ j, j < 4 → bitsOf h 2 0 ≤ j → j ≠ v → out (2 + j) = 0) → v < bitsOf h 2 0 →
            z.gmRead me (fa.plus 8) (bodyLen n) = .ok bs → z.gmVars me w ds v (List.range (bitsOf h 2 0)) = .ok vms →
            z.gmMessage me (out 6) (some (ds.getD v 0)) true = .ok o →
            let x := factorMessage ds v (addedEta ds vms (wordsOf bs n)) (addedLam ds vms n (wordsOf (bs.drop (4 * n)) (n * (n + 1) / 2)))
            (∀ e l, x = .ok (e, l) → record (.gmF2v c) 6 e l) ∧ ∀ j, x = .error j → singular (.gmF2v c) j))))
    ∧ (s.working me 4 p → (reservedClear w [(191, 64)] = false → fails (.gmMean c) 0x083)
      ∧ (reservedClear w [(191, 64)] = true → reads (.gmMean c) (unit (z.gmMessage me (out 1) none false))
        ∧ (z.gmMessage me (out 1) none false = .ok b → z.gmAddr me (out 2) 64 = .ok a →
          z.gmRead me a (4 * b.dim) = .ok bs → z.engCheck me [(a, 4 * b.dim)] = .ok ps →
          (b.null = true → singular (.gmMean c) 0)
          ∧ (∀ j, b.null = false → chol (triGet b.dim b.lam) b.dim = .error j → singular (.gmMean c) j)
          ∧ ∀ l, b.null = false → chol (triGet b.dim b.lam) b.dim = .ok l →
            let mu := backSolve l (fwdSolve l (fun i => b.eta.getD i 0) b.dim) b.dim
            computes (.gmMean c) (cutElems 4 a (mu.flatMap (toBytes 4))) (BitVec.ofNat 32 (residual (mu.zip (wordsOf bs b.dim)))) (BitVec.ofNat 32 b.dim)))))

/-- 10 R342 to R345: the link engine copies like the copy engine, from and to memory alone; an ARED that keeps its rules ends with status 2 where
it has no partner, and otherwise takes its place among those of its tag, reads each chunk and sends it to its partner, whose chunk is combined
with it element by element, device 0's operand first, and written; when the partner's launch ends it is 0x0D1. The order of 0x083, 0x047 and 0x042 and PROGRESS modulo 2^32 are
log 28. -/
def Obligations.LinkEngine : Prop := ∀ (s : State) (n : Nat) (c : CoreId) (p : Packet) (l : Launch) (src dst : EAddr) (bs peer : List Byte) (t1 : State) (ps : List Span)
    (k ord : Nat) (q : BitVec 16),
  let me := Eng.link n
  let w := p.word
  let i := (s.runOf me).progress
  let num := fun (n : Nat) => some (BitVec.ofNat 32 n)
  let place := fun (t : State) => (t.lane? n).bind (·.ord)
  let op := Msg.field w 162 160
  let tag := BitVec.ofNat 16 (Msg.field w 178 163)
  let count := Msg.field w 159 128
  let buf := Msg.word w 1
  let z := if op = 2 then 8 else 4
  let m := min (4096 / z) (count - i)
  let at' := (EAddr.mem (va57 buf)).plus (i * z : Nat)
  let own := fun (va : Word) (len : Nat) => ∀ a ∈ pagesOf va len, ∀ pa, s.hostPhys (s.engPasid me) a false = some pa → s.ownMem pa = true
  (s.working me 2 p → reservedClear w [(231, 192), (191, 64)] = true → s.engAddr me .none (Msg.word w 1) = .ok src → s.engAddr me .none (Msg.word w 2) = .ok dst →
    let total := Msg.field w 231 192
    let m := min 64 (total - i)
    (s.begun me).engRead me [(src.plus i, m)] = .ok ([bs], t1) → t1.engCheck me [(dst.plus i, m)] = .ok ps → Gives (exec (.lkCopy n) s) fun t =>
      EngineWrote s t c ps bs ∧ (i + m = total → LinkEnded s t p 0 0 (num total) (num total)) ∧ (i + m ≠ total → GoesOn t me p (i + m) (.lkCopy n)))
  ∧ (s.working me 2 p → reservedClear w [(231, 192), (191, 64)] = true →
      (Msg.word w 1).extractLsb' 60 4 = 15 ∨ (s.engAddr me .none (Msg.word w 1) = .ok src ∧ (Msg.word w 2).extractLsb' 60 4 = 15) →
      Gives (exec (.lkCopy n) s) fun t => LinkEnded s t p 1 0x047 (num i) none ∧ SameBytes s t)
  ∧ (s.working me 1 p → place s = none →
    let bad := reservedClear w [(178, 64)] = false ∨ 5 ≤ op ∨ count = 0 ∨ 2 ^ 28 < count
    (bad → Gives (exec (.lkAred n) s) fun t => LinkEnded s t p 1 0x083 (num i) none ∧ SameBytes s t)
    ∧ (¬ bad → buf.extractLsb' 60 4 = 15 → Gives (exec (.lkAred n) s) fun t => LinkEnded s t p 1 0x047 (num i) none ∧ SameBytes s t)
    ∧ (¬ bad → buf.extractLsb' 60 4 ≠ 15 → buf.toNat % 64 ≠ 0 → Gives (exec (.lkAred n) s) fun t => LinkEnded s t p 1 0x042 (num i) none ∧ SameBytes s t)
    ∧ (¬ bad → buf.extractLsb' 60 4 ≠ 15 → buf.toNat % 64 = 0 →
      (∀ va ∈ pagesOf buf (count * z), (s.region (s.engPasid me) va).attr = 2 ∧ ∃ pa, s.hostPhys (s.engPasid me) va false = some pa ∧ s.ownMem pa = true) →
      (s.hasPartner p = false → Gives (exec (.lkAred n) s) fun t => LinkEnded s t p 2 0 (some 0) none ∧ SameBytes s t)
      ∧ (s.hasPartner p = true → s.launchFor p = some l → s.launch? l.lid = some l → Gives (exec (.lkAred n) s) fun t => place t = some (Sparse.get 0 l.areds tag.toNat)
        ∧ (∃ g, t.launch? l.lid = some g ∧ Sparse.get 0 g.areds tag.toNat = Sparse.get 0 l.areds tag.toNat + 1)
        ∧ t.running me = some p ∧ Instr.lkAred n ∈ t.pending ∧ SameBytes s t)))
  ∧ (s.working me 1 p → place s = some ord → s.launchFor p = some l →
    (l.partnerEnded = true → Gives (exec (.lkAred n) s) fun t => LinkEnded s t p 1 0x0D1 (num i) none ∧ SameBytes s t)
    ∧ (l.partnerEnded = false → (s.runOf me).words = [] → own (va57 (va57 buf + BitVec.ofNat 64 (i * z))) (m * z) →
      (s.begun me).engRead me [(at', m * z)] = .ok ([bs], t1) → Gives (exec (.lkAred n) s) fun t => EngineWrote s t c [] [] ∧ (t.runOf me).words = [(at', bs)]
        ∧ t.running me = some p ∧ (s.peerTrained = true →
          Instr.aredChunkExchange ⟨⟨l.queue, l.pairIndex.getD 0⟩, tag, ord⟩ bs ∈ t.peerOut)))
  ∧ (s.running me = some p → s.aredLane ⟨⟨q, k⟩, tag, ord⟩ = some n → s.engReady me = true → (s.runOf me).words = [(at', bs)] →
    let x := fun (l : List Byte) j => ofBytes ((l.drop (j * z)).take z)
    let fold := fun (j : Nat) => toBytes z (if s.dev = 0 then aredCombine op (x bs j) (x peer j) else aredCombine op (x peer j) (x bs j))
    peer.length = m * z → (s.begun me).engCheck me [(at', m * z)] = .ok ps → Gives (exec (.aredChunkExchange ⟨⟨q, k⟩, tag, ord⟩ peer) s) fun t =>
      EngineWrote s t c ps ((List.range m).flatMap fold) ∧ (i + m = count → LinkEnded s t p 0 0 (num count) none)
      ∧ (i + m ≠ count → t.running me = some p ∧ (t.runOf me).progress = i + m ∧ (t.runOf me).words = []))
  ∧ (k < Sparse.get 0 s.pairCounts q.toNat → (∃ e, s.lane? n = some e ∧ e.pkt = p ∧ e.ord ≠ none) → s.launchFor p = some l → l.queue = q → l.pairIndex = some k →
    Gives (exec (.aredPartnerEnded ⟨q, k⟩) s) fun t => LinkEnded s t p 1 0x0D1 (num i) none ∧ SameBytes s t)

/-- 10 R319, R321, R322, R324, R337, R339, 08 R258, R259: an arriving command enters the FIFO of its unit and is acknowledged, or is refused when
the unit has no room or an earlier command of its sender was refused; an element takes its place in the output FIFO and wakes what waits in
DEQ for it, and the failure of a command without reply is a trap record; a window of the Reef governor sets the next one's bounds, where the active
cores, the cores with work and the count of empty slots are log 67 (DESIGN CHOICE). -/
def Obligations.CommandsAndElements : Prop := ∀ (s : State) (p : Packet) (l : Launch) (c : CoreId) (u : BitVec 3) (e : BitVec 128) (rel r : BitVec 10) (die : Fin 4),
  let q := packetUnit p
  let k := s.coreAt c
  let answered := fun (i : Instr) (t : State) => i ∈ t.pending ∧ SameBytes s t ∧ ∀ d y, t.ctxAt d y = s.ctxAt d y
  let acked := answered (.acknowledgement p.lid p.src (packetMid p))
  let refused := answered (.nack p.lid p.src (packetMid p) true)
  let o := if u = 6 then 2 else u
  (s.launch? p.lid = some l → (∀ d n, p.src = .core d n → d = s.dev) → q ≠ 6 → l.core? p.dst.toNat = some c → l.phase = .running → s.forwarder c = none →
    k.net.refusing = false →
    (nackBlocks k.net.nacks q p.src (packetMid p) = false → (k.unit q).room q = true →
      (k.unit q).inq ≠ [] ∨ unitEvent c q (hidOf p.word) ≠ none → Gives (exec (.engineCommandArrival p) s) fun t =>
        acked t ∧ (t.unitAt c q).inq = (k.unit q).inq ++ [p] ∧ nackOf (t.coreAt c).net.nacks q p.src = none
        ∧ ((k.unit q).inq = [] → ∀ i, unitEvent c q (hidOf p.word) = some i → i ∈ t.pending))
    ∧ (nackBlocks k.net.nacks q p.src (packetMid p) = true ∨ (k.unit q).room q = false → Gives (exec (.engineCommandArrival p) s) fun t =>
        refused t ∧ (t.unitAt c q).inq = (k.unit q).inq ∧ nackOf (t.coreAt c).net.nacks q p.src ≠ none))
  ∧ (s.launch? p.lid = some l → (∀ d n, p.src = .core d n → d = s.dev) → q = 6 → s.linkNacks = [] →
    (s.linkq.length < 64 → hidOf p.word ∈ [1, 2] → Gives (exec (.engineCommandArrival p) s) fun t =>
        acked t ∧ (p ∈ t.linkq ∨ ∃ n j, t.lane? n = some j ∧ j.pkt = p))
    ∧ (64 ≤ s.linkq.length → Gives (exec (.engineCommandArrival p) s) fun t => refused t ∧ t.linkq = s.linkq))
  ∧ (s.launch? p.lid = some l → l.phase = .running → s.member p.lid r = some c →
    (Gives (exec (.completionElementArrival p.lid (.core s.dev r) u e true rel) s) fun t => SameBytes s t
      ∧ (t.unitAt c o).out = (s.unitAt c o).out ++ [e] ∧ (t.unitAt c o).reserved = (s.unitAt c o).reserved - 1
      ∧ ∀ d y, t.ctxAt d y = if d = c ∧ (s.ctxAt d y).status = .suspended (.deq o) then { s.ctxAt d y with status := .ready } else s.ctxAt d y)
    ∧ (∀ f cl pc, s.launchOf c = some f → f.field 480 480 = 1 → s.handler c (f.field 479 468) = some (cl, pc) → k.net.trapq.length < 16 →
      Gives (exec (.completionElementArrival p.lid (.core s.dev r) u e false rel) s) fun t => SameBytes s t ∧ (∀ d y, t.ctxAt d y = s.ctxAt d y)
        ∧ ∃ m, (t.coreAt c).net.trapq = k.net.trapq ++ [{ word := m, pc := pc, started := none }] ∧ (Msg.word m 1).extractLsb' 0 9 = e.extractLsb' 23 9
          ∧ Msg.word m 3 = e.extractLsb' 32 64))
  ∧ let g := s.reef[die]
    let n := s.activeCores die
    let peak := 6000 * n
    let low := g.floor / max 1 n
    let empty := (n - g.byCore.length) * low + (g.byCore.map fun e => low - e.2).foldl (· + ·) 0
    let a := min peak (g.used + empty)
    let step := peak * s.rigging 155 149 8 / 64
    Gives (exec (.reefWindow die) s) fun t => t.cores = s.cores ∧ SameBytes s t ∧ (∀ d, d ≠ die → t.reef[d] = s.reef[d])
      ∧ (t.reef[die]).used = 0 ∧ (t.reef[die]).byCore = [] ∧ (t.reef[die]).emptySlots = empty ∧ (t.reef[die]).activity = a ∧ (t.reef[die]).floor = a - step
      ∧ (t.reef[die]).bound = s.mmaCores die
      ∧ (t.reef[die]).share = min 6000 (min (peak * s.mgmt.share / 64) (a + step) / max 1 (s.mmaCores die).length)

/-- 09 R283 to R289, R296, R304, R305, 14 R446: what registration keeps and clears; when a doorbell is refused, and that an accepted one sets
TAIL and gives its queue the lowest free slot, else the idle one that was signalled least recently, the lower of two, else a place in the wait
list; that an idle slot is unmapped, and goes to the first queue of the wait list: real-time queues first, then by effective priority, the cycle
of the doorbell and the queue number; that the record read becomes the head of its slot, an invalid one gives its completion word the value
0xFFFF_FFFF_FFFF_FFFE, and a gate opens or orphans a head. A refused record read, and an invalid record whose completion word cannot be written,
set ERR, and the queue dispatches nothing further. -/
def Obligations.QueuesAndSlots : Prop := ∀ (s : State) (q : BitVec 16) (d old : Msg) (tail : BitVec 32) (n : Fin 128) (h : Head) (r args : Msg)
    (ds : List (Nat × List (BitVec 10))) (v : Nat),
  let f := fun (hi lo : Nat) => Msg.field d hi lo
  let k := s.slotAt n
  let pasid := s.queuePasid q
  let same := fun (t : State) => t.cores = s.cores ∧ SameBytes s t
  let dead := fun (t : State) => same t ∧ q ∈ t.deadQueues ∧ (s.desc q ≠ none → t.qf q 257 257 = 1)
  let free := fun (m : Fin 128) => (s.slotAt m).queue = none
  let open' := fun (m : Fin 128) => s.slotIdle m = true ∧ (s.slotAt m).lastBell < s.cyc
  let kind := fun (e : BitVec 16 × Nat) => 1 - s.qf e.1 71 71
  let rank := fun (e : BitVec 16 × Nat) => 7 - min 7 (s.qf e.1 70 68 + (s.cyc - e.2) / 150000)
  let before := fun (a b : BitVec 16 × Nat) => kind a < kind b ∨ (kind a = kind b ∧ (rank a < rank b
    ∨ (rank a = rank b ∧ (a.2 < b.2 ∨ (a.2 = b.2 ∧ a.1.toNat ≤ b.1.toNat)))))
  (f 511 320 = 0 → f 287 261 = 0 → f 191 185 = 0 → f 63 57 = 0 → f 5 0 = 0 → 3 ≤ f 67 64 → f 71 71 = 0 → s.setAt = [] → s.desc q = some old →
    Gives (exec (.queueRegister q d) s) fun t => same t ∧ ∃ e, t.desc q = some e ∧ (∀ p, p ≠ q → t.desc p = s.desc p) ∧ ∀ i, i < 512 → e.getLsbD i =
      if (192 ≤ i ∧ i < 256) ∨ i = 259 ∨ i = 260 ∨ (288 ≤ i ∧ i < 320) then old.getLsbD i
      else if i = 257 ∨ i = 258 then !d.getLsbD i && old.getLsbD i else d.getLsbD i)
  ∧ (f 67 64 < 3 → exec (.queueRegister q d) s = .next s)
  ∧ (s.desc q = some old →
    let many := s.qf q 256 256 = 0 ∨ 2 ^ s.qf q 67 64 < (tail.toNat + 2 ^ 32 - s.qf q 255 224) % 2 ^ 32
    (s.mgmt.readyMap.getLsbD 5 = false → Gives (exec (.doorbell q tail) s) fun t => same t ∧ t.desc q = some (setField old 257 257 1)
      ∧ t.mgmt.refusedReqs = s.mgmt.refusedReqs + 1)
    ∧ (s.mgmt.readyMap.getLsbD 5 = true → many → Gives (exec (.doorbell q tail) s) fun t => same t ∧ t.desc q = some (setField old 257 257 1))
    ∧ (s.mgmt.readyMap.getLsbD 5 = true → ¬ many → Gives (exec (.doorbell q tail) s) fun t => same t ∧ t.qf q 223 192 = tail.toNat
      ∧ t.qf q 255 224 = s.qf q 255 224 ∧ (t.slotOfQueue q ≠ none ∨ ∃ e ∈ t.waiting, e.1 = q)
      ∧ (s.slotOfQueue q = none →
        (free n → (∀ m, m < n → ¬ free m) → (t.slotAt n).queue = some q ∧ ∀ m, m ≠ n → t.slotAt m = s.slotAt m)
        ∧ ((∀ m, ¬ free m) → open' n → (∀ m, open' m → (s.slotAt n).lastBell < (s.slotAt m).lastBell ∨ ((s.slotAt n).lastBell = (s.slotAt m).lastBell ∧ n ≤ m)) →
          (t.slotAt n).queue = some q ∧ ∀ m, m ≠ n → t.slotAt m = s.slotAt m)
        ∧ ((∀ m, ¬ free m ∧ ¬ open' m) → t.slots = s.slots ∧ ∃ e ∈ t.waiting, e.1 = q))))
  ∧ (∀ e ∈ s.waiting, (∀ e' ∈ s.waiting, before e e') → s.slotIdle n = true → k.idleSince + s.rigging 143 128 200 * 1500 ≤ s.cyc →
      Gives (exec (.slotIdleTimeout n) s) fun t => same t ∧ (t.slotAt n).queue = some e.1 ∧ (∀ m, m ≠ n → t.slotAt m = s.slotAt m)
        ∧ ∀ w ∈ t.waiting, w.1 ≠ e.1)
  ∧ (s.waiting = [] → s.slotIdle n = true → k.idleSince + s.rigging 143 128 200 * 1500 ≤ s.cyc → Gives (exec (.slotIdleTimeout n) s) fun t =>
      same t ∧ (t.slotAt n).queue = none ∧ ∀ m, m ≠ n → t.slotAt m = s.slotAt m)
  ∧ (s.slotIdle n = false ∨ s.cyc < k.idleSince + s.rigging 143 128 200 * 1500 → exec (.slotIdleTimeout n) s = .next s)
  ∧ (k.queue = some q → s.canRead n = true →
    (∀ child, (child = true ∧ k.children.head?.map (·.1) = some r)
        ∨ (child = false ∧ k.children = [] ∧ k.aside = none ∧ k.taken = none ∧ s.unitRead pasid (s.headVa q) 64 = .got v ∧ r = BitVec.ofNat 512 v) →
      let bad := s.readArgs pasid r = .invalid ∨ (s.readArgs pasid r = .ok args ∧ s.readDescs pasid r args = .invalid)
      (s.readArgs pasid r = .ok args → s.readDescs pasid r args = .ok ds → s.startAway pasid r = false → Gives (exec (.launchRecordRead n) s) fun t => same t
        ∧ (child = false → ∀ e, s.desc q = some e → t.qf q 255 224 = (s.qf q 255 224 + 1) % 2 ^ 32)
        ∧ ∃ g, (t.slotAt n).head = some g ∧ g.record = r ∧ g.args = args ∧ g.descs = ds ∧ g.child = child ∧ g.since = s.cyc
          ∧ (g.gateOpen = true ↔ low57 (Msg.word args 0) = 0) ∧ (low57 (Msg.word args 0) ≠ 0 → Instr.gateRead n ∈ t.pending))
      ∧ (bad → s.cwordBad pasid (cwordOf r) = true → Gives (exec (.launchRecordRead n) s) fun t => dead t)
      ∧ (∀ pa, bad → s.cwordBad pasid (cwordOf r) = false → s.wordReady pasid (cwordOf r) = true → s.hostPhys pasid (cwordOf r) true = some pa →
        (s.line (pa / 64)).u = [] → s.openCells pa 8 = [] → Gives (exec (.launchRecordRead n) s) fun t => t.cores = s.cores
          ∧ ∀ a, t.mem.byte a = (s.mem.write pa (toBytes 8 0xFFFFFFFFFFFFFFFE)).byte a))
    ∧ (k.children = [] → k.aside = none → k.taken = none → s.unitRead pasid (s.headVa q) 64 = .refused →
        Gives (exec (.launchRecordRead n) s) fun t => dead t))
  ∧ (k.queue = some q → k.head = some h → low57 (Msg.word h.args 0) ≠ 0 → s.deadQueues.contains q = false →
    s.unitRead pasid (va57 (Msg.word h.args 0)) 8 = .got v →
    Gives (exec (.gateRead n) s) fun t => same t ∧ ∃ g, (t.slotAt n).head = some g ∧ g.record = h.record ∧ g.gateAt = s.cyc
      ∧ (v = 0 → g = { h with gateAt := s.cyc, gateOpen := false, eligibleAt := none } ∧ t.raised = s.raised)
      ∧ (v ∈ [0xFFFFFFFFFFFFFFFF, 0xFFFFFFFFFFFFFFFE, 0xFFFFFFFFFFFFFFFD] → g.orphan = true ∧ g.gateOpen = false
        ∧ (h.orphan = false → ∀ x, s.vectorOf q = some x → t.raised = s.raised ++ [x]))
      ∧ (v ∉ [0, 0xFFFFFFFFFFFFFFFF, 0xFFFFFFFFFFFFFFFE, 0xFFFFFFFFFFFFFFFD] → g.gateOpen = true ∧ g.orphan = false))

/-- 09 R291 to R302, 14 R433, R435, R449: the first of the ranked heads is placed on the first clusters it fits, its cores take their identities
with all registers at reset, and every core with work receives a start message; else it is blocked. At its deadline exactly the gangs that hold
clusters of the first place that they and the free clusters make begin to be saved, where each of them may be pre-empted and firmware memory has
room for their parts (14 R434); with no such place none does. A saved gang's cores are idle, and a resumed one's are as they were. -/
def Obligations.Scheduling : Prop := ∀ (s : State) (k : Cand) (rest : List Cand) (cl : List Nat) (n : Fin 128) (h : Head) (l : Launch) (b : Blocked) (q : BitVec 16),
  let lid := s.nextLid
  let cores := coresOf cl
  (s.mgmt.hold = true ∨ s.mgmt.readyMap.getLsbD 5 = false → exec .gangPlacement s = .next s)
  ∧ (s.mgmt.hold = false → s.mgmt.readyMap.getLsbD 5 = true →
    (s.ranked = [] → exec .gangPlacement s = .next { s with blocked := none })
    ∧ (s.ranked = k :: rest → s.hasRoom k = true → k.fit s.openClusters = some cl →
      (k.ref = .slot n → (s.slotAt n).head = some h → Gives (exec .gangPlacement s) fun t => t.blocked = none ∧ Instr.gangPlacement ∈ t.pending ∧ SameBytes s t
        ∧ (∃ g ∈ t.launches, g.lid = lid ∧ g.record = h.record ∧ g.cores = cores ∧ g.phase = .running ∧ g.startedAt = s.cyc)
        ∧ (∀ c ∈ cores, (t.coreAt c).ident.lid = some lid ∧ ∀ x, t.ctxAt c x = Ctx.reset) ∧ (∀ c, c ∉ cores → t.coreAt c = s.coreAt c)
        ∧ (cores.Nodup → ∀ j c, cores[j]? = some c →
          let i := (t.coreAt c).ident
          let r := fun (hi lo : Nat) => Msg.field h.record hi lo
          let absent := fun (d : Nat) => r (271 + 16 * d) (256 + 16 * d) = 0
          let size := fun (d : Nat) => if absent d then 1 else r (271 + 16 * d) (256 + 16 * d)
          let tile := fun (d : Nat) => if absent d then 1 else r (335 + 16 * d) (320 + 16 * d)
          let tiles := fun (d : Nat) => (size d + tile d - 1) / tile d
          let org := fun (d : Nat) => (let q := j / ((List.range d).map tiles).prod
            if d = 3 then q else q % tiles d) * tile d
          i.rel = BitVec.ofNat 10 j ∧ i.hbase = BitVec.ofNat 57 (r 56 0) ∧ i.nhlog = r 60 57 ∧ i.pasid = s.queuePasid k.q ∧ i.xt = (r 481 481 == 1)
          ∧ i.stack = 0xF002000000000000 ||| BitVec.ofNat 64 (r 500 492 * 1024)
          ∧ i.budget = BitVec.ofNat 32 (if r 125 121 = 0 then 2 ^ 24 else 2 ^ r 125 121) ∧ (t.coreAt c).net.clsen = 0xFFFFFFFFFFFFFFFF
          ∧ ∀ d : Fin 4, i.org[d] = BitVec.ofNat 64 (org d.val)
            ∧ i.ext[d] = BitVec.ofNat 64 (if org d.val < size d.val then min (tile d.val) (size d.val - org d.val) else 0))
        ∧ ∀ j ∈ startCores h.record, j < cores.length → ∃ e ∈ t.linkRetry, e.pkt.lid = lid ∧ e.pkt.dst = BitVec.ofNat 10 j
          ∧ ∀ i, 0 < i → i < 8 → Msg.word e.pkt.word i = Msg.word h.args i)
      ∧ (k.ref = .saved l.lid → s.launch? l.lid = some l → Gives (exec .gangPlacement s) fun t => t.blocked = none ∧ Instr.gangResume l.lid ∈ t.pending
        ∧ (t.launch? l.lid).map (·.phase) = some .resuming ∧ t.cores = s.cores ∧ SameBytes s t))
    ∧ (s.ranked = [k] → (s.hasRoom k = false ∨ k.fit s.openClusters = none) → s.isRt k = false → Gives (exec .gangPlacement s) fun t =>
        t.blocked.map (·.who) = some k.ref ∧ t.cores = s.cores ∧ t.launches = s.launches ∧ SameBytes s t))
  ∧ (s.blocked = some b → s.ranked = k :: rest → b.is k = true → b.tried = false → b.deadline ≤ s.cyc → (s.launches.map (·.lid)).Nodup →
    Gives (exec .deadlinePreempt s) fun t => t.blocked.map (·.tried) = some true ∧ t.cores = s.cores ∧ SameBytes s t
      ∧ ∀ i g g', s.launch? i = some g → t.launch? i = some g' → g' = g ∨ (g.phase = .running ∧ g' = { g with phase := .saving }
        ∧ Instr.preemptionSaved i ∈ t.pending ∧ (g.backfill = some (b.who, b.since) ∨ (s.qf g.queue 70 68 ≤ s.candPrio k ∧ g.enteredAt + 1500000 ≤ s.cyc)))
      ∧ ∀ gs, gs = (s.launches.filter fun g => decide (g.phase = .running ∧ s.qf g.queue 184 128 ≠ 0 ∧ (∀ c ∈ g.cores, ∀ m ∈ s.migrations, m.src ≠ c)
          ∧ (g.backfill = some (b.who, b.since) ∨ (s.qf g.queue 70 68 ≤ s.candPrio k ∧ g.enteredAt + 1500000 ≤ s.cyc)))) →
        (∀ g ∈ gs, s.saveFits [g] = true) →
        (k.fit (s.openClusters ++ s.leaving ++ gs.flatMap Launch.held) = none → t.launches = s.launches)
        ∧ ∀ at', k.fit (s.openClusters ++ s.leaving ++ gs.flatMap Launch.held) = some at' →
          let out := gs.filter fun g => g.held.any at'.contains
          (s.saveFits out = true → t.blocked.map (·.projected) = some at' ∧ ∀ g ∈ s.launches,
            t.launch? g.lid = some (if g ∈ out then { g with phase := .saving } else g) ∧ (g ∈ out → Instr.preemptionSaved g.lid ∈ t.pending))
          ∧ (s.saveFits out = false → t.launches = s.launches))
  ∧ ((∀ b, s.blocked = some b → b.tried = true ∨ s.cyc < b.deadline) → exec .deadlinePreempt s = .next s)
  ∧ ((s.slotAt n).queue = some q → s.qf q 71 71 = 1 →
    let counted := fun (t : State) => t.cores = s.cores ∧ SameBytes s t ∧ Sparse.get 0 t.missed q.toNat = Sparse.get 0 s.missed q.toNat + 1
    (s.firstSaved q = none → (s.slotAt n).head = some h → h.missed = false → h.since + s.qf q 95 80 * 1500 < s.cyc →
      Gives (exec (.rtReservationMiss n) s) fun t => counted t ∧ (t.slotAt n).head = some { h with missed := true })
    ∧ (s.firstSaved q = some l → l.missed = false → l.enteredAt + s.qf q 95 80 * 1500 < s.cyc →
      Gives (exec (.rtReservationMiss n) s) fun t => counted t ∧ ∀ g, t.launch? l.lid = some g → g.missed = true))
  ∧ (s.launch? l.lid = some l →
    let busy := ∃ i ∈ s.pending ++ s.parked, s.gangOf i = some l.lid ∧ isKick i = false ∧ isKept i = false ∧ i ≠ .preemptionSaved l.lid
    let whole := ∀ c ∈ l.cores, s.midway c = false
    (l.phase = .saving → busy ∨ (whole ∧ s.saveHeld l ≠ []) → Gives (exec (.preemptionSaved l.lid) s) fun t =>
        Instr.preemptionSaved l.lid ∈ t.parked ∧ t.cores = s.cores ∧ SameBytes s t)
    ∧ (l.phase = .saving → ¬ busy → whole → s.saveHeld l = [] → Gives (exec (.preemptionSaved l.lid) s) fun t =>
        (∀ c ∈ l.cores, (t.coreAt c).ident.lid = none ∧ ∀ x, t.ctxAt c x = Ctx.reset)
        ∧ ∃ g, t.launch? l.lid = some g ∧ g.phase = .saved ∧ g.images.length = l.cores.length ∧ g.enteredAt = s.cyc)
    ∧ (l.phase = .resuming → l.cores.Nodup → l.images.length = l.cores.length → (∀ m ∈ l.images, m.splice.pend = []) → Gives (exec (.gangResume l.lid) s) fun t => SameBytes { s with cores := t.cores } t
        ∧ (t.launch? l.lid).map (·.phase) = some .running
        ∧ (∀ (j : Nat) (c : CoreId) (m : Core), l.cores[j]? = some c → l.images[j]? = some m → (t.coreAt c).ident = m.ident ∧ (t.coreAt c).sp = m.sp
          ∧ ∀ x : CtxId, t.ctxAt c x = { m.ctxs[x] with
              since := s.cyc - m.ctxs[x].since, busy := 0, status := match m.ctxs[x].status with
                | .suspended (.fault _) => .ready
                | st => st })
        ∧ ∀ i ∈ l.inbox, i ∈ t.pending))

/-- 09 R308, R311, 14 R446: a write of a direct window, refused and counted while CXL.io is not usable, writes the doublewords that it covers; one
that covers the last posts the message, which leaves for the newest running launch of its queue with its entry address and two arguments, or counts as
dropped (one of a queue without a slot is counted nowhere, log 63); a ready record whose header is legal leaves for its core, and any other is 0x0C5;
a release that waits keeps the record it has read, and is offered again (a record off its alignment is 0x0CC, log 36). -/
def Obligations.LaunchUnitMessages : Prop := ∀ (s : State) (q : BitVec 16) (n : Fin 128) (w0 w1 w2 w3 : Option Word) (l : Launch) (r : Ready) (h : Held),
  let same := fun (t : State) => t.cores = s.cores ∧ SameBytes s t
  let post := exec (.directMessage q w0 w1 w2 w3) s
  let word := fun (k : Nat) => ([w0, w1, w2, w3].getD k none).getD ((s.window q).extractLsb' (64 * k) 64)
  let usable := s.mgmt.readyMap.getLsbD 1 = true
  (¬ usable → Gives post fun t => same t ∧ t.direct = s.direct ∧ t.slots = s.slots ∧ t.linkRetry = s.linkRetry
    ∧ t.mgmt.refusedReqs = s.mgmt.refusedReqs + 1 ∧ t.toHost = s.toHost ++ [.unsupported])
  ∧ (usable → Gives post fun t => same t ∧ (∀ k, k < 4 → (t.window q).extractLsb' (64 * k) 64 = word k) ∧ ∀ p, p ≠ q → t.window p = s.window p)
  ∧ (usable → w3 ≠ none → s.slotOfQueue q = some n →
    let core := (word 0).toNat
    let bad := 1024 ≤ core ∨ l.core? core = none ∨ core ∉ startCores l.record ∨ (word 1).getLsbD 0 = true
    (s.newest q = none ∨ (s.newest q = some l ∧ bad) → Gives post fun t => same t
      ∧ (t.slotAt n).drops = (s.slotAt n).drops + 1 ∧ t.linkRetry = s.linkRetry)
    ∧ (s.newest q = some l → ¬ bad → Gives post fun t => same t ∧ t.luMid = s.luMid + 1
      ∧ ∃ e, t.linkRetry = s.linkRetry ++ [e] ∧ e.pkt.lid = l.lid ∧ e.pkt.dst = BitVec.ofNat 10 core ∧ e.pkt.src = .linkDie ∧ e.pkt.kind = .direct (va57 (word 1))
        ∧ Msg.word e.pkt.word 1 = word 2 ∧ Msg.word e.pkt.word 2 = word 3
        ∧ (s.stopped l.lid = false → Instr.messageArrival (s.injected e.pkt) ∈ t.pending)))
  ∧ (usable → w3 = none ∨ s.slotOfQueue q = none → Gives post fun t => same t ∧ t.slots = s.slots ∧ t.linkRetry = s.linkRetry)
  ∧ (s.mgmt.hold = true ∨ s.nextReady = none → exec .readyQueueSend s = .next s)
  ∧ (s.mgmt.hold = false → s.nextReady = some r → s.launch? r.lid = some l →
    (s.readyOk l r = true → Gives (exec .readyQueueSend s) fun t => same t ∧ t.readyq = s.readyq.erase r ∧ ∃ e, t.linkRetry = s.linkRetry ++ [e]
      ∧ e.pkt.lid = l.lid ∧ e.pkt.dst = (Msg.word r.word 0).extractLsb' 35 10 ∧ (∀ j, 0 < j → j < 8 → Msg.word e.pkt.word j = Msg.word r.word j)
      ∧ (Msg.word e.pkt.word 0).extractLsb' 16 16 = s.luMid ∧ (s.stopped l.lid = false → Instr.messageArrival (s.injected e.pkt) ∈ t.pending))
    ∧ (∀ c, s.readyOk l r = false → l.cores.head? = some c → Gives (exec .readyQueueSend s) fun t => same t ∧ t.readyq = s.readyq.erase r
      ∧ t.linkRetry = s.linkRetry ∧ ∃ w, Instr.trapRecordArrival c l.lid w ∈ t.pending ∧ (Msg.word w 1).extractLsb' 0 9 = 0x0C5 ∧ Msg.word w 3 = r.va))
  ∧ (s.held.find? (fun g => g.pa == h.pa) = some h → s.launch? h.lid = some l →
    let again := fun (f : State → Prop) => Gives (exec (.readyQueueReoffer h.pa) s) fun t => same t ∧ f t
    let bad := (s.space l.pasid).stopped = true ∨ (s.region l.pasid h.task).attr = 0 ∨ low57 h.task % 64 ≠ 0 ∨ s.vaRefused l.pasid h.task = true
    let has := fun (m : Msg) => h.record = some m
      ∨ (h.record = none ∧ ¬ bad ∧ s.vaHeld l.pasid h.task 64 = false ∧ (s.readVa l.pasid h.task 64).map (BitVec.ofNat 512) = some m)
    (∀ m, has m →
      (s.readyq.length < 1024 → again fun t => t.held = s.held.erase h ∧ ∃ e, t.readyq = s.readyq ++ [e] ∧ e.lid = h.lid ∧ e.word = m
        ∧ e.cycle = h.cycle ∧ e.prio = h.prio ∧ e.counter = h.pa)
      ∧ (1024 ≤ s.readyq.length → again fun t => t.held = s.held.erase h ++ [{ h with record := some m }] ∧ t.readyq = s.readyq))
    ∧ (h.record = none → ¬ bad → s.vaHeld l.pasid h.task 64 = true ∨ s.readVa l.pasid h.task 64 = none → again fun t =>
        t.held = s.held.erase h ++ [h] ∧ t.readyq = s.readyq)
    ∧ (h.record = none → bad → again fun t => t.held = s.held.erase h ∧ t.readyq = s.readyq))

/-- 11 R350 to R352, R355, R358, R362, R364: what a request that meets a cell gets, once the host holds no exclusive copy of the line: the word of a
VALUE cell; 0x102 of an ERROR cell; 0x100 with the chain flag; of a FURLED cell the first request starts the evaluation and makes it UNFURLING; a
later one joins its waiters in the table of the cell's home, or is refused for want of room. A failure makes the cell ERROR and wakes every waiter
with its cause; a waiter's limit is 0x101; a refused one is sent again, a reduction to where its address is now translated (06 R186). What answers a
requester of the peer package leaves over the stay link. -/
def Obligations.FurledRequests : Prop := ∀ (s : State) (r : FurlReq) (pa : Nat),
  let tag := s.tag r.pa
  let w := BitVec.ofNat 64 (s.mem.num (r.pa / 8 * 8) 8)
  let free := s.hostHolds (r.pa / 64) = false
  let table := fun (t : State) p => t.cleatAt p
  let full := 64 ≤ (table s r.pa).length
  let waiters := (s.furlEntries r.pa).filterMap Cleat.waiter
  let calm := (s.line (r.pa / 64)).u = []
  let told := fun (t : State) (d : BitVec 1) (i : Instr) => (d = s.dev → i ∈ t.pending) ∧ (d ≠ s.dev → s.peerTrained = true → i ∈ t.peerOut)
  let gives := fun (p : State → Prop) => Gives (exec (.furledRequestAtHome r) s) fun t => t.cores = s.cores ∧ p t
  let failed := fun (i : Instr) (q : BitVec 9) => (s.tag pa = 2 → (s.line (pa / 64)).u = [] → Gives (exec i s) fun t => t.tag pa = 3 ∧ t.furlEntries pa = []
      ∧ t.cores = s.cores ∧ SameBytes s t ∧ ∀ k ∈ s.furlEntries pa, ∀ f, k.waiter = some (none, f) → told t f.dev (.furledWake f (.cause q)))
    ∧ (s.tag pa ≠ 2 → exec i s = .next s)
  (¬ free → gives fun t => SameBytes s t ∧ Instr.furledRequestAtHome r ∈ t.parked ∧ (t.line (r.pa / 64)).snooping = true)
  ∧ (free → calm → tag = 0 → (∀ f wd o, r.what ≠ .red f wd o) → gives fun t => SameBytes s t ∧ told t r.dev (.furledWake r (.word w)) ∧ t.tag r.pa = 0)
  ∧ (∀ f wd o, free → calm → tag = 0 → r.what = .red f wd o → gives fun t => ∀ a, t.mem.byte a
      = (s.mem.write r.pa (toBytes (redSize wd) (redFn f wd (s.mem.num r.pa (redSize wd)) (o.toNat % 2 ^ (8 * redSize wd))))).byte a)
  ∧ (free → tag = 3 → gives fun t => SameBytes s t ∧ told t r.dev (.furledWake r (.cause 0x102)))
  ∧ (free → tag = 1 ∨ tag = 2 → r.chain = true → gives fun t => SameBytes s t ∧ told t r.dev (.furledWake r (.cause 0x100)))
  ∧ (free → calm → tag = 1 → r.chain = false → ¬ full → gives fun t => SameBytes s t ∧ t.tag r.pa = 2 ∧ table t r.pa = table s r.pa ++ [.furl r true true 0]
      ∧ told t r.dev (.evaluationMessage r w))
  ∧ (free → tag = 2 → r.chain = false → ¬ full → waiters.length < 8 → gives fun t => SameBytes s t ∧ t.tag r.pa = 2
      ∧ ∃ n, table t r.pa = table s r.pa ++ [.furl r false true n])
  ∧ (free → r.chain = false → (tag = 1 ∧ full) ∨ (tag = 2 ∧ (full ∨ 8 ≤ waiters.length)) → gives fun t => SameBytes s t ∧ t.refused = s.refused ++ [(r, s.cyc)])
  ∧ failed (.recordFailureReport pa) 0x103 ∧ failed (.evaluationFailureReport pa) 0x102
  ∧ (let due := r.issued + 2 ^ s.rigging 148 144 22 ≤ s.cyc
    (¬ due → exec (.furlWaitLimit r) s = .next s)
    ∧ (due → (∃ e ∈ s.refused, e.1 = r) → Gives (exec (.furlWaitLimit r) s) fun t => t.cores = s.cores ∧ SameBytes s t
        ∧ told t r.dev (.furledWake r (.cause 0x101)) ∧ ∀ e ∈ t.refused, e.1 ≠ r)
    ∧ (∀ f n, due → (∀ e ∈ s.refused, e.1 ≠ r) → (s.furlEntries r.pa).find? (isFurl r) = some (.furl r f true n) → Gives (exec (.furlWaitLimit r) s) fun t =>
        t.cores = s.cores ∧ SameBytes s t ∧ told t r.dev (.furledWake r (.cause 0x101)) ∧ ∀ k ∈ t.furlEntries r.pa, isFurl r k = false))
  ∧ ((∃ e ∈ s.refused, e.1 = r) →
    let resent := fun (p : State → Prop) => Gives (exec (.furlWaiterResend r) s) fun t => t.cores = s.cores ∧ SameBytes s t ∧ p t
    let now := s.hostPhys (s.coreAt r.core).ident.pasid r.va true
    let red := r.dev = s.dev ∧ ∃ f wd o, r.what = .red f wd o
    (¬ red → resent fun t => Instr.furledRequestAtHome r ∈ t.pending ∧ ∀ e ∈ t.refused, e.1 ≠ r)
    ∧ (∀ p, red → now = some p → resent fun t => Instr.furledRequestAtHome { r with pa := p } ∈ t.pending ∧ ∀ e ∈ t.refused, e.1 ≠ r)
    ∧ (red → now = none → resent fun t => (r, s.cyc) ∈ t.refused))

/-- 11 R351, R354, R356 to R358: an evaluation sends the record's message, with the cell's address in word 7 and the chain of its first waiter, the
record of a private region being read in its owner's own L1; a record that may not be read or sent is a record failure, one whose page or line is not
at hand is waited for. A wake gives its waiter the answer: a load executes again once every cell has answered; an atomic is sent again, issues again
where its page is another one by then (06 R186), or raises the cause; an engine goes on; a reduction reports the cause, and what waited for it goes on
(08 R256). A page that is not present holding the evaluation up, and a cause that is refused, are log 52 (DEDUCED). -/
def Obligations.FurledWakes : Prop := ∀ (s : State) (r : FurlReq) (w : Word) (lid n : Nat) (op : HomeOp) (q : BitVec 9) (v : Word),
  let k := s.coreAt r.core
  let va := va57 (w &&& 0x1FFFFFFFFFFFFC0)
  let place := bitsOf w.toNat 5 4
  let rec0 := BitVec.ofNat 512 n
  let m := s.evalWord r rec0 (s.evalCore r place rec0).1
  let cell := r.va &&& 0x1FFFFFFFFFFFFF8
  let x := s.ctxAt r.core r.ctx
  let keeps := fun (t : State) => SameBytes s t ∧ ∀ d y, t.ctxAt d y = s.ctxAt d y
  let g := s.region k.ident.pasid va
  let barred := (s.space k.ident.pasid).stopped = true ∨ (g.attr = 0 ∧ (g.owner ≠ r.core.val ∨ g.odev ≠ s.dev)) ∨ s.vaRefused k.ident.pasid va = true
  let open1 := ¬ barred ∧ s.vaHeld k.ident.pasid va 64 = false
  let read := if g.attr = 0 then (s.hostPhys k.ident.pasid va false).map fun pa => ofBytes (s.ownBytes r.core pa 64) else s.readVa k.ident.pasid va 64
  let waits := fun (t : State) => keeps t ∧ Instr.evaluationMessage r w ∈ t.parked ∧ t.cores = s.cores
  (k.ident.lid = some lid → open1 → read = some n → (∀ l, s.launchOf r.core = some l → l.cores.length ≤ 1024) →
    (s.recordOk place rec0 = true → s.sendOk r.core m = true → k.net.retryBuf.length < 64 → Gives (exec (.evaluationMessage r w) s) fun t => keeps t
      ∧ ∃ e, (t.coreAt r.core).net.retryBuf = k.net.retryBuf ++ [e] ∧ e.pkt.lid = lid ∧ e.pkt.src = .core s.dev k.ident.rel
        ∧ e.pkt.kind = .eval cell r.anc.1 r.anc.2.1 r.anc.2.2 r.pa
        ∧ (∀ j, 0 < j → j < 7 → Msg.word e.pkt.word j = Msg.word rec0 j) ∧ Msg.word e.pkt.word 7 = cell
        ∧ (Msg.word e.pkt.word 0).extractLsb' 46 18 = (Msg.word rec0 0).extractLsb' 46 18 ∧ (Msg.word e.pkt.word 0).extractLsb' 16 16 = k.net.mid)
    ∧ (s.recordOk place rec0 = false ∨ s.sendOk r.core m = false → Gives (exec (.evaluationMessage r w) s) fun t => keeps t
      ∧ Instr.recordFailureReport r.pa ∈ t.pending ∧ (t.coreAt r.core).net.lfsr = if place = 3 then lfsrNext k.net.lfsr else k.net.lfsr))
  ∧ (k.ident.lid = some lid → barred → Gives (exec (.evaluationMessage r w) s) fun t => keeps t ∧ Instr.recordFailureReport r.pa ∈ t.pending ∧ t.cores = s.cores)
  ∧ (k.ident.lid = some lid → ¬ barred → s.vaHeld k.ident.pasid va 64 = true ∨ read = none → Gives (exec (.evaluationMessage r w) s) waits)
  ∧ (∀ a, r.dev ≠ s.dev → exec (.furledWake r a) s = .next s)
  ∧ (r.dev = s.dev → r.what = .load → x.status = .suspended .furled →
    (∀ a, x.asked = [r.pa] → Gives (exec (.furledWake r a) s) fun t => SameBytes s t ∧ AllBut s t r.core r.ctx
      ∧ t.ctxAt r.core r.ctx = { x with asked := [], answers := x.answers ++ [(r.pa, a)], status := .ready })
    ∧ (∀ a p, x.asked = [r.pa, p] → p ≠ r.pa → Gives (exec (.furledWake r a) s) fun t => SameBytes s t ∧ AllBut s t r.core r.ctx
      ∧ t.ctxAt r.core r.ctx = { x with asked := [p], answers := x.answers ++ [(r.pa, a)] }))
  ∧ (r.dev = s.dev → r.what = .atomic → x.status = .suspended (.atomic op) → x.asked = [r.pa] →
    (Gives (exec (.furledWake r (.word v)) s) fun t => SameBytes s t ∧ AllBut s t r.core r.ctx
      ∧ (s.hostPhys k.ident.pasid op.va true = some op.pa → Instr.homeOperation op ∈ t.pending ∧ (t.ctxAt r.core r.ctx).status = x.status)
      ∧ (s.hostPhys k.ident.pasid op.va true ≠ some op.pa → (t.ctxAt r.core r.ctx).status = .ready))
    ∧ exec (.furledWake r (.cause q)) s = .next (s.takeTrapAt r.core r.ctx q r.va 0))
  ∧ (∀ u a, r.dev = s.dev → r.what = .engine u → (s.runOf (FurlReq.eng r u)).asked = [r.pa] → u ≠ 5 → (∀ i, s.engEvent (FurlReq.eng r u) = some i →
      Gives (exec (.furledWake r a) s) fun t => keeps t ∧ i ∈ t.pending ∧ (t.runOf (FurlReq.eng r u)).asked = []
        ∧ (t.runOf (FurlReq.eng r u)).answers = (s.runOf (FurlReq.eng r u)).answers ++ [(r.pa, a)]))
  ∧ (∀ f wd o, r.dev = s.dev → r.what = .red f wd o → k.ident.lid = some lid → Gives (exec (.furledWake r (.cause q)) s) fun t => keeps t
      ∧ (∀ c, (s.ctxAt r.core c).status = .ending ∨ (s.ctxAt r.core c).status = .flushing → Instr.sendCommit r.core c ∈ t.pending)
      ∧ ∃ c, Instr.trapRecordArrival r.core lid c ∈ t.pending ∧ (Msg.word c 1).extractLsb' 0 9 = q ∧ Msg.word c 3 = va57 (r.va &&& ~~~7))

/-- 13 R397: the plans of the three fixed rules: ANNIHILATE wires the auxiliaries of equal arities together; COMMUTE makes two copies of each node
and wires them crosswise; ERASE makes a copy of the eraser for each auxiliary of the other node; with other arities the rule is malformed.
13 R395 to R398, R402 to R408: with no rewrite in progress, the top pair of a running bag is taken in hand; what its rule needs is read place by
place; the rule of its kind then begins a rewrite, which takes its nodes from the free list, writes them, and goes on one access at a
time, its pairs pushed before, and ends with its nodes pending. A HANDLER rule sends a message with the nodes' addresses, which is checked as a SEND
(11 R356; that one which fails makes the rule malformed is log 29), an ENGINE rule a command that REPLY marks and whose node waits in the engine-wait
table. A pair without a rule is dropped with its cause reported; a violation or a refused access ends the rewrite where it stands, clears RUN and is
reported (R405). -/
def Obligations.SpliceRewriting : Prop :=
  (∀ (k : Taken) (ns : List Word) (j : Nat) (m : Word) (q : BitVec 2),
    let ar := hdrArity k.hdrA
    let br := hdrArity k.hdrB
    let at' := fun (n : Word) (p : BitVec 2) => ({ node := n, port := p } : Port)
    let new := newPort
    let plan := fun (kind : Nat) (p : Option Plan) => k.entry % 8 = kind → k.plan = p
    (ar ≠ br → plan 1 none) ∧ (ar ≠ 2 ∨ br ≠ 2 → plan 2 none) ∧ (ar ≠ 0 → plan 3 none)
    ∧ (ar = 0 → br = 0 → plan 1 (some ⟨[], []⟩)) ∧ (ar = 1 → br = 1 → plan 1 (some ⟨[], [(at' k.a 1, at' k.b 1)]⟩))
    ∧ (ar = 2 → br = 2 → plan 1 (some ⟨[], [(at' k.a 1, at' k.b 1), (at' k.a 2, at' k.b 2)]⟩))
    ∧ (ar = 2 → br = 2 → plan 2 (some ⟨[k.hdrB, k.hdrB, k.hdrA, k.hdrA],
        [(at' k.a 1, new 0 0), (at' k.a 2, new 1 0), (at' k.b 1, new 2 0), (at' k.b 2, new 3 0), (new 0 1, new 2 1), (new 0 2, new 3 1),
          (new 1 1, new 2 2), (new 1 2, new 3 2)]⟩))
    ∧ (ar = 0 → br = 0 → plan 3 (some ⟨[], []⟩)) ∧ (ar = 0 → br = 1 → plan 3 (some ⟨[k.hdrA], [(at' k.b 1, new 0 0)]⟩))
    ∧ (ar = 0 → br = 2 → plan 3 (some ⟨[k.hdrA, k.hdrA], [(at' k.b 1, new 0 0), (at' k.b 2, new 1 0)]⟩))
    ∧ (j < 8 → ns[j]? = some m → (new j q).placed ns = at' m q) ∧ (8 < m.toNat → (at' m q).placed ns = at' m q))
  ∧ (∀ (s : State) (c : CoreId) (kind : BitVec 3) (i : Instr) (p : Word × Word) (k : Taken) (u : State) (r : Rewrite),
    let b := s.begun (.unit c 5)
    let sp := fun (z : State) => z.spliceAt c
    let noPend := ∀ d, (s.spliceAt d).pend = []
    let others := fun (z : State) => (∀ d y, z.ctxAt d y = s.ctxAt d y)
    let still := fun (z : State) => others z ∧ (noPend → SameBytes s z) ∧ (sp z).bag = (sp s).bag ∧ (sp z).count = (sp s).count
    let reported := fun (z : State) (q : BitVec 9) (va : Word) => noPend → ∀ l cl pc, s.launchOf c = some l → l.field 480 480 = 1 →
      s.handler c (l.field 479 468) = some (cl, pc) → (s.coreAt c).net.trapq.length < 16 → ∃ m, (z.coreAt c).net.trapq
        = (s.coreAt c).net.trapq ++ [{ word := m, pc := pc, started := none }] ∧ (Msg.word m 1).extractLsb' 0 9 = q ∧ Msg.word m 3 = va
    let counted := fun (z : State) => (sp z).count = (sp s).count + 1
      ∧ (noPend → (sp z).run = ((sp s).run && !(decide ((sp s).limit ≠ 0 ∧ (sp s).limit ≤ ((sp s).count + 1).toNat))))
    let rules := [(1, Instr.spliceAnnihilate c), (2, .spliceCommute c), (3, .spliceErase c), (4, .spliceTemplate c), (5, .spliceHandler c), (6, .spliceEngine c)]
    (s.engReady (.unit c 5) = true → s.mayRun c = true → (sp s).rewrite = none → (kind, i) ∈ rules →
      ((sp s).taking = none → s.slTakes c = true → Gives (exec i s) fun z => others z ∧ (noPend → SameBytes s z) ∧ (sp z).taking = (sp s).bag.getLast?
        ∧ (sp z).bag = (sp s).bag.dropLast ∧ (sp z).count = (sp s).count ∧ (sp z).rewrite = none)
      ∧ ((sp s).taking = some p →
        (b.takeRule c p.1 p.2 = .ok k → k.entry % 8 ≠ kind.toNat → Gives (exec i s) fun z => still z ∧ (sp z).taking = some p ∧ (sp z).rewrite = none)
        ∧ (b.takeRule c p.1 p.2 = .ok k → k.entry % 8 = kind.toNat →
          let cons := [(k.a, hdrArity k.hdrA), (k.b, hdrArity k.hdrB)]
          (∀ o, kind.toNat ≤ 4 → (if kind = 4 then b.template c k else .ok k.plan) = .ok o →
            (o = none → Gives (exec i s) fun z => still z ∧ (sp z).taking = none ∧ (sp z).rewrite = none)
            ∧ (∀ plan ifs, o = some plan → b.slFars c (portsOf 1 cons) = .ok ifs → Gives (exec i s) fun z => still z ∧ (sp z).taking = none
                ∧ (sp z).rewrite = some (Rewrite.new kind none p cons ifs plan)))
          ∧ (let header := Msg.ofWords [mkHeader (bitsOf k.entry 25 20) (bitsOf k.entry 19 8) s.dev (s.coreAt c).ident.rel.toNat 0 0 0 0 false 0 0]
            (kind = 5 → s.sendOk c header = false → Gives (exec i s) fun z => still z ∧ (sp z).taking = none ∧ reported z 0x183 k.first)
            ∧ ∀ lid, kind = 5 → (s.coreAt c).ident.lid = some lid → s.sendOk c header = true → (s.coreAt c).net.retryBuf.length < 64 → Gives (exec i s) fun z =>
              others z ∧ counted z ∧ (sp z).taking = none ∧ ∃ e, (z.coreAt c).net.retryBuf = (s.coreAt c).net.retryBuf ++ [e] ∧ e.pkt.lid = lid
                ∧ Msg.word e.pkt.word 1 = k.a ∧ Msg.word e.pkt.word 2 = k.b ∧ Msg.word e.pkt.word 3 = BitVec.ofNat 64 (bitsOf k.entry 191 128))
          ∧ (kind = 6 → b.applyEngine c k = .ok u → Gives (exec i s) fun z => still z ∧ ∃ w t, Msg.field w 1 1 = 1
              ∧ (sp z).rewrite = some { Rewrite.new 6 none (k.a, k.b) [(k.b, 0)] [] ⟨[], []⟩ with step := .issue w t } ∧ t.a = k.a ∧ t.hdrA = k.hdrA
              ∧ t.hdrB = k.hdrB ∧ t.rtype.toNat = bitsOf k.entry 19 10 ∧ t.rpay.toNat = bitsOf k.entry 9 8 ∧ t.elem = none))
        ∧ (∀ q v, b.takeRule c p.1 p.2 = .error (.drop q v) → Gives (exec i s) fun z => still z ∧ (sp z).taking = none ∧ (noPend → (sp z).run = (sp s).run)
            ∧ reported z q v)
        ∧ (∀ va, b.takeRule c p.1 p.2 = .error (.violation va) → Gives (exec i s) fun z => still z ∧ (sp z).taking = none ∧ (sp z).run = false
            ∧ reported z 0x182 va)
        ∧ (∀ a n va bs, b.takeRule c p.1 p.2 = .error (.eng (.fetch a n) va) → s.engRead (.unit c 5) [(a, n)] = .ok (bs, u) → Gives (exec i s) fun z =>
            others z ∧ (sp z).taking = some p ∧ (sp z).wait.words = (sp s).wait.words ++ [(a, bs.flatten)] ∧ i ∈ z.pending ∧ ∀ a, z.mem.byte a = u.mem.byte a)))
    ∧ (s.engReady (.unit c 5) = true → s.mayRun c = true ∨ s.rewriting c = true → (sp s).rewrite = some r →
      (r.via = none ∧ (r.kind, i) ∈ rules) ∨ (∃ n e, r.via = some (n, e) ∧ i = .engineRuleElement c n e ∧ ∀ w ∈ (sp s).engw, w.slot = n → w.elem ≠ none) →
      (∀ p ps, r.queue = p :: ps → (sp s).bag.length < 64 → Gives (exec i s) fun z => others z ∧ (sp z).bag = (sp s).bag ++ [p]
        ∧ (sp z).rewrite = some { r with queue := ps })
      ∧ (r.queue = [] → advance c r b = .ok u → Gives (exec i s) fun z => others z ∧ (sp z).rewrite = (sp u).rewrite
        ∧ ((∀ d, (u.spliceAt d).pend = []) → ∀ a, z.mem.byte a = u.mem.byte a))
      ∧ (∀ st q va, r.queue = [] → advance c r b = .error st → (st = .violation va ∧ q = 0x182) ∨ st = .eng (.cause q) va → Gives (exec i s) fun z =>
          still z ∧ (sp z).rewrite = none ∧ (sp z).run = false ∧ (∀ n e, r.via = some (n, e) → ∀ w ∈ (sp z).engw, w.slot ≠ n) ∧ reported z q va))
    ∧ (r.queue = [] →
      let goes := fun (f : State → Prop) => ∃ z, advance c r b = .ok z ∧ f z
      let at' := fun (x : RwStep) (z : State) => (sp z).rewrite = some { r with step := x }
      (r.step = .alloc → r.nodes.length < r.headers.length →
        (∀ n, b.slAlloc c = .ok (some (n, u)) → goes fun z => (sp z).rewrite = some { r with nodes := r.nodes ++ [n] } ∧ z.mem = u.mem)
        ∧ ((sp s).free = 0 → goes (at' (.giveBack r.nodes.reverse))))
      ∧ (r.step = .giveBack [] → ∀ n e, r.via = some (n, e) → goes fun z => z.mem = s.mem ∧ (sp z).rewrite = none ∧ (sp z).run = false
        ∧ (sp z).engw = (sp s).engw.map fun w => if w.slot = n then { w with held := true } else w)
      ∧ (r.step = .alloc → r.headers.length ≤ r.nodes.length → r.via = none → goes fun z => (sp z).count = (sp s).count + 1 ∧ z.mem = s.mem
        ∧ ∃ x, (sp z).rewrite = some x ∧ x.step = .build 0 ∧ x.nodes = r.nodes ∧ x.wires = r.wires.map fun w => (w.1.placed r.nodes, w.2.placed r.nodes))
      ∧ (∀ n ps, r.step = .build n → r.nodes.length ≤ n → ps = r.cons.map (fun e => ({ node := e.1, port := 0 } : Port)) ++ r.gone →
          goes fun z => (sp z).rewrite = some { r with step := .free ps, queue := r.internalPairs })
      ∧ (∀ j x f e, r.step = .redirect j → r.ifAt j = some (x, f) → e = (r.cont 8 x).1 → (∀ n, e = some n → n ∉ r.news) →
          b.slCas c x (linkTo (some f)) (redirTo e) = .ok (linkTo (some f), u) → goes fun z => z.mem = u.mem
            ∧ (sp z).rewrite = some { r with marks := r.marks ++ [(x, redirTo e)], step := r.toRedirect (j + 1) })
      ∧ (∀ j x f e, r.step = .settle j e → r.ifAt j = some (x, f) → b.slCas c f (linkTo (some x)) (linkTo e) = .ok (linkTo (some x), u) →
          goes fun z => z.mem = u.mem ∧ (sp z).rewrite = some { r.push x (some f) e with step := .freePort j x })
      ∧ (r.step = .finish → goes fun z => (sp z).rewrite = none ∧ (sp z).pend = (sp s).pend ++ r.cons ∧ z.mem = s.mem)))

/-- 13 R399, R400, R407, R408: START sets the registers that it names, COUNT, LIMIT and RUN; STOP clears RUN between rewrites; DRAIN waits until
nothing is left; a bag that is empty reloads its newest spilled pairs; an idle unit asks a victim, which gives the oldest half of its pairs;
the element of an ENGINE rule is kept behind those that came before it and, in its turn, begins the rewrite in which the result takes its
node's place; one of a command that failed leaves the table, and its cause is reported with node A's address. -/
def Obligations.SpliceUnit : Prop := ∀ (s : State) (c v : CoreId) (p : Packet) (bs : List Byte) (t : State) (n : Nat) (w : EngWait) (e : BitVec 128),
  let k := s.spliceAt c
  let sp := fun (z : State) => z.spliceAt c
  let heads := fun (code : Nat) => (s.unitAt c 5).inq.head? = some p ∧ hidOf p.word = code ∧ s.mayRun c = true
  let keeps := fun (z : State) => SameBytes s z ∧ ∀ d y, z.ctxAt d y = s.ctxAt d y
  let size := some (BitVec.ofNat 32 (k.bag.length + k.spilled))
  let set := fun (a old mask : Word) => if a = 0 then old else a &&& mask
  let between := k.rewrite = none ∧ k.taking = none
  let empty := between ∧ k.pend = [] ∧ (∀ x ∈ k.engw, x.held = true) ∧ (k.run = false ∨ (k.bag = [] ∧ k.spilled = 0))
  (heads 1 → reservedClear p.word [(287, 64)] = true → Gives (exec (.slStart c) s) fun z => Ended s z c 5 p 0 0 size (some 0)
      ∧ (sp z).rules = set (Msg.word p.word 1) k.rules 0x1FFFFFFFFFFFFE0 ∧ (sp z).spill = set (Msg.word p.word 3) k.spill 0x1FFFFFFFFFFFE1F
      ∧ (sp z).count = 0 ∧ (sp z).limit = Msg.field p.word 287 256
      ∧ (k.pend = [] → keeps z ∧ (sp z).run = true ∧ (sp z).free = set (Msg.word p.word 2) k.free 0x1FFFFFFFFFFFFE0))
  ∧ (heads 2 → reservedClear p.word [] = true → between → Gives (exec (.slStop c) s) fun z => (k.pend = [] → keeps z) ∧ Ended s z c 5 p 0 0 size (some k.count)
      ∧ (sp z).run = false)
  ∧ (heads 2 → reservedClear p.word [] = true → ¬ between → exec (.slStop c) s = .next s)
  ∧ (heads 3 → reservedClear p.word [] = true → empty → Gives (exec (.slDrain c) s) fun z => keeps z ∧ Ended s z c 5 p 0 0 size (some k.count))
  ∧ (heads 3 → reservedClear p.word [] = true → ¬ empty → exec (.slDrain c) s = .next s)
  ∧ (heads 1 → reservedClear p.word [(287, 64)] = false → k.pend = [] → FailsWith s c 5 p 0x083 size (some k.count) (exec (.slStart c) s))
  ∧ (let m := min 32 k.spilled
    s.engReady (.unit c 5) = true → s.mayRun c = true → k.bag = [] → 0 < k.spilled →
    (s.begun (.unit c 5)).engRead (.unit c 5) [(.mem (spillEntry k.spill (k.spilled - m)), 16 * m)] = .ok ([bs], t) → Gives (exec (.bagReload c) s) fun z =>
      (∀ d y, z.ctxAt d y = s.ctxAt d y) ∧ (sp z).bag = pairsOf bs m ∧ (sp z).spilled = k.spilled - m)
  ∧ (let d := s.stealDomain c
    let l := lfsrNext (s.coreAt c).net.lfsr
    k.run = true → between → k.bag = [] → k.spilled = 0 → k.stealing = false → k.since + 64 ≤ s.cyc → 1 < d.length → s.mayRun c = true →
    d[l.toNat % d.length]? = some v → v ≠ c → Gives (exec (.spliceSteal c) s) fun z => keeps z ∧ Instr.bagStealArrival v c ∈ z.pending
      ∧ (z.coreAt c).net.lfsr = l ∧ (sp z).stealing = true)
  ∧ (let b := (s.spliceAt v).bag
    let g := if b.length < 2 then 0 else (b.length + 1) / 2
    v ≠ c → s.tidy c → s.engReady (.unit c 5) = true → k.bag.length + g ≤ 64 → k.pend = [] → (s.spliceAt v).pend = [] → Gives (exec (.bagStealArrival v c) s) fun z => keeps z
      ∧ (z.spliceAt v).bag = b.drop g ∧ (sp z).bag = k.bag ++ b.take g ∧ (sp z).stealing = false)
  ∧ (k.engw.find? (fun x => x.slot == n) = some w → k.pend = [] →
    let rest := k.engw.filter fun x => x.slot != n
    let comes := fun (f : State → Prop) => Gives (exec (.engineRuleElement c n e) s) fun z => keeps z ∧ f z
    (w.elem = none → elemCause e ≠ 0 → comes fun z => (sp z).engw = rest ∧ (sp z).rewrite = k.rewrite
      ∧ ∀ l cl pc, s.launchOf c = some l → l.field 480 480 = 1 → s.handler c (l.field 479 468) = some (cl, pc) → (s.coreAt c).net.trapq.length < 16 →
        ∃ m, (z.coreAt c).net.trapq = (s.coreAt c).net.trapq ++ [{ word := m, pc := pc, started := none }]
          ∧ (Msg.word m 1).extractLsb' 0 9 = elemCause e ∧ Msg.word m 3 = w.a)
    ∧ (w.elem = none → elemCause e = 0 → comes fun z => (sp z).engw = rest ++ [{ w with elem := some e }] ∧ (sp z).rewrite = k.rewrite)
    ∧ (w.elem ≠ none → between → w.held = false ∨ k.run = true → s.engReady (.unit c 5) = true → s.mayRun c = true →
        (∀ d, (s.spliceAt d).pend = []) → comes fun z => (sp z).rewrite = some (w.rewrite e))
    ∧ (∀ r, w.elem ≠ none → k.rewrite = some r → r.via ≠ some (n, e) → comes fun z => (sp z).rewrite = some r))
  ∧ (let aux : Port := { node := w.a, port := 1 }
    let r := w.rewrite e
    r.cons = [(w.a, 1)] ∧ r.headers = [w.result e] ∧ r.wires = [(aux, newPort 0 0)] ∧ r.ifs = [(aux, w.far)] ∧ r.via = some (w.slot, e) ∧ r.step = .alloc
    ∧ hdrType (w.result e) = w.rtype.toNat ∧ hdrArity (w.result e) = 0 ∧ hdrPf (w.result e) = true
    ∧ hdrPayload (w.result e) = match w.rpay.toNat with
      | 0 => hdrPayload w.hdrA
      | 1 => hdrPayload w.hdrB
      | _ => (e.extractLsb' 96 32).toNat)

/-- 14 R421, R436, R437: a trap record enters the trap queue of a running gang's core, or waits for the gang; a migration's destination takes the
source's registers and scratchpad, MIGRATE answers 0, and the source's forwarding entry passes arrivals on until every map is updated. -/
def Obligations.MigrationEvents : Prop := ∀ (s : State) (c d : CoreId) (r : Msg) (l : Launch) (p : Packet) (g : Migration),
  let k := s.coreAt d
  let kept := fun (t : State) => SameBytes s t ∧ ∀ a y, t.ctxAt a y = s.ctxAt a y
  (s.launch? l.lid = some l →
    (∀ f cl pc, l.phase = .running → s.launchOf c = some f → f.field 480 480 = 1 → s.handler c (f.field 479 468) = some (cl, pc) →
      (s.coreAt c).net.trapq.length < 16 → Gives (exec (.trapRecordArrival c l.lid r) s) fun t => kept t
        ∧ ∃ w, (t.coreAt c).net.trapq = (s.coreAt c).net.trapq ++ [{ word := w, pc := pc, started := none }]
          ∧ ∀ j, 0 < j → j < 8 → Msg.word w j = Msg.word r j)
    ∧ (l.phase ≠ .running → Gives (exec (.trapRecordArrival c l.lid r) s) fun t => kept t ∧ t.cores = s.cores
        ∧ (t.launch? l.lid).map (·.inbox) = some (l.inbox ++ [.trapRecordArrival c l.lid r])))
  ∧ (s.launch? p.lid = some l → l.core? p.dst.toNat = some d → (∀ e n, p.src = .core e n → e = s.dev) →
    (∀ pc, l.phase = .running → packetUnit p = 0 → k.net.refusing = false → decide (Msg.field p.word 4 4 = 1) = k.ident.xt → s.mailAway d p = false →
      s.entryPc d p = some pc → nackBlocks k.net.nacks 0 p.src (packetMid p) = false → k.net.mailbox.length < 64 →
      Gives (exec (.migrationForward c p) s) fun t => kept t ∧ Instr.acknowledgement p.lid p.src (packetMid p) ∈ t.pending
        ∧ ∃ e : MailEntry, (t.coreAt d).net.mailbox = k.net.mailbox ++ [e] ∧ e.word = p.word ∧ e.pc = pc ∧ e.started = none)
    ∧ (l.phase = .running → packetUnit p ≠ 0 → k.net.refusing = false → nackBlocks k.net.nacks (packetUnit p) p.src (packetMid p) = false →
      (k.unit (packetUnit p)).room (packetUnit p) = true → (k.unit (packetUnit p)).inq ≠ [] → Gives (exec (.migrationForward c p) s) fun t => kept t
        ∧ Instr.acknowledgement p.lid p.src (packetMid p) ∈ t.pending ∧ (t.unitAt d (packetUnit p)).inq = (k.unit (packetUnit p)).inq ++ [p])
    ∧ (l.phase ≠ .running → Gives (exec (.migrationForward c p) s) fun t => kept t ∧ Instr.nack p.lid p.src (packetMid p) false ∈ t.pending))
  ∧ (let open' := ∃ q, Instr.migrationForward c q ∈ s.pending ++ s.parked
    (¬ open' → Gives (exec (.mapAcknowledged c) s) fun t => t.cores = s.cores ∧ SameBytes s t ∧ t.migrated = s.migrated.filter (fun e => e.1 != c)
      ∧ Instr.gangPlacement ∈ t.pending)
    ∧ (open' → Gives (exec (.mapAcknowledged c) s) fun t => t.cores = s.cores ∧ SameBytes s t ∧ t.migrated = s.migrated
      ∧ Instr.mapAcknowledged c ∈ t.parked))
  ∧ (s.migrations.find? (fun m => m.src == c && m.dst == d) = some g → s.launchOf c = some l → (s.midway c = true ∨ (∃ i ∈ s.pending ++ s.parked, coreBusy s.dev c i = true) →
      Gives (exec (.migrationImageInstalled c d) s) fun t => Instr.migrationImageInstalled c d ∈ t.parked ∧ t.migrated = s.migrated))
  ∧ (s.migrations.find? (fun m => m.src == c && m.dst == d) = some g → s.launchOf c = some l → s.midway c = false → s.tidy c → (s.spliceAt c).pend = [] →
    (∀ i ∈ s.pending ++ s.parked, coreBusy s.dev c i = false) → c ≠ d → g.core ≠ c → g.core ≠ d → Gives (exec (.migrationImageInstalled c d) s) fun t =>
      (∀ a, t.mem.byte a = s.mem.byte a) ∧ (∀ o, (t.coreAt d).sp.byte o = (s.coreAt c).sp.byte o)
      ∧ (∀ x : CtxId, (t.ctxAt d x).pc = (s.ctxAt c x).pc ∧ (t.ctxAt d x).x = (s.ctxAt c x).x ∧ (t.ctxAt d x).v = (s.ctxAt c x).v
        ∧ (t.ctxAt d x).k = (s.ctxAt c x).k ∧ (t.ctxAt d x).fmt = (s.ctxAt c x).fmt)
      ∧ (t.coreAt d).ident = (s.coreAt c).ident ∧ (t.coreAt d).net.refusing = false
      ∧ (t.coreAt c).ident.lid = none ∧ (∀ x, t.ctxAt c x = Ctx.reset) ∧ (∀ a, a ≠ c → a ≠ d → a ≠ g.core → t.coreAt a = s.coreAt a)
      ∧ (t.ctxAt g.core g.ctx).status = .running ∧ (∀ n, (t.ctxAt g.core g.ctx).rx n = (s.ctxAt g.core g.ctx).withX g.d 0 n)
      ∧ t.migrated = s.migrated ++ [(c, d)] ∧ t.migrations = s.migrations.erase g ∧ Instr.mapAcknowledged c ∈ t.pending
      ∧ (t.launch? l.lid).map (·.cores) = some (l.cores.map fun e => if e = c then d else e))

/-- 01 R20, R32, 10 R341, 14 R424 to R426, R438, R439, R446: a rigging table that the boot core accepts takes the package to its first ready bit and a
rejected one leaves it halted, with no further ready bit and no link; the stay link trains between packages of unequal number; a
device-fatal error discards all work, keeps memory, names the lines whose data is lost and writes a log entry; a function reset keeps memory
but for the lines that the log names, which become zero, and the firmware cores with their waits, leaves a package whose table was rejected in reset,
and ends a migration with its answer 4. What a fatal error and a reset keep beside what R424 and R426 name is log 46 (DEDUCED), the place of an entry
in the error log is log 9 (DESIGN CHOICE), and the zeros of memory after power-on are log 5 (DESIGN CHOICE). -/
def Obligations.PackageEvents : Prop := ∀ (s : State) (table : BitVec 1024) (sig img : Bool) (n : Fin 334) (dev : BitVec 1) (base : BitVec 57) (kind : BitVec 4)
    (loc : BitVec 9) (addr : BitVec 57),
  let f := fun (hi lo : Nat) => bitsOf table.toNat hi lo
  let clear := fun (t : State) => t.launches = [] ∧ t.linkq = [] ∧ t.readyq = [] ∧ t.slots = Vector.replicate 128 Slot.reset
  let bare := fun (t : State) => clear t ∧ t.waits = [] ∧ t.pending = [] ∧ t.parked = []
  let idle := fun (t : State) (c : CoreId) => (t.coreAt c).ident.lid = none ∧ (∀ x, t.ctxAt c x = Ctx.reset)
    ∧ (t.coreAt c).net = { Net.reset with mid := (t.coreAt c).net.mid }
  (sig = true → img = true → riggingOk table = true → Gives (exec (.powerOn table sig img) s) fun t => t.powered = true ∧ t.halted = false ∧ bare t
      ∧ t.mgmt.rigging = table ∧ t.mgmt.readyMap = 1 ∧ t.mgmt.powerCap = (if f 165 156 = 0 then 600 else f 165 156) ∧ t.mgmt.roles = table.extractLsb' 192 128
      ∧ t.dev = table.extractLsb' 100 1 ∧ f 31 0 = 0x47474952 ∧ columnsOf table 0 = 16 ∧ columnsOf table 1 ∈ [1, 2] ∧ (∀ c, idle t c) ∧ ∀ a, t.mem.byte a = 0)
  ∧ (sig = false ∨ img = false ∨ f 31 0 ≠ 0x47474952 ∨ columnsOf table 0 ≠ 16 ∨ columnsOf table 1 ∉ [1, 2] ∨ f 703 320 ≠ 0 →
      Gives (exec (.powerOn table sig img) s) fun t => t.halted = true ∧ t.mgmt.readyMap = 0 ∧ t.mgmt.bootError = true ∧ bare t)
  ∧ (s.halted = true → exec (.readyBitSet n) s = .next s ∧ exec (.stayLinkTrained dev base) s = .next s)
  ∧ (s.halted = false → Gives (exec (.readyBitSet n) s) fun t => t.cores = s.cores ∧ SameBytes s t ∧ Instr.gangPlacement ∈ t.pending
      ∧ ∀ i, i < 334 → t.mgmt.readyMap.getLsbD i = (decide (i = n.val) || s.mgmt.readyMap.getLsbD i))
  ∧ (dev = s.dev → exec (.stayLinkTrained dev base) s = .next s)
  ∧ (dev ≠ s.dev → s.halted = false → Gives (exec (.stayLinkTrained dev base) s) fun t => t.peerTrained = true ∧ t.peerBase = base
      ∧ t.mgmt.readyMap.getLsbD 4 = true ∧ t.cores = s.cores ∧ SameBytes s t)
  ∧ (exec .linkLevelRetry s = .next { s with mgmt := { s.mgmt with linkRetries := s.mgmt.linkRetries + 1 } })
  ∧ (s.peerTrained = false → exec .stayLinkLoss s = .next s)
  ∧ (let es := s.mgmt.errorLog
    let fatal := fun (kd : BitVec 4) (lc : BitVec 9) (ad : BitVec 57) (o : Out) => Gives o fun t => bare t ∧ t.halted = true ∧ t.peerTrained = false
      ∧ t.mgmt.fatal = true ∧ t.mgmt.readyMap.getLsbD 4 = false ∧ (∀ c, idle t c) ∧ (s.calmAll → SameBytes s t)
      ∧ (∀ l, l ∈ t.mgmt.poisoned ↔ l ∈ s.mgmt.poisoned ∨ (kd = 1 ∧ l = ad.toNat / 64))
      ∧ (∀ i, i < 64 → es.length ≤ 64 → (∀ j e, j < i → es[j]? = some e → e.getLsbD 64 = true) → (i = es.length ∨ ∃ e, es[i]? = some e ∧ e.getLsbD 64 = false) →
        (∀ j, j ≠ i → t.mgmt.errorLog[j]? = es[j]?) ∧ ∃ e, t.mgmt.errorLog[i]? = some e ∧ e.getLsbD 64 = true ∧ e.extractLsb' 60 4 = kd
          ∧ e.extractLsb' 87 9 = lc ∧ e.extractLsb' 96 32 = BitVec.ofNat 32 s.cyc ∧ (kd = 1 → e.extractLsb' 0 57 = ad))
      ∧ (es.length = 64 → (∀ e ∈ es, e.getLsbD 64 = true) → t.mgmt.errorLog = es.modify 63 fun e => e ||| (1 <<< 65))
    fatal kind loc addr (exec (.deviceFatalError kind loc addr) s)
    ∧ (s.peerTrained = true → fatal 4 0x1FF 0 (exec .stayLinkLoss s)) ∧ fatal 6 0x1FF 0 (exec (.thermalTrip 110) s))
  ∧ (let named := fun (a : Nat) => ∃ e ∈ s.mgmt.errorLog, e.getLsbD 64 = true ∧ e.extractLsb' 60 4 = 1 ∧ (e.extractLsb' 0 57).toNat / 64 = a / 64
    Gives (exec .functionReset s) fun t => clear t ∧ t.pending = s.pending.filter s.ofFirmware ∧ t.parked = s.parked.filter s.ofFirmware ∧ t.halted = s.mgmt.bootError
      ∧ t.waits = (s.waits.filter fun e => e.2.2.dev = s.dev && s.firmwareCore e.1).map (fun e => (e.1, e.2.1, { e.2.2 with issued := 0 })) ∧ t.cyc = 0 ∧ t.peerTrained = false ∧ t.mgmt.readyMap.getLsbD 4 = false ∧ t.mgmt.readyMap.getLsbD 5 = false ∧ t.mgmt.fatal = false
      ∧ t.mgmt.errorLog = s.mgmt.errorLog ∧ t.mgmt.poisoned = [] ∧ (∀ n, t.tag n = 0) ∧ (∀ c : CoreId, s.firmwareCore c = false → idle t c ∧ (t.coreAt c).net.mid = 0)
      ∧ (s.migrations = [] → ∀ c : CoreId, s.firmwareCore c = true → t.coreAt c = (s.coreAt c).keepOn)
      ∧ (∀ g, s.migrations = [g] → s.firmwareCore g.core = true → (t.ctxAt g.core g.ctx).status = .running
        ∧ ∀ r, (t.ctxAt g.core g.ctx).rx r = (s.ctxAt g.core g.ctx).withX g.d 4 r)
      ∧ (s.calmAll → ∀ a, (named a → t.mem.byte a = 0) ∧ (¬ named a → t.mem.byte a = s.mem.byte a)))

/-- 00 R7, 14 R425, R443 to R450: writes of the management window, the latch of an error-log entry, the power estimate with the hold of dispatch
and the thermal cut, and the responses of the attestation service, of which the signed ones sign the transcript, the request and what they
hold. While CXL.io is not usable, writes and attestation requests are refused and counted. A bit that hardware sets in the same cycle is not
cleared. The layout of the power register, the share that the power manager chooses and the thermal cut taken back are log 9 (PRESUMED, DESIGN
CHOICE); the bytes of SPDM responses, digests and signatures are log 10 (DESIGN CHOICE). -/
def Obligations.ManagementEvents : Prop := ∀ (s : State) (n : Fin 64) (bits : BitVec 128) (v : Word) (w : Nat) (req : List Byte),
  let m := s.mgmt
  let only := fun (t : State) => t.cores = s.cores ∧ SameBytes s t
  let at' : BitVec 36 := BitVec.ofNat 36 (0x100 + 16 * n.val)
  let e := m.errorLog.getD n.val 0
  let answers := fun (kind : Nat) (content : List Byte) (o : Out) => Gives o fun t => only t ∧ t.mgmt.doeOut = Config.spdmResponse kind content
    ∧ t.mgmt.doeLog = m.doeLog ++ req ++ t.mgmt.doeOut
  let signs := fun (kind : Nat) (content : List Byte) (o : Out) => answers kind (content ++ Config.sign s.tick (m.doeLog ++ req ++ content)) o
  let cap := fun (v : Word) (o : Out) => Gives o fun t => only t ∧ 350 ≤ t.mgmt.powerCap ∧ t.mgmt.powerCap ≤ 600
    ∧ (350 ≤ v.toNat → v.toNat ≤ 600 → t.mgmt.powerCap = v.toNat)
  let requests := [Instr.getVersion req, .getCapabilities req, .negotiateAlgorithms req, .getDigests req, .getCertificate req, .challenge req, .getMeasurements req]
  let keptBit := fun (i : Nat) => (i = 64 ∧ s.setNow (.valid n.val) = true) ∨ (i = 65 ∧ n.val = 63 ∧ s.setNow .overflow = true)
  (Gives (exec (.readbackLatch at') s) fun t => only t ∧ t.mgmt.latch = (at', [e.extractLsb' 0 64, e.extractLsb' 64 64]))
  ∧ (s.ready 1 = false → ∀ a, ∀ i ∈ [Instr.errorLogClear n bits, .powerCapWrite v, .registerWrite a v] ++ requests,
      exec i s = .next { s with mgmt := { m with refusedReqs := m.refusedReqs + 1 }, toHost := s.toHost ++ [.unsupported] })
  ∧ (s.ready 1 = true → Gives (exec (.errorLogClear n bits) s) fun t => only t ∧ t.mgmt.errorLog.length = m.errorLog.length
      ∧ (∀ i, i ≠ n.val → t.mgmt.errorLog[i]? = m.errorLog[i]?) ∧ (n.val < m.errorLog.length → ∀ i, i < 128 → ((t.mgmt.errorLog.getD n.val 0).getLsbD i = true
        ↔ e.getLsbD i = true ∧ (keptBit i ∨ ¬ ((i = 64 ∨ i = 65) ∧ bits.getLsbD i = true)))))
  ∧ (s.ready 1 = true → cap v (exec (.powerCapWrite v) s) ∧ cap v (exec (.registerWrite 0x800 v) s)
    ∧ ∀ a : BitVec 36, winAt a ≠ .power → (∀ i j, winAt a ≠ .log i j) → exec (.registerWrite a v) s = .next s)
  ∧ (∀ a : BitVec 36, (a.toNat < 0x30 ∨ (0x900 ≤ a.toNat ∧ a.toNat < 0x980)) ∨ 2 ^ 32 ≤ a.toNat → winAt a ≠ .power ∧ ∀ i j, winAt a ≠ .log i j)
  ∧ (Gives (exec (.powerMeasurement w) s) fun t => only t ∧ t.mgmt.estimate = w
      ∧ (m.share = 8 → m.cap < w → t.mgmt.hold = true) ∧ (m.hold = true → w + 10 ≤ m.cap → t.mgmt.hold = false ∧ Instr.gangPlacement ∈ t.pending)
      ∧ (m.hold = true → m.cap < w + 10 → t.mgmt.hold = true) ∧ (m.hold = false → m.share ≠ 8 ∨ w ≤ m.cap → t.mgmt.hold = false))
  ∧ (Gives (exec (.matrixCapUpdate w) s) fun t => only t ∧ t.mgmt.estimate = w ∧ 8 ≤ t.mgmt.share ∧ t.mgmt.share ≤ 64
      ∧ (t.mgmt.share = 8 → m.cap < w → t.mgmt.hold = true) ∧ (m.hold = true → w + 10 ≤ m.cap → t.mgmt.hold = false))
  ∧ (100 < w → Gives (exec (.thermalStep w) s) fun t => only t ∧ t.mgmt.cap = max 350 (m.cap - 25))
  ∧ (w < 95 → Gives (exec (.thermalStep w) s) fun t => only t ∧ t.mgmt.thermalCut = m.thermalCut - 25)
  ∧ (95 ≤ w → w ≤ 100 → exec (.thermalStep w) s = .next s) ∧ (w < 110 → exec (.thermalTrip w) s = .next s)
  ∧ (s.ready 1 = true →
    (Gives (exec (.getVersion req) s) fun t => only t ∧ t.mgmt.doeOut = Config.spdmResponse 1 [0x12] ∧ t.mgmt.doeLog = req ++ t.mgmt.doeOut)
    ∧ answers 2 [] (exec (.getCapabilities req) s) ∧ answers 3 [] (exec (.negotiateAlgorithms req) s)
    ∧ answers 4 (toBytes 32 (Config.sha256 Config.certificateChain).toNat) (exec (.getDigests req) s)
    ∧ answers 5 Config.certificateChain (exec (.getCertificate req) s) ∧ signs 6 [] (exec (.challenge req) s)
    ∧ signs 7 ((1 :: toBytes 32 Config.bootRomDigest.toNat) ++ (2 :: toBytes 32 (Config.sha256 (toBytes 128 m.rigging.toNat)).toNat)
        ++ (3 :: toBytes 32 m.imageDigest.toNat ++ toBytes 4 m.imageVersion.toNat)
        ++ (match m.staged with
          | some g => 4 :: toBytes 32 g.digest.toNat ++ toBytes 4 g.version.toNat
          | none => []) ++ [5, m.handover.setWidth 8]) (exec (.getMeasurements req) s))

/-- 02 R47, R48, R70, 04 R147, 06 R173, R179, R192, 10 R342: the core whose turn it is runs the instruction that the bytes at its program counter decode
to: the halfword there gives the length by its bit 15; the watchdog comes first, then the causes of the fetch; an encoding that is not legal is
ILLEGAL_INSTRUCTION; a byte comes from the cached line, else from memory, that of a private line from the core's own L1. That a line in the
instruction cache needs no translation is log 59 (DESIGN CHOICE). The oldest event in flight is executed as it is, if the schedule names nothing else
(log 3, DESIGN CHOICE). -/
def Obligations.StepRunsDecodedInstruction : Prop := ∀ (s : State) (c : CoreId) (x : CtxId) (rest : List Move),
  let t : State := { s with sched := rest, cur := c, hot := x }
  let pc := (s.ctxAt c x).pc
  s.powered = true →
  (s.halted = false → s.sched = .issue c :: rest → (s.coreAt c).slot = some x → s.mayRun c = true → (s.ctxAt c x).status = .running → (s.ctxAt c x).busy ≤ s.cyc →
    ((s.ctxAt c x).budget.toNat ≤ s.usedOf (s.ctxAt c x) → step s = exec (.watchdog c x) t)
    ∧ (s.usedOf (s.ctxAt c x) < (s.ctxAt c x).budget.toNat →
      let stops := fun (e : Stop) => match e with
        | .trap q va => step s = exec (.instructionFetchFault c x va q) t
        | .miss va _ => step s = exec (t.fetchMiss c x va) t
        | .busy ls => step s = .next (ls.foldl State.snoopHost (t.spend 1))
      (∀ e, t.fetchHalf c pc = .error e → stops e)
      ∧ (∀ h t1, t.fetchHalf c pc = .ok (h, t1) →
        (h.getLsbD 15 = false → (∀ i, decodeHalf h = .ok i → step s = exec i t1)
          ∧ ∀ e, decodeHalf h = .error e → step s = exec (.illegalInstruction c x (h.setWidth 64)) t1)
        ∧ (h.getLsbD 15 = true → (∀ e, t1.fetchHalf c (va57 (pc + 2)) = .error e → stops e)
          ∧ ∀ g t2, t1.fetchHalf c (va57 (pc + 2)) = .ok (g, t2) → (∀ i, decodeWord (h ++ g) = .ok i → step s = exec i t2)
            ∧ ∀ e, decodeWord (h ++ g) = .error e → step s = exec (.illegalInstruction c x ((h ++ g).setWidth 64)) t2))))
  ∧ (∀ va : Word, let o := low57 va % 64
    let line := icacheLine (s.coreAt c).icache (lineVa va)
    let r := s.region (s.coreAt c).ident.pasid va
    (line = none → s.translate c va false = none → s.fetchHalf c va = .error (.miss va false))
    ∧ (∀ pa, line = none → s.translate c va false = some pa →
      (s.noPeer pa = true → s.fetchHalf c va = .error (.trap 0x041 va))
      ∧ (s.noPeer pa = false → s.firmwareCore c = false → r.attr = 0 → r.owner ≠ c.val ∨ r.odev ≠ s.dev → s.fetchHalf c va = .error (.trap 0x044 va))
      ∧ (s.noPeer pa = false → s.firmwareCore c = false → r.attr = 0 → r.owner = c.val → r.odev = s.dev → s.hostHolds (pa / 64) = false → (s.line (pa / 64)).u = [] →
        s.hostMem pa = false → ∃ t1, s.fetchHalf c va = .ok ((s.ownBytes c (pa / 64 * 64) 64).getD (o + 1) 0 ++ (s.ownBytes c (pa / 64 * 64) 64).getD o 0, t1)
          ∧ (∀ d y, t1.ctxAt d y = s.ctxAt d y) ∧ t1.mem = s.mem)
      ∧ (s.noPeer pa = false → s.firmwareCore c = true ∨ 2 ≤ r.attr.toNat →
        (s.hostHolds (pa / 64) = true → s.fetchHalf c va = .error (.busy [pa / 64]))
        ∧ (s.hostHolds (pa / 64) = false → (s.line (pa / 64)).u = [] → s.hostMem pa = false → o < 63 → ∃ t1,
          s.fetchHalf c va = .ok (s.mem.byte (pa / 64 * 64 + o + 1) ++ s.mem.byte (pa / 64 * 64 + o), t1) ∧ (∀ d y, t1.ctxAt d y = s.ctxAt d y) ∧ t1.mem = s.mem)))
    ∧ (∀ bs e, line = some bs → s.codeLine c va = .error e → s.fetchHalf c va = .ok (bs.getD (o + 1) 0 ++ bs.getD o 0, s)))
  ∧ (∀ i r, s.sched = [] → s.pending = i :: r → mayOvertake s.parked i = true → s.inOrder i = true → step s = exec i { s with pending := r })

/-- 02 R47, R49 to R63, 05 R150, R156, R160: words written out from the spec's encodings decode to the instructions they stand for;
the halfword 0 and every word whose major opcode is 0 decode to none. -/
def Obligations.DecodesSpecWords : Prop :=
  decodeWord 0b1_000010_00101_00110_000000001100100 = .ok (.addi 5 6 100)
  ∧ decodeWord 0b1_000001_00101_00110_00111_0000000000 = .ok (.add 5 6 7)
  ∧ decodeWord 0b1_001010_00101_00110_00111_0000000001 = .ok (.mulhu 5 6 7)
  ∧ decodeWord 0b1_001100_00101_00110_000_0100_011_00000 = .ok (.ptag 5 6 4 3)
  ∧ decodeWord 0b1_001110_01000_10010_00111_00000_0_0001 = .ok (.flt 8 18 7 0)
  ∧ decodeWord 0b1_010110_00001_00000000000010000000 = .ok (.jal 1 128)
  ∧ decodeWord 0b1_011001_00000_00101_00000_0000000011 = .ok (.done 5)
  ∧ decodeWord 0b1_011100_00101_00110_010_000000001100 = .ok (.ldW 5 6 12)
  ∧ decodeWord 0b1_100000_01010_00110_01100_0101_11_1100 = .ok (.amocasD 10 6 12 5 3)
  ∧ decodeWord 0b1_100100_00101_00000_00000_0000000000 = .ok (.send 5)
  ∧ decodeWord 0b1_101000_01000_00110_00111_0000100000 = .ok (.furl 8 6 7 2)
  ∧ decodeWord 0b1_110000_00001_00010_00011_010_10_00000 = .ok (.vadd 1 2 3 2 2)
  ∧ decodeWord 0b1_110111_00101_00001_00000_0000000100 = .ok (.kpopc 5 1)
  ∧ decodeWord 0b1_111110_00101_00000_000_000000000001 = .ok (.csrr 5 1)
  ∧ (∀ i, decodeHalf 0 ≠ .ok i) ∧ ∀ (n : BitVec 25) (i : Instr), decodeWord (64#7 ++ n) ≠ .ok i

/-- 14 R426, 03 R79, 04 R119, R120, 08 R251, R267: what a function reset leaves: no launch, no event, no line and no translation anywhere, cycle 0,
every context free with its registers at zero, fmt 0x400 and wdog's budget 2^24, every message class enabled. The values of registers for
which the spec states none are the model's (log 11), and so is that memory lists nothing (log 5).
Memory, the tags and every scratchpad have the canonical form at reset (log 5). -/
def Obligations.StateAtReset : Prop :=
  (∀ s : State, s = State.reset →
    s.launches = [] ∧ s.pending = [] ∧ s.waits = [] ∧ s.readyq = [] ∧ s.lines = [] ∧ s.linkq = [] ∧ s.cyc = 0 ∧ s.mem = [] ∧ s.tags = [] ∧ s.halted = false
    ∧ (∀ n, s.slotAt n = Slot.reset) ∧ (∀ g : Fin 256, s.groups[g] = none) ∧ (∀ h : Fin 288, s.clusters[h].cleat = [] ∧ s.clusters[h].tlb2 = [])
    ∧ ∀ c : CoreId, (s.coreAt c).slot = none ∧ (s.coreAt c).tlb1 = [] ∧ (s.coreAt c).icache = [] ∧ (s.coreAt c).net.mailbox = [] ∧ (s.coreAt c).net.trapq = []
      ∧ (s.coreAt c).net.clsen = 0xFFFFFFFFFFFFFFFF ∧ ∀ x : CtxId, (s.ctxAt c x).status = .free ∧ (s.ctxAt c x).fmt = 0x400
        ∧ (s.ctxAt c x).budget = 0x1000000 ∧ s.usedOf (s.ctxAt c x) = 0 ∧ (s.ctxAt c x).lstat = 0 ∧ (∀ n, (s.ctxAt c x).rx n = 0) ∧ (∀ n, (s.ctxAt c x).rv n = 0)
        ∧ ∀ n, (s.ctxAt c x).rk n = 0)
  ∧ (State.reset.canonical)

/-- 00 R13, 01 R41: every instruction and every event has its effect, if that is a trap; a step stops only while the package has no power and no
POWER_ON is next. -/
def Obligations.NothingStops : Prop :=
  (∀ (i : Instr) (s : State), ∃ t, exec i s = .next t)
  ∧ ∀ s : State, (∃ t, step s = .next t) ∨ (step s = .fault .poweredOff ∧ s.powered = false ∧ s.sched = [])

/-- 02 R47, R50 to R68, R70: an instruction that is well formed is what its encoding decodes to, as a word, as a halfword and as bytes in memory; and a
word or halfword that decodes is the encoding of the instruction, which is well formed. -/
def Obligations.RoundTrip : Prop := ∀ (i : Instr),
  (i.wellFormed = true → (∀ w, encode i = .word w → w.getLsbD 31 = true ∧ decodeWord w = .ok i)
    ∧ (∀ h, encode i = .half h → h.getLsbD 15 = false ∧ decodeHalf h = .ok i)
    ∧ (encode i ≠ .none → ∀ bs, decodeBytes ((encode i).bytes ++ bs) = .ok (i, bs)))
  ∧ (∀ w, w.getLsbD 31 = true → decodeWord w = .ok i → i.wellFormed = true ∧ encode i = .word w)
  ∧ (∀ h, h.getLsbD 15 = false → decodeHalf h = .ok i → i.wellFormed = true ∧ encode i = .half h)

/-- The canonical form of memory, of the tags and of every scratchpad, those of saved gangs among them (log 5), is kept by every step. -/
def Obligations.CanonicalKept : Prop := ∀ s t : State, s.canonical → step s = .next t → t.canonical

end
end

