-- ==== Sys2Proof/Laws/Dispatch.lean ====
section
/-! SUPPORT. exec, arm by arm: each instruction runs its meaning. -/

namespace Sys2Proof.Machine

@[simp] theorem exec_watchdog (c : CoreId) (x : CtxId) (s : State) : exec (.watchdog c x) s = execWatchdog c x s := rfl
@[simp] theorem exec_mxLdb (c : CoreId) (s : State) : exec (.mxLdb c) s = execMxLdb c s := rfl
@[simp] theorem exec_mxMma (c : CoreId) (s : State) : exec (.mxMma c) s = execMxMma c s := rfl
@[simp] theorem exec_mxStc (c : CoreId) (s : State) : exec (.mxStc c) s = execMxStc c s := rfl
@[simp] theorem exec_mxZc (c : CoreId) (s : State) : exec (.mxZc c) s = execMxZc c s := rfl
@[simp] theorem exec_mxMark (c : CoreId) (s : State) : exec (.mxMark c) s = execMxMark c s := rfl
@[simp] theorem exec_cpLin (c : CoreId) (s : State) : exec (.cpLin c) s = execCpLin c s := rfl
@[simp] theorem exec_cp2d (c : CoreId) (s : State) : exec (.cp2d c) s = execCp2d c s := rfl
@[simp] theorem exec_cpGath (c : CoreId) (s : State) : exec (.cpGath c) s = execCpGath c s := rfl
@[simp] theorem exec_tdDec (c : CoreId) (s : State) : exec (.tdDec c) s = execTdDec c s := rfl
@[simp] theorem exec_gmF2v (c : CoreId) (s : State) : exec (.gmF2v c) s = execGmF2v c s := rfl
@[simp] theorem exec_gmV2f (c : CoreId) (s : State) : exec (.gmV2f c) s = execGmV2f c s := rfl
@[simp] theorem exec_gmBel (c : CoreId) (s : State) : exec (.gmBel c) s = execGmBel c s := rfl
@[simp] theorem exec_gmMean (c : CoreId) (s : State) : exec (.gmMean c) s = execGmMean c s := rfl
@[simp] theorem exec_gmDamp (c : CoreId) (s : State) : exec (.gmDamp c) s = execGmDamp c s := rfl
@[simp] theorem exec_slStart (c : CoreId) (s : State) : exec (.slStart c) s = execSlStart c s := rfl
@[simp] theorem exec_slStop (c : CoreId) (s : State) : exec (.slStop c) s = execSlStop c s := rfl
@[simp] theorem exec_slDrain (c : CoreId) (s : State) : exec (.slDrain c) s = execSlDrain c s := rfl
@[simp] theorem exec_lkAred (n : Nat) (s : State) : exec (.lkAred n) s = execLkAred n s := rfl
@[simp] theorem exec_lkCopy (n : Nat) (s : State) : exec (.lkCopy n) s = execLkCopy n s := rfl
@[simp] theorem exec_aredChunkExchange (n : AredPlace) (peer : List Byte) (s : State) : exec (.aredChunkExchange n peer) s = execAredChunkExchange n peer s := rfl
@[simp] theorem exec_engineCommandArrival (p : Packet) (s : State) : exec (.engineCommandArrival p) s = execEngineCommandArrival p s := rfl
@[simp] theorem exec_completionElementArrival (lid : Nat) (dst : Party) (u : BitVec 3) (e : BitVec 128) (reply : Bool) (rel : BitVec 10) (s : State) : exec (.completionElementArrival lid dst u e reply rel) s = execCompletionElementArrival lid dst u e reply rel s := rfl
@[simp] theorem exec_reefWindow (die : Fin 4) (s : State) : exec (.reefWindow die) s = execReefWindow die s := rfl
@[simp] theorem exec_messageArrival (p : Packet) (s : State) : exec (.messageArrival p) s = execMessageArrival p s := rfl
@[simp] theorem exec_issueSlotHandoff (c : CoreId) (s : State) : exec (.issueSlotHandoff c) s = execIssueSlotHandoff c s := rfl
@[simp] theorem exec_sendCommit (c : CoreId) (x : CtxId) (s : State) : exec (.sendCommit c x) s = execSendCommit c x s := rfl
@[simp] theorem exec_dequeReload (c : CoreId) (s : State) : exec (.dequeReload c) s = execDequeReload c s := rfl
@[simp] theorem exec_acknowledgement (lid : Nat) (p : Party) (mid : BitVec 16) (s : State) : exec (.acknowledgement lid p mid) s = execAcknowledgement lid p mid s := rfl
@[simp] theorem exec_nack (lid : Nat) (p : Party) (mid : BitVec 16) (counted : Bool) (s : State) : exec (.nack lid p mid counted) s = execNack lid p mid counted s := rfl
@[simp] theorem exec_retryResend (lid : Nat) (p : Party) (mid : BitVec 16) (s : State) : exec (.retryResend lid p mid) s = execRetryResend lid p mid s := rfl
@[simp] theorem exec_stealRequest (c : CoreId) (s : State) : exec (.stealRequest c) s = execStealRequest c s := rfl
@[simp] theorem exec_stealRequestArrival (victim : CoreId) (thief : CoreId) (s : State) : exec (.stealRequestArrival victim thief) s = execStealRequestArrival victim thief s := rfl
@[simp] theorem exec_stealReply (thief : CoreId) (ts : List Task) (s : State) : exec (.stealReply thief ts) s = execStealReply thief ts s := rfl
@[simp] theorem exec_drainAndSwap (part : BitVec 4) (tables : PartTables) (s : State) : exec (.drainAndSwap part tables) s = execDrainAndSwap part tables s := rfl
@[simp] theorem exec_escapeRecovery (router : Fin 288) (inp : Fin 5) (q : Fin 8) (s : State) : exec (.escapeRecovery router inp q) s = execEscapeRecovery router inp q s := rfl
@[simp] theorem exec_partitionDrop (router : Fin 288) (p : Packet) (s : State) : exec (.partitionDrop router p) s = execPartitionDrop router p s := rfl
@[simp] theorem exec_partitionRefusal (lid : Nat) (p : Party) (mid : BitVec 16) (s : State) : exec (.partitionRefusal lid p mid) s = execPartitionRefusal lid p mid s := rfl
@[simp] theorem exec_firewallDrop (router : Fin 288) (kind : Fin 7) (src : BitVec 11) (dst : BitVec 11) (s : State) : exec (.firewallDrop router kind src dst) s = execFirewallDrop router kind src dst s := rfl
@[simp] theorem exec_gets (c : CoreId) (line : Nat) (s : State) : exec (.gets c line) s = execGets c line s := rfl
@[simp] theorem exec_getm (c : CoreId) (line : Nat) (s : State) : exec (.getm c line) s = execGetm c line s := rfl
@[simp] theorem exec_getu (c : CoreId) (line : Nat) (op : BitVec 4) (w : BitVec 5) (s : State) : exec (.getu c line op w) s = execGetu c line op w s := rfl
@[simp] theorem exec_uPartial (c : CoreId) (line : Nat) (s : State) : exec (.uPartial c line) s = execUPartial c line s := rfl
@[simp] theorem exec_hostRead (line : Nat) (s : State) : exec (.hostRead line) s = execHostRead line s := rfl
@[simp] theorem exec_hostReadOwn (line : Nat) (s : State) : exec (.hostReadOwn line) s = execHostReadOwn line s := rfl
@[simp] theorem exec_hostWrite (line : Nat) (data : Msg) (keep : HostCopy) (s : State) : exec (.hostWrite line data keep) s = execHostWrite line data keep s := rfl
@[simp] theorem exec_bisnpResponse (line : Nat) (data : Option Msg) (keep : HostCopy) (s : State) : exec (.bisnpResponse line data keep) s = execBisnpResponse line data keep s := rfl
@[simp] theorem exec_bisnpReread (line : Nat) (s : State) : exec (.bisnpReread line) s = execBisnpReread line s := rfl
@[simp] theorem exec_snoopShare (c : CoreId) (line : Nat) (s : State) : exec (.snoopShare c line) s = execSnoopShare c line s := rfl
@[simp] theorem exec_snoopInvalidate (c : CoreId) (line : Nat) (s : State) : exec (.snoopInvalidate c line) s = execSnoopInvalidate c line s := rfl
@[simp] theorem exec_recallLine (line : Nat) (s : State) : exec (.recallLine line) s = execRecall line s := rfl
@[simp] theorem exec_lineFill (c : CoreId) (line : Nat) (st : LineSt) (s : State) : exec (.lineFill c line st) s = execLineFill c line st s := rfl
@[simp] theorem exec_hostSnpdata (line : Nat) (s : State) : exec (.hostSnpdata line) s = execHostSnpdata line s := rfl
@[simp] theorem exec_hostSnpinv (line : Nat) (s : State) : exec (.hostSnpinv line) s = execHostSnpinv line s := rfl
@[simp] theorem exec_homeOperation (op : HomeOp) (s : State) : exec (.homeOperation op) s = execHomeOperation op s := rfl
@[simp] theorem exec_homeResponse (c : CoreId) (x : CtxId) (r : HomeAns) (s : State) : exec (.homeResponse c x r) s = execHomeResponse c x r s := rfl
@[simp] theorem exec_mergeRead (router : Fin 288) (line : Nat) (c : Reader) (s : State) : exec (.mergeRead router line c) s = execMergeRead router line c s := rfl
@[simp] theorem exec_mergeReply (router : Fin 288) (line : Nat) (s : State) : exec (.mergeReply router line) s = execMergeReply router line s := rfl
@[simp] theorem exec_atsResponse (who : Asker) (pasid : BitVec 20) (va : Word) (write : Bool) (s : State) : exec (.atsResponse who pasid va write) s = execAtsResponse who pasid va write s := rfl
@[simp] theorem exec_priResponse (who : Asker) (pasid : BitVec 20) (va : Word) (g : Option Grant) (s : State) : exec (.priResponse who pasid va g) s = execPriResponse who pasid va g s := rfl
@[simp] theorem exec_atsInvalidation (pasid : BitVec 20) (va : Word) (log : Nat) (s : State) : exec (.atsInvalidation pasid va log) s = execAtsInvalidation pasid va log s := rfl
@[simp] theorem exec_pasidStop (pasid : BitVec 20) (s : State) : exec (.pasidStop pasid) s = execPasidStop pasid s := rfl
@[simp] theorem exec_regionTableDrain (pasid : BitVec 20) (table : List (BitVec 128)) (s : State) : exec (.regionTableDrain pasid table) s = execRegionTableDrain pasid table s := rfl
@[simp] theorem exec_waitaArm (c : CoreId) (x : CtxId) (s : State) : exec (.waitaArm c x) s = execWaitaArm c x s := rfl
@[simp] theorem exec_waitaWake (c : CoreId) (x : CtxId) (s : State) : exec (.waitaWake c x) s = execWaitaWake c x s := rfl
@[simp] theorem exec_waitaExpiry (c : CoreId) (x : CtxId) (s : State) : exec (.waitaExpiry c x) s = execWaitaExpiry c x s := rfl
@[simp] theorem exec_waitaPoll (c : CoreId) (x : CtxId) (s : State) : exec (.waitaPoll c x) s = execWaitaPoll c x s := rfl
@[simp] theorem exec_barrierNotification (g : Fin 256) (phase : BitVec 16) (round : Nat) (rank : Nat) (s : State) : exec (.barrierNotification g phase round rank) s = execBarrierNotification g phase round rank s := rfl
@[simp] theorem exec_gatherReport (g : Fin 256) (phase : BitVec 16) (rank : Nat) (s : State) : exec (.gatherReport g phase rank) s = execGatherReport g phase rank s := rfl
@[simp] theorem exec_barrierCompletion (g : Fin 256) (phase : BitVec 16) (c : CoreId) (s : State) : exec (.barrierCompletion g phase c) s = execBarrierCompletion g phase c s := rfl
@[simp] theorem exec_vredgContribution (g : Fin 256) (phase : BitVec 16) (k : Contribution) (s : State) : exec (.vredgContribution g phase k) s = execVredgContribution g phase k s := rfl
@[simp] theorem exec_vredgResult (g : Fin 256) (phase : BitVec 16) (s : State) : exec (.vredgResult g phase) s = execVredgResult g phase s := rfl
@[simp] theorem exec_ringOpAtHome (op : RingOp) (s : State) : exec (.ringOpAtHome op) s = execRingOpAtHome op s := rfl
@[simp] theorem exec_ringAnswer (c : CoreId) (x : CtxId) (r : RingAns) (s : State) : exec (.ringAnswer c x r) s = execRingAnswer c x r s := rfl
@[simp] theorem exec_ringResend (c : CoreId) (x : CtxId) (s : State) : exec (.ringResend c x) s = execRingResend c x s := rfl
@[simp] theorem exec_ringWaitExpiry (c : CoreId) (x : CtxId) (s : State) : exec (.ringWaitExpiry c x) s = execRingWaitExpiry c x s := rfl
@[simp] theorem exec_doorbell (q : BitVec 16) (tail : BitVec 32) (s : State) : exec (.doorbell q tail) s = execDoorbell q tail s := rfl
@[simp] theorem exec_directMessage (q : BitVec 16) (core : Option Word) (pc : Option Word) (arg1 : Option Word) (arg2 : Option Word) (s : State) : exec (.directMessage q core pc arg1 arg2) s = execDirectMessage q core pc arg1 arg2 s := rfl
@[simp] theorem exec_launchRecordRead (n : Fin 128) (s : State) : exec (.launchRecordRead n) s = execLaunchRecordRead n s := rfl
@[simp] theorem exec_slotIdleTimeout (n : Fin 128) (s : State) : exec (.slotIdleTimeout n) s = execSlotIdleTimeout n s := rfl
@[simp] theorem exec_gateRead (n : Fin 128) (s : State) : exec (.gateRead n) s = execGateRead n s := rfl
@[simp] theorem exec_gangPlacement (s : State) : exec (.gangPlacement) s = execGangPlacement s := rfl
@[simp] theorem exec_deadlinePreempt (s : State) : exec (.deadlinePreempt) s = execDeadlinePreempt s := rfl
@[simp] theorem exec_preemptionSaved (lid : Nat) (s : State) : exec (.preemptionSaved lid) s = execPreemptionSaved lid s := rfl
@[simp] theorem exec_gangResume (lid : Nat) (s : State) : exec (.gangResume lid) s = execGangResume lid s := rfl
@[simp] theorem exec_rtReservationMiss (n : Fin 128) (s : State) : exec (.rtReservationMiss n) s = execRtReservationMiss n s := rfl
@[simp] theorem exec_launchCompletion (lid : Nat) (value : Word) (who : Option (CoreId × CtxId)) (s : State) : exec (.launchCompletion lid value who) s = execLaunchCompletion lid value who s := rfl
@[simp] theorem exec_queueTeardown (q : BitVec 16) (s : State) : exec (.queueTeardown q) s = execQueueTeardown q s := rfl
@[simp] theorem exec_queueRegister (q : BitVec 16) (desc : Msg) (s : State) : exec (.queueRegister q desc) s = execQueueRegister q desc s := rfl
@[simp] theorem exec_readyQueueSend (s : State) : exec (.readyQueueSend) s = execReadyQueueSend s := rfl
@[simp] theorem exec_readyQueueReoffer (pa : Nat) (s : State) : exec (.readyQueueReoffer pa) s = execReadyQueueReoffer pa s := rfl
@[simp] theorem exec_furledRequestAtHome (r : FurlReq) (s : State) : exec (.furledRequestAtHome r) s = execFurledRequestAtHome r s := rfl
@[simp] theorem exec_evaluationMessage (r : FurlReq) (w : Word) (s : State) : exec (.evaluationMessage r w) s = execEvaluationMessage r w s := rfl
@[simp] theorem exec_recordFailureReport (pa : Nat) (s : State) : exec (.recordFailureReport pa) s = execRecordFailureReport pa s := rfl
@[simp] theorem exec_evaluationFailureReport (pa : Nat) (s : State) : exec (.evaluationFailureReport pa) s = execEvaluationFailureReport pa s := rfl
@[simp] theorem exec_furledWake (r : FurlReq) (a : FurlAns) (s : State) : exec (.furledWake r a) s = execFurledWake r a s := rfl
@[simp] theorem exec_furlWaitLimit (r : FurlReq) (s : State) : exec (.furlWaitLimit r) s = execFurlWaitLimit r s := rfl
@[simp] theorem exec_furlWaiterResend (r : FurlReq) (s : State) : exec (.furlWaiterResend r) s = execFurlWaiterResend r s := rfl
@[simp] theorem exec_spliceAnnihilate (c : CoreId) (s : State) : exec (.spliceAnnihilate c) s = execSpliceAnnihilate c s := rfl
@[simp] theorem exec_spliceCommute (c : CoreId) (s : State) : exec (.spliceCommute c) s = execSpliceCommute c s := rfl
@[simp] theorem exec_spliceErase (c : CoreId) (s : State) : exec (.spliceErase c) s = execSpliceErase c s := rfl
@[simp] theorem exec_spliceTemplate (c : CoreId) (s : State) : exec (.spliceTemplate c) s = execSpliceTemplate c s := rfl
@[simp] theorem exec_spliceHandler (c : CoreId) (s : State) : exec (.spliceHandler c) s = execSpliceHandler c s := rfl
@[simp] theorem exec_spliceEngine (c : CoreId) (s : State) : exec (.spliceEngine c) s = execSpliceEngine c s := rfl
@[simp] theorem exec_engineRuleElement (c : CoreId) (n : Nat) (e : BitVec 128) (s : State) : exec (.engineRuleElement c n e) s = execEngineRuleElement c n e s := rfl
@[simp] theorem exec_bagReload (c : CoreId) (s : State) : exec (.bagReload c) s = execBagReload c s := rfl
@[simp] theorem exec_spliceSteal (c : CoreId) (s : State) : exec (.spliceSteal c) s = execSpliceSteal c s := rfl
@[simp] theorem exec_bagStealArrival (victim : CoreId) (thief : CoreId) (s : State) : exec (.bagStealArrival victim thief) s = execBagStealArrival victim thief s := rfl
@[simp] theorem exec_trapRecordArrival (c : CoreId) (lid : Nat) (r : Msg) (s : State) : exec (.trapRecordArrival c lid r) s = execTrapRecordArrival c lid r s := rfl
@[simp] theorem exec_migrationForward (c : CoreId) (p : Packet) (s : State) : exec (.migrationForward c p) s = execMigrationForward c p s := rfl
@[simp] theorem exec_mapAcknowledged (c : CoreId) (s : State) : exec (.mapAcknowledged c) s = execMapAcknowledged c s := rfl
@[simp] theorem exec_stayLinkTrained (peerDev : BitVec 1) (base : BitVec 57) (s : State) : exec (.stayLinkTrained peerDev base) s = execStayLinkTrained peerDev base s := rfl
@[simp] theorem exec_stayLinkLoss (s : State) : exec (.stayLinkLoss) s = execStayLinkLoss s := rfl
@[simp] theorem exec_deviceFatalError (kind : BitVec 4) (loc : BitVec 9) (addr : BitVec 57) (s : State) : exec (.deviceFatalError kind loc addr) s = execDeviceFatalError kind loc addr s := rfl
@[simp] theorem exec_functionReset (s : State) : exec (.functionReset) s = execFunctionReset s := rfl
@[simp] theorem exec_powerOn (table : BitVec 1024) (sigOk : Bool) (imgOk : Bool) (s : State) : exec (.powerOn table sigOk imgOk) s = execPowerOn table sigOk imgOk s := rfl
@[simp] theorem exec_readyBitSet (n : Fin 334) (s : State) : exec (.readyBitSet n) s = execReadyBitSet n s := rfl
@[simp] theorem exec_powerMeasurement (watts : Nat) (s : State) : exec (.powerMeasurement watts) s = execPowerMeasurement watts s := rfl
@[simp] theorem exec_matrixCapUpdate (estimate : Nat) (s : State) : exec (.matrixCapUpdate estimate) s = execMatrixCapUpdate estimate s := rfl
@[simp] theorem exec_thermalStep (celsius : Nat) (s : State) : exec (.thermalStep celsius) s = execThermalStep celsius s := rfl
@[simp] theorem exec_thermalTrip (celsius : Nat) (s : State) : exec (.thermalTrip celsius) s = execThermalTrip celsius s := rfl
@[simp] theorem exec_getVersion (req : List Byte) (s : State) : exec (.getVersion req) s = execGetVersion req s := rfl
@[simp] theorem exec_getCapabilities (req : List Byte) (s : State) : exec (.getCapabilities req) s = execGetCapabilities req s := rfl
@[simp] theorem exec_negotiateAlgorithms (req : List Byte) (s : State) : exec (.negotiateAlgorithms req) s = execNegotiateAlgorithms req s := rfl
@[simp] theorem exec_getDigests (req : List Byte) (s : State) : exec (.getDigests req) s = execGetDigests req s := rfl
@[simp] theorem exec_getCertificate (req : List Byte) (s : State) : exec (.getCertificate req) s = execGetCertificate req s := rfl
@[simp] theorem exec_challenge (req : List Byte) (s : State) : exec (.challenge req) s = execChallenge req s := rfl
@[simp] theorem exec_getMeasurements (req : List Byte) (s : State) : exec (.getMeasurements req) s = execGetMeasurements req s := rfl
@[simp] theorem exec_readbackLatch (addr : BitVec 36) (s : State) : exec (.readbackLatch addr) s = execReadbackLatch addr s := rfl
@[simp] theorem exec_errorLogClear (n : Fin 64) (bits : BitVec 128) (s : State) : exec (.errorLogClear n bits) s = execErrorLogClear n bits s := rfl
@[simp] theorem exec_powerCapWrite (v : Word) (s : State) : exec (.powerCapWrite v) s = execPowerCapWrite v s := rfl
@[simp] theorem exec_registerWrite (addr : BitVec 36) (v : Word) (s : State) : exec (.registerWrite addr v) s = execRegisterWrite addr v s := rfl
@[simp] theorem exec_illegalInstruction (c : CoreId) (x : CtxId) (enc : Word) (s : State) : exec (.illegalInstruction c x enc) s = execIllegalInstruction c x enc s := rfl
@[simp] theorem exec_instructionFetchFault (c : CoreId) (x : CtxId) (va : Word) (cause : BitVec 9) (s : State) : exec (.instructionFetchFault c x va cause) s = execInstructionFetchFault c x va cause s := rfl
@[simp] theorem exec_childLaunchRequest (c : CoreId) (x : CtxId) (rec : Msg) (r : Word) (s : State) : exec (.childLaunchRequest c x rec r) s = execChildLaunchRequest c x rec r s := rfl
@[simp] theorem exec_launchAnswer (c : CoreId) (x : CtxId) (cause : BitVec 9) (r : Word) (s : State) : exec (.launchAnswer c x cause r) s = execLaunchAnswer c x cause r s := rfl
@[simp] theorem exec_migrationImageInstalled (src : CoreId) (dst : CoreId) (s : State) : exec (.migrationImageInstalled src dst) s = execMigrationImageInstalled src dst s := rfl
@[simp] theorem exec_aredPartnerEnded (n : LaunchHalf) (s : State) : exec (.aredPartnerEnded n) s = execAredPartnerEnded n s := rfl
@[simp] theorem exec_linkLevelRetry (s : State) : exec (.linkLevelRetry) s = execLinkLevelRetry s := rfl
@[simp] theorem exec_add (d : BitVec 5) (a : BitVec 5) (b : BitVec 5) (s : State) : exec (.add d a b) s = execAdd d a b s := rfl
@[simp] theorem exec_sub (d : BitVec 5) (a : BitVec 5) (b : BitVec 5) (s : State) : exec (.sub d a b) s = execSub d a b s := rfl
@[simp] theorem exec_and (d : BitVec 5) (a : BitVec 5) (b : BitVec 5) (s : State) : exec (.and d a b) s = execAnd d a b s := rfl
@[simp] theorem exec_or (d : BitVec 5) (a : BitVec 5) (b : BitVec 5) (s : State) : exec (.or d a b) s = execOr d a b s := rfl
@[simp] theorem exec_xor (d : BitVec 5) (a : BitVec 5) (b : BitVec 5) (s : State) : exec (.xor d a b) s = execXor d a b s := rfl
@[simp] theorem exec_andn (d : BitVec 5) (a : BitVec 5) (b : BitVec 5) (s : State) : exec (.andn d a b) s = execAndn d a b s := rfl
@[simp] theorem exec_sll (d : BitVec 5) (a : BitVec 5) (b : BitVec 5) (s : State) : exec (.sll d a b) s = execSll d a b s := rfl
@[simp] theorem exec_srl (d : BitVec 5) (a : BitVec 5) (b : BitVec 5) (s : State) : exec (.srl d a b) s = execSrl d a b s := rfl
@[simp] theorem exec_sra (d : BitVec 5) (a : BitVec 5) (b : BitVec 5) (s : State) : exec (.sra d a b) s = execSra d a b s := rfl
@[simp] theorem exec_rol (d : BitVec 5) (a : BitVec 5) (b : BitVec 5) (s : State) : exec (.rol d a b) s = execRol d a b s := rfl
@[simp] theorem exec_ror (d : BitVec 5) (a : BitVec 5) (b : BitVec 5) (s : State) : exec (.ror d a b) s = execRor d a b s := rfl
@[simp] theorem exec_min (d : BitVec 5) (a : BitVec 5) (b : BitVec 5) (s : State) : exec (.min d a b) s = execMin d a b s := rfl
@[simp] theorem exec_max (d : BitVec 5) (a : BitVec 5) (b : BitVec 5) (s : State) : exec (.max d a b) s = execMax d a b s := rfl
@[simp] theorem exec_minu (d : BitVec 5) (a : BitVec 5) (b : BitVec 5) (s : State) : exec (.minu d a b) s = execMinu d a b s := rfl
@[simp] theorem exec_maxu (d : BitVec 5) (a : BitVec 5) (b : BitVec 5) (s : State) : exec (.maxu d a b) s = execMaxu d a b s := rfl
@[simp] theorem exec_slt (d : BitVec 5) (a : BitVec 5) (b : BitVec 5) (s : State) : exec (.slt d a b) s = execSlt d a b s := rfl
@[simp] theorem exec_sltu (d : BitVec 5) (a : BitVec 5) (b : BitVec 5) (s : State) : exec (.sltu d a b) s = execSltu d a b s := rfl
@[simp] theorem exec_seq (d : BitVec 5) (a : BitVec 5) (b : BitVec 5) (s : State) : exec (.seq d a b) s = execSeq d a b s := rfl
@[simp] theorem exec_sne (d : BitVec 5) (a : BitVec 5) (b : BitVec 5) (s : State) : exec (.sne d a b) s = execSne d a b s := rfl
@[simp] theorem exec_csel (d : BitVec 5) (a : BitVec 5) (b : BitVec 5) (s : State) : exec (.csel d a b) s = execCsel d a b s := rfl
@[simp] theorem exec_addi (d : BitVec 5) (a : BitVec 5) (imm : BitVec 15) (s : State) : exec (.addi d a imm) s = execAddi d a imm s := rfl
@[simp] theorem exec_andi (d : BitVec 5) (a : BitVec 5) (imm : BitVec 15) (s : State) : exec (.andi d a imm) s = execAndi d a imm s := rfl
@[simp] theorem exec_ori (d : BitVec 5) (a : BitVec 5) (imm : BitVec 15) (s : State) : exec (.ori d a imm) s = execOri d a imm s := rfl
@[simp] theorem exec_xori (d : BitVec 5) (a : BitVec 5) (imm : BitVec 15) (s : State) : exec (.xori d a imm) s = execXori d a imm s := rfl
@[simp] theorem exec_slli (d : BitVec 5) (a : BitVec 5) (sc : BitVec 6) (s : State) : exec (.slli d a sc) s = execSlli d a sc s := rfl
@[simp] theorem exec_srli (d : BitVec 5) (a : BitVec 5) (sc : BitVec 6) (s : State) : exec (.srli d a sc) s = execSrli d a sc s := rfl
@[simp] theorem exec_srai (d : BitVec 5) (a : BitVec 5) (sc : BitVec 6) (s : State) : exec (.srai d a sc) s = execSrai d a sc s := rfl
@[simp] theorem exec_rori (d : BitVec 5) (a : BitVec 5) (sc : BitVec 6) (s : State) : exec (.rori d a sc) s = execRori d a sc s := rfl
@[simp] theorem exec_slti (d : BitVec 5) (a : BitVec 5) (imm : BitVec 12) (s : State) : exec (.slti d a imm) s = execSlti d a imm s := rfl
@[simp] theorem exec_sltiu (d : BitVec 5) (a : BitVec 5) (imm : BitVec 12) (s : State) : exec (.sltiu d a imm) s = execSltiu d a imm s := rfl
@[simp] theorem exec_seqi (d : BitVec 5) (a : BitVec 5) (imm : BitVec 12) (s : State) : exec (.seqi d a imm) s = execSeqi d a imm s := rfl
@[simp] theorem exec_snei (d : BitVec 5) (a : BitVec 5) (imm : BitVec 12) (s : State) : exec (.snei d a imm) s = execSnei d a imm s := rfl
@[simp] theorem exec_liu (d : BitVec 5) (imm : BitVec 20) (s : State) : exec (.liu d imm) s = execLiu d imm s := rfl
@[simp] theorem exec_adrp (d : BitVec 5) (imm : BitVec 20) (s : State) : exec (.adrp d imm) s = execAdrp d imm s := rfl
@[simp] theorem exec_mul (d : BitVec 5) (a : BitVec 5) (b : BitVec 5) (s : State) : exec (.mul d a b) s = execMul d a b s := rfl
@[simp] theorem exec_mulhu (d : BitVec 5) (a : BitVec 5) (b : BitVec 5) (s : State) : exec (.mulhu d a b) s = execMulhu d a b s := rfl
@[simp] theorem exec_mulh (d : BitVec 5) (a : BitVec 5) (b : BitVec 5) (s : State) : exec (.mulh d a b) s = execMulh d a b s := rfl
@[simp] theorem exec_mulhus (d : BitVec 5) (a : BitVec 5) (b : BitVec 5) (s : State) : exec (.mulhus d a b) s = execMulhus d a b s := rfl
@[simp] theorem exec_divu (d : BitVec 5) (a : BitVec 5) (b : BitVec 5) (s : State) : exec (.divu d a b) s = execDivu d a b s := rfl
@[simp] theorem exec_div (d : BitVec 5) (a : BitVec 5) (b : BitVec 5) (s : State) : exec (.div d a b) s = execDiv d a b s := rfl
@[simp] theorem exec_remu (d : BitVec 5) (a : BitVec 5) (b : BitVec 5) (s : State) : exec (.remu d a b) s = execRemu d a b s := rfl
@[simp] theorem exec_rem (d : BitVec 5) (a : BitVec 5) (b : BitVec 5) (s : State) : exec (.rem d a b) s = execRem d a b s := rfl
@[simp] theorem exec_mod (d : BitVec 5) (a : BitVec 5) (b : BitVec 5) (s : State) : exec (.mod d a b) s = execMod d a b s := rfl
@[simp] theorem exec_clz (d : BitVec 5) (a : BitVec 5) (s : State) : exec (.clz d a) s = execClz d a s := rfl
@[simp] theorem exec_ctz (d : BitVec 5) (a : BitVec 5) (s : State) : exec (.ctz d a) s = execCtz d a s := rfl
@[simp] theorem exec_popc (d : BitVec 5) (a : BitVec 5) (s : State) : exec (.popc d a) s = execPopc d a s := rfl
@[simp] theorem exec_brev (d : BitVec 5) (a : BitVec 5) (s : State) : exec (.brev d a) s = execBrev d a s := rfl
@[simp] theorem exec_extB (d : BitVec 5) (a : BitVec 5) (s : State) : exec (.extB d a) s = execExtB d a s := rfl
@[simp] theorem exec_extH (d : BitVec 5) (a : BitVec 5) (s : State) : exec (.extH d a) s = execExtH d a s := rfl
@[simp] theorem exec_extW (d : BitVec 5) (a : BitVec 5) (s : State) : exec (.extW d a) s = execExtW d a s := rfl
@[simp] theorem exec_extBu (d : BitVec 5) (a : BitVec 5) (s : State) : exec (.extBu d a) s = execExtBu d a s := rfl
@[simp] theorem exec_extHu (d : BitVec 5) (a : BitVec 5) (s : State) : exec (.extHu d a) s = execExtHu d a s := rfl
@[simp] theorem exec_extWu (d : BitVec 5) (a : BitVec 5) (s : State) : exec (.extWu d a) s = execExtWu d a s := rfl
@[simp] theorem exec_bfx (d : BitVec 5) (a : BitVec 5) (b : BitVec 5) (s : State) : exec (.bfx d a b) s = execBfx d a b s := rfl
@[simp] theorem exec_bfxu (d : BitVec 5) (a : BitVec 5) (b : BitVec 5) (s : State) : exec (.bfxu d a b) s = execBfxu d a b s := rfl
@[simp] theorem exec_bfi (d : BitVec 5) (a : BitVec 5) (b : BitVec 5) (s : State) : exec (.bfi d a b) s = execBfi d a b s := rfl
@[simp] theorem exec_ptag (d : BitVec 5) (a : BitVec 5) (f : BitVec 4) (l : BitVec 3) (s : State) : exec (.ptag d a f l) s = execPtag d a f l s := rfl
@[simp] theorem exec_padd (d : BitVec 5) (a : BitVec 5) (b : BitVec 5) (s : State) : exec (.padd d a b) s = execPadd d a b s := rfl
@[simp] theorem exec_pchk (d : BitVec 5) (a : BitVec 5) (s : State) : exec (.pchk d a) s = execPchk d a s := rfl
@[simp] theorem exec_fadd (d : BitVec 5) (a : BitVec 5) (b : BitVec 5) (p : BitVec 1) (s : State) : exec (.fadd d a b p) s = execFadd d a b p s := rfl
@[simp] theorem exec_fsub (d : BitVec 5) (a : BitVec 5) (b : BitVec 5) (p : BitVec 1) (s : State) : exec (.fsub d a b p) s = execFsub d a b p s := rfl
@[simp] theorem exec_fmul (d : BitVec 5) (a : BitVec 5) (b : BitVec 5) (p : BitVec 1) (s : State) : exec (.fmul d a b p) s = execFmul d a b p s := rfl
@[simp] theorem exec_fdiv (d : BitVec 5) (a : BitVec 5) (b : BitVec 5) (p : BitVec 1) (s : State) : exec (.fdiv d a b p) s = execFdiv d a b p s := rfl
@[simp] theorem exec_fsqrt (d : BitVec 5) (a : BitVec 5) (p : BitVec 1) (s : State) : exec (.fsqrt d a p) s = execFsqrt d a p s := rfl
@[simp] theorem exec_fmin (d : BitVec 5) (a : BitVec 5) (b : BitVec 5) (p : BitVec 1) (s : State) : exec (.fmin d a b p) s = execFmin d a b p s := rfl
@[simp] theorem exec_fmax (d : BitVec 5) (a : BitVec 5) (b : BitVec 5) (p : BitVec 1) (s : State) : exec (.fmax d a b p) s = execFmax d a b p s := rfl
@[simp] theorem exec_fma (d : BitVec 5) (a : BitVec 5) (b : BitVec 5) (p : BitVec 1) (s : State) : exec (.fma d a b p) s = execFma d a b p s := rfl
@[simp] theorem exec_feq (d : BitVec 5) (a : BitVec 5) (b : BitVec 5) (p : BitVec 1) (s : State) : exec (.feq d a b p) s = execFeq d a b p s := rfl
@[simp] theorem exec_flt (d : BitVec 5) (a : BitVec 5) (b : BitVec 5) (p : BitVec 1) (s : State) : exec (.flt d a b p) s = execFlt d a b p s := rfl
@[simp] theorem exec_fle (d : BitVec 5) (a : BitVec 5) (b : BitVec 5) (p : BitVec 1) (s : State) : exec (.fle d a b p) s = execFle d a b p s := rfl
@[simp] theorem exec_fclass (d : BitVec 5) (a : BitVec 5) (p : BitVec 1) (s : State) : exec (.fclass d a p) s = execFclass d a p s := rfl
@[simp] theorem exec_ftoi (d : BitVec 5) (a : BitVec 5) (p : BitVec 1) (s : State) : exec (.ftoi d a p) s = execFtoi d a p s := rfl
@[simp] theorem exec_ftoiu (d : BitVec 5) (a : BitVec 5) (p : BitVec 1) (s : State) : exec (.ftoiu d a p) s = execFtoiu d a p s := rfl
@[simp] theorem exec_itof (d : BitVec 5) (a : BitVec 5) (p : BitVec 1) (s : State) : exec (.itof d a p) s = execItof d a p s := rfl
@[simp] theorem exec_iutof (d : BitVec 5) (a : BitVec 5) (p : BitVec 1) (s : State) : exec (.iutof d a p) s = execIutof d a p s := rfl
@[simp] theorem exec_ftof (d : BitVec 5) (a : BitVec 5) (p : BitVec 1) (s : State) : exec (.ftof d a p) s = execFtof d a p s := rfl
@[simp] theorem exec_beq (a : BitVec 5) (b : BitVec 5) (o : BitVec 15) (s : State) : exec (.beq a b o) s = execBeq a b o s := rfl
@[simp] theorem exec_bne (a : BitVec 5) (b : BitVec 5) (o : BitVec 15) (s : State) : exec (.bne a b o) s = execBne a b o s := rfl
@[simp] theorem exec_blt (a : BitVec 5) (b : BitVec 5) (o : BitVec 15) (s : State) : exec (.blt a b o) s = execBlt a b o s := rfl
@[simp] theorem exec_bge (a : BitVec 5) (b : BitVec 5) (o : BitVec 15) (s : State) : exec (.bge a b o) s = execBge a b o s := rfl
@[simp] theorem exec_bltu (a : BitVec 5) (b : BitVec 5) (o : BitVec 15) (s : State) : exec (.bltu a b o) s = execBltu a b o s := rfl
@[simp] theorem exec_bgeu (a : BitVec 5) (b : BitVec 5) (o : BitVec 15) (s : State) : exec (.bgeu a b o) s = execBgeu a b o s := rfl
@[simp] theorem exec_jal (d : BitVec 5) (o : BitVec 20) (s : State) : exec (.jal d o) s = execJal d o s := rfl
@[simp] theorem exec_jalr (d : BitVec 5) (a : BitVec 5) (imm : BitVec 15) (s : State) : exec (.jalr d a imm) s = execJalr d a imm s := rfl
@[simp] theorem exec_loop (a : BitVec 5) (o : BitVec 15) (s : State) : exec (.loop a o) s = execLoop a o s := rfl
@[simp] theorem exec_loopi (c : BitVec 9) (o : BitVec 15) (s : State) : exec (.loopi c o) s = execLoopi c o s := rfl
@[simp] theorem exec_endTask (s : State) : exec (.endTask) s = execEndTask s := rfl
@[simp] theorem exec_yield (s : State) : exec (.yield) s = execYield s := rfl
@[simp] theorem exec_done (a : BitVec 5) (s : State) : exec (.done a) s = execDone a s := rfl
@[simp] theorem exec_nop (s : State) : exec (.nop) s = execNop s := rfl
@[simp] theorem exec_end16 (s : State) : exec (.end16) s = execEnd16 s := rfl
@[simp] theorem exec_yield16 (s : State) : exec (.yield16) s = execYield16 s := rfl
@[simp] theorem exec_nop16 (s : State) : exec (.nop16) s = execNop16 s := rfl
@[simp] theorem exec_mv16 (d : BitVec 4) (a : BitVec 4) (s : State) : exec (.mv16 d a) s = execMv16 d a s := rfl
@[simp] theorem exec_li16 (d : BitVec 4) (imm : BitVec 7) (s : State) : exec (.li16 d imm) s = execLi16 d imm s := rfl
@[simp] theorem exec_addi16 (d : BitVec 4) (imm : BitVec 7) (s : State) : exec (.addi16 d imm) s = execAddi16 d imm s := rfl
@[simp] theorem exec_add16 (d : BitVec 4) (a : BitVec 4) (s : State) : exec (.add16 d a) s = execAdd16 d a s := rfl
@[simp] theorem exec_sub16 (d : BitVec 4) (a : BitVec 4) (s : State) : exec (.sub16 d a) s = execSub16 d a s := rfl
@[simp] theorem exec_and16 (d : BitVec 4) (a : BitVec 4) (s : State) : exec (.and16 d a) s = execAnd16 d a s := rfl
@[simp] theorem exec_andi16 (d : BitVec 4) (imm : BitVec 7) (s : State) : exec (.andi16 d imm) s = execAndi16 d imm s := rfl
@[simp] theorem exec_slli16 (d : BitVec 4) (sc : BitVec 6) (s : State) : exec (.slli16 d sc) s = execSlli16 d sc s := rfl
@[simp] theorem exec_srli16 (d : BitVec 4) (sc : BitVec 6) (s : State) : exec (.srli16 d sc) s = execSrli16 d sc s := rfl
@[simp] theorem exec_srai16 (d : BitVec 4) (sc : BitVec 6) (s : State) : exec (.srai16 d sc) s = execSrai16 d sc s := rfl
@[simp] theorem exec_ldD16 (d : BitVec 4) (a : BitVec 4) (o : BitVec 3) (s : State) : exec (.ldD16 d a o) s = execLdD16 d a o s := rfl
@[simp] theorem exec_stD16 (d : BitVec 4) (a : BitVec 4) (o : BitVec 3) (s : State) : exec (.stD16 d a o) s = execStD16 d a o s := rfl
@[simp] theorem exec_beqz16 (a : BitVec 4) (o : BitVec 7) (s : State) : exec (.beqz16 a o) s = execBeqz16 a o s := rfl
@[simp] theorem exec_bnez16 (a : BitVec 4) (o : BitVec 7) (s : State) : exec (.bnez16 a o) s = execBnez16 a o s := rfl
@[simp] theorem exec_j16 (o : BitVec 11) (s : State) : exec (.j16 o) s = execJ16 o s := rfl
@[simp] theorem exec_ldB (d : BitVec 5) (b : BitVec 5) (imm : BitVec 12) (s : State) : exec (.ldB d b imm) s = execLdB d b imm s := rfl
@[simp] theorem exec_ldH (d : BitVec 5) (b : BitVec 5) (imm : BitVec 12) (s : State) : exec (.ldH d b imm) s = execLdH d b imm s := rfl
@[simp] theorem exec_ldW (d : BitVec 5) (b : BitVec 5) (imm : BitVec 12) (s : State) : exec (.ldW d b imm) s = execLdW d b imm s := rfl
@[simp] theorem exec_ldD (d : BitVec 5) (b : BitVec 5) (imm : BitVec 12) (s : State) : exec (.ldD d b imm) s = execLdD d b imm s := rfl
@[simp] theorem exec_ldBu (d : BitVec 5) (b : BitVec 5) (imm : BitVec 12) (s : State) : exec (.ldBu d b imm) s = execLdBu d b imm s := rfl
@[simp] theorem exec_ldHu (d : BitVec 5) (b : BitVec 5) (imm : BitVec 12) (s : State) : exec (.ldHu d b imm) s = execLdHu d b imm s := rfl
@[simp] theorem exec_ldWu (d : BitVec 5) (b : BitVec 5) (imm : BitVec 12) (s : State) : exec (.ldWu d b imm) s = execLdWu d b imm s := rfl
@[simp] theorem exec_stB (d : BitVec 5) (b : BitVec 5) (imm : BitVec 12) (s : State) : exec (.stB d b imm) s = execStB d b imm s := rfl
@[simp] theorem exec_stH (d : BitVec 5) (b : BitVec 5) (imm : BitVec 12) (s : State) : exec (.stH d b imm) s = execStH d b imm s := rfl
@[simp] theorem exec_stW (d : BitVec 5) (b : BitVec 5) (imm : BitVec 12) (s : State) : exec (.stW d b imm) s = execStW d b imm s := rfl
@[simp] theorem exec_stD (d : BitVec 5) (b : BitVec 5) (imm : BitVec 12) (s : State) : exec (.stD d b imm) s = execStD d b imm s := rfl
@[simp] theorem exec_ldAcq (d : BitVec 5) (b : BitVec 5) (sc : BitVec 4) (z : BitVec 3) (s : State) : exec (.ldAcq d b sc z) s = execLdAcq d b sc z s := rfl
@[simp] theorem exec_stRel (d : BitVec 5) (b : BitVec 5) (sc : BitVec 4) (z : BitVec 3) (s : State) : exec (.stRel d b sc z) s = execStRel d b sc z s := rfl
@[simp] theorem exec_fence (sc : BitVec 4) (o : BitVec 3) (s : State) : exec (.fence sc o) s = execFence sc o s := rfl
@[simp] theorem exec_pref (b : BitVec 5) (r : BitVec 1) (s : State) : exec (.pref b r) s = execPref b r s := rfl
@[simp] theorem exec_ifence (s : State) : exec (.ifence) s = execIfence s := rfl
@[simp] theorem exec_vld (v : BitVec 5) (a : BitVec 5) (k : BitVec 3) (w : BitVec 2) (s : State) : exec (.vld v a k w) s = execVld v a k w s := rfl
@[simp] theorem exec_vst (v : BitVec 5) (a : BitVec 5) (k : BitVec 3) (w : BitVec 2) (s : State) : exec (.vst v a k w) s = execVst v a k w s := rfl
@[simp] theorem exec_vlds (v : BitVec 5) (a : BitVec 5) (b : BitVec 5) (k : BitVec 3) (w : BitVec 2) (s : State) : exec (.vlds v a b k w) s = execVlds v a b k w s := rfl
@[simp] theorem exec_vsts (v : BitVec 5) (a : BitVec 5) (b : BitVec 5) (k : BitVec 3) (w : BitVec 2) (s : State) : exec (.vsts v a b k w) s = execVsts v a b k w s := rfl
@[simp] theorem exec_vldg (v : BitVec 5) (a : BitVec 5) (b : BitVec 5) (k : BitVec 3) (w : BitVec 2) (s : State) : exec (.vldg v a b k w) s = execVldg v a b k w s := rfl
@[simp] theorem exec_vstg (v : BitVec 5) (a : BitVec 5) (b : BitVec 5) (k : BitVec 3) (w : BitVec 2) (s : State) : exec (.vstg v a b k w) s = execVstg v a b k w s := rfl
@[simp] theorem exec_vldt (v : BitVec 5) (a : BitVec 5) (k : BitVec 3) (w : BitVec 2) (c : BitVec 1) (s : State) : exec (.vldt v a k w c) s = execVldt v a k w c s := rfl
@[simp] theorem exec_vstt (v : BitVec 5) (a : BitVec 5) (k : BitVec 3) (w : BitVec 2) (c : BitVec 1) (s : State) : exec (.vstt v a k w c) s = execVstt v a k w c s := rfl
@[simp] theorem exec_vldf (v : BitVec 5) (a : BitVec 5) (b : BitVec 5) (k : BitVec 3) (f : BitVec 4) (s : State) : exec (.vldf v a b k f) s = execVldf v a b k f s := rfl
@[simp] theorem exec_vstf (v : BitVec 5) (a : BitVec 5) (b : BitVec 5) (k : BitVec 3) (f : BitVec 4) (s : State) : exec (.vstf v a b k f) s = execVstf v a b k f s := rfl
@[simp] theorem exec_amoaddW (d : BitVec 5) (a : BitVec 5) (b : BitVec 5) (sc : BitVec 4) (o : BitVec 2) (s : State) : exec (.amoaddW d a b sc o) s = execAmoaddW d a b sc o s := rfl
@[simp] theorem exec_amoaddD (d : BitVec 5) (a : BitVec 5) (b : BitVec 5) (sc : BitVec 4) (o : BitVec 2) (s : State) : exec (.amoaddD d a b sc o) s = execAmoaddD d a b sc o s := rfl
@[simp] theorem exec_amoandD (d : BitVec 5) (a : BitVec 5) (b : BitVec 5) (sc : BitVec 4) (o : BitVec 2) (s : State) : exec (.amoandD d a b sc o) s = execAmoandD d a b sc o s := rfl
@[simp] theorem exec_amoorD (d : BitVec 5) (a : BitVec 5) (b : BitVec 5) (sc : BitVec 4) (o : BitVec 2) (s : State) : exec (.amoorD d a b sc o) s = execAmoorD d a b sc o s := rfl
@[simp] theorem exec_amoxorD (d : BitVec 5) (a : BitVec 5) (b : BitVec 5) (sc : BitVec 4) (o : BitVec 2) (s : State) : exec (.amoxorD d a b sc o) s = execAmoxorD d a b sc o s := rfl
@[simp] theorem exec_amominD (d : BitVec 5) (a : BitVec 5) (b : BitVec 5) (sc : BitVec 4) (o : BitVec 2) (s : State) : exec (.amominD d a b sc o) s = execAmominD d a b sc o s := rfl
@[simp] theorem exec_amomaxD (d : BitVec 5) (a : BitVec 5) (b : BitVec 5) (sc : BitVec 4) (o : BitVec 2) (s : State) : exec (.amomaxD d a b sc o) s = execAmomaxD d a b sc o s := rfl
@[simp] theorem exec_amominuD (d : BitVec 5) (a : BitVec 5) (b : BitVec 5) (sc : BitVec 4) (o : BitVec 2) (s : State) : exec (.amominuD d a b sc o) s = execAmominuD d a b sc o s := rfl
@[simp] theorem exec_amomaxuD (d : BitVec 5) (a : BitVec 5) (b : BitVec 5) (sc : BitVec 4) (o : BitVec 2) (s : State) : exec (.amomaxuD d a b sc o) s = execAmomaxuD d a b sc o s := rfl
@[simp] theorem exec_amoswapW (d : BitVec 5) (a : BitVec 5) (b : BitVec 5) (sc : BitVec 4) (o : BitVec 2) (s : State) : exec (.amoswapW d a b sc o) s = execAmoswapW d a b sc o s := rfl
@[simp] theorem exec_amoswapD (d : BitVec 5) (a : BitVec 5) (b : BitVec 5) (sc : BitVec 4) (o : BitVec 2) (s : State) : exec (.amoswapD d a b sc o) s = execAmoswapD d a b sc o s := rfl
@[simp] theorem exec_amocasW (d : BitVec 5) (a : BitVec 5) (b : BitVec 5) (sc : BitVec 4) (o : BitVec 2) (s : State) : exec (.amocasW d a b sc o) s = execAmocasW d a b sc o s := rfl
@[simp] theorem exec_amocasD (d : BitVec 5) (a : BitVec 5) (b : BitVec 5) (sc : BitVec 4) (o : BitVec 2) (s : State) : exec (.amocasD d a b sc o) s = execAmocasD d a b sc o s := rfl
@[simp] theorem exec_amocas2Q (d : BitVec 5) (a : BitVec 5) (b : BitVec 5) (sc : BitVec 4) (o : BitVec 2) (s : State) : exec (.amocas2Q d a b sc o) s = execAmocas2Q d a b sc o s := rfl
@[simp] theorem exec_famoaddF32 (d : BitVec 5) (a : BitVec 5) (b : BitVec 5) (sc : BitVec 4) (o : BitVec 2) (s : State) : exec (.famoaddF32 d a b sc o) s = execFamoaddF32 d a b sc o s := rfl
@[simp] theorem exec_redadd (w : BitVec 5) (a : BitVec 5) (b : BitVec 5) (sc : BitVec 4) (o : BitVec 2) (s : State) : exec (.redadd w a b sc o) s = execRedadd w a b sc o s := rfl
@[simp] theorem exec_redand (w : BitVec 5) (a : BitVec 5) (b : BitVec 5) (sc : BitVec 4) (o : BitVec 2) (s : State) : exec (.redand w a b sc o) s = execRedand w a b sc o s := rfl
@[simp] theorem exec_redor (w : BitVec 5) (a : BitVec 5) (b : BitVec 5) (sc : BitVec 4) (o : BitVec 2) (s : State) : exec (.redor w a b sc o) s = execRedor w a b sc o s := rfl
@[simp] theorem exec_redxor (w : BitVec 5) (a : BitVec 5) (b : BitVec 5) (sc : BitVec 4) (o : BitVec 2) (s : State) : exec (.redxor w a b sc o) s = execRedxor w a b sc o s := rfl
@[simp] theorem exec_redmin (w : BitVec 5) (a : BitVec 5) (b : BitVec 5) (sc : BitVec 4) (o : BitVec 2) (s : State) : exec (.redmin w a b sc o) s = execRedmin w a b sc o s := rfl
@[simp] theorem exec_redmax (w : BitVec 5) (a : BitVec 5) (b : BitVec 5) (sc : BitVec 4) (o : BitVec 2) (s : State) : exec (.redmax w a b sc o) s = execRedmax w a b sc o s := rfl
@[simp] theorem exec_redminu (w : BitVec 5) (a : BitVec 5) (b : BitVec 5) (sc : BitVec 4) (o : BitVec 2) (s : State) : exec (.redminu w a b sc o) s = execRedminu w a b sc o s := rfl
@[simp] theorem exec_redmaxu (w : BitVec 5) (a : BitVec 5) (b : BitVec 5) (sc : BitVec 4) (o : BitVec 2) (s : State) : exec (.redmaxu w a b sc o) s = execRedmaxu w a b sc o s := rfl
@[simp] theorem exec_waita (d : BitVec 5) (a : BitVec 5) (b : BitVec 5) (sc : BitVec 4) (w : BitVec 2) (s : State) : exec (.waita d a b sc w) s = execWaita d a b sc w s := rfl
@[simp] theorem exec_bar (n : BitVec 2) (s : State) : exec (.bar n) s = execBar n s := rfl
@[simp] theorem exec_bara (n : BitVec 2) (s : State) : exec (.bara n) s = execBara n s := rfl
@[simp] theorem exec_barw (n : BitVec 2) (s : State) : exec (.barw n) s = execBarw n s := rfl
@[simp] theorem exec_vredg (a : BitVec 5) (b : BitVec 5) (c : BitVec 5) (t : BitVec 4) (n : BitVec 2) (s : State) : exec (.vredg a b c t n) s = execVredg a b c t n s := rfl
@[simp] theorem exec_send (a : BitVec 5) (s : State) : exec (.send a) s = execSend a s := rfl
@[simp] theorem exec_spawn (a : BitVec 5) (s : State) : exec (.spawn a) s = execSpawn a s := rfl
@[simp] theorem exec_flush (s : State) : exec (.flush) s = execFlush s := rfl
@[simp] theorem exec_clsen (n : BitVec 6) (s : State) : exec (.clsen n) s = execClsen n s := rfl
@[simp] theorem exec_clsdis (n : BitVec 6) (s : State) : exec (.clsdis n) s = execClsdis n s := rfl
@[simp] theorem exec_clspend (d : BitVec 5) (s : State) : exec (.clspend d) s = execClspend d s := rfl
@[simp] theorem exec_qpush (a : BitVec 5) (b : BitVec 5) (l : BitVec 5) (s : State) : exec (.qpush a b l) s = execQpush a b l s := rfl
@[simp] theorem exec_qpop (a : BitVec 5) (b : BitVec 5) (c : BitVec 5) (l : BitVec 5) (s : State) : exec (.qpop a b c l) s = execQpop a b c l s := rfl
@[simp] theorem exec_qeos (b : BitVec 5) (l : BitVec 5) (s : State) : exec (.qeos b l) s = execQeos b l s := rfl
@[simp] theorem exec_launch (a : BitVec 5) (s : State) : exec (.launch a) s = execLaunch a s := rfl
@[simp] theorem exec_depset (a : BitVec 5) (b : BitVec 5) (c : BitVec 5) (p : BitVec 2) (s : State) : exec (.depset a b c p) s = execDepset a b c p s := rfl
@[simp] theorem exec_depdec (a : BitVec 5) (s : State) : exec (.depdec a) s = execDepdec a s := rfl
@[simp] theorem exec_signal (a : BitVec 5) (b : BitVec 5) (sc : BitVec 4) (s : State) : exec (.signal a b sc) s = execSignal a b sc s := rfl
@[simp] theorem exec_enq (a : BitVec 5) (s : State) : exec (.enq a) s = execEnq a s := rfl
@[simp] theorem exec_deq (a : BitVec 5) (u : BitVec 3) (s : State) : exec (.deq a u) s = execDeq a u s := rfl
@[simp] theorem exec_epoll (a : BitVec 5) (u : BitVec 3) (s : State) : exec (.epoll a u) s = execEpoll a u s := rfl
@[simp] theorem exec_furl (d : BitVec 5) (a : BitVec 5) (b : BitVec 5) (p : BitVec 2) (s : State) : exec (.furl d a b p) s = execFurl d a b p s := rfl
@[simp] theorem exec_unfurl (d : BitVec 5) (a : BitVec 5) (b : BitVec 5) (s : State) : exec (.unfurl d a b) s = execUnfurl d a b s := rfl
@[simp] theorem exec_fpeek (d : BitVec 5) (a : BitVec 5) (s : State) : exec (.fpeek d a) s = execFpeek d a s := rfl
@[simp] theorem exec_ftag (d : BitVec 5) (a : BitVec 5) (s : State) : exec (.ftag d a) s = execFtag d a s := rfl
@[simp] theorem exec_fcancel (d : BitVec 5) (a : BitVec 5) (s : State) : exec (.fcancel d a) s = execFcancel d a s := rfl
@[simp] theorem exec_spop (d : BitVec 5) (s : State) : exec (.spop d) s = execSpop d s := rfl
@[simp] theorem exec_spush (a : BitVec 5) (b : BitVec 5) (s : State) : exec (.spush a b) s = execSpush a b s := rfl
@[simp] theorem exec_salloc (d : BitVec 5) (s : State) : exec (.salloc d) s = execSalloc d s := rfl
@[simp] theorem exec_sfree (a : BitVec 5) (s : State) : exec (.sfree a) s = execSfree a s := rfl
@[simp] theorem exec_slink (d : BitVec 5) (a : BitVec 5) (b : BitVec 5) (s : State) : exec (.slink d a b) s = execSlink d a b s := rfl
@[simp] theorem exec_sread (d : BitVec 5) (a : BitVec 5) (s : State) : exec (.sread d a) s = execSread d a s := rfl
@[simp] theorem exec_vadd (d : BitVec 5) (a : BitVec 5) (b : BitVec 5) (k : BitVec 3) (w : BitVec 2) (s : State) : exec (.vadd d a b k w) s = execVadd d a b k w s := rfl
@[simp] theorem exec_vsub (d : BitVec 5) (a : BitVec 5) (b : BitVec 5) (k : BitVec 3) (w : BitVec 2) (s : State) : exec (.vsub d a b k w) s = execVsub d a b k w s := rfl
@[simp] theorem exec_vaddSat (d : BitVec 5) (a : BitVec 5) (b : BitVec 5) (k : BitVec 3) (w : BitVec 2) (s : State) : exec (.vaddSat d a b k w) s = execVaddSat d a b k w s := rfl
@[simp] theorem exec_vsubSat (d : BitVec 5) (a : BitVec 5) (b : BitVec 5) (k : BitVec 3) (w : BitVec 2) (s : State) : exec (.vsubSat d a b k w) s = execVsubSat d a b k w s := rfl
@[simp] theorem exec_vadduSat (d : BitVec 5) (a : BitVec 5) (b : BitVec 5) (k : BitVec 3) (w : BitVec 2) (s : State) : exec (.vadduSat d a b k w) s = execVadduSat d a b k w s := rfl
@[simp] theorem exec_vsubuSat (d : BitVec 5) (a : BitVec 5) (b : BitVec 5) (k : BitVec 3) (w : BitVec 2) (s : State) : exec (.vsubuSat d a b k w) s = execVsubuSat d a b k w s := rfl
@[simp] theorem exec_vmul (d : BitVec 5) (a : BitVec 5) (b : BitVec 5) (k : BitVec 3) (w : BitVec 2) (s : State) : exec (.vmul d a b k w) s = execVmul d a b k w s := rfl
@[simp] theorem exec_vmulh (d : BitVec 5) (a : BitVec 5) (b : BitVec 5) (k : BitVec 3) (w : BitVec 2) (s : State) : exec (.vmulh d a b k w) s = execVmulh d a b k w s := rfl
@[simp] theorem exec_vmulhu (d : BitVec 5) (a : BitVec 5) (b : BitVec 5) (k : BitVec 3) (w : BitVec 2) (s : State) : exec (.vmulhu d a b k w) s = execVmulhu d a b k w s := rfl
@[simp] theorem exec_vmin (d : BitVec 5) (a : BitVec 5) (b : BitVec 5) (k : BitVec 3) (w : BitVec 2) (s : State) : exec (.vmin d a b k w) s = execVmin d a b k w s := rfl
@[simp] theorem exec_vmax (d : BitVec 5) (a : BitVec 5) (b : BitVec 5) (k : BitVec 3) (w : BitVec 2) (s : State) : exec (.vmax d a b k w) s = execVmax d a b k w s := rfl
@[simp] theorem exec_vminu (d : BitVec 5) (a : BitVec 5) (b : BitVec 5) (k : BitVec 3) (w : BitVec 2) (s : State) : exec (.vminu d a b k w) s = execVminu d a b k w s := rfl
@[simp] theorem exec_vmaxu (d : BitVec 5) (a : BitVec 5) (b : BitVec 5) (k : BitVec 3) (w : BitVec 2) (s : State) : exec (.vmaxu d a b k w) s = execVmaxu d a b k w s := rfl
@[simp] theorem exec_vabs (d : BitVec 5) (a : BitVec 5) (k : BitVec 3) (w : BitVec 2) (s : State) : exec (.vabs d a k w) s = execVabs d a k w s := rfl
@[simp] theorem exec_vand (d : BitVec 5) (a : BitVec 5) (b : BitVec 5) (k : BitVec 3) (w : BitVec 2) (s : State) : exec (.vand d a b k w) s = execVand d a b k w s := rfl
@[simp] theorem exec_vor (d : BitVec 5) (a : BitVec 5) (b : BitVec 5) (k : BitVec 3) (w : BitVec 2) (s : State) : exec (.vor d a b k w) s = execVor d a b k w s := rfl
@[simp] theorem exec_vxor (d : BitVec 5) (a : BitVec 5) (b : BitVec 5) (k : BitVec 3) (w : BitVec 2) (s : State) : exec (.vxor d a b k w) s = execVxor d a b k w s := rfl
@[simp] theorem exec_vandn (d : BitVec 5) (a : BitVec 5) (b : BitVec 5) (k : BitVec 3) (w : BitVec 2) (s : State) : exec (.vandn d a b k w) s = execVandn d a b k w s := rfl
@[simp] theorem exec_vnot (d : BitVec 5) (a : BitVec 5) (k : BitVec 3) (w : BitVec 2) (s : State) : exec (.vnot d a k w) s = execVnot d a k w s := rfl
@[simp] theorem exec_vsll (d : BitVec 5) (a : BitVec 5) (b : BitVec 5) (k : BitVec 3) (w : BitVec 2) (s : State) : exec (.vsll d a b k w) s = execVsll d a b k w s := rfl
@[simp] theorem exec_vsrl (d : BitVec 5) (a : BitVec 5) (b : BitVec 5) (k : BitVec 3) (w : BitVec 2) (s : State) : exec (.vsrl d a b k w) s = execVsrl d a b k w s := rfl
@[simp] theorem exec_vsra (d : BitVec 5) (a : BitVec 5) (b : BitVec 5) (k : BitVec 3) (w : BitVec 2) (s : State) : exec (.vsra d a b k w) s = execVsra d a b k w s := rfl
@[simp] theorem exec_vsel (d : BitVec 5) (a : BitVec 5) (b : BitVec 5) (k : BitVec 3) (w : BitVec 2) (s : State) : exec (.vsel d a b k w) s = execVsel d a b k w s := rfl
@[simp] theorem exec_vceq (d : BitVec 3) (a : BitVec 5) (b : BitVec 5) (k : BitVec 3) (w : BitVec 2) (s : State) : exec (.vceq d a b k w) s = execVceq d a b k w s := rfl
@[simp] theorem exec_vcne (d : BitVec 3) (a : BitVec 5) (b : BitVec 5) (k : BitVec 3) (w : BitVec 2) (s : State) : exec (.vcne d a b k w) s = execVcne d a b k w s := rfl
@[simp] theorem exec_vclt (d : BitVec 3) (a : BitVec 5) (b : BitVec 5) (k : BitVec 3) (w : BitVec 2) (s : State) : exec (.vclt d a b k w) s = execVclt d a b k w s := rfl
@[simp] theorem exec_vcle (d : BitVec 3) (a : BitVec 5) (b : BitVec 5) (k : BitVec 3) (w : BitVec 2) (s : State) : exec (.vcle d a b k w) s = execVcle d a b k w s := rfl
@[simp] theorem exec_vcltu (d : BitVec 3) (a : BitVec 5) (b : BitVec 5) (k : BitVec 3) (w : BitVec 2) (s : State) : exec (.vcltu d a b k w) s = execVcltu d a b k w s := rfl
@[simp] theorem exec_vcleu (d : BitVec 3) (a : BitVec 5) (b : BitVec 5) (k : BitVec 3) (w : BitVec 2) (s : State) : exec (.vcleu d a b k w) s = execVcleu d a b k w s := rfl
@[simp] theorem exec_vfceq (d : BitVec 3) (a : BitVec 5) (b : BitVec 5) (k : BitVec 3) (w : BitVec 2) (s : State) : exec (.vfceq d a b k w) s = execVfceq d a b k w s := rfl
@[simp] theorem exec_vfclt (d : BitVec 3) (a : BitVec 5) (b : BitVec 5) (k : BitVec 3) (w : BitVec 2) (s : State) : exec (.vfclt d a b k w) s = execVfclt d a b k w s := rfl
@[simp] theorem exec_vfcle (d : BitVec 3) (a : BitVec 5) (b : BitVec 5) (k : BitVec 3) (w : BitVec 2) (s : State) : exec (.vfcle d a b k w) s = execVfcle d a b k w s := rfl
@[simp] theorem exec_vfcun (d : BitVec 3) (a : BitVec 5) (b : BitVec 5) (k : BitVec 3) (w : BitVec 2) (s : State) : exec (.vfcun d a b k w) s = execVfcun d a b k w s := rfl
@[simp] theorem exec_vfadd (d : BitVec 5) (a : BitVec 5) (b : BitVec 5) (k : BitVec 3) (w : BitVec 2) (s : State) : exec (.vfadd d a b k w) s = execVfadd d a b k w s := rfl
@[simp] theorem exec_vfsub (d : BitVec 5) (a : BitVec 5) (b : BitVec 5) (k : BitVec 3) (w : BitVec 2) (s : State) : exec (.vfsub d a b k w) s = execVfsub d a b k w s := rfl
@[simp] theorem exec_vfmul (d : BitVec 5) (a : BitVec 5) (b : BitVec 5) (k : BitVec 3) (w : BitVec 2) (s : State) : exec (.vfmul d a b k w) s = execVfmul d a b k w s := rfl
@[simp] theorem exec_vfma (d : BitVec 5) (a : BitVec 5) (b : BitVec 5) (k : BitVec 3) (w : BitVec 2) (s : State) : exec (.vfma d a b k w) s = execVfma d a b k w s := rfl
@[simp] theorem exec_vfnma (d : BitVec 5) (a : BitVec 5) (b : BitVec 5) (k : BitVec 3) (w : BitVec 2) (s : State) : exec (.vfnma d a b k w) s = execVfnma d a b k w s := rfl
@[simp] theorem exec_vfmin (d : BitVec 5) (a : BitVec 5) (b : BitVec 5) (k : BitVec 3) (w : BitVec 2) (s : State) : exec (.vfmin d a b k w) s = execVfmin d a b k w s := rfl
@[simp] theorem exec_vfmax (d : BitVec 5) (a : BitVec 5) (b : BitVec 5) (k : BitVec 3) (w : BitVec 2) (s : State) : exec (.vfmax d a b k w) s = execVfmax d a b k w s := rfl
@[simp] theorem exec_vfabs (d : BitVec 5) (a : BitVec 5) (k : BitVec 3) (w : BitVec 2) (s : State) : exec (.vfabs d a k w) s = execVfabs d a k w s := rfl
@[simp] theorem exec_vfneg (d : BitVec 5) (a : BitVec 5) (k : BitVec 3) (w : BitVec 2) (s : State) : exec (.vfneg d a k w) s = execVfneg d a k w s := rfl
@[simp] theorem exec_vfrcpe (d : BitVec 5) (a : BitVec 5) (k : BitVec 3) (w : BitVec 2) (s : State) : exec (.vfrcpe d a k w) s = execVfrcpe d a k w s := rfl
@[simp] theorem exec_vfrsqrte (d : BitVec 5) (a : BitVec 5) (k : BitVec 3) (w : BitVec 2) (s : State) : exec (.vfrsqrte d a k w) s = execVfrsqrte d a k w s := rfl
@[simp] theorem exec_vfclass (d : BitVec 5) (a : BitVec 5) (k : BitVec 3) (w : BitVec 2) (s : State) : exec (.vfclass d a k w) s = execVfclass d a k w s := rfl
@[simp] theorem exec_vperm (d : BitVec 5) (a : BitVec 5) (b : BitVec 5) (k : BitVec 3) (w : BitVec 2) (s : State) : exec (.vperm d a b k w) s = execVperm d a b k w s := rfl
@[simp] theorem exec_vbcast (d : BitVec 5) (a : BitVec 5) (k : BitVec 3) (w : BitVec 2) (s : State) : exec (.vbcast d a k w) s = execVbcast d a k w s := rfl
@[simp] theorem exec_vext (d : BitVec 5) (a : BitVec 5) (b : BitVec 5) (w : BitVec 2) (s : State) : exec (.vext d a b w) s = execVext d a b w s := rfl
@[simp] theorem exec_vins (d : BitVec 5) (a : BitVec 5) (b : BitVec 5) (w : BitVec 2) (s : State) : exec (.vins d a b w) s = execVins d a b w s := rfl
@[simp] theorem exec_vslideup (d : BitVec 5) (a : BitVec 5) (b : BitVec 5) (k : BitVec 3) (w : BitVec 2) (s : State) : exec (.vslideup d a b k w) s = execVslideup d a b k w s := rfl
@[simp] theorem exec_vslidedn (d : BitVec 5) (a : BitVec 5) (b : BitVec 5) (k : BitVec 3) (w : BitVec 2) (s : State) : exec (.vslidedn d a b k w) s = execVslidedn d a b k w s := rfl
@[simp] theorem exec_vziplo (d : BitVec 5) (a : BitVec 5) (b : BitVec 5) (k : BitVec 3) (w : BitVec 2) (s : State) : exec (.vziplo d a b k w) s = execVziplo d a b k w s := rfl
@[simp] theorem exec_vziphi (d : BitVec 5) (a : BitVec 5) (b : BitVec 5) (k : BitVec 3) (w : BitVec 2) (s : State) : exec (.vziphi d a b k w) s = execVziphi d a b k w s := rfl
@[simp] theorem exec_vunziplo (d : BitVec 5) (a : BitVec 5) (b : BitVec 5) (k : BitVec 3) (w : BitVec 2) (s : State) : exec (.vunziplo d a b k w) s = execVunziplo d a b k w s := rfl
@[simp] theorem exec_vunziphi (d : BitVec 5) (a : BitVec 5) (b : BitVec 5) (k : BitVec 3) (w : BitVec 2) (s : State) : exec (.vunziphi d a b k w) s = execVunziphi d a b k w s := rfl
@[simp] theorem exec_vredadd (d : BitVec 5) (a : BitVec 5) (k : BitVec 3) (w : BitVec 2) (s : State) : exec (.vredadd d a k w) s = execVredadd d a k w s := rfl
@[simp] theorem exec_vredmin (d : BitVec 5) (a : BitVec 5) (k : BitVec 3) (w : BitVec 2) (s : State) : exec (.vredmin d a k w) s = execVredmin d a k w s := rfl
@[simp] theorem exec_vredmax (d : BitVec 5) (a : BitVec 5) (k : BitVec 3) (w : BitVec 2) (s : State) : exec (.vredmax d a k w) s = execVredmax d a k w s := rfl
@[simp] theorem exec_vredminu (d : BitVec 5) (a : BitVec 5) (k : BitVec 3) (w : BitVec 2) (s : State) : exec (.vredminu d a k w) s = execVredminu d a k w s := rfl
@[simp] theorem exec_vredmaxu (d : BitVec 5) (a : BitVec 5) (k : BitVec 3) (w : BitVec 2) (s : State) : exec (.vredmaxu d a k w) s = execVredmaxu d a k w s := rfl
@[simp] theorem exec_vfredadd (d : BitVec 5) (a : BitVec 5) (k : BitVec 3) (w : BitVec 2) (s : State) : exec (.vfredadd d a k w) s = execVfredadd d a k w s := rfl
@[simp] theorem exec_vfredmin (d : BitVec 5) (a : BitVec 5) (k : BitVec 3) (w : BitVec 2) (s : State) : exec (.vfredmin d a k w) s = execVfredmin d a k w s := rfl
@[simp] theorem exec_vfredmax (d : BitVec 5) (a : BitVec 5) (k : BitVec 3) (w : BitVec 2) (s : State) : exec (.vfredmax d a k w) s = execVfredmax d a k w s := rfl
@[simp] theorem exec_vdot4 (d : BitVec 5) (a : BitVec 5) (b : BitVec 5) (k : BitVec 3) (s : State) : exec (.vdot4 d a b k) s = execVdot4 d a b k s := rfl
@[simp] theorem exec_vdot4u (d : BitVec 5) (a : BitVec 5) (b : BitVec 5) (k : BitVec 3) (s : State) : exec (.vdot4u d a b k) s = execVdot4u d a b k s := rfl
@[simp] theorem exec_kand (d : BitVec 3) (a : BitVec 3) (b : BitVec 3) (s : State) : exec (.kand d a b) s = execKand d a b s := rfl
@[simp] theorem exec_kor (d : BitVec 3) (a : BitVec 3) (b : BitVec 3) (s : State) : exec (.kor d a b) s = execKor d a b s := rfl
@[simp] theorem exec_kxor (d : BitVec 3) (a : BitVec 3) (b : BitVec 3) (s : State) : exec (.kxor d a b) s = execKxor d a b s := rfl
@[simp] theorem exec_knot (d : BitVec 3) (a : BitVec 3) (s : State) : exec (.knot d a) s = execKnot d a s := rfl
@[simp] theorem exec_kpopc (d : BitVec 5) (a : BitVec 3) (s : State) : exec (.kpopc d a) s = execKpopc d a s := rfl
@[simp] theorem exec_kfirst (d : BitVec 5) (a : BitVec 3) (s : State) : exec (.kfirst d a) s = execKfirst d a s := rfl
@[simp] theorem exec_kany (d : BitVec 5) (a : BitVec 3) (s : State) : exec (.kany d a) s = execKany d a s := rfl
@[simp] theorem exec_kmov (d : BitVec 3) (a : BitVec 3) (s : State) : exec (.kmov d a) s = execKmov d a s := rfl
@[simp] theorem exec_kfromx (d : BitVec 3) (a : BitVec 5) (s : State) : exec (.kfromx d a) s = execKfromx d a s := rfl
@[simp] theorem exec_ktox (d : BitVec 5) (a : BitVec 3) (s : State) : exec (.ktox d a) s = execKtox d a s := rfl
@[simp] theorem exec_vaddi (d : BitVec 5) (a : BitVec 5) (imm : BitVec 5) (k : BitVec 3) (w : BitVec 2) (s : State) : exec (.vaddi d a imm k w) s = execVaddi d a imm k w s := rfl
@[simp] theorem exec_vandi (d : BitVec 5) (a : BitVec 5) (imm : BitVec 5) (k : BitVec 3) (w : BitVec 2) (s : State) : exec (.vandi d a imm k w) s = execVandi d a imm k w s := rfl
@[simp] theorem exec_vori (d : BitVec 5) (a : BitVec 5) (imm : BitVec 5) (k : BitVec 3) (w : BitVec 2) (s : State) : exec (.vori d a imm k w) s = execVori d a imm k w s := rfl
@[simp] theorem exec_vxori (d : BitVec 5) (a : BitVec 5) (imm : BitVec 5) (k : BitVec 3) (w : BitVec 2) (s : State) : exec (.vxori d a imm k w) s = execVxori d a imm k w s := rfl
@[simp] theorem exec_vslli (d : BitVec 5) (a : BitVec 5) (imm : BitVec 5) (k : BitVec 3) (w : BitVec 2) (s : State) : exec (.vslli d a imm k w) s = execVslli d a imm k w s := rfl
@[simp] theorem exec_vsrli (d : BitVec 5) (a : BitVec 5) (imm : BitVec 5) (k : BitVec 3) (w : BitVec 2) (s : State) : exec (.vsrli d a imm k w) s = execVsrli d a imm k w s := rfl
@[simp] theorem exec_vsrai (d : BitVec 5) (a : BitVec 5) (imm : BitVec 5) (k : BitVec 3) (w : BitVec 2) (s : State) : exec (.vsrai d a imm k w) s = execVsrai d a imm k w s := rfl
@[simp] theorem exec_vceqi (d : BitVec 3) (a : BitVec 5) (imm : BitVec 5) (k : BitVec 3) (w : BitVec 2) (s : State) : exec (.vceqi d a imm k w) s = execVceqi d a imm k w s := rfl
@[simp] theorem exec_vclti (d : BitVec 3) (a : BitVec 5) (imm : BitVec 5) (k : BitVec 3) (w : BitVec 2) (s : State) : exec (.vclti d a imm k w) s = execVclti d a imm k w s := rfl
@[simp] theorem exec_vmovi (d : BitVec 5) (imm : BitVec 5) (k : BitVec 3) (w : BitVec 2) (s : State) : exec (.vmovi d imm k w) s = execVmovi d imm k w s := rfl
@[simp] theorem exec_cvt (d : BitVec 5) (a : BitVec 5) (sc : BitVec 4) (f : BitVec 4) (s : State) : exec (.cvt d a sc f) s = execCvt d a sc f s := rfl
@[simp] theorem exec_vcvt (d : BitVec 5) (a : BitVec 5) (sc : BitVec 4) (k : BitVec 3) (f : BitVec 4) (s : State) : exec (.vcvt d a sc k f) s = execVcvt d a sc k f s := rfl
@[simp] theorem exec_vpack (d : BitVec 5) (a : BitVec 5) (sc : BitVec 4) (f : BitVec 4) (s : State) : exec (.vpack d a sc f) s = execVpack d a sc f s := rfl
@[simp] theorem exec_vunpk (d : BitVec 5) (a : BitVec 5) (sc : BitVec 4) (g : BitVec 3) (f : BitVec 4) (s : State) : exec (.vunpk d a sc g f) s = execVunpk d a sc g f s := rfl
@[simp] theorem exec_bscale (d : BitVec 5) (a : BitVec 5) (k : BitVec 3) (f : BitVec 4) (s : State) : exec (.bscale d a k f) s = execBscale d a k f s := rfl
@[simp] theorem exec_balignExp (d : BitVec 5) (a : BitVec 5) (k : BitVec 3) (s : State) : exec (.balignExp d a k) s = execBalignExp d a k s := rfl
@[simp] theorem exec_balignQ8 (d : BitVec 5) (a : BitVec 5) (b : BitVec 5) (k : BitVec 3) (s : State) : exec (.balignQ8 d a b k) s = execBalignQ8 d a b k s := rfl
@[simp] theorem exec_balignQ16 (d : BitVec 5) (a : BitVec 5) (b : BitVec 5) (k : BitVec 3) (s : State) : exec (.balignQ16 d a b k) s = execBalignQ16 d a b k s := rfl
@[simp] theorem exec_csrr (d : BitVec 5) (r : BitVec 12) (s : State) : exec (.csrr d r) s = execCsrr d r s := rfl
@[simp] theorem exec_csrw (d : BitVec 5) (a : BitVec 5) (r : BitVec 12) (s : State) : exec (.csrw d a r) s = execCsrw d a r s := rfl
@[simp] theorem exec_csrset (d : BitVec 5) (a : BitVec 5) (r : BitVec 12) (s : State) : exec (.csrset d a r) s = execCsrset d a r s := rfl
@[simp] theorem exec_csrclr (d : BitVec 5) (a : BitVec 5) (r : BitVec 12) (s : State) : exec (.csrclr d a r) s = execCsrclr d a r s := rfl
@[simp] theorem exec_trap (a : BitVec 5) (n : BitVec 6) (s : State) : exec (.trap a n) s = execTrap a n s := rfl
@[simp] theorem exec_tlbinv (a : BitVec 5) (s : State) : exec (.tlbinv a) s = execTlbinv a s := rfl
@[simp] theorem exec_iclean (a : BitVec 5) (s : State) : exec (.iclean a) s = execIclean a s := rfl
@[simp] theorem exec_migrate (d : BitVec 5) (a : BitVec 5) (s : State) : exec (.migrate d a) s = execMigrate d a s := rfl
@[simp] theorem exec_mgrd (d : BitVec 5) (a : BitVec 5) (s : State) : exec (.mgrd d a) s = execMgrd d a s := rfl
@[simp] theorem exec_mgwr (d : BitVec 5) (a : BitVec 5) (s : State) : exec (.mgwr d a) s = execMgwr d a s := rfl
@[simp] theorem exec_rtswap (d : BitVec 5) (a : BitVec 5) (s : State) : exec (.rtswap d a) s = execRtswap d a s := rfl

end Sys2Proof.Machine
end

