-- ==== Sys2Proof/Laws/State.lean ====
section
/-!
SUPPORT. Laws of the accessors: what each update of the state leaves unchanged, field by field, and what a core and a context read as
after an update.
-/

namespace Sys2Proof.Machine

/-! post -/
@[simp] theorem State.mem_post (s : State) (i : Instr) : (s.post i).mem = s.mem := rfl
@[simp] theorem State.tags_post (s : State) (i : Instr) : (s.post i).tags = s.tags := rfl
@[simp] theorem State.cores_post (s : State) (i : Instr) : (s.post i).cores = s.cores := rfl
@[simp] theorem State.lines_post (s : State) (i : Instr) : (s.post i).lines = s.lines := rfl
@[simp] theorem State.l1s_post (s : State) (i : Instr) : (s.post i).l1s = s.l1s := rfl
@[simp] theorem State.parked_post (s : State) (i : Instr) : (s.post i).parked = s.parked := rfl
@[simp] theorem State.launches_post (s : State) (i : Instr) : (s.post i).launches = s.launches := rfl
@[simp] theorem State.clusters_post (s : State) (i : Instr) : (s.post i).clusters = s.clusters := rfl
@[simp] theorem State.routers_post (s : State) (i : Instr) : (s.post i).routers = s.routers := rfl
@[simp] theorem State.waits_post (s : State) (i : Instr) : (s.post i).waits = s.waits := rfl
@[simp] theorem State.mgmt_post (s : State) (i : Instr) : (s.post i).mgmt = s.mgmt := rfl
@[simp] theorem State.spaces_post (s : State) (i : Instr) : (s.post i).spaces = s.spaces := rfl
@[simp] theorem State.slots_post (s : State) (i : Instr) : (s.post i).slots = s.slots := rfl
@[simp] theorem State.cur_post (s : State) (i : Instr) : (s.post i).cur = s.cur := rfl
@[simp] theorem State.hot_post (s : State) (i : Instr) : (s.post i).hot = s.hot := rfl
@[simp] theorem State.dev_post (s : State) (i : Instr) : (s.post i).dev = s.dev := rfl
@[simp] theorem State.cyc_post (s : State) (i : Instr) : (s.post i).cyc = s.cyc := rfl

/-! postAll -/
@[simp] theorem State.mem_postAll (s : State) (is : List Instr) : (s.postAll is).mem = s.mem := rfl
@[simp] theorem State.tags_postAll (s : State) (is : List Instr) : (s.postAll is).tags = s.tags := rfl
@[simp] theorem State.cores_postAll (s : State) (is : List Instr) : (s.postAll is).cores = s.cores := rfl
@[simp] theorem State.lines_postAll (s : State) (is : List Instr) : (s.postAll is).lines = s.lines := rfl
@[simp] theorem State.l1s_postAll (s : State) (is : List Instr) : (s.postAll is).l1s = s.l1s := rfl
@[simp] theorem State.parked_postAll (s : State) (is : List Instr) : (s.postAll is).parked = s.parked := rfl
@[simp] theorem State.launches_postAll (s : State) (is : List Instr) : (s.postAll is).launches = s.launches := rfl
@[simp] theorem State.clusters_postAll (s : State) (is : List Instr) : (s.postAll is).clusters = s.clusters := rfl
@[simp] theorem State.routers_postAll (s : State) (is : List Instr) : (s.postAll is).routers = s.routers := rfl
@[simp] theorem State.waits_postAll (s : State) (is : List Instr) : (s.postAll is).waits = s.waits := rfl
@[simp] theorem State.mgmt_postAll (s : State) (is : List Instr) : (s.postAll is).mgmt = s.mgmt := rfl
@[simp] theorem State.spaces_postAll (s : State) (is : List Instr) : (s.postAll is).spaces = s.spaces := rfl
@[simp] theorem State.slots_postAll (s : State) (is : List Instr) : (s.postAll is).slots = s.slots := rfl
@[simp] theorem State.cur_postAll (s : State) (is : List Instr) : (s.postAll is).cur = s.cur := rfl
@[simp] theorem State.hot_postAll (s : State) (is : List Instr) : (s.postAll is).hot = s.hot := rfl
@[simp] theorem State.dev_postAll (s : State) (is : List Instr) : (s.postAll is).dev = s.dev := rfl
@[simp] theorem State.cyc_postAll (s : State) (is : List Instr) : (s.postAll is).cyc = s.cyc := rfl

/-! park -/
@[simp] theorem State.mem_park (s : State) (i : Instr) : (s.park i).mem = s.mem := rfl
@[simp] theorem State.tags_park (s : State) (i : Instr) : (s.park i).tags = s.tags := rfl
@[simp] theorem State.cores_park (s : State) (i : Instr) : (s.park i).cores = s.cores := rfl
@[simp] theorem State.lines_park (s : State) (i : Instr) : (s.park i).lines = s.lines := rfl
@[simp] theorem State.l1s_park (s : State) (i : Instr) : (s.park i).l1s = s.l1s := rfl
@[simp] theorem State.pending_park (s : State) (i : Instr) : (s.park i).pending = s.pending := rfl
@[simp] theorem State.launches_park (s : State) (i : Instr) : (s.park i).launches = s.launches := rfl
@[simp] theorem State.clusters_park (s : State) (i : Instr) : (s.park i).clusters = s.clusters := rfl
@[simp] theorem State.routers_park (s : State) (i : Instr) : (s.park i).routers = s.routers := rfl
@[simp] theorem State.waits_park (s : State) (i : Instr) : (s.park i).waits = s.waits := rfl
@[simp] theorem State.mgmt_park (s : State) (i : Instr) : (s.park i).mgmt = s.mgmt := rfl
@[simp] theorem State.spaces_park (s : State) (i : Instr) : (s.park i).spaces = s.spaces := rfl
@[simp] theorem State.slots_park (s : State) (i : Instr) : (s.park i).slots = s.slots := rfl
@[simp] theorem State.cur_park (s : State) (i : Instr) : (s.park i).cur = s.cur := rfl
@[simp] theorem State.hot_park (s : State) (i : Instr) : (s.park i).hot = s.hot := rfl
@[simp] theorem State.dev_park (s : State) (i : Instr) : (s.park i).dev = s.dev := rfl
@[simp] theorem State.cyc_park (s : State) (i : Instr) : (s.park i).cyc = s.cyc := rfl

/-! modCore -/
@[simp] theorem State.mem_modCore (s : State) (c : CoreId) (f : Core → Core) : (s.modCore c f).mem = s.mem := rfl
@[simp] theorem State.tags_modCore (s : State) (c : CoreId) (f : Core → Core) : (s.modCore c f).tags = s.tags := rfl
@[simp] theorem State.lines_modCore (s : State) (c : CoreId) (f : Core → Core) : (s.modCore c f).lines = s.lines := rfl
@[simp] theorem State.l1s_modCore (s : State) (c : CoreId) (f : Core → Core) : (s.modCore c f).l1s = s.l1s := rfl
@[simp] theorem State.pending_modCore (s : State) (c : CoreId) (f : Core → Core) : (s.modCore c f).pending = s.pending := rfl
@[simp] theorem State.parked_modCore (s : State) (c : CoreId) (f : Core → Core) : (s.modCore c f).parked = s.parked := rfl
@[simp] theorem State.launches_modCore (s : State) (c : CoreId) (f : Core → Core) : (s.modCore c f).launches = s.launches := rfl
@[simp] theorem State.clusters_modCore (s : State) (c : CoreId) (f : Core → Core) : (s.modCore c f).clusters = s.clusters := rfl
@[simp] theorem State.routers_modCore (s : State) (c : CoreId) (f : Core → Core) : (s.modCore c f).routers = s.routers := rfl
@[simp] theorem State.waits_modCore (s : State) (c : CoreId) (f : Core → Core) : (s.modCore c f).waits = s.waits := rfl
@[simp] theorem State.mgmt_modCore (s : State) (c : CoreId) (f : Core → Core) : (s.modCore c f).mgmt = s.mgmt := rfl
@[simp] theorem State.spaces_modCore (s : State) (c : CoreId) (f : Core → Core) : (s.modCore c f).spaces = s.spaces := rfl
@[simp] theorem State.slots_modCore (s : State) (c : CoreId) (f : Core → Core) : (s.modCore c f).slots = s.slots := rfl
@[simp] theorem State.cur_modCore (s : State) (c : CoreId) (f : Core → Core) : (s.modCore c f).cur = s.cur := rfl
@[simp] theorem State.hot_modCore (s : State) (c : CoreId) (f : Core → Core) : (s.modCore c f).hot = s.hot := rfl
@[simp] theorem State.dev_modCore (s : State) (c : CoreId) (f : Core → Core) : (s.modCore c f).dev = s.dev := rfl
@[simp] theorem State.cyc_modCore (s : State) (c : CoreId) (f : Core → Core) : (s.modCore c f).cyc = s.cyc := rfl

/-! modCtx -/
@[simp] theorem State.mem_modCtx (s : State) (c : CoreId) (x : CtxId) (f : Ctx → Ctx) : (s.modCtx c x f).mem = s.mem := rfl
@[simp] theorem State.tags_modCtx (s : State) (c : CoreId) (x : CtxId) (f : Ctx → Ctx) : (s.modCtx c x f).tags = s.tags := rfl
@[simp] theorem State.lines_modCtx (s : State) (c : CoreId) (x : CtxId) (f : Ctx → Ctx) : (s.modCtx c x f).lines = s.lines := rfl
@[simp] theorem State.l1s_modCtx (s : State) (c : CoreId) (x : CtxId) (f : Ctx → Ctx) : (s.modCtx c x f).l1s = s.l1s := rfl
@[simp] theorem State.pending_modCtx (s : State) (c : CoreId) (x : CtxId) (f : Ctx → Ctx) : (s.modCtx c x f).pending = s.pending := rfl
@[simp] theorem State.parked_modCtx (s : State) (c : CoreId) (x : CtxId) (f : Ctx → Ctx) : (s.modCtx c x f).parked = s.parked := rfl
@[simp] theorem State.launches_modCtx (s : State) (c : CoreId) (x : CtxId) (f : Ctx → Ctx) : (s.modCtx c x f).launches = s.launches := rfl
@[simp] theorem State.clusters_modCtx (s : State) (c : CoreId) (x : CtxId) (f : Ctx → Ctx) : (s.modCtx c x f).clusters = s.clusters := rfl
@[simp] theorem State.routers_modCtx (s : State) (c : CoreId) (x : CtxId) (f : Ctx → Ctx) : (s.modCtx c x f).routers = s.routers := rfl
@[simp] theorem State.waits_modCtx (s : State) (c : CoreId) (x : CtxId) (f : Ctx → Ctx) : (s.modCtx c x f).waits = s.waits := rfl
@[simp] theorem State.mgmt_modCtx (s : State) (c : CoreId) (x : CtxId) (f : Ctx → Ctx) : (s.modCtx c x f).mgmt = s.mgmt := rfl
@[simp] theorem State.spaces_modCtx (s : State) (c : CoreId) (x : CtxId) (f : Ctx → Ctx) : (s.modCtx c x f).spaces = s.spaces := rfl
@[simp] theorem State.slots_modCtx (s : State) (c : CoreId) (x : CtxId) (f : Ctx → Ctx) : (s.modCtx c x f).slots = s.slots := rfl
@[simp] theorem State.cur_modCtx (s : State) (c : CoreId) (x : CtxId) (f : Ctx → Ctx) : (s.modCtx c x f).cur = s.cur := rfl
@[simp] theorem State.hot_modCtx (s : State) (c : CoreId) (x : CtxId) (f : Ctx → Ctx) : (s.modCtx c x f).hot = s.hot := rfl
@[simp] theorem State.dev_modCtx (s : State) (c : CoreId) (x : CtxId) (f : Ctx → Ctx) : (s.modCtx c x f).dev = s.dev := rfl
@[simp] theorem State.cyc_modCtx (s : State) (c : CoreId) (x : CtxId) (f : Ctx → Ctx) : (s.modCtx c x f).cyc = s.cyc := rfl

/-! setTag -/
@[simp] theorem State.mem_setTag (s : State) (pa : Nat) (t : BitVec 2) : (s.setTag pa t).mem = s.mem := rfl
@[simp] theorem State.cores_setTag (s : State) (pa : Nat) (t : BitVec 2) : (s.setTag pa t).cores = s.cores := rfl
@[simp] theorem State.lines_setTag (s : State) (pa : Nat) (t : BitVec 2) : (s.setTag pa t).lines = s.lines := rfl
@[simp] theorem State.l1s_setTag (s : State) (pa : Nat) (t : BitVec 2) : (s.setTag pa t).l1s = s.l1s := rfl
@[simp] theorem State.pending_setTag (s : State) (pa : Nat) (t : BitVec 2) : (s.setTag pa t).pending = s.pending := rfl
@[simp] theorem State.parked_setTag (s : State) (pa : Nat) (t : BitVec 2) : (s.setTag pa t).parked = s.parked := rfl
@[simp] theorem State.launches_setTag (s : State) (pa : Nat) (t : BitVec 2) : (s.setTag pa t).launches = s.launches := rfl
@[simp] theorem State.clusters_setTag (s : State) (pa : Nat) (t : BitVec 2) : (s.setTag pa t).clusters = s.clusters := rfl
@[simp] theorem State.routers_setTag (s : State) (pa : Nat) (t : BitVec 2) : (s.setTag pa t).routers = s.routers := rfl
@[simp] theorem State.waits_setTag (s : State) (pa : Nat) (t : BitVec 2) : (s.setTag pa t).waits = s.waits := rfl
@[simp] theorem State.mgmt_setTag (s : State) (pa : Nat) (t : BitVec 2) : (s.setTag pa t).mgmt = s.mgmt := rfl
@[simp] theorem State.spaces_setTag (s : State) (pa : Nat) (t : BitVec 2) : (s.setTag pa t).spaces = s.spaces := rfl
@[simp] theorem State.slots_setTag (s : State) (pa : Nat) (t : BitVec 2) : (s.setTag pa t).slots = s.slots := rfl
@[simp] theorem State.cur_setTag (s : State) (pa : Nat) (t : BitVec 2) : (s.setTag pa t).cur = s.cur := rfl
@[simp] theorem State.hot_setTag (s : State) (pa : Nat) (t : BitVec 2) : (s.setTag pa t).hot = s.hot := rfl
@[simp] theorem State.dev_setTag (s : State) (pa : Nat) (t : BitVec 2) : (s.setTag pa t).dev = s.dev := rfl
@[simp] theorem State.cyc_setTag (s : State) (pa : Nat) (t : BitVec 2) : (s.setTag pa t).cyc = s.cyc := rfl

/-! setLine -/
@[simp] theorem State.mem_setLine (s : State) (l : Nat) (e : Line) : (s.setLine l e).mem = s.mem := rfl
@[simp] theorem State.tags_setLine (s : State) (l : Nat) (e : Line) : (s.setLine l e).tags = s.tags := rfl
@[simp] theorem State.cores_setLine (s : State) (l : Nat) (e : Line) : (s.setLine l e).cores = s.cores := rfl
@[simp] theorem State.l1s_setLine (s : State) (l : Nat) (e : Line) : (s.setLine l e).l1s = s.l1s := rfl
@[simp] theorem State.pending_setLine (s : State) (l : Nat) (e : Line) : (s.setLine l e).pending = s.pending := rfl
@[simp] theorem State.parked_setLine (s : State) (l : Nat) (e : Line) : (s.setLine l e).parked = s.parked := rfl
@[simp] theorem State.launches_setLine (s : State) (l : Nat) (e : Line) : (s.setLine l e).launches = s.launches := rfl
@[simp] theorem State.clusters_setLine (s : State) (l : Nat) (e : Line) : (s.setLine l e).clusters = s.clusters := rfl
@[simp] theorem State.routers_setLine (s : State) (l : Nat) (e : Line) : (s.setLine l e).routers = s.routers := rfl
@[simp] theorem State.waits_setLine (s : State) (l : Nat) (e : Line) : (s.setLine l e).waits = s.waits := rfl
@[simp] theorem State.mgmt_setLine (s : State) (l : Nat) (e : Line) : (s.setLine l e).mgmt = s.mgmt := rfl
@[simp] theorem State.spaces_setLine (s : State) (l : Nat) (e : Line) : (s.setLine l e).spaces = s.spaces := rfl
@[simp] theorem State.slots_setLine (s : State) (l : Nat) (e : Line) : (s.setLine l e).slots = s.slots := rfl
@[simp] theorem State.cur_setLine (s : State) (l : Nat) (e : Line) : (s.setLine l e).cur = s.cur := rfl
@[simp] theorem State.hot_setLine (s : State) (l : Nat) (e : Line) : (s.setLine l e).hot = s.hot := rfl
@[simp] theorem State.dev_setLine (s : State) (l : Nat) (e : Line) : (s.setLine l e).dev = s.dev := rfl
@[simp] theorem State.cyc_setLine (s : State) (l : Nat) (e : Line) : (s.setLine l e).cyc = s.cyc := rfl

/-! setL1 -/
@[simp] theorem State.mem_setL1 (s : State) (c : CoreId) (k : L1) : (s.setL1 c k).mem = s.mem := rfl
@[simp] theorem State.tags_setL1 (s : State) (c : CoreId) (k : L1) : (s.setL1 c k).tags = s.tags := rfl
@[simp] theorem State.cores_setL1 (s : State) (c : CoreId) (k : L1) : (s.setL1 c k).cores = s.cores := rfl
@[simp] theorem State.lines_setL1 (s : State) (c : CoreId) (k : L1) : (s.setL1 c k).lines = s.lines := rfl
@[simp] theorem State.pending_setL1 (s : State) (c : CoreId) (k : L1) : (s.setL1 c k).pending = s.pending := rfl
@[simp] theorem State.parked_setL1 (s : State) (c : CoreId) (k : L1) : (s.setL1 c k).parked = s.parked := rfl
@[simp] theorem State.launches_setL1 (s : State) (c : CoreId) (k : L1) : (s.setL1 c k).launches = s.launches := rfl
@[simp] theorem State.clusters_setL1 (s : State) (c : CoreId) (k : L1) : (s.setL1 c k).clusters = s.clusters := rfl
@[simp] theorem State.routers_setL1 (s : State) (c : CoreId) (k : L1) : (s.setL1 c k).routers = s.routers := rfl
@[simp] theorem State.waits_setL1 (s : State) (c : CoreId) (k : L1) : (s.setL1 c k).waits = s.waits := rfl
@[simp] theorem State.mgmt_setL1 (s : State) (c : CoreId) (k : L1) : (s.setL1 c k).mgmt = s.mgmt := rfl
@[simp] theorem State.spaces_setL1 (s : State) (c : CoreId) (k : L1) : (s.setL1 c k).spaces = s.spaces := rfl
@[simp] theorem State.slots_setL1 (s : State) (c : CoreId) (k : L1) : (s.setL1 c k).slots = s.slots := rfl
@[simp] theorem State.cur_setL1 (s : State) (c : CoreId) (k : L1) : (s.setL1 c k).cur = s.cur := rfl
@[simp] theorem State.hot_setL1 (s : State) (c : CoreId) (k : L1) : (s.setL1 c k).hot = s.hot := rfl
@[simp] theorem State.dev_setL1 (s : State) (c : CoreId) (k : L1) : (s.setL1 c k).dev = s.dev := rfl
@[simp] theorem State.cyc_setL1 (s : State) (c : CoreId) (k : L1) : (s.setL1 c k).cyc = s.cyc := rfl

/-! dropFrom -/
@[simp] theorem State.mem_dropFrom (s : State) (l : Nat) (p : Nat → Bool) : (s.dropFrom l p).mem = s.mem := rfl
@[simp] theorem State.tags_dropFrom (s : State) (l : Nat) (p : Nat → Bool) : (s.dropFrom l p).tags = s.tags := rfl
@[simp] theorem State.cores_dropFrom (s : State) (l : Nat) (p : Nat → Bool) : (s.dropFrom l p).cores = s.cores := rfl
@[simp] theorem State.lines_dropFrom (s : State) (l : Nat) (p : Nat → Bool) : (s.dropFrom l p).lines = s.lines := rfl
@[simp] theorem State.pending_dropFrom (s : State) (l : Nat) (p : Nat → Bool) : (s.dropFrom l p).pending = s.pending := rfl
@[simp] theorem State.parked_dropFrom (s : State) (l : Nat) (p : Nat → Bool) : (s.dropFrom l p).parked = s.parked := rfl
@[simp] theorem State.launches_dropFrom (s : State) (l : Nat) (p : Nat → Bool) : (s.dropFrom l p).launches = s.launches := rfl
@[simp] theorem State.clusters_dropFrom (s : State) (l : Nat) (p : Nat → Bool) : (s.dropFrom l p).clusters = s.clusters := rfl
@[simp] theorem State.routers_dropFrom (s : State) (l : Nat) (p : Nat → Bool) : (s.dropFrom l p).routers = s.routers := rfl
@[simp] theorem State.waits_dropFrom (s : State) (l : Nat) (p : Nat → Bool) : (s.dropFrom l p).waits = s.waits := rfl
@[simp] theorem State.mgmt_dropFrom (s : State) (l : Nat) (p : Nat → Bool) : (s.dropFrom l p).mgmt = s.mgmt := rfl
@[simp] theorem State.spaces_dropFrom (s : State) (l : Nat) (p : Nat → Bool) : (s.dropFrom l p).spaces = s.spaces := rfl
@[simp] theorem State.slots_dropFrom (s : State) (l : Nat) (p : Nat → Bool) : (s.dropFrom l p).slots = s.slots := rfl
@[simp] theorem State.cur_dropFrom (s : State) (l : Nat) (p : Nat → Bool) : (s.dropFrom l p).cur = s.cur := rfl
@[simp] theorem State.hot_dropFrom (s : State) (l : Nat) (p : Nat → Bool) : (s.dropFrom l p).hot = s.hot := rfl
@[simp] theorem State.dev_dropFrom (s : State) (l : Nat) (p : Nat → Bool) : (s.dropFrom l p).dev = s.dev := rfl
@[simp] theorem State.cyc_dropFrom (s : State) (l : Nat) (p : Nat → Bool) : (s.dropFrom l p).cyc = s.cyc := rfl

/-! modMgmt -/
@[simp] theorem State.mem_modMgmt (s : State) (f : Mgmt → Mgmt) : (s.modMgmt f).mem = s.mem := rfl
@[simp] theorem State.tags_modMgmt (s : State) (f : Mgmt → Mgmt) : (s.modMgmt f).tags = s.tags := rfl
@[simp] theorem State.cores_modMgmt (s : State) (f : Mgmt → Mgmt) : (s.modMgmt f).cores = s.cores := rfl
@[simp] theorem State.lines_modMgmt (s : State) (f : Mgmt → Mgmt) : (s.modMgmt f).lines = s.lines := rfl
@[simp] theorem State.l1s_modMgmt (s : State) (f : Mgmt → Mgmt) : (s.modMgmt f).l1s = s.l1s := rfl
@[simp] theorem State.pending_modMgmt (s : State) (f : Mgmt → Mgmt) : (s.modMgmt f).pending = s.pending := rfl
@[simp] theorem State.parked_modMgmt (s : State) (f : Mgmt → Mgmt) : (s.modMgmt f).parked = s.parked := rfl
@[simp] theorem State.launches_modMgmt (s : State) (f : Mgmt → Mgmt) : (s.modMgmt f).launches = s.launches := rfl
@[simp] theorem State.clusters_modMgmt (s : State) (f : Mgmt → Mgmt) : (s.modMgmt f).clusters = s.clusters := rfl
@[simp] theorem State.routers_modMgmt (s : State) (f : Mgmt → Mgmt) : (s.modMgmt f).routers = s.routers := rfl
@[simp] theorem State.waits_modMgmt (s : State) (f : Mgmt → Mgmt) : (s.modMgmt f).waits = s.waits := rfl
@[simp] theorem State.spaces_modMgmt (s : State) (f : Mgmt → Mgmt) : (s.modMgmt f).spaces = s.spaces := rfl
@[simp] theorem State.slots_modMgmt (s : State) (f : Mgmt → Mgmt) : (s.modMgmt f).slots = s.slots := rfl
@[simp] theorem State.cur_modMgmt (s : State) (f : Mgmt → Mgmt) : (s.modMgmt f).cur = s.cur := rfl
@[simp] theorem State.hot_modMgmt (s : State) (f : Mgmt → Mgmt) : (s.modMgmt f).hot = s.hot := rfl
@[simp] theorem State.dev_modMgmt (s : State) (f : Mgmt → Mgmt) : (s.modMgmt f).dev = s.dev := rfl
@[simp] theorem State.cyc_modMgmt (s : State) (f : Mgmt → Mgmt) : (s.modMgmt f).cyc = s.cyc := rfl

/-! modLaunch -/
@[simp] theorem State.mem_modLaunch (s : State) (lid : Nat) (f : Launch → Launch) : (s.modLaunch lid f).mem = s.mem := rfl
@[simp] theorem State.tags_modLaunch (s : State) (lid : Nat) (f : Launch → Launch) : (s.modLaunch lid f).tags = s.tags := rfl
@[simp] theorem State.cores_modLaunch (s : State) (lid : Nat) (f : Launch → Launch) : (s.modLaunch lid f).cores = s.cores := rfl
@[simp] theorem State.lines_modLaunch (s : State) (lid : Nat) (f : Launch → Launch) : (s.modLaunch lid f).lines = s.lines := rfl
@[simp] theorem State.l1s_modLaunch (s : State) (lid : Nat) (f : Launch → Launch) : (s.modLaunch lid f).l1s = s.l1s := rfl
@[simp] theorem State.pending_modLaunch (s : State) (lid : Nat) (f : Launch → Launch) : (s.modLaunch lid f).pending = s.pending := rfl
@[simp] theorem State.parked_modLaunch (s : State) (lid : Nat) (f : Launch → Launch) : (s.modLaunch lid f).parked = s.parked := rfl
@[simp] theorem State.clusters_modLaunch (s : State) (lid : Nat) (f : Launch → Launch) : (s.modLaunch lid f).clusters = s.clusters := rfl
@[simp] theorem State.routers_modLaunch (s : State) (lid : Nat) (f : Launch → Launch) : (s.modLaunch lid f).routers = s.routers := rfl
@[simp] theorem State.waits_modLaunch (s : State) (lid : Nat) (f : Launch → Launch) : (s.modLaunch lid f).waits = s.waits := rfl
@[simp] theorem State.mgmt_modLaunch (s : State) (lid : Nat) (f : Launch → Launch) : (s.modLaunch lid f).mgmt = s.mgmt := rfl
@[simp] theorem State.spaces_modLaunch (s : State) (lid : Nat) (f : Launch → Launch) : (s.modLaunch lid f).spaces = s.spaces := rfl
@[simp] theorem State.slots_modLaunch (s : State) (lid : Nat) (f : Launch → Launch) : (s.modLaunch lid f).slots = s.slots := rfl
@[simp] theorem State.cur_modLaunch (s : State) (lid : Nat) (f : Launch → Launch) : (s.modLaunch lid f).cur = s.cur := rfl
@[simp] theorem State.hot_modLaunch (s : State) (lid : Nat) (f : Launch → Launch) : (s.modLaunch lid f).hot = s.hot := rfl
@[simp] theorem State.dev_modLaunch (s : State) (lid : Nat) (f : Launch → Launch) : (s.modLaunch lid f).dev = s.dev := rfl
@[simp] theorem State.cyc_modLaunch (s : State) (lid : Nat) (f : Launch → Launch) : (s.modLaunch lid f).cyc = s.cyc := rfl

/-! modSlot -/
@[simp] theorem State.mem_modSlot (s : State) (n : Fin 128) (f : Slot → Slot) : (s.modSlot n f).mem = s.mem := rfl
@[simp] theorem State.tags_modSlot (s : State) (n : Fin 128) (f : Slot → Slot) : (s.modSlot n f).tags = s.tags := rfl
@[simp] theorem State.cores_modSlot (s : State) (n : Fin 128) (f : Slot → Slot) : (s.modSlot n f).cores = s.cores := rfl
@[simp] theorem State.lines_modSlot (s : State) (n : Fin 128) (f : Slot → Slot) : (s.modSlot n f).lines = s.lines := rfl
@[simp] theorem State.l1s_modSlot (s : State) (n : Fin 128) (f : Slot → Slot) : (s.modSlot n f).l1s = s.l1s := rfl
@[simp] theorem State.pending_modSlot (s : State) (n : Fin 128) (f : Slot → Slot) : (s.modSlot n f).pending = s.pending := rfl
@[simp] theorem State.parked_modSlot (s : State) (n : Fin 128) (f : Slot → Slot) : (s.modSlot n f).parked = s.parked := rfl
@[simp] theorem State.launches_modSlot (s : State) (n : Fin 128) (f : Slot → Slot) : (s.modSlot n f).launches = s.launches := rfl
@[simp] theorem State.clusters_modSlot (s : State) (n : Fin 128) (f : Slot → Slot) : (s.modSlot n f).clusters = s.clusters := rfl
@[simp] theorem State.routers_modSlot (s : State) (n : Fin 128) (f : Slot → Slot) : (s.modSlot n f).routers = s.routers := rfl
@[simp] theorem State.waits_modSlot (s : State) (n : Fin 128) (f : Slot → Slot) : (s.modSlot n f).waits = s.waits := rfl
@[simp] theorem State.mgmt_modSlot (s : State) (n : Fin 128) (f : Slot → Slot) : (s.modSlot n f).mgmt = s.mgmt := rfl
@[simp] theorem State.spaces_modSlot (s : State) (n : Fin 128) (f : Slot → Slot) : (s.modSlot n f).spaces = s.spaces := rfl
@[simp] theorem State.cur_modSlot (s : State) (n : Fin 128) (f : Slot → Slot) : (s.modSlot n f).cur = s.cur := rfl
@[simp] theorem State.hot_modSlot (s : State) (n : Fin 128) (f : Slot → Slot) : (s.modSlot n f).hot = s.hot := rfl
@[simp] theorem State.dev_modSlot (s : State) (n : Fin 128) (f : Slot → Slot) : (s.modSlot n f).dev = s.dev := rfl
@[simp] theorem State.cyc_modSlot (s : State) (n : Fin 128) (f : Slot → Slot) : (s.modSlot n f).cyc = s.cyc := rfl

/-! modRouter -/
@[simp] theorem State.mem_modRouter (s : State) (r : Fin 288) (f : Router → Router) : (s.modRouter r f).mem = s.mem := rfl
@[simp] theorem State.tags_modRouter (s : State) (r : Fin 288) (f : Router → Router) : (s.modRouter r f).tags = s.tags := rfl
@[simp] theorem State.cores_modRouter (s : State) (r : Fin 288) (f : Router → Router) : (s.modRouter r f).cores = s.cores := rfl
@[simp] theorem State.lines_modRouter (s : State) (r : Fin 288) (f : Router → Router) : (s.modRouter r f).lines = s.lines := rfl
@[simp] theorem State.l1s_modRouter (s : State) (r : Fin 288) (f : Router → Router) : (s.modRouter r f).l1s = s.l1s := rfl
@[simp] theorem State.pending_modRouter (s : State) (r : Fin 288) (f : Router → Router) : (s.modRouter r f).pending = s.pending := rfl
@[simp] theorem State.parked_modRouter (s : State) (r : Fin 288) (f : Router → Router) : (s.modRouter r f).parked = s.parked := rfl
@[simp] theorem State.launches_modRouter (s : State) (r : Fin 288) (f : Router → Router) : (s.modRouter r f).launches = s.launches := rfl
@[simp] theorem State.clusters_modRouter (s : State) (r : Fin 288) (f : Router → Router) : (s.modRouter r f).clusters = s.clusters := rfl
@[simp] theorem State.waits_modRouter (s : State) (r : Fin 288) (f : Router → Router) : (s.modRouter r f).waits = s.waits := rfl
@[simp] theorem State.mgmt_modRouter (s : State) (r : Fin 288) (f : Router → Router) : (s.modRouter r f).mgmt = s.mgmt := rfl
@[simp] theorem State.spaces_modRouter (s : State) (r : Fin 288) (f : Router → Router) : (s.modRouter r f).spaces = s.spaces := rfl
@[simp] theorem State.slots_modRouter (s : State) (r : Fin 288) (f : Router → Router) : (s.modRouter r f).slots = s.slots := rfl
@[simp] theorem State.cur_modRouter (s : State) (r : Fin 288) (f : Router → Router) : (s.modRouter r f).cur = s.cur := rfl
@[simp] theorem State.hot_modRouter (s : State) (r : Fin 288) (f : Router → Router) : (s.modRouter r f).hot = s.hot := rfl
@[simp] theorem State.dev_modRouter (s : State) (r : Fin 288) (f : Router → Router) : (s.modRouter r f).dev = s.dev := rfl
@[simp] theorem State.cyc_modRouter (s : State) (r : Fin 288) (f : Router → Router) : (s.modRouter r f).cyc = s.cyc := rfl

/-! modCleat -/
@[simp] theorem State.mem_modCleat (s : State) (pa : Nat) (f : List Cleat → List Cleat) : (s.modCleat pa f).mem = s.mem := by unfold State.modCleat; dsimp only; split <;> rfl
@[simp] theorem State.tags_modCleat (s : State) (pa : Nat) (f : List Cleat → List Cleat) : (s.modCleat pa f).tags = s.tags := by unfold State.modCleat; dsimp only; split <;> rfl
@[simp] theorem State.cores_modCleat (s : State) (pa : Nat) (f : List Cleat → List Cleat) : (s.modCleat pa f).cores = s.cores := by unfold State.modCleat; dsimp only; split <;> rfl
@[simp] theorem State.lines_modCleat (s : State) (pa : Nat) (f : List Cleat → List Cleat) : (s.modCleat pa f).lines = s.lines := by unfold State.modCleat; dsimp only; split <;> rfl
@[simp] theorem State.l1s_modCleat (s : State) (pa : Nat) (f : List Cleat → List Cleat) : (s.modCleat pa f).l1s = s.l1s := by unfold State.modCleat; dsimp only; split <;> rfl
@[simp] theorem State.pending_modCleat (s : State) (pa : Nat) (f : List Cleat → List Cleat) : (s.modCleat pa f).pending = s.pending := by unfold State.modCleat; dsimp only; split <;> rfl
@[simp] theorem State.parked_modCleat (s : State) (pa : Nat) (f : List Cleat → List Cleat) : (s.modCleat pa f).parked = s.parked := by unfold State.modCleat; dsimp only; split <;> rfl
@[simp] theorem State.launches_modCleat (s : State) (pa : Nat) (f : List Cleat → List Cleat) : (s.modCleat pa f).launches = s.launches := by unfold State.modCleat; dsimp only; split <;> rfl
@[simp] theorem State.waits_modCleat (s : State) (pa : Nat) (f : List Cleat → List Cleat) : (s.modCleat pa f).waits = s.waits := by unfold State.modCleat; dsimp only; split <;> rfl
@[simp] theorem State.cyc_modCleat (s : State) (pa : Nat) (f : List Cleat → List Cleat) : (s.modCleat pa f).cyc = s.cyc := by unfold State.modCleat; dsimp only; split <;> rfl
@[simp] theorem State.dev_modCleat (s : State) (pa : Nat) (f : List Cleat → List Cleat) : (s.modCleat pa f).dev = s.dev := by unfold State.modCleat; dsimp only; split <;> rfl

/-! mapCleat -/
@[simp] theorem State.mem_mapCleat (s : State) (f : List Cleat → List Cleat) : (s.mapCleat f).mem = s.mem := rfl
@[simp] theorem State.tags_mapCleat (s : State) (f : List Cleat → List Cleat) : (s.mapCleat f).tags = s.tags := rfl
@[simp] theorem State.cores_mapCleat (s : State) (f : List Cleat → List Cleat) : (s.mapCleat f).cores = s.cores := rfl
@[simp] theorem State.lines_mapCleat (s : State) (f : List Cleat → List Cleat) : (s.mapCleat f).lines = s.lines := rfl
@[simp] theorem State.l1s_mapCleat (s : State) (f : List Cleat → List Cleat) : (s.mapCleat f).l1s = s.l1s := rfl
@[simp] theorem State.pending_mapCleat (s : State) (f : List Cleat → List Cleat) : (s.mapCleat f).pending = s.pending := rfl
@[simp] theorem State.parked_mapCleat (s : State) (f : List Cleat → List Cleat) : (s.mapCleat f).parked = s.parked := rfl
@[simp] theorem State.launches_mapCleat (s : State) (f : List Cleat → List Cleat) : (s.mapCleat f).launches = s.launches := rfl
@[simp] theorem State.waits_mapCleat (s : State) (f : List Cleat → List Cleat) : (s.mapCleat f).waits = s.waits := rfl
@[simp] theorem State.cyc_mapCleat (s : State) (f : List Cleat → List Cleat) : (s.mapCleat f).cyc = s.cyc := rfl
@[simp] theorem State.dev_mapCleat (s : State) (f : List Cleat → List Cleat) : (s.mapCleat f).dev = s.dev := rfl

/-! tock -/
@[simp] theorem State.mem_tock (s : State) : (s.tock).mem = s.mem := rfl
@[simp] theorem State.tags_tock (s : State) : (s.tock).tags = s.tags := rfl
@[simp] theorem State.cores_tock (s : State) : (s.tock).cores = s.cores := rfl
@[simp] theorem State.lines_tock (s : State) : (s.tock).lines = s.lines := rfl
@[simp] theorem State.l1s_tock (s : State) : (s.tock).l1s = s.l1s := rfl
@[simp] theorem State.pending_tock (s : State) : (s.tock).pending = s.pending := rfl
@[simp] theorem State.parked_tock (s : State) : (s.tock).parked = s.parked := rfl
@[simp] theorem State.launches_tock (s : State) : (s.tock).launches = s.launches := rfl
@[simp] theorem State.clusters_tock (s : State) : (s.tock).clusters = s.clusters := rfl
@[simp] theorem State.routers_tock (s : State) : (s.tock).routers = s.routers := rfl
@[simp] theorem State.waits_tock (s : State) : (s.tock).waits = s.waits := rfl
@[simp] theorem State.mgmt_tock (s : State) : (s.tock).mgmt = s.mgmt := rfl
@[simp] theorem State.spaces_tock (s : State) : (s.tock).spaces = s.spaces := rfl
@[simp] theorem State.slots_tock (s : State) : (s.tock).slots = s.slots := rfl
@[simp] theorem State.cur_tock (s : State) : (s.tock).cur = s.cur := rfl
@[simp] theorem State.hot_tock (s : State) : (s.tock).hot = s.hot := rfl
@[simp] theorem State.dev_tock (s : State) : (s.tock).dev = s.dev := rfl
@[simp] theorem State.cyc_tock (s : State) : (s.tock).cyc = s.cyc := rfl

/-! pass -/
@[simp] theorem State.mem_pass (s : State) (n : Nat) : (s.pass n).mem = s.mem := rfl
@[simp] theorem State.tags_pass (s : State) (n : Nat) : (s.pass n).tags = s.tags := rfl
@[simp] theorem State.cores_pass (s : State) (n : Nat) : (s.pass n).cores = s.cores := rfl
@[simp] theorem State.lines_pass (s : State) (n : Nat) : (s.pass n).lines = s.lines := rfl
@[simp] theorem State.l1s_pass (s : State) (n : Nat) : (s.pass n).l1s = s.l1s := rfl
@[simp] theorem State.pending_pass (s : State) (n : Nat) : (s.pass n).pending = s.pending := rfl
@[simp] theorem State.parked_pass (s : State) (n : Nat) : (s.pass n).parked = s.parked := rfl
@[simp] theorem State.launches_pass (s : State) (n : Nat) : (s.pass n).launches = s.launches := rfl
@[simp] theorem State.clusters_pass (s : State) (n : Nat) : (s.pass n).clusters = s.clusters := rfl
@[simp] theorem State.routers_pass (s : State) (n : Nat) : (s.pass n).routers = s.routers := rfl
@[simp] theorem State.waits_pass (s : State) (n : Nat) : (s.pass n).waits = s.waits := rfl
@[simp] theorem State.mgmt_pass (s : State) (n : Nat) : (s.pass n).mgmt = s.mgmt := rfl
@[simp] theorem State.spaces_pass (s : State) (n : Nat) : (s.pass n).spaces = s.spaces := rfl
@[simp] theorem State.slots_pass (s : State) (n : Nat) : (s.pass n).slots = s.slots := rfl
@[simp] theorem State.cur_pass (s : State) (n : Nat) : (s.pass n).cur = s.cur := rfl
@[simp] theorem State.hot_pass (s : State) (n : Nat) : (s.pass n).hot = s.hot := rfl
@[simp] theorem State.dev_pass (s : State) (n : Nat) : (s.pass n).dev = s.dev := rfl

/-! serve -/
@[simp] theorem State.mem_serve (s : State) (k : Served) (c : CoreId) : (s.serve k c).mem = s.mem := rfl
@[simp] theorem State.tags_serve (s : State) (k : Served) (c : CoreId) : (s.serve k c).tags = s.tags := rfl
@[simp] theorem State.cores_serve (s : State) (k : Served) (c : CoreId) : (s.serve k c).cores = s.cores := rfl
@[simp] theorem State.lines_serve (s : State) (k : Served) (c : CoreId) : (s.serve k c).lines = s.lines := rfl
@[simp] theorem State.l1s_serve (s : State) (k : Served) (c : CoreId) : (s.serve k c).l1s = s.l1s := rfl
@[simp] theorem State.pending_serve (s : State) (k : Served) (c : CoreId) : (s.serve k c).pending = s.pending := rfl
@[simp] theorem State.parked_serve (s : State) (k : Served) (c : CoreId) : (s.serve k c).parked = s.parked := rfl
@[simp] theorem State.launches_serve (s : State) (k : Served) (c : CoreId) : (s.serve k c).launches = s.launches := rfl
@[simp] theorem State.clusters_serve (s : State) (k : Served) (c : CoreId) : (s.serve k c).clusters = s.clusters := rfl
@[simp] theorem State.routers_serve (s : State) (k : Served) (c : CoreId) : (s.serve k c).routers = s.routers := rfl
@[simp] theorem State.waits_serve (s : State) (k : Served) (c : CoreId) : (s.serve k c).waits = s.waits := rfl
@[simp] theorem State.mgmt_serve (s : State) (k : Served) (c : CoreId) : (s.serve k c).mgmt = s.mgmt := rfl
@[simp] theorem State.spaces_serve (s : State) (k : Served) (c : CoreId) : (s.serve k c).spaces = s.spaces := rfl
@[simp] theorem State.slots_serve (s : State) (k : Served) (c : CoreId) : (s.serve k c).slots = s.slots := rfl
@[simp] theorem State.cur_serve (s : State) (k : Served) (c : CoreId) : (s.serve k c).cur = s.cur := rfl
@[simp] theorem State.hot_serve (s : State) (k : Served) (c : CoreId) : (s.serve k c).hot = s.hot := rfl
@[simp] theorem State.dev_serve (s : State) (k : Served) (c : CoreId) : (s.serve k c).dev = s.dev := rfl
@[simp] theorem State.cyc_serve (s : State) (k : Served) (c : CoreId) : (s.serve k c).cyc = s.cyc := rfl

/-! hwSet -/
@[simp] theorem State.mem_hwSet (s : State) (b : HwBit) : (s.hwSet b).mem = s.mem := rfl
@[simp] theorem State.tags_hwSet (s : State) (b : HwBit) : (s.hwSet b).tags = s.tags := rfl
@[simp] theorem State.cores_hwSet (s : State) (b : HwBit) : (s.hwSet b).cores = s.cores := rfl
@[simp] theorem State.lines_hwSet (s : State) (b : HwBit) : (s.hwSet b).lines = s.lines := rfl
@[simp] theorem State.l1s_hwSet (s : State) (b : HwBit) : (s.hwSet b).l1s = s.l1s := rfl
@[simp] theorem State.pending_hwSet (s : State) (b : HwBit) : (s.hwSet b).pending = s.pending := rfl
@[simp] theorem State.parked_hwSet (s : State) (b : HwBit) : (s.hwSet b).parked = s.parked := rfl
@[simp] theorem State.launches_hwSet (s : State) (b : HwBit) : (s.hwSet b).launches = s.launches := rfl
@[simp] theorem State.clusters_hwSet (s : State) (b : HwBit) : (s.hwSet b).clusters = s.clusters := rfl
@[simp] theorem State.routers_hwSet (s : State) (b : HwBit) : (s.hwSet b).routers = s.routers := rfl
@[simp] theorem State.waits_hwSet (s : State) (b : HwBit) : (s.hwSet b).waits = s.waits := rfl
@[simp] theorem State.mgmt_hwSet (s : State) (b : HwBit) : (s.hwSet b).mgmt = s.mgmt := rfl
@[simp] theorem State.spaces_hwSet (s : State) (b : HwBit) : (s.hwSet b).spaces = s.spaces := rfl
@[simp] theorem State.slots_hwSet (s : State) (b : HwBit) : (s.hwSet b).slots = s.slots := rfl
@[simp] theorem State.cur_hwSet (s : State) (b : HwBit) : (s.hwSet b).cur = s.cur := rfl
@[simp] theorem State.hot_hwSet (s : State) (b : HwBit) : (s.hwSet b).hot = s.hot := rfl
@[simp] theorem State.dev_hwSet (s : State) (b : HwBit) : (s.hwSet b).dev = s.dev := rfl
@[simp] theorem State.cyc_hwSet (s : State) (b : HwBit) : (s.hwSet b).cyc = s.cyc := rfl

/-! reply -/
@[simp] theorem State.mem_reply (s : State) (r : HostReply) : (s.reply r).mem = s.mem := rfl
@[simp] theorem State.tags_reply (s : State) (r : HostReply) : (s.reply r).tags = s.tags := rfl
@[simp] theorem State.cores_reply (s : State) (r : HostReply) : (s.reply r).cores = s.cores := rfl
@[simp] theorem State.lines_reply (s : State) (r : HostReply) : (s.reply r).lines = s.lines := rfl
@[simp] theorem State.l1s_reply (s : State) (r : HostReply) : (s.reply r).l1s = s.l1s := rfl
@[simp] theorem State.pending_reply (s : State) (r : HostReply) : (s.reply r).pending = s.pending := rfl
@[simp] theorem State.parked_reply (s : State) (r : HostReply) : (s.reply r).parked = s.parked := rfl
@[simp] theorem State.launches_reply (s : State) (r : HostReply) : (s.reply r).launches = s.launches := rfl
@[simp] theorem State.clusters_reply (s : State) (r : HostReply) : (s.reply r).clusters = s.clusters := rfl
@[simp] theorem State.routers_reply (s : State) (r : HostReply) : (s.reply r).routers = s.routers := rfl
@[simp] theorem State.waits_reply (s : State) (r : HostReply) : (s.reply r).waits = s.waits := rfl
@[simp] theorem State.mgmt_reply (s : State) (r : HostReply) : (s.reply r).mgmt = s.mgmt := rfl
@[simp] theorem State.spaces_reply (s : State) (r : HostReply) : (s.reply r).spaces = s.spaces := rfl
@[simp] theorem State.slots_reply (s : State) (r : HostReply) : (s.reply r).slots = s.slots := rfl
@[simp] theorem State.cur_reply (s : State) (r : HostReply) : (s.reply r).cur = s.cur := rfl
@[simp] theorem State.hot_reply (s : State) (r : HostReply) : (s.reply r).hot = s.hot := rfl
@[simp] theorem State.dev_reply (s : State) (r : HostReply) : (s.reply r).dev = s.dev := rfl
@[simp] theorem State.cyc_reply (s : State) (r : HostReply) : (s.reply r).cyc = s.cyc := rfl

/-! filterCleat -/
@[simp] theorem State.mem_filterCleat (s : State) (p : Cleat → Bool) : (s.filterCleat p).mem = s.mem := rfl
@[simp] theorem State.tags_filterCleat (s : State) (p : Cleat → Bool) : (s.filterCleat p).tags = s.tags := rfl
@[simp] theorem State.cores_filterCleat (s : State) (p : Cleat → Bool) : (s.filterCleat p).cores = s.cores := rfl
@[simp] theorem State.lines_filterCleat (s : State) (p : Cleat → Bool) : (s.filterCleat p).lines = s.lines := rfl
@[simp] theorem State.l1s_filterCleat (s : State) (p : Cleat → Bool) : (s.filterCleat p).l1s = s.l1s := rfl
@[simp] theorem State.pending_filterCleat (s : State) (p : Cleat → Bool) : (s.filterCleat p).pending = s.pending := rfl
@[simp] theorem State.parked_filterCleat (s : State) (p : Cleat → Bool) : (s.filterCleat p).parked = s.parked := rfl
@[simp] theorem State.launches_filterCleat (s : State) (p : Cleat → Bool) : (s.filterCleat p).launches = s.launches := rfl
@[simp] theorem State.routers_filterCleat (s : State) (p : Cleat → Bool) : (s.filterCleat p).routers = s.routers := rfl
@[simp] theorem State.waits_filterCleat (s : State) (p : Cleat → Bool) : (s.filterCleat p).waits = s.waits := rfl
@[simp] theorem State.mgmt_filterCleat (s : State) (p : Cleat → Bool) : (s.filterCleat p).mgmt = s.mgmt := rfl
@[simp] theorem State.spaces_filterCleat (s : State) (p : Cleat → Bool) : (s.filterCleat p).spaces = s.spaces := rfl
@[simp] theorem State.slots_filterCleat (s : State) (p : Cleat → Bool) : (s.filterCleat p).slots = s.slots := rfl
@[simp] theorem State.cur_filterCleat (s : State) (p : Cleat → Bool) : (s.filterCleat p).cur = s.cur := rfl
@[simp] theorem State.hot_filterCleat (s : State) (p : Cleat → Bool) : (s.filterCleat p).hot = s.hot := rfl
@[simp] theorem State.dev_filterCleat (s : State) (p : Cleat → Bool) : (s.filterCleat p).dev = s.dev := rfl
@[simp] theorem State.cyc_filterCleat (s : State) (p : Cleat → Bool) : (s.filterCleat p).cyc = s.cyc := rfl

/-! Cores and contexts. -/

@[simp] theorem State.coreAt_modCore (s : State) (c : CoreId) (f : Core → Core) : (s.modCore c f).coreAt c = f (s.coreAt c) := by
  simp [State.coreAt, State.modCore]

theorem State.coreAt_modCore_of_ne (s : State) {c d : CoreId} (f : Core → Core) (h : d ≠ c) : (s.modCore c f).coreAt d = s.coreAt d := by
  have : c.val ≠ d.val := fun e => h (Fin.ext e.symm)
  simp [State.coreAt, State.modCore, this]

theorem State.coreAt_modCore_eq (s : State) (c d : CoreId) (f : Core → Core) :
    (s.modCore c f).coreAt d = if d = c then f (s.coreAt d) else s.coreAt d := by
  split
  · next h => subst h; simp
  · next h => exact State.coreAt_modCore_of_ne s f h

@[simp] theorem State.ctxAt_modCtx (s : State) (c : CoreId) (x : CtxId) (f : Ctx → Ctx) : (s.modCtx c x f).ctxAt c x = f (s.ctxAt c x) := by
  simp [State.ctxAt, State.modCtx, Core.modCtx]

theorem State.ctxAt_modCtx_of_ne (s : State) {c d : CoreId} {x y : CtxId} (f : Ctx → Ctx) (h : d ≠ c ∨ y ≠ x) :
    (s.modCtx c x f).ctxAt d y = s.ctxAt d y := by
  simp only [State.ctxAt, State.modCtx, State.coreAt_modCore_eq]
  split
  · next e =>
    have : x.val ≠ y.val := fun g => (h.resolve_left fun n => n e) (Fin.ext g.symm)
    simp [Core.modCtx, this]
  · rfl

@[simp] theorem State.sp_modCtx (s : State) (c d : CoreId) (x : CtxId) (f : Ctx → Ctx) : ((s.modCtx c x f).coreAt d).sp = (s.coreAt d).sp := by
  simp only [State.modCtx, State.coreAt_modCore_eq]
  split <;> rfl

theorem State.coreAt_congr {s t : State} (h : t.cores = s.cores) (c : CoreId) : t.coreAt c = s.coreAt c := by simp [State.coreAt, h]

theorem State.ctxAt_congr {s t : State} (h : t.cores = s.cores) (c : CoreId) (x : CtxId) : t.ctxAt c x = s.ctxAt c x := by
  simp [State.ctxAt, State.coreAt, h]

/-- Equal memory and equal cores leave every byte as it was. -/
theorem SameBytes.of_eq {s t : State} (hm : t.mem = s.mem) (hc : t.cores = s.cores) : SameBytes s t :=
  ⟨fun a => by rw [hm], fun c o => by rw [State.coreAt_congr hc]⟩

theorem SameBytes.refl (s : State) : SameBytes s s := .of_eq rfl rfl

theorem SameBytes.trans {s t u : State} (h : SameBytes s t) (g : SameBytes t u) : SameBytes s u :=
  ⟨fun a => (g.1 a).trans (h.1 a), fun c o => (g.2 c o).trans (h.2 c o)⟩

end Sys2Proof.Machine
end

