-- ==== Sys2Proof/Laws/Memory.lean ====
section
/-!
SUPPORT. Laws of memory: a sparse map reads what was last written and keeps its canonical form; bytes written read back and every other
byte stays; what putting, storing and recalling can do to a state.
-/

namespace Sys2Proof

/-! Sparse maps. -/

theorem Sparse.get_cons {α : Type} (d v : α) (j k : Nat) (r : Sparse α) :
    Sparse.get d ((j, v) :: r) k = if j = k then v else Sparse.get d r k := rfl

theorem Sparse.get_erase {α : Type} (d : α) (m : Sparse α) (k j : Nat) :
    Sparse.get d (Sparse.erase m k) j = if j = k then d else Sparse.get d m j := by
  induction m with
  | nil => simp [Sparse.erase, Sparse.get]
  | cons e r ih =>
    obtain ⟨i, v⟩ := e
    have hr : Sparse.erase ((i, v) :: r) k = if i = k then Sparse.erase r k else (i, v) :: Sparse.erase r k := by
      unfold Sparse.erase; by_cases h : i = k <;> simp [h]
    rw [hr]
    by_cases h : i = k
    · subst h
      rw [if_pos rfl, ih, Sparse.get_cons]
      by_cases g : j = i
      · simp [g]
      · simp [g, Ne.symm g]
    · rw [if_neg h, Sparse.get_cons, Sparse.get_cons, ih]
      by_cases g : i = j
      · have : j ≠ k := fun e => h (g.trans e)
        simp [g, this]
      · simp [g]

/-- No entry under a key. -/
def Sparse.free {α : Type} (m : Sparse α) (k : Nat) : Prop := ∀ e ∈ m, e.1 ≠ k

theorem Sparse.free_erase {α : Type} (m : Sparse α) (k : Nat) : Sparse.free (Sparse.erase m k) k := by
  intro e h
  have := (List.mem_filter.mp h).2
  simpa using this

theorem Sparse.get_insert {α : Type} (d v : α) (m : Sparse α) (k j : Nat) (h : Sparse.free m k) :
    Sparse.get d (Sparse.insert m k v) j = if j = k then v else Sparse.get d m j := by
  induction m with
  | nil => simp [Sparse.insert, Sparse.get, eq_comm]
  | cons e r ih =>
    obtain ⟨i, w⟩ := e
    have hi : i ≠ k := h (i, w) (by simp)
    have hr : Sparse.free r k := fun e he => h e (by simp [he])
    unfold Sparse.insert
    split
    · rw [Sparse.get_cons]
      by_cases g : k = j
      · simp [g]
      · simp [g, Ne.symm g]
    · rw [Sparse.get_cons, Sparse.get_cons, ih hr]
      by_cases g : i = j
      · have : j ≠ k := fun e => hi (g.trans e)
        simp [g, this]
      · simp [g]

/-- A sparse map reads what was last written under a key, and every other key as before. -/
theorem Sparse.get_set {α : Type} [DecidableEq α] (d v : α) (m : Sparse α) (k j : Nat) :
    Sparse.get d (Sparse.set d m k v) j = if j = k then v else Sparse.get d m j := by
  unfold Sparse.set
  split
  · next h => rw [Sparse.get_erase, h]
  · rw [Sparse.get_insert d v _ k j (Sparse.free_erase m k), Sparse.get_erase]
    by_cases g : j = k <;> simp [g]

theorem Sparse.wf_cons {α : Type} [DecidableEq α] (d v : α) (k : Nat) (r : Sparse α) :
    Sparse.wf d ((k, v) :: r) = true ↔ v ≠ d ∧ (∀ e ∈ r, k < e.1) ∧ Sparse.wf d r = true := by
  simp [Sparse.wf, and_assoc]

theorem Sparse.wf_erase {α : Type} [DecidableEq α] (d : α) (m : Sparse α) (k : Nat) (h : Sparse.wf d m = true) :
    Sparse.wf d (Sparse.erase m k) = true := by
  induction m with
  | nil => rfl
  | cons e r ih =>
    obtain ⟨i, v⟩ := e
    obtain ⟨hv, hl, hr⟩ := (Sparse.wf_cons d v i r).mp h
    by_cases g : i = k
    · have : Sparse.erase ((i, v) :: r) k = Sparse.erase r k := by unfold Sparse.erase; simp [g]
      rw [this]; exact ih hr
    · have : Sparse.erase ((i, v) :: r) k = (i, v) :: Sparse.erase r k := by unfold Sparse.erase; simp [g]
      rw [this]
      exact (Sparse.wf_cons d v i _).mpr ⟨hv, fun e he => hl e (List.mem_filter.mp he).1, ih hr⟩

theorem Sparse.mem_insert {α : Type} (m : Sparse α) (k : Nat) (v : α) (e : Nat × α) (h : e ∈ Sparse.insert m k v) : e = (k, v) ∨ e ∈ m := by
  induction m with
  | nil => left; simpa [Sparse.insert] using h
  | cons f r ih =>
    obtain ⟨i, w⟩ := f
    unfold Sparse.insert at h
    split at h
    · rcases List.mem_cons.mp h with h | h
      · exact .inl h
      · exact .inr h
    · rcases List.mem_cons.mp h with h | h
      · exact .inr (by simp [h])
      · rcases ih h with h | h
        · exact .inl h
        · exact .inr (by simp [h])

theorem Sparse.wf_insert {α : Type} [DecidableEq α] (d v : α) (m : Sparse α) (k : Nat) (hv : v ≠ d) (hf : Sparse.free m k)
    (h : Sparse.wf d m = true) : Sparse.wf d (Sparse.insert m k v) = true := by
  induction m with
  | nil => simp [Sparse.insert, Sparse.wf, hv]
  | cons e r ih =>
    obtain ⟨i, w⟩ := e
    obtain ⟨hw, hl, hr⟩ := (Sparse.wf_cons d w i r).mp h
    have hi : i ≠ k := hf (i, w) (by simp)
    unfold Sparse.insert
    split
    · next g =>
      refine (Sparse.wf_cons d v k _).mpr ⟨hv, ?_, h⟩
      intro e he
      rcases List.mem_cons.mp he with rfl | he
      · exact g
      · exact lt_trans g (hl e he)
    · next g =>
      refine (Sparse.wf_cons d w i _).mpr ⟨hw, ?_, ih (fun e he => hf e (by simp [he])) hr⟩
      intro e he
      rcases Sparse.mem_insert r k v e he with rfl | he
      · exact lt_of_le_of_ne (Nat.le_of_not_lt g) hi
      · exact hl e he

/-- A write keeps the canonical form. -/
theorem Sparse.wf_set {α : Type} [DecidableEq α] (d v : α) (m : Sparse α) (k : Nat) (h : Sparse.wf d m = true) :
    Sparse.wf d (Sparse.set d m k v) = true := by
  unfold Sparse.set
  split
  · exact Sparse.wf_erase d m k h
  · next hv => exact Sparse.wf_insert d v _ k hv (Sparse.free_erase m k) (Sparse.wf_erase d m k h)

theorem Sparse.wf_filter {α : Type} [DecidableEq α] (d : α) (m : Sparse α) (p : Nat × α → Bool) (h : Sparse.wf d m = true) :
    Sparse.wf d (m.filter p) = true := by
  induction m with
  | nil => rfl
  | cons e r ih =>
    obtain ⟨i, v⟩ := e
    obtain ⟨hv, hl, hr⟩ := (Sparse.wf_cons d v i r).mp h
    by_cases g : p (i, v) = true
    · rw [List.filter_cons_of_pos g]
      exact (Sparse.wf_cons d v i _).mpr ⟨hv, fun e he => hl e (List.mem_filter.mp he).1, ih hr⟩
    · rw [List.filter_cons_of_neg g]; exact ih hr

namespace Machine

/-! Bytes. -/

/-- Bytes written read back, and every other byte reads as before. -/
theorem Mem.byte_write (m : Mem) (a : Nat) (bs : List Byte) (x : Nat) :
    (Mem.write m a bs).byte x = if a ≤ x ∧ x < a + bs.length then bs.getD (x - a) 0 else m.byte x := by
  induction bs generalizing m a with
  | nil =>
    have : ¬ (a ≤ x ∧ x < a + 0) := by omega
    simp only [Mem.write, List.length_nil, if_neg this]
  | cons b r ih =>
    rw [Mem.write, ih]
    unfold Mem.byte
    rw [Sparse.get_set]
    simp only [List.length_cons]
    by_cases h1 : a + 1 ≤ x ∧ x < a + 1 + r.length
    · have h2 : a ≤ x ∧ x < a + (r.length + 1) := by omega
      have h3 : x - a = (x - (a + 1)) + 1 := by omega
      simp [h1, h2, h3]
    · by_cases h2 : x = a
      · subst h2
        have h3 : x ≤ x ∧ x < x + (r.length + 1) := by omega
        have h4 : ¬ (x + 1 ≤ x) := by omega
        simp [h3, h4]
      · have h3 : ¬ (a ≤ x ∧ x < a + (r.length + 1)) := by omega
        rw [if_neg h1, if_neg h2, if_neg h3]

theorem Mem.byte_write_of_not (m : Mem) (a : Nat) (bs : List Byte) (x : Nat) (h : ¬ (a ≤ x ∧ x < a + bs.length)) :
    (Mem.write m a bs).byte x = m.byte x := by rw [Mem.byte_write, if_neg h]

theorem Mem.wf_write (m : Mem) (a : Nat) (bs : List Byte) (h : Mem.wf m) : Mem.wf (Mem.write m a bs) := by
  induction bs generalizing m a with
  | nil => exact h
  | cons b r ih => exact ih _ _ (Sparse.wf_set 0 b m a h)

/-! What an update of waits, cells and lines can change. -/

/-- Everything but the cleat tables, the armed waits, the events in flight or leaving for the peer, the launches and the marks of read-shared
lines is as before, and so are the cores and the saved images of every launch. -/
def OnlyWaiters (s t : State) : Prop :=
  t = { s with clusters := t.clusters, peerCleat := t.peerCleat, peerOut := t.peerOut, stale := t.stale, waits := t.waits, pending := t.pending, launches := t.launches }
    ∧ t.launches.map (fun l => (l.lid, l.cores, l.phase, l.images)) = s.launches.map fun l => (l.lid, l.cores, l.phase, l.images)

theorem OnlyWaiters.refl (s : State) : OnlyWaiters s s := ⟨rfl, rfl⟩

theorem OnlyWaiters.trans {s t u : State} (h : OnlyWaiters s t) (g : OnlyWaiters t u) : OnlyWaiters s u :=
  ⟨by rw [g.1, h.1], g.2.trans h.2⟩

theorem OnlyWaiters.mem {s t : State} (h : OnlyWaiters s t) : t.mem = s.mem := by rw [h.1]
theorem OnlyWaiters.cores {s t : State} (h : OnlyWaiters s t) : t.cores = s.cores := by rw [h.1]
theorem OnlyWaiters.tags {s t : State} (h : OnlyWaiters s t) : t.tags = s.tags := by rw [h.1]
theorem OnlyWaiters.lines {s t : State} (h : OnlyWaiters s t) : t.lines = s.lines := by rw [h.1]

theorem OnlyWaiters.foldl {α : Type} (f : State → α → State) (hf : ∀ s a, OnlyWaiters s (f s a)) (l : List α) (s : State) :
    OnlyWaiters s (l.foldl f s) := by
  induction l generalizing s with
  | nil => exact .refl s
  | cons a r ih => exact (hf s a).trans (ih _)

theorem post_onlyWaiters (s : State) (i : Instr) : OnlyWaiters s (s.post i) := ⟨rfl, rfl⟩
theorem filterCleat_onlyWaiters (s : State) (p : Cleat → Bool) : OnlyWaiters s (s.filterCleat p) := ⟨rfl, rfl⟩
theorem disarm_onlyWaiters (s : State) (d : BitVec 1) (c : CoreId) (x : CtxId) : OnlyWaiters s (s.disarm d c x) := ⟨rfl, rfl⟩

theorem modCleat_onlyWaiters (s : State) (pa : Nat) (f : List Cleat → List Cleat) : OnlyWaiters s (s.modCleat pa f) := by
  unfold State.modCleat
  dsimp only
  split <;> exact ⟨rfl, rfl⟩

theorem makeStale_onlyWaiters (s : State) (l : Nat) : OnlyWaiters s (s.makeStale l) := by
  unfold State.makeStale
  split <;> exact ⟨rfl, rfl⟩

theorem toPeer_onlyWaiters (s : State) (i : Instr) : OnlyWaiters s (s.toPeer i) := by
  unfold State.toPeer
  split <;> exact ⟨rfl, rfl⟩

theorem answerTo_onlyWaiters (s : State) (d : BitVec 1) (i : Instr) : OnlyWaiters s (s.answerTo d i) := by
  unfold State.answerTo
  split
  · exact post_onlyWaiters s i
  · exact toPeer_onlyWaiters s i

theorem map_same {β : Type} (f : Launch → Launch) (g : Launch → β) (h : ∀ l, g (f l) = g l) (ls : List Launch) : (ls.map f).map g = ls.map g := by
  induction ls with
  | nil => rfl
  | cons a r ih => simp [h]

theorem toward_onlyWaiters (s : State) (gang : Option Nat) (i : Instr) : OnlyWaiters s (s.toward gang i) := by
  cases gang with
  | none => exact post_onlyWaiters s i
  | some lid => exact ⟨rfl, map_same _ _ (fun l => by split <;> rfl) _⟩

theorem wakeAll_onlyWaiters (s : State) (ws : List (CoreId × CtxId × WaitaOp)) : OnlyWaiters s (s.wakeAll ws) := by
  refine OnlyWaiters.foldl _ (fun t e => ?_) ws s
  split
  · exact (disarm_onlyWaiters t _ _ _).trans (answerTo_onlyWaiters _ _ _)
  · exact .refl t

theorem wakeKept_onlyWaiters (s : State) (pa n : Nat) : OnlyWaiters s (s.wakeKept pa n) := by
  refine ⟨rfl, ?_⟩
  simp [State.wakeKept, Function.comp_def]

/-- Putting bytes writes them, wakes waiters and marks read-shared lines, and does nothing else. -/
theorem put_spec (s : State) (pa : Nat) (bs : List Byte) : OnlyWaiters { s with mem := s.mem.write pa bs } (s.put pa bs) :=
  (OnlyWaiters.foldl _ makeStale_onlyWaiters _ _).trans ((wakeAll_onlyWaiters _ _).trans (wakeKept_onlyWaiters _ pa bs.length))

/-- The contexts of a core that wait for a commit try again: events only. -/
theorem recommit_onlyWaiters (s : State) (c : CoreId) : OnlyWaiters s (s.recommit c) := ⟨rfl, rfl⟩

theorem put_mem (s : State) (pa : Nat) (bs : List Byte) : (s.put pa bs).mem = s.mem.write pa bs := (put_spec s pa bs).mem
theorem put_cores (s : State) (pa : Nat) (bs : List Byte) : (s.put pa bs).cores = s.cores := (put_spec s pa bs).cores
theorem put_tags (s : State) (pa : Nat) (bs : List Byte) : (s.put pa bs).tags = s.tags := (put_spec s pa bs).tags

/-- Bytes stored in a scratchpad: no other core, no context and no byte elsewhere changes. -/
theorem storeSp_spec (s : State) (c : CoreId) (o : Nat) (bs : List Byte) :
    OnlyWaiters (s.modCore c fun k => { k with sp := k.sp.write o bs }) (s.storeSp c o bs) := wakeAll_onlyWaiters _ _

/-! The canonical form (log 5). -/

theorem canonical_of {s t : State} (hm : Mem.wf t.mem) (ht : Sparse.wf 0 t.tags = true) (hc : ∀ c, Mem.wf (t.coreAt c).sp)
    (hl : t.launches.map (fun l => l.images) = s.launches.map fun l => l.images) (h : s.canonical) : t.canonical := by
  refine ⟨hm, ht, hc, fun l ml k mk => ?_⟩
  have : l.images ∈ s.launches.map fun l => l.images := by rw [← hl]; exact List.mem_map_of_mem ml
  obtain ⟨l', ml', e⟩ := List.mem_map.mp this
  exact h.2.2.2 l' ml' k (by rw [e]; exact mk)

theorem canonical_of_eq {s t : State} (hm : t.mem = s.mem) (ht : t.tags = s.tags) (hc : t.cores = s.cores)
    (hl : t.launches.map (fun l => l.images) = s.launches.map fun l => l.images) (h : s.canonical) : t.canonical :=
  canonical_of (hm ▸ h.1) (ht ▸ h.2.1) (fun c => by rw [State.coreAt_congr hc]; exact h.2.2.1 c) hl h

theorem OnlyWaiters.images {s t : State} (h : OnlyWaiters s t) : t.launches.map (fun l => l.images) = s.launches.map fun l => l.images := by
  have := congrArg (List.map fun (e : Nat × List CoreId × Phase × List Core) => e.2.2.2) h.2
  simpa [List.map_map, Function.comp_def] using this

theorem OnlyWaiters.canonical {s t : State} (h : OnlyWaiters s t) (g : s.canonical) : t.canonical :=
  canonical_of_eq h.mem h.tags h.cores h.images g

theorem put_canonical (s : State) (pa : Nat) (bs : List Byte) (h : s.canonical) : (s.put pa bs).canonical :=
  (put_spec s pa bs).canonical ⟨Mem.wf_write _ _ _ h.1, h.2⟩

theorem setTag_canonical (s : State) (pa : Nat) (t : BitVec 2) (h : s.canonical) : (s.setTag pa t).canonical :=
  ⟨h.1, Sparse.wf_set 0 t s.tags _ h.2.1, h.2.2⟩

theorem foldl_canonical {α : Type} (f : State → α → State) (hf : ∀ s a, s.canonical → (f s a).canonical) (l : List α) (s : State)
    (h : s.canonical) : (l.foldl f s).canonical := by
  induction l generalizing s with
  | nil => exact h
  | cons a r ih => exact ih _ (hf s a h)

theorem modCore_canonical (s : State) (c : CoreId) (f : Core → Core) (hf : Mem.wf (s.coreAt c).sp → Mem.wf (f (s.coreAt c)).sp) (h : s.canonical) :
    (s.modCore c f).canonical := by
  refine ⟨h.1, h.2.1, fun d => ?_, h.2.2.2⟩
  rw [State.coreAt_modCore_eq]
  split
  · next e => subst e; exact hf (h.2.2.1 d)
  · exact h.2.2.1 d

theorem modCtx_canonical (s : State) (c : CoreId) (x : CtxId) (f : Ctx → Ctx) (h : s.canonical) : (s.modCtx c x f).canonical :=
  modCore_canonical s c _ id h

theorem storeSp_canonical (s : State) (c : CoreId) (o : Nat) (bs : List Byte) (h : s.canonical) : (s.storeSp c o bs).canonical :=
  (storeSp_spec s c o bs).canonical (modCore_canonical s c _ (Mem.wf_write _ _ _) h)

theorem wakeOne_canonical (s : State) (a : FurlAns) (gang : Option Nat) (r : FurlReq) (h : s.canonical) : (s.wakeOne a gang r).canonical := by
  unfold State.wakeOne
  split
  · dsimp only
    split
    · exact (recommit_onlyWaiters _ _).canonical (put_canonical _ _ _ h)
    · exact put_canonical _ _ _ h
  · split
    · exact (toward_onlyWaiters _ _ _).canonical h
    · exact (toPeer_onlyWaiters _ _).canonical h

theorem wakeFurl_canonical (s : State) (pa : Nat) (a : FurlAns) (h : s.canonical) : (s.wakeFurl pa a).canonical :=
  foldl_canonical _ (fun t e ht => wakeOne_canonical t a e.1 e.2 ht) _ _ ((modCleat_onlyWaiters s pa _).canonical h)

/-- A store keeps the canonical form. -/
theorem store_canonical (s : State) (pa : Nat) (bs : List Byte) (h : s.canonical) : (s.store pa bs).canonical := by
  unfold State.store
  exact foldl_canonical _ (fun t c ht => wakeFurl_canonical t c _ ht) _ _
    (put_canonical _ _ _ (foldl_canonical _ (fun t c ht => setTag_canonical t c 0 ht) _ _ h))

theorem setLine_canonical (s : State) (l : Nat) (e : Line) (h : s.canonical) : (s.setLine l e).canonical := h

/-- A recall keeps the canonical form. -/
theorem recall_canonical (s : State) (l : Nat) (h : s.canonical) : (s.recall l).canonical := by
  unfold State.recall
  dsimp only
  split
  · exact h
  · exact store_canonical _ _ _ (setLine_canonical _ _ _ h)

theorem dropFrom_canonical (s : State) (l : Nat) (p : Nat → Bool) (h : s.canonical) : (s.dropFrom l p).canonical := h
theorem setL1_canonical (s : State) (c : CoreId) (k : L1) (h : s.canonical) : (s.setL1 c k).canonical := h

theorem makeStale_canonical (s : State) (l : Nat) (h : s.canonical) : (s.makeStale l).canonical := (makeStale_onlyWaiters s l).canonical h

theorem claimHome_canonical (s : State) (l : Nat) (h : s.canonical) : (s.claimHome l).canonical :=
  setLine_canonical _ _ _ (dropFrom_canonical _ l _ (recall_canonical s l h))

theorem shareOwner_canonical (s : State) (l : Nat) (h : s.canonical) : (s.shareOwner l).canonical := by
  unfold State.shareOwner
  dsimp only
  split
  · exact h
  · exact h
  · exact h

/-! L1 data caches (06 R172). -/

theorem writeOwn_canonical (s : State) (w : Way) (h : s.canonical) : (s.writeOwn w).canonical := by
  unfold State.writeOwn
  split
  · have g := makeStale_canonical s w.line h
    exact ⟨Mem.wf_write _ _ _ h.1, g.2⟩
  · exact h

/-- An eviction keeps the canonical form. -/
theorem evict_canonical (s : State) (c : CoreId) (w : Way) (h : s.canonical) : (s.evict c w).canonical := by
  have g : ((s.writeOwn w).setL1 c { s.l1 c with ways := (s.l1 c).ways.filter fun v => v.line != w.line }).canonical :=
    setL1_canonical _ _ _ (writeOwn_canonical s w h)
  unfold State.evict
  dsimp only
  split
  · exact g
  · split
    · exact g
    · exact g
    · exact (post_onlyWaiters _ _).canonical g
    · exact g

/-- A fill keeps the canonical form. -/
theorem fillL1_canonical (s : State) (c : CoreId) (l : Nat) (what : Held1) (h : s.canonical) : (s.fillL1 c l what).canonical := by
  unfold State.fillL1
  split
  · refine setL1_canonical _ _ _ (setL1_canonical _ _ _ ?_)
    split
    · exact h
    · exact writeOwn_canonical _ _ h
  · refine setL1_canonical _ _ _ (setL1_canonical _ _ _ ?_)
    split
    · exact evict_canonical _ _ _ h
    · exact h

theorem touchOwn_canonical (s : State) (c : CoreId) (l : Nat) (h : s.canonical) : (s.touchOwn c l).canonical := by
  unfold State.touchOwn
  split
  · exact setL1_canonical _ _ _ h
  · exact fillL1_canonical _ _ _ _ (recall_canonical s l h)

/-! Stores. -/

/-- A store that touches no cell but VALUE ones writes its bytes and wakes waiters, and does nothing else. -/
theorem store_spec (s : State) (pa : Nat) (bs : List Byte) (h : s.openCells pa bs.length = []) :
    OnlyWaiters { s with mem := s.mem.write pa bs } (s.store pa bs) := by
  unfold State.store
  simp only [h, List.foldl_nil, List.filter_nil]
  exact put_spec s pa bs

theorem wakeOne_cores (s : State) (a : FurlAns) (gang : Option Nat) (r : FurlReq) : (s.wakeOne a gang r).cores = s.cores := by
  unfold State.wakeOne
  split
  · dsimp only
    split <;> exact put_cores _ _ _
  · split
    · exact (toward_onlyWaiters _ _ _).cores
    · exact (toPeer_onlyWaiters _ _).cores

theorem foldl_cores {α : Type} (f : State → α → State) (hf : ∀ s a, (f s a).cores = s.cores) (l : List α) (s : State) : (l.foldl f s).cores = s.cores := by
  induction l generalizing s with
  | nil => rfl
  | cons a r ih => exact (ih _).trans (hf s a)

theorem wakeFurl_cores (s : State) (pa : Nat) (a : FurlAns) : (s.wakeFurl pa a).cores = s.cores := by
  exact (foldl_cores (fun (t : State) (e : Option Nat × FurlReq) => t.wakeOne a e.1 e.2) (fun t e => wakeOne_cores t a e.1 e.2) _
    (s.modCleat pa fun ks => ks.filter fun k => !k.onCell pa)).trans (modCleat_onlyWaiters s pa _).cores

/-- A store changes no core. -/
theorem store_cores (s : State) (pa : Nat) (bs : List Byte) : (s.store pa bs).cores = s.cores := by
  unfold State.store
  dsimp only
  rw [foldl_cores _ (fun t c => wakeFurl_cores t c _), put_cores, foldl_cores _ (fun t c => State.cores_setTag t c 0)]

/-- A recall changes no core. -/
theorem recall_cores (s : State) (l : Nat) : (s.recall l).cores = s.cores := by
  unfold State.recall
  dsimp only
  split
  · rfl
  · exact store_cores _ _ _

/-- A line with no update-only partial is as a recall leaves it. -/
theorem recall_none (s : State) (l : Nat) (h : (s.line l).u = []) : s.recall l = s := by
  unfold State.recall
  simp [h]

theorem makeStale_cores (s : State) (l : Nat) : (s.makeStale l).cores = s.cores := (makeStale_onlyWaiters s l).cores

theorem claimHome_cores (s : State) (l : Nat) : (s.claimHome l).cores = s.cores := recall_cores s l

theorem shareOwner_cores (s : State) (l : Nat) : (s.shareOwner l).cores = s.cores := by
  unfold State.shareOwner
  dsimp only
  split <;> rfl

/-! What an L1 does to memory and to cores. -/

theorem writeOwn_cores (s : State) (w : Way) : (s.writeOwn w).cores = s.cores := by
  unfold State.writeOwn
  split
  · exact makeStale_cores s w.line
  · rfl

/-- A way that has not been stored to leaves memory as it is. -/
theorem writeOwn_mem (s : State) (w : Way) (h : ∀ d, w.what ≠ .own d true) : (s.writeOwn w).mem = s.mem := by
  unfold State.writeOwn
  split
  · next d e => exact absurd e (h d)
  · rfl

/-- An eviction changes memory by its write-back alone. -/
theorem evict_mem (s : State) (c : CoreId) (w : Way) : (s.evict c w).mem = (s.writeOwn w).mem := by
  unfold State.evict
  dsimp only
  split
  · rfl
  · split <;> rfl

/-- An eviction changes no core. -/
theorem evict_cores (s : State) (c : CoreId) (w : Way) : (s.evict c w).cores = s.cores := by
  have g := writeOwn_cores s w
  unfold State.evict
  dsimp only
  split
  · exact g
  · split <;> exact g

/-- A fill changes no core. -/
theorem fillL1_cores (s : State) (c : CoreId) (l : Nat) (what : Held1) : (s.fillL1 c l what).cores = s.cores := by
  unfold State.fillL1
  split
  · show (if _ then s else _ : State).cores = _
    split
    · rfl
    · exact writeOwn_cores _ _
  · show State.cores (match _ with
      | some w => s.evict c w
      | none => s) = _
    split
    · exact evict_cores _ _ _
    · rfl

theorem touchOwn_cores (s : State) (c : CoreId) (l : Nat) : (s.touchOwn c l).cores = s.cores := by
  unfold State.touchOwn
  split
  · rfl
  · exact (fillL1_cores _ _ _ _).trans (recall_cores s l)

theorem getS_cores (s : State) (l : Nat) (c : CoreId) : (s.getS l c).cores = s.cores := by
  unfold State.getS
  dsimp only
  rw [fillL1_cores]
  split
  · exact recall_cores s l
  · exact (shareOwner_cores _ l).trans (recall_cores s l)

theorem getM_cores (s : State) (l : Nat) (c : CoreId) : (s.getM l c).cores = s.cores := by
  unfold State.getM
  dsimp only
  split
  · exact claimHome_cores s l
  · exact (fillL1_cores _ _ _ _).trans (claimHome_cores s l)

theorem touchLoad_cores (s : State) (c : CoreId) (l : Nat) : (s.touchLoad c l).cores = s.cores := by
  unfold State.touchLoad
  split
  · exact recall_cores s l
  · split
    · exact getS_cores s l c
    · rfl

/-- The coherence actions of a store change no core. -/
theorem touchStore_cores (s : State) (c : CoreId) (l : Nat) : (s.touchStore c l).cores = s.cores := by
  unfold State.touchStore
  split
  · exact claimHome_cores s l
  · split
    · rfl
    · rfl
    · exact getM_cores s l c

end Machine

end Sys2Proof
end

