-- ==== Sys2Proof/Laws/PerInstr.lean ====
section
/-!
SUPPORT. Per instruction: a word has bit 31 set and a halfword has bit 15 clear (02 R47), which is what tells the length of an
instruction at its first halfword.
-/

namespace Sys2Proof.Laws

/-- The first halfword of the encoding tells its length. -/
def Length.Statement (i : Instr) : Prop :=
  (∀ w, encode i = .word w → w.getLsbD 31 = true) ∧ ∀ h, encode i = .half h → h.getLsbD 15 = false

theorem Length.of_none {i : Instr} (h : encode i = .none) : Length.Statement i :=
  ⟨fun _ g => (by rw [h] at g; cases g), fun _ g => (by rw [h] at g; cases g)⟩

theorem Length.of_word {i : Instr} {w : BitVec 32} (h : encode i = .word w) (b : w.getLsbD 31 = true) : Length.Statement i :=
  ⟨fun _ g => (by rw [h] at g; cases g; exact b), fun _ g => (by rw [h] at g; cases g)⟩

theorem Length.of_half {i : Instr} {w : BitVec 16} (h : encode i = .half w) (b : w.getLsbD 15 = false) : Length.Statement i :=
  ⟨fun _ g => (by rw [h] at g; cases g), fun _ g => (by rw [h] at g; cases g; exact b)⟩

theorem Length.add : ∀ a0 a1 a2, Length.Statement (.add a0 a1 a2) := fun _ _ _ => Length.of_word rfl (by simp only [BitVec.getLsbD_append]; rfl)
theorem Length.sub : ∀ a0 a1 a2, Length.Statement (.sub a0 a1 a2) := fun _ _ _ => Length.of_word rfl (by simp only [BitVec.getLsbD_append]; rfl)
theorem Length.and : ∀ a0 a1 a2, Length.Statement (.and a0 a1 a2) := fun _ _ _ => Length.of_word rfl (by simp only [BitVec.getLsbD_append]; rfl)
theorem Length.or : ∀ a0 a1 a2, Length.Statement (.or a0 a1 a2) := fun _ _ _ => Length.of_word rfl (by simp only [BitVec.getLsbD_append]; rfl)
theorem Length.xor : ∀ a0 a1 a2, Length.Statement (.xor a0 a1 a2) := fun _ _ _ => Length.of_word rfl (by simp only [BitVec.getLsbD_append]; rfl)
theorem Length.andn : ∀ a0 a1 a2, Length.Statement (.andn a0 a1 a2) := fun _ _ _ => Length.of_word rfl (by simp only [BitVec.getLsbD_append]; rfl)
theorem Length.sll : ∀ a0 a1 a2, Length.Statement (.sll a0 a1 a2) := fun _ _ _ => Length.of_word rfl (by simp only [BitVec.getLsbD_append]; rfl)
theorem Length.srl : ∀ a0 a1 a2, Length.Statement (.srl a0 a1 a2) := fun _ _ _ => Length.of_word rfl (by simp only [BitVec.getLsbD_append]; rfl)
theorem Length.sra : ∀ a0 a1 a2, Length.Statement (.sra a0 a1 a2) := fun _ _ _ => Length.of_word rfl (by simp only [BitVec.getLsbD_append]; rfl)
theorem Length.rol : ∀ a0 a1 a2, Length.Statement (.rol a0 a1 a2) := fun _ _ _ => Length.of_word rfl (by simp only [BitVec.getLsbD_append]; rfl)
theorem Length.ror : ∀ a0 a1 a2, Length.Statement (.ror a0 a1 a2) := fun _ _ _ => Length.of_word rfl (by simp only [BitVec.getLsbD_append]; rfl)
theorem Length.min : ∀ a0 a1 a2, Length.Statement (.min a0 a1 a2) := fun _ _ _ => Length.of_word rfl (by simp only [BitVec.getLsbD_append]; rfl)
theorem Length.max : ∀ a0 a1 a2, Length.Statement (.max a0 a1 a2) := fun _ _ _ => Length.of_word rfl (by simp only [BitVec.getLsbD_append]; rfl)
theorem Length.minu : ∀ a0 a1 a2, Length.Statement (.minu a0 a1 a2) := fun _ _ _ => Length.of_word rfl (by simp only [BitVec.getLsbD_append]; rfl)
theorem Length.maxu : ∀ a0 a1 a2, Length.Statement (.maxu a0 a1 a2) := fun _ _ _ => Length.of_word rfl (by simp only [BitVec.getLsbD_append]; rfl)
theorem Length.slt : ∀ a0 a1 a2, Length.Statement (.slt a0 a1 a2) := fun _ _ _ => Length.of_word rfl (by simp only [BitVec.getLsbD_append]; rfl)
theorem Length.sltu : ∀ a0 a1 a2, Length.Statement (.sltu a0 a1 a2) := fun _ _ _ => Length.of_word rfl (by simp only [BitVec.getLsbD_append]; rfl)
theorem Length.seq : ∀ a0 a1 a2, Length.Statement (.seq a0 a1 a2) := fun _ _ _ => Length.of_word rfl (by simp only [BitVec.getLsbD_append]; rfl)
theorem Length.sne : ∀ a0 a1 a2, Length.Statement (.sne a0 a1 a2) := fun _ _ _ => Length.of_word rfl (by simp only [BitVec.getLsbD_append]; rfl)
theorem Length.csel : ∀ a0 a1 a2, Length.Statement (.csel a0 a1 a2) := fun _ _ _ => Length.of_word rfl (by simp only [BitVec.getLsbD_append]; rfl)
theorem Length.addi : ∀ a0 a1 a2, Length.Statement (.addi a0 a1 a2) := fun _ _ _ => Length.of_word rfl (by simp only [BitVec.getLsbD_append]; rfl)
theorem Length.andi : ∀ a0 a1 a2, Length.Statement (.andi a0 a1 a2) := fun _ _ _ => Length.of_word rfl (by simp only [BitVec.getLsbD_append]; rfl)
theorem Length.ori : ∀ a0 a1 a2, Length.Statement (.ori a0 a1 a2) := fun _ _ _ => Length.of_word rfl (by simp only [BitVec.getLsbD_append]; rfl)
theorem Length.xori : ∀ a0 a1 a2, Length.Statement (.xori a0 a1 a2) := fun _ _ _ => Length.of_word rfl (by simp only [BitVec.getLsbD_append]; rfl)
theorem Length.slli : ∀ a0 a1 a2, Length.Statement (.slli a0 a1 a2) := fun _ _ _ => Length.of_word rfl (by simp only [BitVec.getLsbD_append]; rfl)
theorem Length.srli : ∀ a0 a1 a2, Length.Statement (.srli a0 a1 a2) := fun _ _ _ => Length.of_word rfl (by simp only [BitVec.getLsbD_append]; rfl)
theorem Length.srai : ∀ a0 a1 a2, Length.Statement (.srai a0 a1 a2) := fun _ _ _ => Length.of_word rfl (by simp only [BitVec.getLsbD_append]; rfl)
theorem Length.rori : ∀ a0 a1 a2, Length.Statement (.rori a0 a1 a2) := fun _ _ _ => Length.of_word rfl (by simp only [BitVec.getLsbD_append]; rfl)
theorem Length.slti : ∀ a0 a1 a2, Length.Statement (.slti a0 a1 a2) := fun _ _ _ => Length.of_word rfl (by simp only [BitVec.getLsbD_append]; rfl)
theorem Length.sltiu : ∀ a0 a1 a2, Length.Statement (.sltiu a0 a1 a2) := fun _ _ _ => Length.of_word rfl (by simp only [BitVec.getLsbD_append]; rfl)
theorem Length.seqi : ∀ a0 a1 a2, Length.Statement (.seqi a0 a1 a2) := fun _ _ _ => Length.of_word rfl (by simp only [BitVec.getLsbD_append]; rfl)
theorem Length.snei : ∀ a0 a1 a2, Length.Statement (.snei a0 a1 a2) := fun _ _ _ => Length.of_word rfl (by simp only [BitVec.getLsbD_append]; rfl)
theorem Length.liu : ∀ a0 a1, Length.Statement (.liu a0 a1) := fun _ _ => Length.of_word rfl (by simp only [BitVec.getLsbD_append]; rfl)
theorem Length.adrp : ∀ a0 a1, Length.Statement (.adrp a0 a1) := fun _ _ => Length.of_word rfl (by simp only [BitVec.getLsbD_append]; rfl)
theorem Length.mul : ∀ a0 a1 a2, Length.Statement (.mul a0 a1 a2) := fun _ _ _ => Length.of_word rfl (by simp only [BitVec.getLsbD_append]; rfl)
theorem Length.mulhu : ∀ a0 a1 a2, Length.Statement (.mulhu a0 a1 a2) := fun _ _ _ => Length.of_word rfl (by simp only [BitVec.getLsbD_append]; rfl)
theorem Length.mulh : ∀ a0 a1 a2, Length.Statement (.mulh a0 a1 a2) := fun _ _ _ => Length.of_word rfl (by simp only [BitVec.getLsbD_append]; rfl)
theorem Length.mulhus : ∀ a0 a1 a2, Length.Statement (.mulhus a0 a1 a2) := fun _ _ _ => Length.of_word rfl (by simp only [BitVec.getLsbD_append]; rfl)
theorem Length.divu : ∀ a0 a1 a2, Length.Statement (.divu a0 a1 a2) := fun _ _ _ => Length.of_word rfl (by simp only [BitVec.getLsbD_append]; rfl)
theorem Length.div : ∀ a0 a1 a2, Length.Statement (.div a0 a1 a2) := fun _ _ _ => Length.of_word rfl (by simp only [BitVec.getLsbD_append]; rfl)
theorem Length.remu : ∀ a0 a1 a2, Length.Statement (.remu a0 a1 a2) := fun _ _ _ => Length.of_word rfl (by simp only [BitVec.getLsbD_append]; rfl)
theorem Length.rem : ∀ a0 a1 a2, Length.Statement (.rem a0 a1 a2) := fun _ _ _ => Length.of_word rfl (by simp only [BitVec.getLsbD_append]; rfl)
theorem Length.mod : ∀ a0 a1 a2, Length.Statement (.mod a0 a1 a2) := fun _ _ _ => Length.of_word rfl (by simp only [BitVec.getLsbD_append]; rfl)
theorem Length.clz : ∀ a0 a1, Length.Statement (.clz a0 a1) := fun _ _ => Length.of_word rfl (by simp only [BitVec.getLsbD_append]; rfl)
theorem Length.ctz : ∀ a0 a1, Length.Statement (.ctz a0 a1) := fun _ _ => Length.of_word rfl (by simp only [BitVec.getLsbD_append]; rfl)
theorem Length.popc : ∀ a0 a1, Length.Statement (.popc a0 a1) := fun _ _ => Length.of_word rfl (by simp only [BitVec.getLsbD_append]; rfl)
theorem Length.brev : ∀ a0 a1, Length.Statement (.brev a0 a1) := fun _ _ => Length.of_word rfl (by simp only [BitVec.getLsbD_append]; rfl)
theorem Length.extB : ∀ a0 a1, Length.Statement (.extB a0 a1) := fun _ _ => Length.of_word rfl (by simp only [BitVec.getLsbD_append]; rfl)
theorem Length.extH : ∀ a0 a1, Length.Statement (.extH a0 a1) := fun _ _ => Length.of_word rfl (by simp only [BitVec.getLsbD_append]; rfl)
theorem Length.extW : ∀ a0 a1, Length.Statement (.extW a0 a1) := fun _ _ => Length.of_word rfl (by simp only [BitVec.getLsbD_append]; rfl)
theorem Length.extBu : ∀ a0 a1, Length.Statement (.extBu a0 a1) := fun _ _ => Length.of_word rfl (by simp only [BitVec.getLsbD_append]; rfl)
theorem Length.extHu : ∀ a0 a1, Length.Statement (.extHu a0 a1) := fun _ _ => Length.of_word rfl (by simp only [BitVec.getLsbD_append]; rfl)
theorem Length.extWu : ∀ a0 a1, Length.Statement (.extWu a0 a1) := fun _ _ => Length.of_word rfl (by simp only [BitVec.getLsbD_append]; rfl)
theorem Length.bfx : ∀ a0 a1 a2, Length.Statement (.bfx a0 a1 a2) := fun _ _ _ => Length.of_word rfl (by simp only [BitVec.getLsbD_append]; rfl)
theorem Length.bfxu : ∀ a0 a1 a2, Length.Statement (.bfxu a0 a1 a2) := fun _ _ _ => Length.of_word rfl (by simp only [BitVec.getLsbD_append]; rfl)
theorem Length.bfi : ∀ a0 a1 a2, Length.Statement (.bfi a0 a1 a2) := fun _ _ _ => Length.of_word rfl (by simp only [BitVec.getLsbD_append]; rfl)
theorem Length.ptag : ∀ a0 a1 a2 a3, Length.Statement (.ptag a0 a1 a2 a3) := fun _ _ _ _ => Length.of_word rfl (by simp only [BitVec.getLsbD_append]; rfl)
theorem Length.padd : ∀ a0 a1 a2, Length.Statement (.padd a0 a1 a2) := fun _ _ _ => Length.of_word rfl (by simp only [BitVec.getLsbD_append]; rfl)
theorem Length.pchk : ∀ a0 a1, Length.Statement (.pchk a0 a1) := fun _ _ => Length.of_word rfl (by simp only [BitVec.getLsbD_append]; rfl)
theorem Length.fadd : ∀ a0 a1 a2 a3, Length.Statement (.fadd a0 a1 a2 a3) := fun _ _ _ _ => Length.of_word rfl (by simp only [BitVec.getLsbD_append]; rfl)
theorem Length.fsub : ∀ a0 a1 a2 a3, Length.Statement (.fsub a0 a1 a2 a3) := fun _ _ _ _ => Length.of_word rfl (by simp only [BitVec.getLsbD_append]; rfl)
theorem Length.fmul : ∀ a0 a1 a2 a3, Length.Statement (.fmul a0 a1 a2 a3) := fun _ _ _ _ => Length.of_word rfl (by simp only [BitVec.getLsbD_append]; rfl)
theorem Length.fdiv : ∀ a0 a1 a2 a3, Length.Statement (.fdiv a0 a1 a2 a3) := fun _ _ _ _ => Length.of_word rfl (by simp only [BitVec.getLsbD_append]; rfl)
theorem Length.fsqrt : ∀ a0 a1 a2, Length.Statement (.fsqrt a0 a1 a2) := fun _ _ _ => Length.of_word rfl (by simp only [BitVec.getLsbD_append]; rfl)
theorem Length.fmin : ∀ a0 a1 a2 a3, Length.Statement (.fmin a0 a1 a2 a3) := fun _ _ _ _ => Length.of_word rfl (by simp only [BitVec.getLsbD_append]; rfl)
theorem Length.fmax : ∀ a0 a1 a2 a3, Length.Statement (.fmax a0 a1 a2 a3) := fun _ _ _ _ => Length.of_word rfl (by simp only [BitVec.getLsbD_append]; rfl)
theorem Length.fma : ∀ a0 a1 a2 a3, Length.Statement (.fma a0 a1 a2 a3) := fun _ _ _ _ => Length.of_word rfl (by simp only [BitVec.getLsbD_append]; rfl)
theorem Length.feq : ∀ a0 a1 a2 a3, Length.Statement (.feq a0 a1 a2 a3) := fun _ _ _ _ => Length.of_word rfl (by simp only [BitVec.getLsbD_append]; rfl)
theorem Length.flt : ∀ a0 a1 a2 a3, Length.Statement (.flt a0 a1 a2 a3) := fun _ _ _ _ => Length.of_word rfl (by simp only [BitVec.getLsbD_append]; rfl)
theorem Length.fle : ∀ a0 a1 a2 a3, Length.Statement (.fle a0 a1 a2 a3) := fun _ _ _ _ => Length.of_word rfl (by simp only [BitVec.getLsbD_append]; rfl)
theorem Length.fclass : ∀ a0 a1 a2, Length.Statement (.fclass a0 a1 a2) := fun _ _ _ => Length.of_word rfl (by simp only [BitVec.getLsbD_append]; rfl)
theorem Length.ftoi : ∀ a0 a1 a2, Length.Statement (.ftoi a0 a1 a2) := fun _ _ _ => Length.of_word rfl (by simp only [BitVec.getLsbD_append]; rfl)
theorem Length.ftoiu : ∀ a0 a1 a2, Length.Statement (.ftoiu a0 a1 a2) := fun _ _ _ => Length.of_word rfl (by simp only [BitVec.getLsbD_append]; rfl)
theorem Length.itof : ∀ a0 a1 a2, Length.Statement (.itof a0 a1 a2) := fun _ _ _ => Length.of_word rfl (by simp only [BitVec.getLsbD_append]; rfl)
theorem Length.iutof : ∀ a0 a1 a2, Length.Statement (.iutof a0 a1 a2) := fun _ _ _ => Length.of_word rfl (by simp only [BitVec.getLsbD_append]; rfl)
theorem Length.ftof : ∀ a0 a1 a2, Length.Statement (.ftof a0 a1 a2) := fun _ _ _ => Length.of_word rfl (by simp only [BitVec.getLsbD_append]; rfl)
theorem Length.beq : ∀ a0 a1 a2, Length.Statement (.beq a0 a1 a2) := fun _ _ _ => Length.of_word rfl (by simp only [BitVec.getLsbD_append]; rfl)
theorem Length.bne : ∀ a0 a1 a2, Length.Statement (.bne a0 a1 a2) := fun _ _ _ => Length.of_word rfl (by simp only [BitVec.getLsbD_append]; rfl)
theorem Length.blt : ∀ a0 a1 a2, Length.Statement (.blt a0 a1 a2) := fun _ _ _ => Length.of_word rfl (by simp only [BitVec.getLsbD_append]; rfl)
theorem Length.bge : ∀ a0 a1 a2, Length.Statement (.bge a0 a1 a2) := fun _ _ _ => Length.of_word rfl (by simp only [BitVec.getLsbD_append]; rfl)
theorem Length.bltu : ∀ a0 a1 a2, Length.Statement (.bltu a0 a1 a2) := fun _ _ _ => Length.of_word rfl (by simp only [BitVec.getLsbD_append]; rfl)
theorem Length.bgeu : ∀ a0 a1 a2, Length.Statement (.bgeu a0 a1 a2) := fun _ _ _ => Length.of_word rfl (by simp only [BitVec.getLsbD_append]; rfl)
theorem Length.jal : ∀ a0 a1, Length.Statement (.jal a0 a1) := fun _ _ => Length.of_word rfl (by simp only [BitVec.getLsbD_append]; rfl)
theorem Length.jalr : ∀ a0 a1 a2, Length.Statement (.jalr a0 a1 a2) := fun _ _ _ => Length.of_word rfl (by simp only [BitVec.getLsbD_append]; rfl)
theorem Length.loop : ∀ a0 a1, Length.Statement (.loop a0 a1) := fun _ _ => Length.of_word rfl (by simp only [BitVec.getLsbD_append]; rfl)
theorem Length.loopi : ∀ a0 a1, Length.Statement (.loopi a0 a1) := fun _ _ => Length.of_word rfl (by simp only [BitVec.getLsbD_append]; rfl)
theorem Length.endTask : Length.Statement (.endTask) := Length.of_word rfl rfl
theorem Length.yield : Length.Statement (.yield) := Length.of_word rfl rfl
theorem Length.done : ∀ a0, Length.Statement (.done a0) := fun _ => Length.of_word rfl (by simp only [BitVec.getLsbD_append]; rfl)
theorem Length.nop : Length.Statement (.nop) := Length.of_word rfl rfl
theorem Length.end16 : Length.Statement (.end16) := Length.of_half rfl rfl
theorem Length.yield16 : Length.Statement (.yield16) := Length.of_half rfl rfl
theorem Length.nop16 : Length.Statement (.nop16) := Length.of_half rfl rfl
theorem Length.mv16 : ∀ a0 a1, Length.Statement (.mv16 a0 a1) := fun _ _ => Length.of_half rfl (by simp only [BitVec.getLsbD_append]; rfl)
theorem Length.li16 : ∀ a0 a1, Length.Statement (.li16 a0 a1) := fun _ _ => Length.of_half rfl (by simp only [BitVec.getLsbD_append]; rfl)
theorem Length.addi16 : ∀ a0 a1, Length.Statement (.addi16 a0 a1) := fun _ _ => Length.of_half rfl (by simp only [BitVec.getLsbD_append]; rfl)
theorem Length.add16 : ∀ a0 a1, Length.Statement (.add16 a0 a1) := fun _ _ => Length.of_half rfl (by simp only [BitVec.getLsbD_append]; rfl)
theorem Length.sub16 : ∀ a0 a1, Length.Statement (.sub16 a0 a1) := fun _ _ => Length.of_half rfl (by simp only [BitVec.getLsbD_append]; rfl)
theorem Length.and16 : ∀ a0 a1, Length.Statement (.and16 a0 a1) := fun _ _ => Length.of_half rfl (by simp only [BitVec.getLsbD_append]; rfl)
theorem Length.andi16 : ∀ a0 a1, Length.Statement (.andi16 a0 a1) := fun _ _ => Length.of_half rfl (by simp only [BitVec.getLsbD_append]; rfl)
theorem Length.slli16 : ∀ a0 a1, Length.Statement (.slli16 a0 a1) := fun _ _ => Length.of_half rfl (by simp only [BitVec.getLsbD_append]; rfl)
theorem Length.srli16 : ∀ a0 a1, Length.Statement (.srli16 a0 a1) := fun _ _ => Length.of_half rfl (by simp only [BitVec.getLsbD_append]; rfl)
theorem Length.srai16 : ∀ a0 a1, Length.Statement (.srai16 a0 a1) := fun _ _ => Length.of_half rfl (by simp only [BitVec.getLsbD_append]; rfl)
theorem Length.ldD16 : ∀ a0 a1 a2, Length.Statement (.ldD16 a0 a1 a2) := fun _ _ _ => Length.of_half rfl (by simp only [BitVec.getLsbD_append]; rfl)
theorem Length.stD16 : ∀ a0 a1 a2, Length.Statement (.stD16 a0 a1 a2) := fun _ _ _ => Length.of_half rfl (by simp only [BitVec.getLsbD_append]; rfl)
theorem Length.beqz16 : ∀ a0 a1, Length.Statement (.beqz16 a0 a1) := fun _ _ => Length.of_half rfl (by simp only [BitVec.getLsbD_append]; rfl)
theorem Length.bnez16 : ∀ a0 a1, Length.Statement (.bnez16 a0 a1) := fun _ _ => Length.of_half rfl (by simp only [BitVec.getLsbD_append]; rfl)
theorem Length.j16 : ∀ a0, Length.Statement (.j16 a0) := fun _ => Length.of_half rfl (by simp only [BitVec.getLsbD_append]; rfl)
theorem Length.ldB : ∀ a0 a1 a2, Length.Statement (.ldB a0 a1 a2) := fun _ _ _ => Length.of_word rfl (by simp only [BitVec.getLsbD_append]; rfl)
theorem Length.ldH : ∀ a0 a1 a2, Length.Statement (.ldH a0 a1 a2) := fun _ _ _ => Length.of_word rfl (by simp only [BitVec.getLsbD_append]; rfl)
theorem Length.ldW : ∀ a0 a1 a2, Length.Statement (.ldW a0 a1 a2) := fun _ _ _ => Length.of_word rfl (by simp only [BitVec.getLsbD_append]; rfl)
theorem Length.ldD : ∀ a0 a1 a2, Length.Statement (.ldD a0 a1 a2) := fun _ _ _ => Length.of_word rfl (by simp only [BitVec.getLsbD_append]; rfl)
theorem Length.ldBu : ∀ a0 a1 a2, Length.Statement (.ldBu a0 a1 a2) := fun _ _ _ => Length.of_word rfl (by simp only [BitVec.getLsbD_append]; rfl)
theorem Length.ldHu : ∀ a0 a1 a2, Length.Statement (.ldHu a0 a1 a2) := fun _ _ _ => Length.of_word rfl (by simp only [BitVec.getLsbD_append]; rfl)
theorem Length.ldWu : ∀ a0 a1 a2, Length.Statement (.ldWu a0 a1 a2) := fun _ _ _ => Length.of_word rfl (by simp only [BitVec.getLsbD_append]; rfl)
theorem Length.stB : ∀ a0 a1 a2, Length.Statement (.stB a0 a1 a2) := fun _ _ _ => Length.of_word rfl (by simp only [BitVec.getLsbD_append]; rfl)
theorem Length.stH : ∀ a0 a1 a2, Length.Statement (.stH a0 a1 a2) := fun _ _ _ => Length.of_word rfl (by simp only [BitVec.getLsbD_append]; rfl)
theorem Length.stW : ∀ a0 a1 a2, Length.Statement (.stW a0 a1 a2) := fun _ _ _ => Length.of_word rfl (by simp only [BitVec.getLsbD_append]; rfl)
theorem Length.stD : ∀ a0 a1 a2, Length.Statement (.stD a0 a1 a2) := fun _ _ _ => Length.of_word rfl (by simp only [BitVec.getLsbD_append]; rfl)
theorem Length.ldAcq : ∀ a0 a1 a2 a3, Length.Statement (.ldAcq a0 a1 a2 a3) := fun _ _ _ _ => Length.of_word rfl (by simp only [BitVec.getLsbD_append]; rfl)
theorem Length.stRel : ∀ a0 a1 a2 a3, Length.Statement (.stRel a0 a1 a2 a3) := fun _ _ _ _ => Length.of_word rfl (by simp only [BitVec.getLsbD_append]; rfl)
theorem Length.fence : ∀ a0 a1, Length.Statement (.fence a0 a1) := fun _ _ => Length.of_word rfl (by simp only [BitVec.getLsbD_append]; rfl)
theorem Length.pref : ∀ a0 a1, Length.Statement (.pref a0 a1) := fun _ _ => Length.of_word rfl (by simp only [BitVec.getLsbD_append]; rfl)
theorem Length.ifence : Length.Statement (.ifence) := Length.of_word rfl rfl
theorem Length.vld : ∀ a0 a1 a2 a3, Length.Statement (.vld a0 a1 a2 a3) := fun _ _ _ _ => Length.of_word rfl (by simp only [BitVec.getLsbD_append]; rfl)
theorem Length.vst : ∀ a0 a1 a2 a3, Length.Statement (.vst a0 a1 a2 a3) := fun _ _ _ _ => Length.of_word rfl (by simp only [BitVec.getLsbD_append]; rfl)
theorem Length.vlds : ∀ a0 a1 a2 a3 a4, Length.Statement (.vlds a0 a1 a2 a3 a4) := fun _ _ _ _ _ => Length.of_word rfl (by simp only [BitVec.getLsbD_append]; rfl)
theorem Length.vsts : ∀ a0 a1 a2 a3 a4, Length.Statement (.vsts a0 a1 a2 a3 a4) := fun _ _ _ _ _ => Length.of_word rfl (by simp only [BitVec.getLsbD_append]; rfl)
theorem Length.vldg : ∀ a0 a1 a2 a3 a4, Length.Statement (.vldg a0 a1 a2 a3 a4) := fun _ _ _ _ _ => Length.of_word rfl (by simp only [BitVec.getLsbD_append]; rfl)
theorem Length.vstg : ∀ a0 a1 a2 a3 a4, Length.Statement (.vstg a0 a1 a2 a3 a4) := fun _ _ _ _ _ => Length.of_word rfl (by simp only [BitVec.getLsbD_append]; rfl)
theorem Length.vldt : ∀ a0 a1 a2 a3 a4, Length.Statement (.vldt a0 a1 a2 a3 a4) := fun _ _ _ _ _ => Length.of_word rfl (by simp only [BitVec.getLsbD_append]; rfl)
theorem Length.vstt : ∀ a0 a1 a2 a3 a4, Length.Statement (.vstt a0 a1 a2 a3 a4) := fun _ _ _ _ _ => Length.of_word rfl (by simp only [BitVec.getLsbD_append]; rfl)
theorem Length.vldf : ∀ a0 a1 a2 a3 a4, Length.Statement (.vldf a0 a1 a2 a3 a4) := fun _ _ _ _ _ => Length.of_word rfl (by simp only [BitVec.getLsbD_append]; rfl)
theorem Length.vstf : ∀ a0 a1 a2 a3 a4, Length.Statement (.vstf a0 a1 a2 a3 a4) := fun _ _ _ _ _ => Length.of_word rfl (by simp only [BitVec.getLsbD_append]; rfl)
theorem Length.amoaddW : ∀ a0 a1 a2 a3 a4, Length.Statement (.amoaddW a0 a1 a2 a3 a4) := fun _ _ _ _ _ => Length.of_word rfl (by simp only [BitVec.getLsbD_append]; rfl)
theorem Length.amoaddD : ∀ a0 a1 a2 a3 a4, Length.Statement (.amoaddD a0 a1 a2 a3 a4) := fun _ _ _ _ _ => Length.of_word rfl (by simp only [BitVec.getLsbD_append]; rfl)
theorem Length.amoandD : ∀ a0 a1 a2 a3 a4, Length.Statement (.amoandD a0 a1 a2 a3 a4) := fun _ _ _ _ _ => Length.of_word rfl (by simp only [BitVec.getLsbD_append]; rfl)
theorem Length.amoorD : ∀ a0 a1 a2 a3 a4, Length.Statement (.amoorD a0 a1 a2 a3 a4) := fun _ _ _ _ _ => Length.of_word rfl (by simp only [BitVec.getLsbD_append]; rfl)
theorem Length.amoxorD : ∀ a0 a1 a2 a3 a4, Length.Statement (.amoxorD a0 a1 a2 a3 a4) := fun _ _ _ _ _ => Length.of_word rfl (by simp only [BitVec.getLsbD_append]; rfl)
theorem Length.amominD : ∀ a0 a1 a2 a3 a4, Length.Statement (.amominD a0 a1 a2 a3 a4) := fun _ _ _ _ _ => Length.of_word rfl (by simp only [BitVec.getLsbD_append]; rfl)
theorem Length.amomaxD : ∀ a0 a1 a2 a3 a4, Length.Statement (.amomaxD a0 a1 a2 a3 a4) := fun _ _ _ _ _ => Length.of_word rfl (by simp only [BitVec.getLsbD_append]; rfl)
theorem Length.amominuD : ∀ a0 a1 a2 a3 a4, Length.Statement (.amominuD a0 a1 a2 a3 a4) := fun _ _ _ _ _ => Length.of_word rfl (by simp only [BitVec.getLsbD_append]; rfl)
theorem Length.amomaxuD : ∀ a0 a1 a2 a3 a4, Length.Statement (.amomaxuD a0 a1 a2 a3 a4) := fun _ _ _ _ _ => Length.of_word rfl (by simp only [BitVec.getLsbD_append]; rfl)
theorem Length.amoswapW : ∀ a0 a1 a2 a3 a4, Length.Statement (.amoswapW a0 a1 a2 a3 a4) := fun _ _ _ _ _ => Length.of_word rfl (by simp only [BitVec.getLsbD_append]; rfl)
theorem Length.amoswapD : ∀ a0 a1 a2 a3 a4, Length.Statement (.amoswapD a0 a1 a2 a3 a4) := fun _ _ _ _ _ => Length.of_word rfl (by simp only [BitVec.getLsbD_append]; rfl)
theorem Length.amocasW : ∀ a0 a1 a2 a3 a4, Length.Statement (.amocasW a0 a1 a2 a3 a4) := fun _ _ _ _ _ => Length.of_word rfl (by simp only [BitVec.getLsbD_append]; rfl)
theorem Length.amocasD : ∀ a0 a1 a2 a3 a4, Length.Statement (.amocasD a0 a1 a2 a3 a4) := fun _ _ _ _ _ => Length.of_word rfl (by simp only [BitVec.getLsbD_append]; rfl)
theorem Length.amocas2Q : ∀ a0 a1 a2 a3 a4, Length.Statement (.amocas2Q a0 a1 a2 a3 a4) := fun _ _ _ _ _ => Length.of_word rfl (by simp only [BitVec.getLsbD_append]; rfl)
theorem Length.famoaddF32 : ∀ a0 a1 a2 a3 a4, Length.Statement (.famoaddF32 a0 a1 a2 a3 a4) := fun _ _ _ _ _ => Length.of_word rfl (by simp only [BitVec.getLsbD_append]; rfl)
theorem Length.redadd : ∀ a0 a1 a2 a3 a4, Length.Statement (.redadd a0 a1 a2 a3 a4) := fun _ _ _ _ _ => Length.of_word rfl (by simp only [BitVec.getLsbD_append]; rfl)
theorem Length.redand : ∀ a0 a1 a2 a3 a4, Length.Statement (.redand a0 a1 a2 a3 a4) := fun _ _ _ _ _ => Length.of_word rfl (by simp only [BitVec.getLsbD_append]; rfl)
theorem Length.redor : ∀ a0 a1 a2 a3 a4, Length.Statement (.redor a0 a1 a2 a3 a4) := fun _ _ _ _ _ => Length.of_word rfl (by simp only [BitVec.getLsbD_append]; rfl)
theorem Length.redxor : ∀ a0 a1 a2 a3 a4, Length.Statement (.redxor a0 a1 a2 a3 a4) := fun _ _ _ _ _ => Length.of_word rfl (by simp only [BitVec.getLsbD_append]; rfl)
theorem Length.redmin : ∀ a0 a1 a2 a3 a4, Length.Statement (.redmin a0 a1 a2 a3 a4) := fun _ _ _ _ _ => Length.of_word rfl (by simp only [BitVec.getLsbD_append]; rfl)
theorem Length.redmax : ∀ a0 a1 a2 a3 a4, Length.Statement (.redmax a0 a1 a2 a3 a4) := fun _ _ _ _ _ => Length.of_word rfl (by simp only [BitVec.getLsbD_append]; rfl)
theorem Length.redminu : ∀ a0 a1 a2 a3 a4, Length.Statement (.redminu a0 a1 a2 a3 a4) := fun _ _ _ _ _ => Length.of_word rfl (by simp only [BitVec.getLsbD_append]; rfl)
theorem Length.redmaxu : ∀ a0 a1 a2 a3 a4, Length.Statement (.redmaxu a0 a1 a2 a3 a4) := fun _ _ _ _ _ => Length.of_word rfl (by simp only [BitVec.getLsbD_append]; rfl)
theorem Length.waita : ∀ a0 a1 a2 a3 a4, Length.Statement (.waita a0 a1 a2 a3 a4) := fun _ _ _ _ _ => Length.of_word rfl (by simp only [BitVec.getLsbD_append]; rfl)
theorem Length.bar : ∀ a0, Length.Statement (.bar a0) := fun _ => Length.of_word rfl (by simp only [BitVec.getLsbD_append]; rfl)
theorem Length.bara : ∀ a0, Length.Statement (.bara a0) := fun _ => Length.of_word rfl (by simp only [BitVec.getLsbD_append]; rfl)
theorem Length.barw : ∀ a0, Length.Statement (.barw a0) := fun _ => Length.of_word rfl (by simp only [BitVec.getLsbD_append]; rfl)
theorem Length.vredg : ∀ a0 a1 a2 a3 a4, Length.Statement (.vredg a0 a1 a2 a3 a4) := fun _ _ _ _ _ => Length.of_word rfl (by simp only [BitVec.getLsbD_append]; rfl)
theorem Length.send : ∀ a0, Length.Statement (.send a0) := fun _ => Length.of_word rfl (by simp only [BitVec.getLsbD_append]; rfl)
theorem Length.spawn : ∀ a0, Length.Statement (.spawn a0) := fun _ => Length.of_word rfl (by simp only [BitVec.getLsbD_append]; rfl)
theorem Length.flush : Length.Statement (.flush) := Length.of_word rfl rfl
theorem Length.clsen : ∀ a0, Length.Statement (.clsen a0) := fun _ => Length.of_word rfl (by simp only [BitVec.getLsbD_append]; rfl)
theorem Length.clsdis : ∀ a0, Length.Statement (.clsdis a0) := fun _ => Length.of_word rfl (by simp only [BitVec.getLsbD_append]; rfl)
theorem Length.clspend : ∀ a0, Length.Statement (.clspend a0) := fun _ => Length.of_word rfl (by simp only [BitVec.getLsbD_append]; rfl)
theorem Length.qpush : ∀ a0 a1 a2, Length.Statement (.qpush a0 a1 a2) := fun _ _ _ => Length.of_word rfl (by simp only [BitVec.getLsbD_append]; rfl)
theorem Length.qpop : ∀ a0 a1 a2 a3, Length.Statement (.qpop a0 a1 a2 a3) := fun _ _ _ _ => Length.of_word rfl (by simp only [BitVec.getLsbD_append]; rfl)
theorem Length.qeos : ∀ a0 a1, Length.Statement (.qeos a0 a1) := fun _ _ => Length.of_word rfl (by simp only [BitVec.getLsbD_append]; rfl)
theorem Length.launch : ∀ a0, Length.Statement (.launch a0) := fun _ => Length.of_word rfl (by simp only [BitVec.getLsbD_append]; rfl)
theorem Length.depset : ∀ a0 a1 a2 a3, Length.Statement (.depset a0 a1 a2 a3) := fun _ _ _ _ => Length.of_word rfl (by simp only [BitVec.getLsbD_append]; rfl)
theorem Length.depdec : ∀ a0, Length.Statement (.depdec a0) := fun _ => Length.of_word rfl (by simp only [BitVec.getLsbD_append]; rfl)
theorem Length.signal : ∀ a0 a1 a2, Length.Statement (.signal a0 a1 a2) := fun _ _ _ => Length.of_word rfl (by simp only [BitVec.getLsbD_append]; rfl)
theorem Length.enq : ∀ a0, Length.Statement (.enq a0) := fun _ => Length.of_word rfl (by simp only [BitVec.getLsbD_append]; rfl)
theorem Length.deq : ∀ a0 a1, Length.Statement (.deq a0 a1) := fun _ _ => Length.of_word rfl (by simp only [BitVec.getLsbD_append]; rfl)
theorem Length.epoll : ∀ a0 a1, Length.Statement (.epoll a0 a1) := fun _ _ => Length.of_word rfl (by simp only [BitVec.getLsbD_append]; rfl)
theorem Length.furl : ∀ a0 a1 a2 a3, Length.Statement (.furl a0 a1 a2 a3) := fun _ _ _ _ => Length.of_word rfl (by simp only [BitVec.getLsbD_append]; rfl)
theorem Length.unfurl : ∀ a0 a1 a2, Length.Statement (.unfurl a0 a1 a2) := fun _ _ _ => Length.of_word rfl (by simp only [BitVec.getLsbD_append]; rfl)
theorem Length.fpeek : ∀ a0 a1, Length.Statement (.fpeek a0 a1) := fun _ _ => Length.of_word rfl (by simp only [BitVec.getLsbD_append]; rfl)
theorem Length.ftag : ∀ a0 a1, Length.Statement (.ftag a0 a1) := fun _ _ => Length.of_word rfl (by simp only [BitVec.getLsbD_append]; rfl)
theorem Length.fcancel : ∀ a0 a1, Length.Statement (.fcancel a0 a1) := fun _ _ => Length.of_word rfl (by simp only [BitVec.getLsbD_append]; rfl)
theorem Length.spop : ∀ a0, Length.Statement (.spop a0) := fun _ => Length.of_word rfl (by simp only [BitVec.getLsbD_append]; rfl)
theorem Length.spush : ∀ a0 a1, Length.Statement (.spush a0 a1) := fun _ _ => Length.of_word rfl (by simp only [BitVec.getLsbD_append]; rfl)
theorem Length.salloc : ∀ a0, Length.Statement (.salloc a0) := fun _ => Length.of_word rfl (by simp only [BitVec.getLsbD_append]; rfl)
theorem Length.sfree : ∀ a0, Length.Statement (.sfree a0) := fun _ => Length.of_word rfl (by simp only [BitVec.getLsbD_append]; rfl)
theorem Length.slink : ∀ a0 a1 a2, Length.Statement (.slink a0 a1 a2) := fun _ _ _ => Length.of_word rfl (by simp only [BitVec.getLsbD_append]; rfl)
theorem Length.sread : ∀ a0 a1, Length.Statement (.sread a0 a1) := fun _ _ => Length.of_word rfl (by simp only [BitVec.getLsbD_append]; rfl)
theorem Length.vadd : ∀ a0 a1 a2 a3 a4, Length.Statement (.vadd a0 a1 a2 a3 a4) := fun _ _ _ _ _ => Length.of_word rfl (by simp only [BitVec.getLsbD_append]; rfl)
theorem Length.vsub : ∀ a0 a1 a2 a3 a4, Length.Statement (.vsub a0 a1 a2 a3 a4) := fun _ _ _ _ _ => Length.of_word rfl (by simp only [BitVec.getLsbD_append]; rfl)
theorem Length.vaddSat : ∀ a0 a1 a2 a3 a4, Length.Statement (.vaddSat a0 a1 a2 a3 a4) := fun _ _ _ _ _ => Length.of_word rfl (by simp only [BitVec.getLsbD_append]; rfl)
theorem Length.vsubSat : ∀ a0 a1 a2 a3 a4, Length.Statement (.vsubSat a0 a1 a2 a3 a4) := fun _ _ _ _ _ => Length.of_word rfl (by simp only [BitVec.getLsbD_append]; rfl)
theorem Length.vadduSat : ∀ a0 a1 a2 a3 a4, Length.Statement (.vadduSat a0 a1 a2 a3 a4) := fun _ _ _ _ _ => Length.of_word rfl (by simp only [BitVec.getLsbD_append]; rfl)
theorem Length.vsubuSat : ∀ a0 a1 a2 a3 a4, Length.Statement (.vsubuSat a0 a1 a2 a3 a4) := fun _ _ _ _ _ => Length.of_word rfl (by simp only [BitVec.getLsbD_append]; rfl)
theorem Length.vmul : ∀ a0 a1 a2 a3 a4, Length.Statement (.vmul a0 a1 a2 a3 a4) := fun _ _ _ _ _ => Length.of_word rfl (by simp only [BitVec.getLsbD_append]; rfl)
theorem Length.vmulh : ∀ a0 a1 a2 a3 a4, Length.Statement (.vmulh a0 a1 a2 a3 a4) := fun _ _ _ _ _ => Length.of_word rfl (by simp only [BitVec.getLsbD_append]; rfl)
theorem Length.vmulhu : ∀ a0 a1 a2 a3 a4, Length.Statement (.vmulhu a0 a1 a2 a3 a4) := fun _ _ _ _ _ => Length.of_word rfl (by simp only [BitVec.getLsbD_append]; rfl)
theorem Length.vmin : ∀ a0 a1 a2 a3 a4, Length.Statement (.vmin a0 a1 a2 a3 a4) := fun _ _ _ _ _ => Length.of_word rfl (by simp only [BitVec.getLsbD_append]; rfl)
theorem Length.vmax : ∀ a0 a1 a2 a3 a4, Length.Statement (.vmax a0 a1 a2 a3 a4) := fun _ _ _ _ _ => Length.of_word rfl (by simp only [BitVec.getLsbD_append]; rfl)
theorem Length.vminu : ∀ a0 a1 a2 a3 a4, Length.Statement (.vminu a0 a1 a2 a3 a4) := fun _ _ _ _ _ => Length.of_word rfl (by simp only [BitVec.getLsbD_append]; rfl)
theorem Length.vmaxu : ∀ a0 a1 a2 a3 a4, Length.Statement (.vmaxu a0 a1 a2 a3 a4) := fun _ _ _ _ _ => Length.of_word rfl (by simp only [BitVec.getLsbD_append]; rfl)
theorem Length.vabs : ∀ a0 a1 a2 a3, Length.Statement (.vabs a0 a1 a2 a3) := fun _ _ _ _ => Length.of_word rfl (by simp only [BitVec.getLsbD_append]; rfl)
theorem Length.vand : ∀ a0 a1 a2 a3 a4, Length.Statement (.vand a0 a1 a2 a3 a4) := fun _ _ _ _ _ => Length.of_word rfl (by simp only [BitVec.getLsbD_append]; rfl)
theorem Length.vor : ∀ a0 a1 a2 a3 a4, Length.Statement (.vor a0 a1 a2 a3 a4) := fun _ _ _ _ _ => Length.of_word rfl (by simp only [BitVec.getLsbD_append]; rfl)
theorem Length.vxor : ∀ a0 a1 a2 a3 a4, Length.Statement (.vxor a0 a1 a2 a3 a4) := fun _ _ _ _ _ => Length.of_word rfl (by simp only [BitVec.getLsbD_append]; rfl)
theorem Length.vandn : ∀ a0 a1 a2 a3 a4, Length.Statement (.vandn a0 a1 a2 a3 a4) := fun _ _ _ _ _ => Length.of_word rfl (by simp only [BitVec.getLsbD_append]; rfl)
theorem Length.vnot : ∀ a0 a1 a2 a3, Length.Statement (.vnot a0 a1 a2 a3) := fun _ _ _ _ => Length.of_word rfl (by simp only [BitVec.getLsbD_append]; rfl)
theorem Length.vsll : ∀ a0 a1 a2 a3 a4, Length.Statement (.vsll a0 a1 a2 a3 a4) := fun _ _ _ _ _ => Length.of_word rfl (by simp only [BitVec.getLsbD_append]; rfl)
theorem Length.vsrl : ∀ a0 a1 a2 a3 a4, Length.Statement (.vsrl a0 a1 a2 a3 a4) := fun _ _ _ _ _ => Length.of_word rfl (by simp only [BitVec.getLsbD_append]; rfl)
theorem Length.vsra : ∀ a0 a1 a2 a3 a4, Length.Statement (.vsra a0 a1 a2 a3 a4) := fun _ _ _ _ _ => Length.of_word rfl (by simp only [BitVec.getLsbD_append]; rfl)
theorem Length.vsel : ∀ a0 a1 a2 a3 a4, Length.Statement (.vsel a0 a1 a2 a3 a4) := fun _ _ _ _ _ => Length.of_word rfl (by simp only [BitVec.getLsbD_append]; rfl)
theorem Length.vceq : ∀ a0 a1 a2 a3 a4, Length.Statement (.vceq a0 a1 a2 a3 a4) := fun _ _ _ _ _ => Length.of_word rfl (by simp only [BitVec.getLsbD_append]; rfl)
theorem Length.vcne : ∀ a0 a1 a2 a3 a4, Length.Statement (.vcne a0 a1 a2 a3 a4) := fun _ _ _ _ _ => Length.of_word rfl (by simp only [BitVec.getLsbD_append]; rfl)
theorem Length.vclt : ∀ a0 a1 a2 a3 a4, Length.Statement (.vclt a0 a1 a2 a3 a4) := fun _ _ _ _ _ => Length.of_word rfl (by simp only [BitVec.getLsbD_append]; rfl)
theorem Length.vcle : ∀ a0 a1 a2 a3 a4, Length.Statement (.vcle a0 a1 a2 a3 a4) := fun _ _ _ _ _ => Length.of_word rfl (by simp only [BitVec.getLsbD_append]; rfl)
theorem Length.vcltu : ∀ a0 a1 a2 a3 a4, Length.Statement (.vcltu a0 a1 a2 a3 a4) := fun _ _ _ _ _ => Length.of_word rfl (by simp only [BitVec.getLsbD_append]; rfl)
theorem Length.vcleu : ∀ a0 a1 a2 a3 a4, Length.Statement (.vcleu a0 a1 a2 a3 a4) := fun _ _ _ _ _ => Length.of_word rfl (by simp only [BitVec.getLsbD_append]; rfl)
theorem Length.vfceq : ∀ a0 a1 a2 a3 a4, Length.Statement (.vfceq a0 a1 a2 a3 a4) := fun _ _ _ _ _ => Length.of_word rfl (by simp only [BitVec.getLsbD_append]; rfl)
theorem Length.vfclt : ∀ a0 a1 a2 a3 a4, Length.Statement (.vfclt a0 a1 a2 a3 a4) := fun _ _ _ _ _ => Length.of_word rfl (by simp only [BitVec.getLsbD_append]; rfl)
theorem Length.vfcle : ∀ a0 a1 a2 a3 a4, Length.Statement (.vfcle a0 a1 a2 a3 a4) := fun _ _ _ _ _ => Length.of_word rfl (by simp only [BitVec.getLsbD_append]; rfl)
theorem Length.vfcun : ∀ a0 a1 a2 a3 a4, Length.Statement (.vfcun a0 a1 a2 a3 a4) := fun _ _ _ _ _ => Length.of_word rfl (by simp only [BitVec.getLsbD_append]; rfl)
theorem Length.vfadd : ∀ a0 a1 a2 a3 a4, Length.Statement (.vfadd a0 a1 a2 a3 a4) := fun _ _ _ _ _ => Length.of_word rfl (by simp only [BitVec.getLsbD_append]; rfl)
theorem Length.vfsub : ∀ a0 a1 a2 a3 a4, Length.Statement (.vfsub a0 a1 a2 a3 a4) := fun _ _ _ _ _ => Length.of_word rfl (by simp only [BitVec.getLsbD_append]; rfl)
theorem Length.vfmul : ∀ a0 a1 a2 a3 a4, Length.Statement (.vfmul a0 a1 a2 a3 a4) := fun _ _ _ _ _ => Length.of_word rfl (by simp only [BitVec.getLsbD_append]; rfl)
theorem Length.vfma : ∀ a0 a1 a2 a3 a4, Length.Statement (.vfma a0 a1 a2 a3 a4) := fun _ _ _ _ _ => Length.of_word rfl (by simp only [BitVec.getLsbD_append]; rfl)
theorem Length.vfnma : ∀ a0 a1 a2 a3 a4, Length.Statement (.vfnma a0 a1 a2 a3 a4) := fun _ _ _ _ _ => Length.of_word rfl (by simp only [BitVec.getLsbD_append]; rfl)
theorem Length.vfmin : ∀ a0 a1 a2 a3 a4, Length.Statement (.vfmin a0 a1 a2 a3 a4) := fun _ _ _ _ _ => Length.of_word rfl (by simp only [BitVec.getLsbD_append]; rfl)
theorem Length.vfmax : ∀ a0 a1 a2 a3 a4, Length.Statement (.vfmax a0 a1 a2 a3 a4) := fun _ _ _ _ _ => Length.of_word rfl (by simp only [BitVec.getLsbD_append]; rfl)
theorem Length.vfabs : ∀ a0 a1 a2 a3, Length.Statement (.vfabs a0 a1 a2 a3) := fun _ _ _ _ => Length.of_word rfl (by simp only [BitVec.getLsbD_append]; rfl)
theorem Length.vfneg : ∀ a0 a1 a2 a3, Length.Statement (.vfneg a0 a1 a2 a3) := fun _ _ _ _ => Length.of_word rfl (by simp only [BitVec.getLsbD_append]; rfl)
theorem Length.vfrcpe : ∀ a0 a1 a2 a3, Length.Statement (.vfrcpe a0 a1 a2 a3) := fun _ _ _ _ => Length.of_word rfl (by simp only [BitVec.getLsbD_append]; rfl)
theorem Length.vfrsqrte : ∀ a0 a1 a2 a3, Length.Statement (.vfrsqrte a0 a1 a2 a3) := fun _ _ _ _ => Length.of_word rfl (by simp only [BitVec.getLsbD_append]; rfl)
theorem Length.vfclass : ∀ a0 a1 a2 a3, Length.Statement (.vfclass a0 a1 a2 a3) := fun _ _ _ _ => Length.of_word rfl (by simp only [BitVec.getLsbD_append]; rfl)
theorem Length.vperm : ∀ a0 a1 a2 a3 a4, Length.Statement (.vperm a0 a1 a2 a3 a4) := fun _ _ _ _ _ => Length.of_word rfl (by simp only [BitVec.getLsbD_append]; rfl)
theorem Length.vbcast : ∀ a0 a1 a2 a3, Length.Statement (.vbcast a0 a1 a2 a3) := fun _ _ _ _ => Length.of_word rfl (by simp only [BitVec.getLsbD_append]; rfl)
theorem Length.vext : ∀ a0 a1 a2 a3, Length.Statement (.vext a0 a1 a2 a3) := fun _ _ _ _ => Length.of_word rfl (by simp only [BitVec.getLsbD_append]; rfl)
theorem Length.vins : ∀ a0 a1 a2 a3, Length.Statement (.vins a0 a1 a2 a3) := fun _ _ _ _ => Length.of_word rfl (by simp only [BitVec.getLsbD_append]; rfl)
theorem Length.vslideup : ∀ a0 a1 a2 a3 a4, Length.Statement (.vslideup a0 a1 a2 a3 a4) := fun _ _ _ _ _ => Length.of_word rfl (by simp only [BitVec.getLsbD_append]; rfl)
theorem Length.vslidedn : ∀ a0 a1 a2 a3 a4, Length.Statement (.vslidedn a0 a1 a2 a3 a4) := fun _ _ _ _ _ => Length.of_word rfl (by simp only [BitVec.getLsbD_append]; rfl)
theorem Length.vziplo : ∀ a0 a1 a2 a3 a4, Length.Statement (.vziplo a0 a1 a2 a3 a4) := fun _ _ _ _ _ => Length.of_word rfl (by simp only [BitVec.getLsbD_append]; rfl)
theorem Length.vziphi : ∀ a0 a1 a2 a3 a4, Length.Statement (.vziphi a0 a1 a2 a3 a4) := fun _ _ _ _ _ => Length.of_word rfl (by simp only [BitVec.getLsbD_append]; rfl)
theorem Length.vunziplo : ∀ a0 a1 a2 a3 a4, Length.Statement (.vunziplo a0 a1 a2 a3 a4) := fun _ _ _ _ _ => Length.of_word rfl (by simp only [BitVec.getLsbD_append]; rfl)
theorem Length.vunziphi : ∀ a0 a1 a2 a3 a4, Length.Statement (.vunziphi a0 a1 a2 a3 a4) := fun _ _ _ _ _ => Length.of_word rfl (by simp only [BitVec.getLsbD_append]; rfl)
theorem Length.vredadd : ∀ a0 a1 a2 a3, Length.Statement (.vredadd a0 a1 a2 a3) := fun _ _ _ _ => Length.of_word rfl (by simp only [BitVec.getLsbD_append]; rfl)
theorem Length.vredmin : ∀ a0 a1 a2 a3, Length.Statement (.vredmin a0 a1 a2 a3) := fun _ _ _ _ => Length.of_word rfl (by simp only [BitVec.getLsbD_append]; rfl)
theorem Length.vredmax : ∀ a0 a1 a2 a3, Length.Statement (.vredmax a0 a1 a2 a3) := fun _ _ _ _ => Length.of_word rfl (by simp only [BitVec.getLsbD_append]; rfl)
theorem Length.vredminu : ∀ a0 a1 a2 a3, Length.Statement (.vredminu a0 a1 a2 a3) := fun _ _ _ _ => Length.of_word rfl (by simp only [BitVec.getLsbD_append]; rfl)
theorem Length.vredmaxu : ∀ a0 a1 a2 a3, Length.Statement (.vredmaxu a0 a1 a2 a3) := fun _ _ _ _ => Length.of_word rfl (by simp only [BitVec.getLsbD_append]; rfl)
theorem Length.vfredadd : ∀ a0 a1 a2 a3, Length.Statement (.vfredadd a0 a1 a2 a3) := fun _ _ _ _ => Length.of_word rfl (by simp only [BitVec.getLsbD_append]; rfl)
theorem Length.vfredmin : ∀ a0 a1 a2 a3, Length.Statement (.vfredmin a0 a1 a2 a3) := fun _ _ _ _ => Length.of_word rfl (by simp only [BitVec.getLsbD_append]; rfl)
theorem Length.vfredmax : ∀ a0 a1 a2 a3, Length.Statement (.vfredmax a0 a1 a2 a3) := fun _ _ _ _ => Length.of_word rfl (by simp only [BitVec.getLsbD_append]; rfl)
theorem Length.vdot4 : ∀ a0 a1 a2 a3, Length.Statement (.vdot4 a0 a1 a2 a3) := fun _ _ _ _ => Length.of_word rfl (by simp only [BitVec.getLsbD_append]; rfl)
theorem Length.vdot4u : ∀ a0 a1 a2 a3, Length.Statement (.vdot4u a0 a1 a2 a3) := fun _ _ _ _ => Length.of_word rfl (by simp only [BitVec.getLsbD_append]; rfl)
theorem Length.kand : ∀ a0 a1 a2, Length.Statement (.kand a0 a1 a2) := fun _ _ _ => Length.of_word rfl (by simp only [BitVec.getLsbD_append]; rfl)
theorem Length.kor : ∀ a0 a1 a2, Length.Statement (.kor a0 a1 a2) := fun _ _ _ => Length.of_word rfl (by simp only [BitVec.getLsbD_append]; rfl)
theorem Length.kxor : ∀ a0 a1 a2, Length.Statement (.kxor a0 a1 a2) := fun _ _ _ => Length.of_word rfl (by simp only [BitVec.getLsbD_append]; rfl)
theorem Length.knot : ∀ a0 a1, Length.Statement (.knot a0 a1) := fun _ _ => Length.of_word rfl (by simp only [BitVec.getLsbD_append]; rfl)
theorem Length.kpopc : ∀ a0 a1, Length.Statement (.kpopc a0 a1) := fun _ _ => Length.of_word rfl (by simp only [BitVec.getLsbD_append]; rfl)
theorem Length.kfirst : ∀ a0 a1, Length.Statement (.kfirst a0 a1) := fun _ _ => Length.of_word rfl (by simp only [BitVec.getLsbD_append]; rfl)
theorem Length.kany : ∀ a0 a1, Length.Statement (.kany a0 a1) := fun _ _ => Length.of_word rfl (by simp only [BitVec.getLsbD_append]; rfl)
theorem Length.kmov : ∀ a0 a1, Length.Statement (.kmov a0 a1) := fun _ _ => Length.of_word rfl (by simp only [BitVec.getLsbD_append]; rfl)
theorem Length.kfromx : ∀ a0 a1, Length.Statement (.kfromx a0 a1) := fun _ _ => Length.of_word rfl (by simp only [BitVec.getLsbD_append]; rfl)
theorem Length.ktox : ∀ a0 a1, Length.Statement (.ktox a0 a1) := fun _ _ => Length.of_word rfl (by simp only [BitVec.getLsbD_append]; rfl)
theorem Length.vaddi : ∀ a0 a1 a2 a3 a4, Length.Statement (.vaddi a0 a1 a2 a3 a4) := fun _ _ _ _ _ => Length.of_word rfl (by simp only [BitVec.getLsbD_append]; rfl)
theorem Length.vandi : ∀ a0 a1 a2 a3 a4, Length.Statement (.vandi a0 a1 a2 a3 a4) := fun _ _ _ _ _ => Length.of_word rfl (by simp only [BitVec.getLsbD_append]; rfl)
theorem Length.vori : ∀ a0 a1 a2 a3 a4, Length.Statement (.vori a0 a1 a2 a3 a4) := fun _ _ _ _ _ => Length.of_word rfl (by simp only [BitVec.getLsbD_append]; rfl)
theorem Length.vxori : ∀ a0 a1 a2 a3 a4, Length.Statement (.vxori a0 a1 a2 a3 a4) := fun _ _ _ _ _ => Length.of_word rfl (by simp only [BitVec.getLsbD_append]; rfl)
theorem Length.vslli : ∀ a0 a1 a2 a3 a4, Length.Statement (.vslli a0 a1 a2 a3 a4) := fun _ _ _ _ _ => Length.of_word rfl (by simp only [BitVec.getLsbD_append]; rfl)
theorem Length.vsrli : ∀ a0 a1 a2 a3 a4, Length.Statement (.vsrli a0 a1 a2 a3 a4) := fun _ _ _ _ _ => Length.of_word rfl (by simp only [BitVec.getLsbD_append]; rfl)
theorem Length.vsrai : ∀ a0 a1 a2 a3 a4, Length.Statement (.vsrai a0 a1 a2 a3 a4) := fun _ _ _ _ _ => Length.of_word rfl (by simp only [BitVec.getLsbD_append]; rfl)
theorem Length.vceqi : ∀ a0 a1 a2 a3 a4, Length.Statement (.vceqi a0 a1 a2 a3 a4) := fun _ _ _ _ _ => Length.of_word rfl (by simp only [BitVec.getLsbD_append]; rfl)
theorem Length.vclti : ∀ a0 a1 a2 a3 a4, Length.Statement (.vclti a0 a1 a2 a3 a4) := fun _ _ _ _ _ => Length.of_word rfl (by simp only [BitVec.getLsbD_append]; rfl)
theorem Length.vmovi : ∀ a0 a1 a2 a3, Length.Statement (.vmovi a0 a1 a2 a3) := fun _ _ _ _ => Length.of_word rfl (by simp only [BitVec.getLsbD_append]; rfl)
theorem Length.cvt : ∀ a0 a1 a2 a3, Length.Statement (.cvt a0 a1 a2 a3) := fun _ _ _ _ => Length.of_word rfl (by simp only [BitVec.getLsbD_append]; rfl)
theorem Length.vcvt : ∀ a0 a1 a2 a3 a4, Length.Statement (.vcvt a0 a1 a2 a3 a4) := fun _ _ _ _ _ => Length.of_word rfl (by simp only [BitVec.getLsbD_append]; rfl)
theorem Length.vpack : ∀ a0 a1 a2 a3, Length.Statement (.vpack a0 a1 a2 a3) := fun _ _ _ _ => Length.of_word rfl (by simp only [BitVec.getLsbD_append]; rfl)
theorem Length.vunpk : ∀ a0 a1 a2 a3 a4, Length.Statement (.vunpk a0 a1 a2 a3 a4) := fun _ _ _ _ _ => Length.of_word rfl (by simp only [BitVec.getLsbD_append]; rfl)
theorem Length.bscale : ∀ a0 a1 a2 a3, Length.Statement (.bscale a0 a1 a2 a3) := fun _ _ _ _ => Length.of_word rfl (by simp only [BitVec.getLsbD_append]; rfl)
theorem Length.balignExp : ∀ a0 a1 a2, Length.Statement (.balignExp a0 a1 a2) := fun _ _ _ => Length.of_word rfl (by simp only [BitVec.getLsbD_append]; rfl)
theorem Length.balignQ8 : ∀ a0 a1 a2 a3, Length.Statement (.balignQ8 a0 a1 a2 a3) := fun _ _ _ _ => Length.of_word rfl (by simp only [BitVec.getLsbD_append]; rfl)
theorem Length.balignQ16 : ∀ a0 a1 a2 a3, Length.Statement (.balignQ16 a0 a1 a2 a3) := fun _ _ _ _ => Length.of_word rfl (by simp only [BitVec.getLsbD_append]; rfl)
theorem Length.csrr : ∀ a0 a1, Length.Statement (.csrr a0 a1) := fun _ _ => Length.of_word rfl (by simp only [BitVec.getLsbD_append]; rfl)
theorem Length.csrw : ∀ a0 a1 a2, Length.Statement (.csrw a0 a1 a2) := fun _ _ _ => Length.of_word rfl (by simp only [BitVec.getLsbD_append]; rfl)
theorem Length.csrset : ∀ a0 a1 a2, Length.Statement (.csrset a0 a1 a2) := fun _ _ _ => Length.of_word rfl (by simp only [BitVec.getLsbD_append]; rfl)
theorem Length.csrclr : ∀ a0 a1 a2, Length.Statement (.csrclr a0 a1 a2) := fun _ _ _ => Length.of_word rfl (by simp only [BitVec.getLsbD_append]; rfl)
theorem Length.trap : ∀ a0 a1, Length.Statement (.trap a0 a1) := fun _ _ => Length.of_word rfl (by simp only [BitVec.getLsbD_append]; rfl)
theorem Length.tlbinv : ∀ a0, Length.Statement (.tlbinv a0) := fun _ => Length.of_word rfl (by simp only [BitVec.getLsbD_append]; rfl)
theorem Length.iclean : ∀ a0, Length.Statement (.iclean a0) := fun _ => Length.of_word rfl (by simp only [BitVec.getLsbD_append]; rfl)
theorem Length.migrate : ∀ a0 a1, Length.Statement (.migrate a0 a1) := fun _ _ => Length.of_word rfl (by simp only [BitVec.getLsbD_append]; rfl)
theorem Length.mgrd : ∀ a0 a1, Length.Statement (.mgrd a0 a1) := fun _ _ => Length.of_word rfl (by simp only [BitVec.getLsbD_append]; rfl)
theorem Length.mgwr : ∀ a0 a1, Length.Statement (.mgwr a0 a1) := fun _ _ => Length.of_word rfl (by simp only [BitVec.getLsbD_append]; rfl)
theorem Length.rtswap : ∀ a0 a1, Length.Statement (.rtswap a0 a1) := fun _ _ => Length.of_word rfl (by simp only [BitVec.getLsbD_append]; rfl)
theorem Length.watchdog : ∀ a0 a1, Length.Statement (.watchdog a0 a1) := fun _ _ => Length.of_none rfl
theorem Length.mxLdb : ∀ a0, Length.Statement (.mxLdb a0) := fun _ => Length.of_none rfl
theorem Length.mxMma : ∀ a0, Length.Statement (.mxMma a0) := fun _ => Length.of_none rfl
theorem Length.mxStc : ∀ a0, Length.Statement (.mxStc a0) := fun _ => Length.of_none rfl
theorem Length.mxZc : ∀ a0, Length.Statement (.mxZc a0) := fun _ => Length.of_none rfl
theorem Length.mxMark : ∀ a0, Length.Statement (.mxMark a0) := fun _ => Length.of_none rfl
theorem Length.cpLin : ∀ a0, Length.Statement (.cpLin a0) := fun _ => Length.of_none rfl
theorem Length.cp2d : ∀ a0, Length.Statement (.cp2d a0) := fun _ => Length.of_none rfl
theorem Length.cpGath : ∀ a0, Length.Statement (.cpGath a0) := fun _ => Length.of_none rfl
theorem Length.tdDec : ∀ a0, Length.Statement (.tdDec a0) := fun _ => Length.of_none rfl
theorem Length.gmF2v : ∀ a0, Length.Statement (.gmF2v a0) := fun _ => Length.of_none rfl
theorem Length.gmV2f : ∀ a0, Length.Statement (.gmV2f a0) := fun _ => Length.of_none rfl
theorem Length.gmBel : ∀ a0, Length.Statement (.gmBel a0) := fun _ => Length.of_none rfl
theorem Length.gmMean : ∀ a0, Length.Statement (.gmMean a0) := fun _ => Length.of_none rfl
theorem Length.gmDamp : ∀ a0, Length.Statement (.gmDamp a0) := fun _ => Length.of_none rfl
theorem Length.slStart : ∀ a0, Length.Statement (.slStart a0) := fun _ => Length.of_none rfl
theorem Length.slStop : ∀ a0, Length.Statement (.slStop a0) := fun _ => Length.of_none rfl
theorem Length.slDrain : ∀ a0, Length.Statement (.slDrain a0) := fun _ => Length.of_none rfl
theorem Length.lkAred : ∀ a0, Length.Statement (.lkAred a0) := fun _ => Length.of_none rfl
theorem Length.lkCopy : ∀ a0, Length.Statement (.lkCopy a0) := fun _ => Length.of_none rfl
theorem Length.aredChunkExchange : ∀ a0 a1, Length.Statement (.aredChunkExchange a0 a1) := fun _ _ => Length.of_none rfl
theorem Length.engineCommandArrival : ∀ a0, Length.Statement (.engineCommandArrival a0) := fun _ => Length.of_none rfl
theorem Length.completionElementArrival : ∀ a0 a1 a2 a3 a4 a5, Length.Statement (.completionElementArrival a0 a1 a2 a3 a4 a5) := fun _ _ _ _ _ _ => Length.of_none rfl
theorem Length.reefWindow : ∀ a0, Length.Statement (.reefWindow a0) := fun _ => Length.of_none rfl
theorem Length.messageArrival : ∀ a0, Length.Statement (.messageArrival a0) := fun _ => Length.of_none rfl
theorem Length.issueSlotHandoff : ∀ a0, Length.Statement (.issueSlotHandoff a0) := fun _ => Length.of_none rfl
theorem Length.sendCommit : ∀ a0 a1, Length.Statement (.sendCommit a0 a1) := fun _ _ => Length.of_none rfl
theorem Length.dequeReload : ∀ a0, Length.Statement (.dequeReload a0) := fun _ => Length.of_none rfl
theorem Length.acknowledgement : ∀ a0 a1 a2, Length.Statement (.acknowledgement a0 a1 a2) := fun _ _ _ => Length.of_none rfl
theorem Length.nack : ∀ a0 a1 a2 a3, Length.Statement (.nack a0 a1 a2 a3) := fun _ _ _ _ => Length.of_none rfl
theorem Length.retryResend : ∀ a0 a1 a2, Length.Statement (.retryResend a0 a1 a2) := fun _ _ _ => Length.of_none rfl
theorem Length.stealRequest : ∀ a0, Length.Statement (.stealRequest a0) := fun _ => Length.of_none rfl
theorem Length.stealRequestArrival : ∀ a0 a1, Length.Statement (.stealRequestArrival a0 a1) := fun _ _ => Length.of_none rfl
theorem Length.stealReply : ∀ a0 a1, Length.Statement (.stealReply a0 a1) := fun _ _ => Length.of_none rfl
theorem Length.drainAndSwap : ∀ a0 a1, Length.Statement (.drainAndSwap a0 a1) := fun _ _ => Length.of_none rfl
theorem Length.escapeRecovery : ∀ a0 a1 a2, Length.Statement (.escapeRecovery a0 a1 a2) := fun _ _ _ => Length.of_none rfl
theorem Length.partitionDrop : ∀ a0 a1, Length.Statement (.partitionDrop a0 a1) := fun _ _ => Length.of_none rfl
theorem Length.partitionRefusal : ∀ a0 a1 a2, Length.Statement (.partitionRefusal a0 a1 a2) := fun _ _ _ => Length.of_none rfl
theorem Length.firewallDrop : ∀ a0 a1 a2 a3, Length.Statement (.firewallDrop a0 a1 a2 a3) := fun _ _ _ _ => Length.of_none rfl
theorem Length.gets : ∀ a0 a1, Length.Statement (.gets a0 a1) := fun _ _ => Length.of_none rfl
theorem Length.getm : ∀ a0 a1, Length.Statement (.getm a0 a1) := fun _ _ => Length.of_none rfl
theorem Length.getu : ∀ a0 a1 a2 a3, Length.Statement (.getu a0 a1 a2 a3) := fun _ _ _ _ => Length.of_none rfl
theorem Length.uPartial : ∀ a0 a1, Length.Statement (.uPartial a0 a1) := fun _ _ => Length.of_none rfl
theorem Length.hostRead : ∀ a0, Length.Statement (.hostRead a0) := fun _ => Length.of_none rfl
theorem Length.hostReadOwn : ∀ a0, Length.Statement (.hostReadOwn a0) := fun _ => Length.of_none rfl
theorem Length.hostWrite : ∀ a0 a1 a2, Length.Statement (.hostWrite a0 a1 a2) := fun _ _ _ => Length.of_none rfl
theorem Length.bisnpResponse : ∀ a0 a1 a2, Length.Statement (.bisnpResponse a0 a1 a2) := fun _ _ _ => Length.of_none rfl
theorem Length.bisnpReread : ∀ a0, Length.Statement (.bisnpReread a0) := fun _ => Length.of_none rfl
theorem Length.snoopShare : ∀ a0 a1, Length.Statement (.snoopShare a0 a1) := fun _ _ => Length.of_none rfl
theorem Length.snoopInvalidate : ∀ a0 a1, Length.Statement (.snoopInvalidate a0 a1) := fun _ _ => Length.of_none rfl
theorem Length.recallLine : ∀ a0, Length.Statement (.recallLine a0) := fun _ => Length.of_none rfl
theorem Length.lineFill : ∀ a0 a1 a2, Length.Statement (.lineFill a0 a1 a2) := fun _ _ _ => Length.of_none rfl
theorem Length.hostSnpdata : ∀ a0, Length.Statement (.hostSnpdata a0) := fun _ => Length.of_none rfl
theorem Length.hostSnpinv : ∀ a0, Length.Statement (.hostSnpinv a0) := fun _ => Length.of_none rfl
theorem Length.homeOperation : ∀ a0, Length.Statement (.homeOperation a0) := fun _ => Length.of_none rfl
theorem Length.homeResponse : ∀ a0 a1 a2, Length.Statement (.homeResponse a0 a1 a2) := fun _ _ _ => Length.of_none rfl
theorem Length.mergeRead : ∀ a0 a1 a2, Length.Statement (.mergeRead a0 a1 a2) := fun _ _ _ => Length.of_none rfl
theorem Length.mergeReply : ∀ a0 a1, Length.Statement (.mergeReply a0 a1) := fun _ _ => Length.of_none rfl
theorem Length.atsResponse : ∀ a0 a1 a2 a3, Length.Statement (.atsResponse a0 a1 a2 a3) := fun _ _ _ _ => Length.of_none rfl
theorem Length.priResponse : ∀ a0 a1 a2 a3, Length.Statement (.priResponse a0 a1 a2 a3) := fun _ _ _ _ => Length.of_none rfl
theorem Length.atsInvalidation : ∀ a0 a1 a2, Length.Statement (.atsInvalidation a0 a1 a2) := fun _ _ _ => Length.of_none rfl
theorem Length.pasidStop : ∀ a0, Length.Statement (.pasidStop a0) := fun _ => Length.of_none rfl
theorem Length.regionTableDrain : ∀ a0 a1, Length.Statement (.regionTableDrain a0 a1) := fun _ _ => Length.of_none rfl
theorem Length.waitaArm : ∀ a0 a1, Length.Statement (.waitaArm a0 a1) := fun _ _ => Length.of_none rfl
theorem Length.waitaWake : ∀ a0 a1, Length.Statement (.waitaWake a0 a1) := fun _ _ => Length.of_none rfl
theorem Length.waitaExpiry : ∀ a0 a1, Length.Statement (.waitaExpiry a0 a1) := fun _ _ => Length.of_none rfl
theorem Length.waitaPoll : ∀ a0 a1, Length.Statement (.waitaPoll a0 a1) := fun _ _ => Length.of_none rfl
theorem Length.barrierNotification : ∀ a0 a1 a2 a3, Length.Statement (.barrierNotification a0 a1 a2 a3) := fun _ _ _ _ => Length.of_none rfl
theorem Length.gatherReport : ∀ a0 a1 a2, Length.Statement (.gatherReport a0 a1 a2) := fun _ _ _ => Length.of_none rfl
theorem Length.barrierCompletion : ∀ a0 a1 a2, Length.Statement (.barrierCompletion a0 a1 a2) := fun _ _ _ => Length.of_none rfl
theorem Length.vredgContribution : ∀ a0 a1 a2, Length.Statement (.vredgContribution a0 a1 a2) := fun _ _ _ => Length.of_none rfl
theorem Length.vredgResult : ∀ a0 a1, Length.Statement (.vredgResult a0 a1) := fun _ _ => Length.of_none rfl
theorem Length.ringOpAtHome : ∀ a0, Length.Statement (.ringOpAtHome a0) := fun _ => Length.of_none rfl
theorem Length.ringAnswer : ∀ a0 a1 a2, Length.Statement (.ringAnswer a0 a1 a2) := fun _ _ _ => Length.of_none rfl
theorem Length.ringResend : ∀ a0 a1, Length.Statement (.ringResend a0 a1) := fun _ _ => Length.of_none rfl
theorem Length.ringWaitExpiry : ∀ a0 a1, Length.Statement (.ringWaitExpiry a0 a1) := fun _ _ => Length.of_none rfl
theorem Length.doorbell : ∀ a0 a1, Length.Statement (.doorbell a0 a1) := fun _ _ => Length.of_none rfl
theorem Length.directMessage : ∀ a0 a1 a2 a3 a4, Length.Statement (.directMessage a0 a1 a2 a3 a4) := fun _ _ _ _ _ => Length.of_none rfl
theorem Length.launchRecordRead : ∀ a0, Length.Statement (.launchRecordRead a0) := fun _ => Length.of_none rfl
theorem Length.slotIdleTimeout : ∀ a0, Length.Statement (.slotIdleTimeout a0) := fun _ => Length.of_none rfl
theorem Length.gateRead : ∀ a0, Length.Statement (.gateRead a0) := fun _ => Length.of_none rfl
theorem Length.gangPlacement : Length.Statement (.gangPlacement) := Length.of_none rfl
theorem Length.deadlinePreempt : Length.Statement (.deadlinePreempt) := Length.of_none rfl
theorem Length.preemptionSaved : ∀ a0, Length.Statement (.preemptionSaved a0) := fun _ => Length.of_none rfl
theorem Length.gangResume : ∀ a0, Length.Statement (.gangResume a0) := fun _ => Length.of_none rfl
theorem Length.rtReservationMiss : ∀ a0, Length.Statement (.rtReservationMiss a0) := fun _ => Length.of_none rfl
theorem Length.launchCompletion : ∀ a0 a1 a2, Length.Statement (.launchCompletion a0 a1 a2) := fun _ _ _ => Length.of_none rfl
theorem Length.queueTeardown : ∀ a0, Length.Statement (.queueTeardown a0) := fun _ => Length.of_none rfl
theorem Length.queueRegister : ∀ a0 a1, Length.Statement (.queueRegister a0 a1) := fun _ _ => Length.of_none rfl
theorem Length.readyQueueSend : Length.Statement (.readyQueueSend) := Length.of_none rfl
theorem Length.readyQueueReoffer : ∀ a0, Length.Statement (.readyQueueReoffer a0) := fun _ => Length.of_none rfl
theorem Length.furledRequestAtHome : ∀ a0, Length.Statement (.furledRequestAtHome a0) := fun _ => Length.of_none rfl
theorem Length.evaluationMessage : ∀ a0 a1, Length.Statement (.evaluationMessage a0 a1) := fun _ _ => Length.of_none rfl
theorem Length.recordFailureReport : ∀ a0, Length.Statement (.recordFailureReport a0) := fun _ => Length.of_none rfl
theorem Length.evaluationFailureReport : ∀ a0, Length.Statement (.evaluationFailureReport a0) := fun _ => Length.of_none rfl
theorem Length.furledWake : ∀ a0 a1, Length.Statement (.furledWake a0 a1) := fun _ _ => Length.of_none rfl
theorem Length.furlWaitLimit : ∀ a0, Length.Statement (.furlWaitLimit a0) := fun _ => Length.of_none rfl
theorem Length.furlWaiterResend : ∀ a0, Length.Statement (.furlWaiterResend a0) := fun _ => Length.of_none rfl
theorem Length.spliceAnnihilate : ∀ a0, Length.Statement (.spliceAnnihilate a0) := fun _ => Length.of_none rfl
theorem Length.spliceCommute : ∀ a0, Length.Statement (.spliceCommute a0) := fun _ => Length.of_none rfl
theorem Length.spliceErase : ∀ a0, Length.Statement (.spliceErase a0) := fun _ => Length.of_none rfl
theorem Length.spliceTemplate : ∀ a0, Length.Statement (.spliceTemplate a0) := fun _ => Length.of_none rfl
theorem Length.spliceHandler : ∀ a0, Length.Statement (.spliceHandler a0) := fun _ => Length.of_none rfl
theorem Length.spliceEngine : ∀ a0, Length.Statement (.spliceEngine a0) := fun _ => Length.of_none rfl
theorem Length.engineRuleElement : ∀ a0 a1 a2, Length.Statement (.engineRuleElement a0 a1 a2) := fun _ _ _ => Length.of_none rfl
theorem Length.bagReload : ∀ a0, Length.Statement (.bagReload a0) := fun _ => Length.of_none rfl
theorem Length.spliceSteal : ∀ a0, Length.Statement (.spliceSteal a0) := fun _ => Length.of_none rfl
theorem Length.bagStealArrival : ∀ a0 a1, Length.Statement (.bagStealArrival a0 a1) := fun _ _ => Length.of_none rfl
theorem Length.trapRecordArrival : ∀ a0 a1 a2, Length.Statement (.trapRecordArrival a0 a1 a2) := fun _ _ _ => Length.of_none rfl
theorem Length.migrationForward : ∀ a0 a1, Length.Statement (.migrationForward a0 a1) := fun _ _ => Length.of_none rfl
theorem Length.mapAcknowledged : ∀ a0, Length.Statement (.mapAcknowledged a0) := fun _ => Length.of_none rfl
theorem Length.stayLinkTrained : ∀ a0 a1, Length.Statement (.stayLinkTrained a0 a1) := fun _ _ => Length.of_none rfl
theorem Length.stayLinkLoss : Length.Statement (.stayLinkLoss) := Length.of_none rfl
theorem Length.deviceFatalError : ∀ a0 a1 a2, Length.Statement (.deviceFatalError a0 a1 a2) := fun _ _ _ => Length.of_none rfl
theorem Length.functionReset : Length.Statement (.functionReset) := Length.of_none rfl
theorem Length.powerOn : ∀ a0 a1 a2, Length.Statement (.powerOn a0 a1 a2) := fun _ _ _ => Length.of_none rfl
theorem Length.readyBitSet : ∀ a0, Length.Statement (.readyBitSet a0) := fun _ => Length.of_none rfl
theorem Length.powerMeasurement : ∀ a0, Length.Statement (.powerMeasurement a0) := fun _ => Length.of_none rfl
theorem Length.matrixCapUpdate : ∀ a0, Length.Statement (.matrixCapUpdate a0) := fun _ => Length.of_none rfl
theorem Length.thermalStep : ∀ a0, Length.Statement (.thermalStep a0) := fun _ => Length.of_none rfl
theorem Length.thermalTrip : ∀ a0, Length.Statement (.thermalTrip a0) := fun _ => Length.of_none rfl
theorem Length.getVersion : ∀ a0, Length.Statement (.getVersion a0) := fun _ => Length.of_none rfl
theorem Length.getCapabilities : ∀ a0, Length.Statement (.getCapabilities a0) := fun _ => Length.of_none rfl
theorem Length.negotiateAlgorithms : ∀ a0, Length.Statement (.negotiateAlgorithms a0) := fun _ => Length.of_none rfl
theorem Length.getDigests : ∀ a0, Length.Statement (.getDigests a0) := fun _ => Length.of_none rfl
theorem Length.getCertificate : ∀ a0, Length.Statement (.getCertificate a0) := fun _ => Length.of_none rfl
theorem Length.challenge : ∀ a0, Length.Statement (.challenge a0) := fun _ => Length.of_none rfl
theorem Length.getMeasurements : ∀ a0, Length.Statement (.getMeasurements a0) := fun _ => Length.of_none rfl
theorem Length.readbackLatch : ∀ a0, Length.Statement (.readbackLatch a0) := fun _ => Length.of_none rfl
theorem Length.errorLogClear : ∀ a0 a1, Length.Statement (.errorLogClear a0 a1) := fun _ _ => Length.of_none rfl
theorem Length.powerCapWrite : ∀ a0, Length.Statement (.powerCapWrite a0) := fun _ => Length.of_none rfl
theorem Length.registerWrite : ∀ a0 a1, Length.Statement (.registerWrite a0 a1) := fun _ _ => Length.of_none rfl
theorem Length.illegalInstruction : ∀ a0 a1 a2, Length.Statement (.illegalInstruction a0 a1 a2) := fun _ _ _ => Length.of_none rfl
theorem Length.instructionFetchFault : ∀ a0 a1 a2 a3, Length.Statement (.instructionFetchFault a0 a1 a2 a3) := fun _ _ _ _ => Length.of_none rfl
theorem Length.childLaunchRequest : ∀ a0 a1 a2 a3, Length.Statement (.childLaunchRequest a0 a1 a2 a3) := fun _ _ _ _ => Length.of_none rfl
theorem Length.launchAnswer : ∀ a0 a1 a2 a3, Length.Statement (.launchAnswer a0 a1 a2 a3) := fun _ _ _ _ => Length.of_none rfl
theorem Length.migrationImageInstalled : ∀ a0 a1, Length.Statement (.migrationImageInstalled a0 a1) := fun _ _ => Length.of_none rfl
theorem Length.aredPartnerEnded : ∀ a0, Length.Statement (.aredPartnerEnded a0) := fun _ => Length.of_none rfl
theorem Length.linkLevelRetry : Length.Statement (.linkLevelRetry) := Length.of_none rfl

end Sys2Proof.Laws
end

