-- ==== Sys2Proof/Laws/Registers.lean ====
section
/-!
SUPPORT. What the end of an instruction does to a context and to the package: the laws through which statements about instructions that
write registers alone are proved.
-/

namespace Sys2Proof.Machine

/-! Register accessors. -/

theorem Ctx.rx_wx (c : Ctx) (d r : BitVec 5) (w : Word) : (c.wx d w).rx r = c.withX d w r := by
  unfold Ctx.withX
  by_cases hr : r = 0
  · rw [if_neg (fun h => h.2 hr)]; unfold Ctx.rx; rw [if_pos hr, if_pos hr]
  · by_cases hd : d = 0
    · rw [if_neg (fun h => hr (h.1.trans hd))]; unfold Ctx.wx; rw [if_pos hd]
    · have e : c.wx d w = { c with x := c.x.set d.toNat w d.isLt } := by unfold Ctx.wx; exact if_neg hd
      rw [e]
      unfold Ctx.rx
      rw [if_neg hr, if_neg hr]
      by_cases h : r = d
      · rw [if_pos ⟨h, hr⟩]; subst h; exact Vector.getElem_set_self _
      · rw [if_neg fun g => h g.1]
        exact Vector.getElem_set_ne d.isLt r.isLt fun e => h (BitVec.eq_of_toNat_eq e.symm)

theorem Ctx.rv_wv (c : Ctx) (d r : BitVec 5) (w : Msg) : (c.wv d w).rv r = c.withV d w r := by
  unfold Ctx.wv Ctx.withV Ctx.rv
  by_cases h : r = d
  · subst h; simp
  · have : d.toNat ≠ r.toNat := fun e => h (BitVec.eq_of_toNat_eq e.symm)
    simp [h, this]

theorem Ctx.rk_wk (c : Ctx) (d r : BitVec 3) (w : Word) : (c.wk d w).rk r = c.withK d w r := by
  unfold Ctx.withK
  by_cases hr : r = 0
  · rw [if_neg (fun h => h.2 hr)]; unfold Ctx.rk; rw [if_pos hr, if_pos hr]
  · by_cases hd : d = 0
    · rw [if_neg (fun h => hr (h.1.trans hd))]; unfold Ctx.wk; rw [if_pos hd]
    · have e : c.wk d w = { c with k := c.k.set d.toNat w d.isLt } := by unfold Ctx.wk; exact if_neg hd
      rw [e]
      unfold Ctx.rk
      rw [if_neg hr, if_neg hr]
      by_cases h : r = d
      · rw [if_pos ⟨h, hr⟩]; subst h; exact Vector.getElem_set_self _
      · rw [if_neg fun g => h g.1]
        exact Vector.getElem_set_ne d.isLt r.isLt fun e => h (BitVec.eq_of_toNat_eq e.symm)

@[simp] theorem Ctx.rv_wx (c : Ctx) (d r : BitVec 5) (w : Word) : (c.wx d w).rv r = c.rv r := by unfold Ctx.wx; split <;> rfl
@[simp] theorem Ctx.rk_wx (c : Ctx) (d : BitVec 5) (r : BitVec 3) (w : Word) : (c.wx d w).rk r = c.rk r := by unfold Ctx.wx; split <;> rfl
@[simp] theorem Ctx.fmt_wx (c : Ctx) (d : BitVec 5) (w : Word) : (c.wx d w).fmt = c.fmt := by unfold Ctx.wx; split <;> rfl
@[simp] theorem Ctx.rx_wv (c : Ctx) (d r : BitVec 5) (w : Msg) : (c.wv d w).rx r = c.rx r := rfl
@[simp] theorem Ctx.rk_wv (c : Ctx) (d : BitVec 5) (r : BitVec 3) (w : Msg) : (c.wv d w).rk r = c.rk r := rfl
@[simp] theorem Ctx.fmt_wv (c : Ctx) (d : BitVec 5) (w : Msg) : (c.wv d w).fmt = c.fmt := rfl
@[simp] theorem Ctx.rx_wk (c : Ctx) (d : BitVec 3) (r : BitVec 5) (w : Word) : (c.wk d w).rx r = c.rx r := by unfold Ctx.wk; split <;> rfl
@[simp] theorem Ctx.rv_wk (c : Ctx) (d : BitVec 3) (r : BitVec 5) (w : Word) : (c.wk d w).rv r = c.rv r := by unfold Ctx.wk; split <;> rfl
@[simp] theorem Ctx.fmt_wk (c : Ctx) (d : BitVec 3) (w : Word) : (c.wk d w).fmt = c.fmt := by unfold Ctx.wk; split <;> rfl
@[simp] theorem Ctx.rx_addFlags (c : Ctx) (f : Flags) (r : BitVec 5) : (c.addFlags f).rx r = c.rx r := rfl
@[simp] theorem Ctx.rv_addFlags (c : Ctx) (f : Flags) (r : BitVec 5) : (c.addFlags f).rv r = c.rv r := rfl
@[simp] theorem Ctx.rk_addFlags (c : Ctx) (f : Flags) (r : BitVec 3) : (c.addFlags f).rk r = c.rk r := rfl
@[simp] theorem Ctx.fmt_addFlags (c : Ctx) (f : Flags) : (c.addFlags f).fmt = c.fmt ||| f.setWidth 64 := rfl

/-! The writes that an instruction's own effect makes: x, v, k and fmt. -/

/-- d differs from c in x, v, k and fmt at most. -/
def Ctx.Wrote (c d : Ctx) : Prop := d = { c with x := d.x, v := d.v, k := d.k, fmt := d.fmt }

theorem Ctx.wrote_refl (c : Ctx) : c.Wrote c := rfl
theorem Ctx.Wrote.trans {c d e : Ctx} (h : c.Wrote d) (g : d.Wrote e) : c.Wrote e := by
  unfold Ctx.Wrote at *; rw [g, h]
theorem Ctx.wrote_wx (c : Ctx) (r : BitVec 5) (w : Word) : c.Wrote (c.wx r w) := by unfold Ctx.wx; split <;> rfl
theorem Ctx.wrote_wv (c : Ctx) (r : BitVec 5) (w : Msg) : c.Wrote (c.wv r w) := rfl
theorem Ctx.wrote_wk (c : Ctx) (r : BitVec 3) (w : Word) : c.Wrote (c.wk r w) := by unfold Ctx.wk; split <;> rfl
theorem Ctx.wrote_addFlags (c : Ctx) (f : Flags) : c.Wrote (c.addFlags f) := rfl

/-! The loop check and the program counter (04 R141). -/

/-- d differs from c in the loop counters at most. -/
def Ctx.Looped (c d : Ctx) : Prop := d = { c with lstat := d.lstat, lc0 := d.lc0, lc1 := d.lc1 }

theorem Ctx.Looped.trans {c d e : Ctx} (h : c.Looped d) (g : d.Looped e) : c.Looped e := by
  unfold Ctx.Looped at *; rw [g, h]
theorem Ctx.looped_end1 (c : Ctx) (n : Word) : c.Looped (c.loopEnd1 n).1 := by unfold Ctx.loopEnd1; split <;> (try split) <;> rfl
theorem Ctx.looped_end0 (c : Ctx) (n : Word) : c.Looped (c.loopEnd0 n).1 := by unfold Ctx.loopEnd0; split <;> (try split) <;> rfl
theorem Ctx.looped_leave (c : Ctx) (n : Word) : c.Looped (c.loopLeave n) := by
  unfold Ctx.loopLeave; dsimp only; split <;> split <;> rfl

/-- After an instruction the registers are as its own effect left them: the loop check changes the loop counters and the program
counter alone. -/
theorem Ctx.retire_looped (c : Ctx) (len : Nat) (n : Word) :
    c.retire len n = { c with lstat := (c.retire len n).lstat, lc0 := (c.retire len n).lc0, lc1 := (c.retire len n).lc1
                              pc := (c.retire len n).pc, asked := [], answers := [] } := by
  have key : ∃ d n', c.Looped d ∧ c.retire len n = { d with pc := n', asked := [], answers := [] } := by
    unfold Ctx.retire
    dsimp only
    split
    · split
      · exact ⟨_, _, ((c.looped_end1 n).trans (Ctx.looped_end0 _ _)).trans (Ctx.looped_leave _ _), rfl⟩
      · exact ⟨_, _, (c.looped_end1 n).trans (Ctx.looped_leave _ _), rfl⟩
    · split
      · exact ⟨_, _, (Ctx.looped_end0 c n).trans (Ctx.looped_leave _ _), rfl⟩
      · exact ⟨_, _, Ctx.looped_leave c n, rfl⟩
  obtain ⟨d, n', hd, e⟩ := key
  rw [e]
  unfold Ctx.Looped at hd
  rw [hd]

theorem Ctx.retire_rx (c : Ctx) (len : Nat) (n : Word) (r : BitVec 5) : (c.retire len n).rx r = c.rx r := by
  rw [c.retire_looped len n]; rfl
theorem Ctx.retire_rv (c : Ctx) (len : Nat) (n : Word) (r : BitVec 5) : (c.retire len n).rv r = c.rv r := by
  rw [c.retire_looped len n]; rfl
theorem Ctx.retire_rk (c : Ctx) (len : Nat) (n : Word) (r : BitVec 3) : (c.retire len n).rk r = c.rk r := by
  rw [c.retire_looped len n]; rfl
theorem Ctx.retire_fmt (c : Ctx) (len : Nat) (n : Word) : (c.retire len n).fmt = c.fmt := by
  rw [c.retire_looped len n]

/-- With no loop armed, the next address is the program counter and the loop registers stay (04 R141). -/
theorem Ctx.retire_noLoop (c : Ctx) (len : Nat) (n : Word) (h : c.lstat = 0) :
    c.retire len n = { c with pc := n, asked := [], answers := [] } := by
  unfold Ctx.retire Ctx.loopLeave Ctx.loopEnd0 Ctx.loopEnd1
  simp [h]

/-! The issuing context in a changed state. -/

@[simp] theorem State.ctx_onCtx (s : State) (f : Ctx → Ctx) : (s.onCtx f).ctx = f s.ctx := by
  simp [State.onCtx, State.modCtx, State.modCore, State.ctx, State.ctxAt, State.coreAt, Core.modCtx]

@[simp] theorem State.ctx_spend (s : State) (n : Nat) : (s.spend n).ctx = { s.ctx with busy := s.cyc + (n + s.stalls.headD 0) } := by
  simp [State.spend, State.modCore, State.ctx, State.ctxAt, State.coreAt, Core.modCtx]

theorem State.onCtx_onCtx (s : State) (f g : Ctx → Ctx) : (s.onCtx f).onCtx g = s.onCtx fun c => g (f c) := by
  simp [State.onCtx, State.modCtx, State.modCore, Core.modCtx]

theorem State.onCtx_const (s : State) (f : Ctx → Ctx) : s.onCtx f = s.onCtx fun _ => f s.ctx := rfl

theorem State.onCtx_cores (s t : State) (f : Ctx → Ctx) (h : s.cores = t.cores) (hc : s.cur = t.cur) (hh : s.hot = t.hot) :
    (s.onCtx f).cores = (t.onCtx f).cores := by
  unfold State.onCtx State.modCtx State.modCore
  simp [h, hc, hh]

/-- What an instruction's issue cycles leave: the issuing context and its core are next free when they are over. -/
theorem State.spend_eq (s : State) (n : Nat) :
    s.spend n = { s.withHot { s.ctx with busy := s.cyc + (n + s.stalls.headD 0) } (s.cyc + (n + s.stalls.headD 0)) with stalls := s.stalls.tail } := rfl

theorem State.withHot_sp (s : State) (k : Ctx) (n : Nat) (c : CoreId) : ((s.withHot k n).coreAt c).sp = (s.coreAt c).sp := by
  unfold State.withHot State.modCore State.coreAt Core.modCtx
  simp only [Fin.getElem_fin, Vector.getElem_set]
  split
  · rename_i h; simp [← Fin.ext h]
  · rfl

theorem State.onCtx_sp (s : State) (f : Ctx → Ctx) (c : CoreId) : ((s.onCtx f).coreAt c).sp = (s.coreAt c).sp := by
  unfold State.onCtx State.modCtx State.modCore State.coreAt Core.modCtx
  simp only [Fin.getElem_fin, Vector.getElem_set]
  split
  · rename_i h; simp [← Fin.ext h]
  · rfl

/-- What ctxStep and jumpStep leave: a change of the issuing context, and time. -/
theorem jumpStep_onlyHot (len issue : Nat) (f : Ctx → Ctx) (n : Word) (s : State) :
    ∃ t, jumpStep len issue f n s = .next t ∧ OnlyHot s t ∧ SameBytes s t
      ∧ t.ctx = (f { s.ctx with busy := s.cyc + (issue + s.stalls.headD 0) }).retire len n := by
  refine ⟨_, rfl, ?_, ?_, ?_⟩
  · unfold OnlyHot
    rw [State.ctx_onCtx, State.ctx_spend]
    simp [State.spend_eq, State.withHot, State.onCtx, State.modCtx, State.modCore, Core.modCtx, State.ctx, State.core, State.ctxAt, State.coreAt]
  · exact ⟨fun _ => rfl, fun c o => by rw [State.onCtx_sp, State.spend_eq]; exact congrArg (Mem.byte · o) (s.withHot_sp _ _ c)⟩
  · rw [State.ctx_onCtx, State.ctx_spend]

/-- c with other registers. -/
def Ctx.dress (c : Ctx) (x : Vector Word 32) (v : Vector Msg 32) (k : Vector Word 8) (fmt : Word) (busy : Nat) : Ctx :=
  { c with x := x, v := v, k := k, fmt := fmt, busy := busy }

theorem Ctx.end1_dress (c : Ctx) (x : Vector Word 32) (v : Vector Msg 32) (k : Vector Word 8) (fmt : Word) (u : Nat) (n : Word) :
    (c.dress x v k fmt u).loopEnd1 n = ((c.loopEnd1 n).1.dress x v k fmt u, (c.loopEnd1 n).2) := by
  unfold Ctx.loopEnd1 Ctx.dress; dsimp only; split <;> (try split) <;> rfl

theorem Ctx.end0_dress (c : Ctx) (x : Vector Word 32) (v : Vector Msg 32) (k : Vector Word 8) (fmt : Word) (u : Nat) (n : Word) :
    (c.dress x v k fmt u).loopEnd0 n = ((c.loopEnd0 n).1.dress x v k fmt u, (c.loopEnd0 n).2) := by
  unfold Ctx.loopEnd0 Ctx.dress; dsimp only; split <;> (try split) <;> rfl

theorem Ctx.leave_dress (c : Ctx) (x : Vector Word 32) (v : Vector Msg 32) (k : Vector Word 8) (fmt : Word) (u : Nat) (n : Word) :
    (c.dress x v k fmt u).loopLeave n = (c.loopLeave n).dress x v k fmt u := by
  unfold Ctx.loopLeave Ctx.dress; dsimp only; split <;> split <;> rfl

/-- The loop check reads the program counter and the loop registers alone. -/
theorem Ctx.retire_dress (c : Ctx) (x : Vector Word 32) (v : Vector Msg 32) (k : Vector Word 8) (fmt : Word) (u len : Nat) (n : Word) :
    (c.dress x v k fmt u).retire len n = (c.retire len n).dress x v k fmt u := by
  have hp : (c.dress x v k fmt u).pc = c.pc := rfl
  unfold Ctx.retire
  dsimp only
  rw [Ctx.end1_dress, hp]
  by_cases h : n = va57 (c.pc + BitVec.ofNat 64 len)
  · simp only [if_pos h]
    split
    · simp only [h, Ctx.end0_dress, Ctx.leave_dress]; rfl
    · simp only [h, Ctx.leave_dress]; rfl
  · simp only [h, if_false, false_and, Ctx.leave_dress]; rfl

theorem Ctx.retire_wrote {c d : Ctx} (h : c.Wrote d) (u len : Nat) (n : Word) :
    (({ d with busy := u } : Ctx).retire len n).pc = (c.retire len n).pc ∧ (({ d with busy := u } : Ctx).retire len n).lstat = (c.retire len n).lstat
      ∧ (({ d with busy := u } : Ctx).retire len n).lc0 = (c.retire len n).lc0 ∧ (({ d with busy := u } : Ctx).retire len n).lc1 = (c.retire len n).lc1 := by
  have e : ({ d with busy := u } : Ctx) = c.dress d.x d.v d.k d.fmt u := by unfold Ctx.Wrote at h; rw [h]; rfl
  rw [e, Ctx.retire_dress]
  exact ⟨rfl, rfl, rfl, rfl⟩

/-- An instruction whose own effect writes x, v, k and fmt alone. -/
theorem registersTo_jumpStep {len issue : Nat} {f : Ctx → Ctx} {next : Word} {s : State} {x : BitVec 5 → Word} {v : BitVec 5 → Msg}
    {k : BitVec 3 → Word} {fmt : Word} (hw : ∀ u, ({ s.ctx with busy := u } : Ctx).Wrote (f { s.ctx with busy := u }))
    (hx : ∀ u r, (f { s.ctx with busy := u }).rx r = x r) (hv : ∀ u r, (f { s.ctx with busy := u }).rv r = v r)
    (hk : ∀ u r, (f { s.ctx with busy := u }).rk r = k r) (hf : ∀ u, (f { s.ctx with busy := u }).fmt = fmt) :
    RegistersTo s len next x v k fmt (jumpStep len issue f next s) := by
  obtain ⟨t, ht, h1, h2, h3⟩ := jumpStep_onlyHot len issue f next s
  refine ⟨t, ht, h1, h2, ?_⟩
  have w := hw (s.cyc + (issue + s.stalls.headD 0))
  rw [h3]
  have hr := Ctx.retire_wrote (c := s.ctx) (d := { f { s.ctx with busy := s.cyc + (issue + s.stalls.headD 0) } with busy := s.ctx.busy })
    (by unfold Ctx.Wrote; rw [w]) (s.cyc + (issue + s.stalls.headD 0)) len next
  have he : ({ ({ f { s.ctx with busy := s.cyc + (issue + s.stalls.headD 0) } with busy := s.ctx.busy } : Ctx) with
      busy := s.cyc + (issue + s.stalls.headD 0) } : Ctx) = f { s.ctx with busy := s.cyc + (issue + s.stalls.headD 0) } := by rw [w]
  rw [he] at hr
  refine ⟨?_, fun r => ?_, fun r => ?_, fun r => ?_, ?_, ⟨hr.1, hr.2.1, hr.2.2.1, hr.2.2.2, fun h => ?_⟩⟩
  · unfold CtxKeeps
    rw [Ctx.retire_looped]
    rw [w]
  · rw [Ctx.retire_rx, hx]
  · rw [Ctx.retire_rv, hv]
  · rw [Ctx.retire_rk, hk]
  · rw [Ctx.retire_fmt, hf]
  · have hl : (f { s.ctx with busy := s.cyc + (issue + s.stalls.headD 0) }).lstat = 0 := by rw [w]; exact h
    rw [Ctx.retire_noLoop _ _ _ hl]
    refine ⟨rfl, hl, ?_, ?_⟩ <;> (rw [w])

theorem ctxStep_eq (s : State) (len issue : Nat) (f : Ctx → Ctx) : ctxStep len issue f s = jumpStep len issue f (s.ctx.seq len) s := by
  unfold ctxStep jumpStep
  congr 1
  rw [State.onCtx_const, State.onCtx_const (s.spend issue) (fun c => (f c).retire len (s.ctx.seq len)), State.ctx_spend]
  rfl

/-- An instruction that falls through and whose own effect writes x, v, k and fmt alone. -/
theorem registerOnly_ctxStep {len issue : Nat} {f : Ctx → Ctx} {s : State} {x : BitVec 5 → Word} {v : BitVec 5 → Msg} {k : BitVec 3 → Word}
    {fmt : Word} (hw : ∀ u, ({ s.ctx with busy := u } : Ctx).Wrote (f { s.ctx with busy := u }))
    (hx : ∀ u r, (f { s.ctx with busy := u }).rx r = x r) (hv : ∀ u r, (f { s.ctx with busy := u }).rv r = v r)
    (hk : ∀ u r, (f { s.ctx with busy := u }).rk r = k r) (hf : ∀ u, (f { s.ctx with busy := u }).fmt = fmt) :
    RegisterOnly s len x v k fmt (ctxStep len issue f s) := by
  rw [ctxStep_eq]
  exact registersTo_jumpStep hw hx hv hk hf

/-- Nothing written. -/
theorem noneWritten_ctxStep (s : State) (len issue : Nat) : NoneWritten s len (ctxStep len issue id s) :=
  registerOnly_ctxStep (fun _ => Ctx.wrote_refl _) (fun _ _ => rfl) (fun _ _ => rfl) (fun _ _ => rfl) (fun _ => rfl)

/-- x[d] written. -/
theorem xWritten_ctxStep {s : State} {len issue : Nat} {d : BitVec 5} {w : Word} {g : Ctx → Word}
    (hg : ∀ u, g { s.ctx with busy := u } = w) : XWritten s len d w (ctxStep len issue (fun c => c.wx d (g c)) s) :=
  registerOnly_ctxStep (fun _ => Ctx.wrote_wx _ _ _) (fun u r => by rw [Ctx.rx_wx, hg]; rfl) (fun _ _ => Ctx.rv_wx _ _ _ _)
    (fun _ _ => Ctx.rk_wx _ _ _ _) (fun _ => Ctx.fmt_wx _ _ _)

/-- x[d] written from x[a] and x[b]. -/
theorem xWritten_aluRR {s : State} {len : Nat} {f : Word → Word → Word} {d a b : BitVec 5} {w : Word}
    (h : f (s.ctx.rx a) (s.ctx.rx b) = w) : XWritten s len d w (aluRR len f d a b s) :=
  xWritten_ctxStep (g := fun c => f (c.rx a) (c.rx b)) fun _ => h

/-- x[d] written from x[a]. -/
theorem xWritten_aluR {s : State} {len : Nat} {f : Word → Word} {d a : BitVec 5} {w : Word}
    (h : f (s.ctx.rx a) = w) : XWritten s len d w (aluR len f d a s) :=
  xWritten_ctxStep (g := fun c => f (c.rx a)) fun _ => h

/-- x[d] written with a floating-point result, and its flags added. -/
theorem fpWritten_ctxStep {s : State} {len issue : Nat} {d : BitVec 5} {w : Nat × Flags} {g : Ctx → Nat × Flags}
    (hg : ∀ u, g { s.ctx with busy := u } = w) : FpWritten s len d w (ctxStep len issue (fun c => c.wf d (g c)) s) := by
  refine registerOnly_ctxStep (fun u => (Ctx.wrote_wx _ _ _).trans (Ctx.wrote_addFlags _ _)) (fun u r => ?_) (fun u r => ?_)
    (fun u r => ?_) (fun u => ?_) <;> (unfold Ctx.wf; try rw [hg])
  · rw [Ctx.rx_addFlags, Ctx.rx_wx]; rfl
  · rw [Ctx.rv_addFlags, Ctx.rv_wx]; rfl
  · rw [Ctx.rk_addFlags, Ctx.rk_wx]; rfl
  · rw [Ctx.fmt_addFlags, Ctx.fmt_wx]

/-- v[d] written. -/
theorem vWritten_ctxStep {s : State} {issue : Nat} {d : BitVec 5} {w : Msg} {g : Ctx → Msg}
    (hg : ∀ u, g { s.ctx with busy := u } = w) : VWritten s d w (ctxStep 4 issue (fun c => c.wv d (g c)) s) :=
  registerOnly_ctxStep (fun _ => Ctx.wrote_wv _ _ _) (fun _ _ => rfl) (fun u r => by rw [Ctx.rv_wv, hg]; rfl) (fun _ _ => rfl) (fun _ => rfl)

end Sys2Proof.Machine
end

