-- ==== Sys2Proof/Tests/Slice0.lean ====
section
/-!
SUPPORT. Tests: terms that WellFormed refuses; words written out from the spec's encodings and what they decode to; values that the spec
works out; and, for every statement of Obligations.lean that has hypotheses, states and operands that meet them. Premises on opaque values of
Config (a free value) are not decided here.
-/

namespace Sys2Proof.Tests

set_option Elab.async false

open Sys2Proof Sys2Proof.Machine

/-! Terms that the checks of WellFormed refuse, one for each check. -/

theorem test_refuses_scope : (Instr.ldAcq 1 2 9 0).wellFormed = false := by decide
theorem test_refuses_selector : (Instr.vadd 1 2 3 0 3).wellFormed = false ∧ (Instr.deq 1 6).wellFormed = false := by decide
theorem test_refuses_pair : (Instr.spop 5).wellFormed = false ∧ (Instr.waita 1 2 31 0 1).wellFormed = false := by decide
theorem test_refuses_format : (Instr.ptag 1 2 14 0).wellFormed = false ∧ (Instr.cvt 1 2 11 8).wellFormed = false := by decide
theorem test_refuses_loop_offset : (Instr.loopi 5 1).wellFormed = false := by decide

/-! Words of the spec's listings, and of its encoding tables written out bit by bit. -/

/-- 04 R122 to R125. -/
theorem test_decode_integer : decodeWord 0x84530064 = .ok (.addi 5 6 100) ∧ decodeWord 0x84688000 = .ok (.addi 6 17 0)
    ∧ decodeWord 0x82531C00 = .ok (.add 5 6 7) ∧ decodeWord 0x82531C13 = .ok (.csel 5 6 7)
    ∧ decodeWord 0x8C952003 = .ok (.srai 9 10 3) ∧ decodeWord 0x90512345 = .ok (.liu 5 0x12345) := ⟨rfl, rfl, rfl, rfl, rfl, rfl⟩

/-- 04 R126 to R131, R135. -/
theorem test_decode_scalar : decodeWord 0x94531C01 = .ok (.mulhu 5 6 7) ∧ decodeWord 0x94531C0C = .ok (.mod 5 6 7)
    ∧ decodeWord 0x98530460 = .ok (.ptag 5 6 4 3) ∧ decodeWord 0x98529380 = .ok (.padd 5 5 7) ∧ decodeWord 0x98A2A000 = .ok (.pchk 10 5)
    ∧ decodeWord 0x9A531C17 = .ok (.fma 5 6 7 1) ∧ decodeWord 0x9C530008 = .ok (.ftof 5 6 0) := ⟨rfl, rfl, rfl, rfl, rfl, rfl, rfl⟩

/-- 04 R137 to R145, 02 R53. -/
theorem test_decode_control : decodeWord 0xA4537FFC = .ok (.blt 5 6 0x7FFC) ∧ decodeWord 0xAC100080 = .ok (.jal 1 128)
    ∧ decodeWord 0xAE008000 = .ok (.jalr 0 1 0) ∧ decodeWord 0xB1040004 = .ok (.loopi 8 4) ∧ decodeWord 0xB2000001 = .ok .endTask
    ∧ decodeWord 0xB2000002 = .ok .yield ∧ decodeWord 0xB2028003 = .ok (.done 5) ∧ decodeWord 0xB2000004 = .ok .nop :=
  ⟨rfl, rfl, rfl, rfl, rfl, rfl, rfl, rfl⟩

/-- 05 R154 to R166. -/
theorem test_decode_vector : decodeWord 0xE0110D40 = .ok (.vadd 1 2 3 2 2) ∧ decodeWord 0xF0108048 = .ok (.vclti 1 1 0 0 2)
    ∧ decodeWord 0xEE508004 = .ok (.kpopc 5 1) ∧ decodeWord 0xE02104C1 = .ok (.vsub 2 2 1 1 2)
    ∧ decodeWord 0xEC628145 = .ok (.vfredadd 6 5 2 2) ∧ decodeWord 0xEA731842 = .ok (.vext 7 6 6 2) := ⟨rfl, rfl, rfl, rfl, rfl, rfl⟩

/-- 03 R105 to R107. -/
theorem test_decode_convert : decodeWord 0xF2531008 = .ok (.cvt 5 6 4 8) ∧ decodeWord 0xF2809C51 = .ok (.balignQ8 8 1 7 0) := ⟨rfl, rfl⟩

/-- 06 R194 to R208. -/
theorem test_decode_memory : decodeWord 0xB853200C = .ok (.ldW 5 6 12) ∧ decodeWord 0xBA593000 = .ok (.stD 5 18 0)
    ∧ decodeWord 0xBE832940 = .ok (.ldAcq 8 6 5 2) ∧ decodeWord 0xBE030320 = .ok (.pref 6 1) ∧ decodeWord 0xBE000400 = .ok .ifence ∧ decodeWord 0xBE002860 = .ok (.fence 5 3) ∧ decodeWord 0xBC130035 = .ok (.vldt 1 6 0 2 1)
    ∧ decodeWord 0xBC231C14 = .ok (.vlds 2 6 7 0 2) ∧ decodeWord 0xBC430084 = .ok (.vld 4 6 1 2)
    ∧ decodeWord 0xBC432440 = .ok (.vldf 4 6 9 0 0) := ⟨rfl, rfl, rfl, rfl, rfl, rfl, rfl, rfl, rfl, rfl⟩

/-- 07 R229 to R245. -/
theorem test_decode_sync : decodeWord 0xC0619561 = .ok (.amoaddD 6 3 5 5 2) ∧ decodeWord 0xC0A3317C = .ok (.amocasD 10 6 12 5 3)
    ∧ decodeWord 0xC2131560 = .ok (.redadd 1 6 5 5 2) ∧ decodeWord 0xC2792158 = .ok (.waita 7 18 8 5 1)
    ∧ decodeWord 0xC4000010 = .ok (.bar 1) ∧ decodeWord 0xC4000012 = .ok (.barw 1) ∧ decodeWord 0xC4314803 = .ok (.vredg 3 2 18 0 0) :=
  ⟨rfl, rfl, rfl, rfl, rfl, rfl, rfl⟩

/-- 08 R274 to R278. -/
theorem test_decode_messages : decodeWord 0xC8500000 = .ok (.send 5) ∧ decodeWord 0xC8500001 = .ok (.spawn 5)
    ∧ decodeWord 0xC8000002 = .ok .flush ∧ decodeWord 0xC80000C3 = .ok (.clsen 12) ∧ decodeWord 0xC80000C4 = .ok (.clsdis 12)
    ∧ decodeWord 0xC8900005 = .ok (.clspend 9) ∧ decodeWord 0xCA488100 = .ok (.qpush 4 17 16) ∧ decodeWord 0xCA489D01 = .ok (.qpop 4 17 7 16) :=
  ⟨rfl, rfl, rfl, rfl, rfl, rfl, rfl, rfl⟩

/-- 09 R312 to R316; 10 R320 to R323. -/
theorem test_decode_tasks : decodeWord 0xCC500000 = .ok (.launch 5) ∧ decodeWord 0xCC63A021 = .ok (.depset 6 7 8 2) ∧ decodeWord 0xCCD00002 = .ok (.depdec 13)
    ∧ decodeWord 0xCC638203 = .ok (.signal 6 7 8) ∧ decodeWord 0xCE500000 = .ok (.enq 5) ∧ decodeWord 0xCE600011 = .ok (.deq 6 1)
    ∧ decodeWord 0xCE700022 = .ok (.epoll 7 2) := ⟨rfl, rfl, rfl, rfl, rfl, rfl, rfl⟩

/-- 11 R368 to R372; 13 R409 to R413. -/
theorem test_decode_graphs : decodeWord 0xD0831C20 = .ok (.furl 8 6 7 2) ∧ decodeWord 0xD07B9401 = .ok (.unfurl 7 23 5) ∧ decodeWord 0xD0530002 = .ok (.fpeek 5 6)
    ∧ decodeWord 0xD0530003 = .ok (.ftag 5 6) ∧ decodeWord 0xD0530004 = .ok (.fcancel 5 6) ∧ decodeWord 0xD2A00000 = .ok (.spop 10)
    ∧ decodeWord 0xD2029801 = .ok (.spush 5 6) ∧ decodeWord 0xD2700002 = .ok (.salloc 7) ∧ decodeWord 0xD2038003 = .ok (.sfree 7)
    ∧ decodeWord 0xD2832404 = .ok (.slink 8 6 9) ∧ decodeWord 0xD2530005 = .ok (.sread 5 6) :=
  ⟨rfl, rfl, rfl, rfl, rfl, rfl, rfl, rfl, rfl, rfl, rfl⟩

/-- 14 R427 to R437, R447. -/
theorem test_decode_system : decodeWord 0xFC500001 = .ok (.csrr 5 1) ∧ decodeWord 0xFC031002 = .ok (.csrw 0 6 2)
    ∧ decodeWord 0xFC742008 = .ok (.csrset 7 8 8) ∧ decodeWord 0xFC04B001 = .ok (.csrclr 0 9 1) ∧ decodeWord 0xFC03C005 = .ok (.trap 7 5)
    ∧ decodeWord 0xFC035000 = .ok (.tlbinv 6) ∧ decodeWord 0xFC036000 = .ok (.iclean 6) ∧ decodeWord 0xFC537001 = .ok (.migrate 5 6)
    ∧ decodeWord 0xFC537002 = .ok (.mgrd 5 6) ∧ decodeWord 0xFC537003 = .ok (.mgwr 5 6) ∧ decodeWord 0xFC537004 = .ok (.rtswap 5 6) :=
  ⟨rfl, rfl, rfl, rfl, rfl, rfl, rfl, rfl, rfl, rfl, rfl⟩

/-- 02 R47, R70: the halfword 0 and the major opcode 0 decode to nothing; the bits of a row decode through memory. -/
theorem test_decode_reserved : decodeHalf 0 = .error .unlistedSelector ∧ decodeWord 0x80000000 = .error .illegalMajor
    ∧ decodeTableWord 32 0x84530064 = some (.addi 5 6 100) := ⟨rfl, rfl, rfl⟩

/-! Small states: core 0 of a launch of one cluster runs a handler in context 0, with the whole address space granted. -/

/-- Registers of the issuing context set. -/
def regs (s : State) (l : List (BitVec 5 × Word)) : State := s.onCtx fun c => l.foldl (fun c e => c.wx e.1 e.2) c

/-- An entry of a region table: one page of 4 KiB with an attribute, owned by core 0 of device 0. -/
def page (n attr : Nat) : BitVec 128 := BitVec.ofNat 128 (1 + n * 2 ^ 12 + attr * 2 ^ 74 + n * 2 ^ 76)

/-- The whole address space of PASID 0, at the base of device memory. -/
def whole : Grant := { pasid := 0, va := 0, log := 57, pa := 0x4000000000, write := true }

/-- Where an address of it lies. -/
def at' (va : Nat) : Nat := 0x4000000000 + va

/-- A record with a trap handler (THVALID, THID 0). -/
def record : Msg := BitVec.ofNat 512 (2 ^ 480)

/-- A launch on cluster 0. -/
def gang : Launch :=
  { lid := 0, queue := 0, record := record, args := 0, pasid := 0, cores := [0, 1, 2, 3], groups := [0], phase := .running, images := [], kept := []
    inbox := [], startedAt := 0, enteredAt := 0, backfill := none, missed := false, pairIndex := none, areds := []
    partnerEnded := false, doneBy := none }

/-- Message classes of priority 1: 0 reaches the whole device, 1 the peer too, 2 the core, 3 its cluster, 4 its region. -/
def classes : List (BitVec 32) := [0x80000015, 0x80000019, 0x80000001, 0x80000005, 0x8000000D]

/-- A core of the launch: its handler table is at 0x8000 and its group slot 0 holds group 0. -/
def member (rel : BitVec 10) (k : Core) : Core :=
  { k with tlb1 := [whole], ident := { k.ident with lid := some 0, rel := rel, nhlog := 1, hbase := 0x8000, grp := 0x8000 } }

/-- Group 0: the cores of the launch. -/
def group0 : Group := { lid := 0, desc := 0, members := [0, 1, 2, 3], gather := false, arrivedAt := [], heard := [], contribs := [] }

/-- Page 1 is core 0's, page 2 read-shared, page 4 furl-capable, the others coherent; handler 0 of class 0 begins at 0x9000. -/
def base : State :=
  { (((((State.reset.modCore 0 (member 0)).modCore 1 (member 1)).modCore 2 (member 2)).modCore 3 (member 3)).modCore 0 fun k =>
      { k with slot := some 0 }).modCtx 0 0 fun q => { q with status := .running } with
    spaces := [(0, { Space.reset with table := [page 1 0, page 2 1, page 4 3] })]
    hostPages := [whole], launches := [gang], nextLid := 1, groups := State.reset.groups.set 0 (some group0)
    partitions := State.reset.partitions.set 0 { Partition.reset with classes := classes }
    mem := State.reset.mem.write (at' 0x8000) (toBytes 8 0x8000000000009000) }

/-- The same, where a message started the handler. -/
def handling : State :=
  base.onCtx fun c => { c with trigger := some { word := 0, kind := .plain, src := .mailbox, prio := 1, returns := 0, pc := 0x9000 } }

/-- The next state of an instruction. -/
def after (i : Instr) (s : State) : State := match exec i s with
  | .next t => t
  | _ => s

/-! Values that the spec works out. -/

/-- 04 R126: −7 ÷ 2 by truncation, remainders of the dividend's and of the divisor's sign, and division by zero. -/
theorem test_div : (after (.div 1 5 6) (regs base [(5, -7), (6, 2)])).ctx.rx 1 = -3
    ∧ (after (.rem 1 5 6) (regs base [(5, -7), (6, 2)])).ctx.rx 1 = -1 := by decide +kernel
theorem test_mod : (after (.mod 1 5 6) (regs base [(5, -7), (6, 2)])).ctx.rx 1 = 1
    ∧ (after (.mod 1 5 6) (regs base [(5, 7), (6, -2)])).ctx.rx 1 = -1 := by decide +kernel
theorem test_div_by_zero : (after (.divu 1 5 6) (regs base [(5, 5)])).ctx.rx 1 = 0xFFFFFFFFFFFFFFFF
    ∧ (after (.remu 1 5 6) (regs base [(5, 5)])).ctx.rx 1 = 5 := by decide +kernel
theorem test_mulhu : (after (.mulhu 1 5 6) (regs base [(5, -1), (6, -1)])).ctx.rx 1 = 0xFFFFFFFFFFFFFFFE
    ∧ (after (.mulh 1 5 6) (regs base [(5, -1), (6, -1)])).ctx.rx 1 = 0 := by decide +kernel
/-- 04 R128. -/
theorem test_bfx : (after (.bfx 1 5 6) (regs base [(5, 0xF0), (6, 0x804)])).ctx.rx 1 = 0x0F
    ∧ (after (.bfx 1 5 6) (regs base [(5, 0x8000000000000000), (6, 0x83C)])).ctx.rx 1 = 0xFFFFFFFFFFFFFFF8 := by decide +kernel
/-- 04 R129, R130. -/
theorem test_pointers : (after (.ptag 5 6 4 3) (regs base [(6, 0x0000004000001000)])).ctx.rx 5 = 0x4600004000001000
    ∧ (after (.padd 5 5 7) (regs base [(5, 0x4600004000001000), (7, 0x80)])).ctx.rx 5 = 0x4600004000001080 := by decide +kernel
/-- 04 R122: a write to x0 is discarded. -/
theorem test_x0 : (after (.addi 0 6 100) (regs base [(6, 7)])).ctx.rx 0 = 0 ∧ (after (.addi 5 6 100) (regs base [(6, 7)])).ctx.rx 5 = 107 := by decide +kernel
/-- 04 R133, R134: FMIN with one NaN and of zeros, FCLASS. -/
theorem test_fmin : (after (.fmin 1 5 6 0) (regs base [(5, 0x7FC00000), (6, 0x3F800000)])).ctx.rx 1 = 0x3F800000
    ∧ (after (.fmin 1 5 6 0) (regs base [(5, 0x80000000), (6, 0)])).ctx.rx 1 = 0x80000000 := by decide +kernel
theorem test_fclass : (after (.fclass 1 5 0) (regs base [(5, 0x80000000)])).ctx.rx 1 = 0xC1
    ∧ (after (.fclass 1 5 0) (regs base [(5, 0xFF800001)])).ctx.rx 1 = 0x70 := by decide +kernel
/-- 05 R161: the estimates of 1/3 and of 1/√2. -/
theorem test_estimates : elem ((after (.vfrcpe 1 2 0 2) (base.onCtx fun c => c.wv 2 0x40400000)).ctx.rv 1) 32 0 = 0x3EAA0000
    ∧ elem ((after (.vfrsqrte 1 2 0 2) (base.onCtx fun c => c.wv 2 0x40000000)).ctx.rv 1) 32 0 = 0x3F350000 := by decide +kernel
/-- 05 R155: a saturating sum of bytes. -/
theorem test_vadd_sat : elem ((after (.vaddSat 1 2 3 0 0) (base.onCtx fun c => (c.wv 2 100).wv 3 50)).ctx.rv 1) 8 0 = 127 := by decide +kernel
/-- 00 R4, 06 R195: the low byte of a doubleword lies lowest. -/
theorem test_store : ((after (.stD 5 6 0) (regs base [(5, 0x1122334455667788), (6, 0x3000)])).mem.byte (at' 0x3000) = 0x88)
    ∧ (after (.stD 5 6 0) (regs base [(5, 0x1122334455667788), (6, 0x3000)])).mem.byte (at' 0x3007) = 0x11 := by decide +kernel
theorem test_load : (after (.ldW 5 6 0) (regs { base with mem := base.mem.write (at' 0x3000) [1, 2, 3, 0x84] } [(6, 0x3000)])).ctx.rx 5
    = 0xFFFFFFFF84030201 := by decide +kernel
/-- 06 R179: a store to read-shared memory is 0x043, taken as a trap record (14 R420). -/
theorem test_store_cause : ((((after (.stD 5 6 0) (regs handling [(6, 0x2000)])).coreAt 0).net.trapq).map fun e =>
    ((Msg.word e.word 1).extractLsb' 0 9, Msg.word e.word 3, e.pc)) = [(0x043, 0x2000, 0x9000)] := by decide +kernel
/-- 04 R137: an offset in halfwords. -/
theorem test_branch : (after (.beq 5 6 0x7FFC) (base.onCtx fun c => { c with pc := 0x100 })).ctx.pc = 0xF8 := by decide +kernel
/-- A step fetches what stands at the program counter. -/
theorem test_step : (match step ((regs base [(6, 7)]).withFetchWord 32 0x84530064) with
    | .next t => t.ctx.rx 5
    | _ => 0) = 107 := by decide +kernel

/-! States and operands that meet the hypotheses of the statements, clause by clause. -/

theorem witness_IntegerInstructions : 4 ≤ (4 : BitVec 3).toNat ∧ 4 ≤ (7 : BitVec 3).toNat := by decide

/-- Offsets 0 and 393,215 of the scratchpad, the ends of the 57-bit range, and pointers with and without a region. -/
theorem witness_MultiplyDivideBitsPointers :
    (let p : Word := 0xF002000000000000;
    p.extractLsb' 60 4 = 15 ∧ (p.extractLsb' 60 4 = 15 ∧ (0 : Int) ≤ ((p.extractLsb' 0 19).toNat : Int) + 0)
      ∧ ((p.extractLsb' 0 19).toNat : Int) + (393215 : Word).toInt < 393216)
    ∧ (let p : Word := 0x4600004000001000;
      p.extractLsb' 60 4 ≠ 15 ∧ -(2 ^ 56 : Int) ≤ (p.extractLsb' 0 57).toInt + (0 : Word).toInt ∧ (p.extractLsb' 0 57).toInt + (0 : Word).toInt < 2 ^ 56)
    ∧ (((0 : Word).extractLsb' 0 57).toInt + (0x00FFFFFFFFFFFFFF : Word).toInt < 2 ^ 56)
    ∧ -(2 ^ 56 : Int) ≤ ((0 : Word).extractLsb' 0 57).toInt + (0xFF00000000000000 : Word).toInt
    ∧ (base.region base.core.ident.pasid 0x1000).index = some 0 ∧ (base.region base.core.ident.pasid 0x3000).index = none
    ∧ 4 ≤ (7 : BitVec 10).toNat ∧ 13 ≤ (13 : BitVec 10).toNat := by decide +kernel

theorem witness_BranchesAndJumps :
    (va57 ((regs base [(1, 0x9000)]).ctx.rx 1 + (0 : BitVec 15).signExtend 64)).getLsbD 0 = false
    ∧ (va57 ((regs base [(1, 0x9001)]).ctx.rx 1 + (0 : BitVec 15).signExtend 64)).getLsbD 0 = true := by decide +kernel

/-- A context in its outer loop from 0x108 to 0x110, and one in the inner loop too, from 0x10C to 0x110. -/
def looping : Ctx := { Ctx.reset with pc := 0x110, lstat := 1, lc0 := 2, ls0 := 0x108, le0 := 0x110 }
def nested : Ctx := { looping with lstat := 3, lc1 := 2, ls1 := 0x10C, le1 := 0x110 }

theorem witness_LoopsAndTaskControl_arming :
    ((5 : BitVec 9).zeroExtend 64 : Word) ≠ 0 ∧ base.ctx.lstat.getLsbD 0 = false ∧ (base.onCtx fun _ => looping).ctx.lstat = 1
    ∧ ((regs base [(1, 3)]).ctx.rx 1 : Word) ≠ 0 ∧ (base.onCtx fun _ => looping).ctx.lstat ≠ 3
    ∧ (let f := fun (s : State) (pc : Word) => match s.fetchHalf s.cur (va57 (pc + 2 * (4 : BitVec 15).zeroExtend 64)) with
        | .ok _ => 0
        | .error (.trap _ _) => 1
        | .error (.miss _ _) => 2
        | .error (.busy _) => 3;
      f base base.ctx.pc = 0 ∧ f { base with cur := 1 } 0x1000 = 1 ∧ f (base.modCore 0 fun k => { k with tlb1 := [] }) 0 = 2) := by decide +kernel

theorem witness_LoopsAndTaskControl_check :
    (let c := nested;
      va57 (c.pc + 4) = va57 (c.pc + BitVec.ofNat 64 4) ∧ c.lstat.getLsbD 1 = true ∧ c.pc = c.le1 ∧ c.lc1 ≠ 1 ∧ c.ls1 ≠ va57 (c.pc + 4)
      ∧ c.ls1.toInt ≤ c.ls1.toInt ∧ c.ls1.toInt ≤ c.le1.toInt ∧ c.ls0.toInt ≤ c.ls1.toInt ∧ c.ls1.toInt ≤ c.le0.toInt)
    ∧ (let c := { nested with lc1 := 1 };
      c.lstat = 3 ∧ c.pc = c.le1 ∧ c.pc = c.le0 ∧ c.lc1 = 1 ∧ c.lc0 ≠ 1 ∧ c.ls0.toInt ≤ c.le0.toInt)
    ∧ (let c := looping;
      c.lstat = 1 ∧ c.pc = c.le0 ∧ c.lc0 ≠ 1 ∧ c.ls0.toInt ≤ c.le0.toInt)
    ∧ (let c := { looping with lc0 := 1 };
      c.lstat = 1 ∧ c.pc = c.le0 ∧ c.lc0 = 1)
    ∧ (let c := { nested with lc0 := 1, le1 := 0x10C };
      c.lstat = 3 ∧ c.pc ≠ c.le1 ∧ c.pc = c.le0 ∧ c.lc0 = 1)
    ∧ (let c := { nested with pc := 0x10C };
      c.pc ≠ c.le1 ∧ c.ls1.toInt ≤ (va57 (c.pc + 4)).toInt ∧ (va57 (c.pc + 4)).toInt ≤ c.le1.toInt ∧ c.pc ≠ c.le0
      ∧ c.ls0.toInt ≤ (va57 (c.pc + 4)).toInt ∧ (va57 (c.pc + 4)).toInt ≤ c.le0.toInt)
    ∧ (let c := nested;
      (0x200 : Word) ≠ va57 (c.pc + 4) ∧ c.lstat.getLsbD 0 = true ∧ ¬ (c.ls0.toInt ≤ (0x200 : Word).toInt ∧ (0x200 : Word).toInt ≤ c.le0.toInt)
      ∧ (c.ls0.toInt ≤ (0x108 : Word).toInt ∧ (0x108 : Word).toInt ≤ c.le0.toInt) ∧ ¬ (c.ls1.toInt ≤ (0x108 : Word).toInt ∧ (0x108 : Word).toInt ≤ c.le1.toInt)
      ∧ (c.ls0.toInt ≤ (0x10C : Word).toInt ∧ (0x10C : Word).toInt ≤ c.le0.toInt) ∧ c.ls1.toInt ≤ (0x10C : Word).toInt ∧ (0x10C : Word).toInt ≤ c.le1.toInt) := by
  decide +kernel

/-- base with an uncommitted send of its context: a message of class 0 to core 1 of the launch. -/
def letter : Msg := BitVec.ofNat 512 (1 <<< 35)
def sending : State := base.modCore 0 fun k => { k with net := { k.net with sendBuf := [{ ctx := 0, word := letter, task := false }] } }

theorem witness_LoopsAndTaskControl_end : base.sendsOf base.cur base.hot = [] ∧ sending.sendsOf sending.cur sending.hot ≠ []
    ∧ base.core.ident.lid = some 0 ∧ base.core.slot = some base.hot := by decide +kernel

theorem witness_CausesAndTheirValues :
    (let p : Word := 0xF002000000000000;
      p.extractLsb' 60 4 = 15 ∧ ((p.extractLsb' 0 19).toNat : Int) + (-1 : Word).toInt < 0 ∧ (393216 : Int) ≤ ((p.extractLsb' 0 19).toNat : Int) + (393216 : Word).toInt)
    ∧ (let p : Word := 0x0000000000000000;
      p.extractLsb' 60 4 ≠ 15 ∧ (p.extractLsb' 0 57).toInt + (0xFEFFFFFFFFFFFFFF : Word).toInt < -(2 ^ 56 : Int)
      ∧ (2 ^ 56 : Int) ≤ (p.extractLsb' 0 57).toInt + (0x0100000000000000 : Word).toInt)
    ∧ (va57 (1 + (0 : BitVec 15).signExtend 64) : Word).getLsbD 0 = true
    ∧ (base.onCtx fun _ => nested).ctx.lstat = 3 ∧ base.csr base.cur base.hot 0x0FF = none
    ∧ (base.modCore 0 fun k => { k with splice := { k.splice with run := true } }).core.splice.run = true ∧ (5 : BitVec 5) ≠ 0 := by decide +kernel

theorem witness_CausesAndTheirValues_budget : (base.ctxAt 0 0).status = .running
    ∧ (base.ctxAt 0 0).budget.toNat ≤ ({ base with cyc := 0x1000000 } : State).usedOf (base.ctxAt 0 0)
    ∧ (0x041 : BitVec 9) ≠ 0x040 := by decide +kernel

/-- A handler that a task of the deque started, and one that a trap record started, in a launch without a trap handler too. -/
theorem witness_TakingATrap :
    (let k := handling.ctxAt 0 0;
      let g : Trigger := { word := 0, kind := .plain, src := .mailbox, prio := 1, returns := 0, pc := 0x9000 };
      k.trigger = some g ∧ g.src ≠ .trapq ∧ g.returns < 4 ∧ handling.launchOf 0 = some gang ∧ gang.field 480 480 = 1
      ∧ handling.handler 0 (gang.field 479 468) = some (0, 0x9000) ∧ (handling.coreAt 0).net.trapq.length < 16
      ∧ (handling.coreAt 0).net.deque.length < 32 ∧ k.nonRestart = false ∧ k.evCell.getLsbD 0 = false)
    ∧ (handling.coreAt 0).ident.lid = some gang.lid ∧ handling.launch? gang.lid = some gang
    ∧ ({ gang with record := 0 }).field 480 480 = 0 := by decide +kernel

/-- A package whose Mizzen cluster 0 has the fault service, and whose column admits fault packets from every core. -/
theorem witness_TakingATrap_service : base.serviced gang := ⟨(8, 32), 0, by decide +kernel⟩

theorem witness_ControlRegisters : base.csr base.cur base.hot 0x001 = some 0x400 ∧ base.core.splice.run = false ∧ base.ctx.status = .running
    ∧ (base.csr base.cur base.hot 0x060).isSome = true ∧ (1 : BitVec 5) ≠ 0 := by decide +kernel

/-- base where an operation of the context has left for its home. -/
def homeOp (kind : HomeKind) : HomeOp :=
  { dev := 0, core := 0, ctx := 0, d := 5, va := 0x3000, pa := 0x4000003000, attr := 2, chain := false, chain1 := false, anc := (0, 0, 0), issued := 0, kind := kind }
def leaving : State := { base with pending := [.homeOperation (homeOp .depdec)] }
/-- base where core 0's L1 holds the line of 0x1000, which it has stored to. -/
def dirty : State := base.setL1 0 { L1.empty with ways := [{ line := at' 0x1000 / 64, way := 0, what := .own 7 true }] }

theorem witness_CacheAndFence :
    ((0xF002000000000000 : Word).extractLsb' 60 4 = 15) ∧ ((0x3000 : Word).extractLsb' 60 4 ≠ 15)
    ∧ (base.modCore 0 fun k => { k with ident := { k.ident with grp := 0 } }).slotGroup 0 0 = none
    ∧ base.slotGroup 0 0 ≠ none ∧ base.homeBusy base.cur base.hot = false ∧ leaving.homeBusy leaving.cur leaving.hot = true
    ∧ base.unperformed base.cur base.hot = false ∧ leaving.unperformed leaving.cur leaving.hot = true ∧ (1 : BitVec 3) ≠ 0 ∧ 5 ≤ (5 : BitVec 4).toNat
    ∧ ((dirty.l1 dirty.cur).ways.map (·.line)).Nodup ∧ { line := at' 0x1000 / 64, way := 0, what := .own 7 true } ∈ (dirty.l1 dirty.cur).ways := by decide +kernel

/-! Accesses. -/

/-- No L1 of base has a line of a private region, and an access of its page 3 is calm. -/
theorem base_tidy (c : CoreId) : base.tidy c := fun _ h => absurd (List.length_pos_of_mem h) (by decide +kernel)
theorem base_calm : base.calm 0 (.phys (at' 0x3000) 0x3000 2) 4 := ⟨by decide +kernel, by decide +kernel, .inl (by decide +kernel)⟩
theorem base_unmixed : base.unmixed 0 [(.phys (at' 0x3000) 0x3000 2, [0, 0, 0, 0])] := by
  intro e he _ l _
  refine ⟨fun w h => absurd (List.length_pos_of_mem h) (by decide +kernel), fun d hd hp => ?_⟩
  rw [List.mem_singleton.mp hd] at hp
  cases hp

/-- One aligned element at a place. -/
def piece (l : Loc) (n : Nat) : Piece := { loc := l, len := n, align := n }

/-- base where no TLB holds the page, where the peer's memory is not trained and lies there, and where core 1 runs instead. -/
def noTlb : State := base.modCore 0 fun k => { k with tlb1 := [] }
def noPeer : State := { base with peerBase := 0x4000000000 }
def other : State := { base with cur := 1 }

theorem witness_AddressesAndAccessCauses_eff :
    (let p : Word := 0xF002000000000000;
      p.extractLsb' 60 4 = 15 ∧ p.extractLsb' 19 30 = 0 ∧ (0 : Int) ≤ ((p.extractLsb' 0 19).toNat : Int) + 0 ∧ ((p.extractLsb' 0 19).toNat : Int) + 393215 < 393216
      ∧ p.getLsbD 49 = true ∧ ¬ ((p.extractLsb' 0 19).toNat : Int) + 393216 < 393216 ∧ ¬ (0 : Int) ≤ ((p.extractLsb' 0 19).toNat : Int) + -1)
    ∧ (let p : Word := 0xF004000000000000;
      p.extractLsb' 60 4 = 15 ∧ p.getLsbD 49 = false ∧ p.extractLsb' 50 10 ≠ 0)
    ∧ (0xB000000000000000 : Word).extractLsb' 60 4 = 11 ∧ (0xE000000000000000 : Word).extractLsb' 60 4 = 14
    ∧ (0x4000000000000000 : Word).extractLsb' 60 4 ∉ ([11, 12, 14, 15] : List (BitVec 4)) := by decide +kernel

theorem witness_AddressesAndAccessCauses_access :
    (piece (.mem 0x3001) 4).loc.num % 4 ≠ 0 ∧ base.scoreboard 0 true [piece (.sp 0) 4] = false ∧ base.homeBusy 0 0 = false
    ∧ noTlb.translate 0 0x3000 true = none ∧ base.translate 0 0x3000 true = some 0x4000003000 ∧ noPeer.noPeer 0x4000003000 = true
    ∧ base.noPeer 0x4000003000 = false
    ∧ (other.translate 1 0x1000 false).isSome = true ∧ (other.region 0 0x1000).attr = 0 ∧ (other.region 0 0x1000).owner ≠ (1 : CoreId).val ∧ other.firmwareCore 1 = false
    ∧ (base.region 0 0x2000).attr = 1 ∧ (base.region 0 0x3000).attr = 2
    ∧ (∀ l ∈ (Place.phys 0x4000003000 0x3000 2).lines 4 ++ base.ownLines 0 (.phys 0x4000003000 0x3000 2) 4, base.hostHolds l = false)
    ∧ isRelease (.stRel 5 6 2 3) = true ∧ isRelease (.stD 5 6 0) = false ∧ base.writesBack (.stD 5 6 0) = false := by decide +kernel

/-- base where the host holds the line of 0x3000. -/
def lent : State := base.setLine (at' 0x3000 / 64) { Line.empty with host := .exclusive }
theorem witness_AddressesAndAccessCauses_stops :
    (regs base [(6, 0xB000000000000000)]).scalar 6 0 4 = .error (.trap 0x046 0xB000000000000000)
    ∧ (regs base [(6, 0x3001)]).access 0 0 false [piece (.mem 0x3001) 4] = .error (.trap 0x042 0x3001)
    ∧ noTlb.access 0 0 true [piece (.mem 0x3000) 8] = .error (.miss 0x3000 true)
    ∧ leaving.access 0 0 true [piece (.mem 0x3000) 8] = .error (.busy [])
    ∧ lent.access 0 0 true [piece (.mem 0x3000) 8] = .error (.busy [0x1000000C0]) ∧ lent.unperformed lent.cur lent.hot = false
    ∧ (base.setLine (0x4000003000 / 64) { Line.empty with host := .exclusive }).access 0 0 false [piece (.mem 0x3000) 8] = .error (.busy [0x1000000C0]) := by
  decide +kernel

theorem witness_scalar_forms : scalarLoad (.ldW 5 6 0) = some (4, 4, true, 5, 6, 0) ∧ scalarStore (.stD 5 6 0) = some (4, 8, 5, 6, 0)
    ∧ scalarLoad (.ldAcq 5 6 2 3) = some (4, 8, true, 5, 6, 0) := ⟨rfl, rfl, rfl⟩

/-- base where a furled request of context 0 of core 0 is under way: its reduction of the word at 0x4000 is not performed. -/
def furlOp (what : FurlWhat) : FurlReq :=
  { dev := 0, core := 0, ctx := 0, va := 0x4000, pa := at' 0x4000, chain := false, anc := (0, 0, 0), what := what, issued := 0 }
def reduced : State := { base with pending := [.furledRequestAtHome (furlOp (.red 0 1 1))] }

/-- The access of a release goes ahead with its context's earlier operations performed, and with one of them not performed. -/
theorem witness_releases :
    isRelease (.stRel 5 6 2 3) = true ∧ base.unperformed base.cur base.hot = false ∧ reduced.homeBusy 0 0 = false ∧ reduced.unperformed reduced.cur reduced.hot = true
    ∧ reduced.access 0 0 true [piece (.mem 0x3000) 8] = .ok [.phys (at' 0x3000) 0x3000 2] ∧ reduced.access 0 0 true [piece (.sp 0) 8] = .ok [.sp 0]
    ∧ reduced.access 0 0 true [piece (.mem 0x1000) 8] = .ok [.phys (at' 0x1000) 0x1000 0] := by decide +kernel

/-- Core 0's group slot 0 holds no group. -/
def alone : State := base.modCore 0 fun k => { k with ident := { k.ident with grp := 0 } }

theorem witness_ScalarLoadsAndStores :
    base.access 0 0 false [piece (.sp 8) 8] = .ok [.sp 8]
    ∧ base.access 0 0 false [piece (.mem 0x1000) 8] = .ok [.phys (at' 0x1000) 0x1000 0]
    ∧ base.access 0 0 true [piece (.mem 0x3000) 8] = .ok [.phys (at' 0x3000) 0x3000 2]
    ∧ base.access 0 0 false [piece (.mem 0x2000) 8] = .ok [.phys (at' 0x2000) 0x2000 1] ∧ base.stale = []
    ∧ base.access 0 0 false [piece (.mem 0x4000) 8] = .ok [.phys (at' 0x4000) 0x4000 3] ∧ base.tags = [] ∧ base.ctx.answers = []
    ∧ (base.line (at' 0x4000 / 64)).u = []
    ∧ (regs base [(6, 0x3000)]).scalar 6 0 4 = .ok (piece (.mem 0x3000) 4)
    ∧ base.load [piece (.mem 0x8000) 4] = .bytes [[0x00, 0x90, 0, 0]] [.phys (at' 0x8000) 0x8000 2]
    ∧ alone.slotGroup alone.cur 0 = none := by decide +kernel

/-- Elements that a load answers with their bytes, and elements that a store may write. -/
def loads (s : State) (e : Except Stop (List Piece)) : Bool := match e with
  | .ok ps => (match s.load ps with
    | .bytes _ _ => true
    | _ => false)
  | .error _ => false
def stores (s : State) (e : Except Stop (List Piece)) : Bool := match e with
  | .ok ps => (match s.access s.cur s.hot true ps with
    | .ok _ => true
    | .error _ => false)
  | .error _ => false

theorem witness_VectorMemoryAccesses :
    (let s := regs base [(6, 0x3000), (7, 8)];
      (vectorLoad s (.vld 1 6 0 2)).isSome = true ∧ (vectorStore s (.vst 1 6 0 2)).isSome = true ∧ loads s (s.pieces 0x3000 4 (activeOf (s.ctx.rk 0) 16) fun n => (4 * n : Nat)) = true
      ∧ stores s (s.pieces 0x3000 4 (activeOf (s.ctx.rk 0) 16) fun n => (4 * n : Nat)) = true)
    ∧ (let s := regs base [(6, 0xF002000000000000)];
      eff s.core.ident.rel (s.ctx.rx 6) 0 = .ok (.sp 0)
      ∧ loads s (s.pieces (s.ctx.rx 6) 4 ((activeOf (s.ctx.rk 0) 16).filter fun n => decide (0 + 1536 * n < 393216)) fun n => (1536 * n : Nat)) = true
      ∧ stores s (s.pieces (s.ctx.rx 6) 4 ((activeOf (s.ctx.rk 0) 16).filter fun n => decide (0 + 1536 * n < 393216)) fun n => (1536 * n : Nat)) = true) := by
  decide +kernel

/-- Pointers of the tile formats. -/
theorem witness_VectorMemoryAccesses_tiles :
    (vectorLoad (regs base [(6, 0xB000000000000000)]) (.vld 1 6 0 2)).isSome = true ∧ (vectorStore (regs base [(6, 0xC000000000000000)]) (.vst 1 6 0 2)).isSome = true
    ∧ (regs base [(6, 0xB000000000000000)]).ctx.rx 6 = 0xB000000000000000 ∧ (0xB000000000000000 : Word).extractLsb' 60 4 = 11
    ∧ (0xC000000000000000 : Word).extractLsb' 60 4 = 12 := by decide +kernel

theorem witness_VectorMemoryAccesses_group :
    (let s := regs base [(6, 0x3000), (9, 0x3100)];
      (match s.group 4 (s.ctx.rx 6) (s.ctx.rk 0) with
        | .ok (e, act, ps) => decide (e = 4) && loads s (.ok ps) && stores s (.ok ps) && loads s ((s.scalePiece 9 act).map fun p => p.toList)
        | .error _ => false) = true
      ∧ (match s.group 3 (s.ctx.rx 6) (s.ctx.rk 0) with
        | .ok (e, act, ps) => decide (e = 3) && stores s (.ok ps) && (match s.scalePiece 0 act with
          | .ok none => true
          | _ => false)
        | .error _ => false) = true) := by decide +kernel

theorem witness_Atomics :
    (atomicRow (.amoaddD 5 6 7 5 0)).isSome = true
    ∧ (regs base [(6, 0xF002000000000000)]).scalar 6 0 8 = .ok (piece (.sp 0) 8) ∧ base.access 0 0 true [piece (.sp 0) 8] = .ok [.sp 0]
    ∧ base.access 0 0 true [piece (.mem 0x1000) 8] = .ok [.phys (at' 0x1000) 0x1000 0]
    ∧ (regs base [(6, 0x3000)]).scalar 6 0 8 = .ok (piece (.mem 0x3000) 8)
    ∧ base.access 0 0 true [piece (.mem 0x3000) 8] = .ok [.phys (at' 0x3000) 0x3000 2] ∧ (5 : BitVec 4) ≠ 2
    ∧ base.hostHolds (at' 0x3000 / 64) = false ∧ base.openCells (at' 0x3000) 8 = []
    ∧ (base.setLine (at' 0x3000 / 64) { Line.empty with host := .exclusive }).hostHolds ((homeOp .depdec).pa / 64) = true
    ∧ (base.stall 0 0).ctx.status = .stalled ∧ (base.suspend 0 0 (.atomic (homeOp .depdec))).ctx.status = .suspended (.atomic (homeOp .depdec))
    ∧ (homeOp .depdec).attr ≠ 3 ∧ (homeOp .depdec).dev = base.dev ∧ ((atomicRow (.amoaddD 5 6 7 5 3)).map (·.release)) = some true := by
  decide +kernel

/-- An operation of the furled word at 0x4000, which is not VALUE, of this package or of its peer. -/
def farCell (dev : BitVec 1) (kind : HomeKind) : HomeOp := { homeOp kind with dev := dev, va := 0x4000, pa := at' 0x4000, attr := 3 }
def tagged (t : Nat) : State := { base with tags := [(at' 0x4000 / 8, BitVec.ofNat 2 t)] }
def linked (s : State) : State := { s with peerTrained := true, peerBase := 0x8000000000 }

theorem witness_Atomics_cells :
    (let op := farCell 0 (.amo 0 1 0 0 0);
      op.dev = (tagged 1).dev ∧ (tagged 1).hostHolds (op.pa / 64) = false ∧ (tagged 1).openCells op.pa (amoSize 0) ≠ [] ∧ base.openCells op.pa (amoSize 0) = []
      ∧ (((tagged 1).stall 0 0).ctxAt 0 0).status = .stalled ∧ (((tagged 1).suspend 0 0 (.atomic op)).ctxAt 0 0).status = .suspended (.atomic op)
      ∧ ((tagged 1).suspend 0 0 (.atomic op)).openCells op.pa (amoSize 0) ≠ [] ∧ ((tagged 1).suspend 0 0 (.atomic op)).hostHolds (op.pa / 64) = false)
    ∧ (let op := farCell 1 (.red 0 3 1);
      op.dev ≠ (tagged 1).dev ∧ (tagged 1).hostHolds (op.pa / 64) = false ∧ (tagged 1).openCells op.pa (redBytes 3) ≠ [] ∧ (linked base).peerTrained = true) := by
  decide +kernel

theorem witness_Reductions :
    (reductionRow (.redadd 1 6 7 5 0)).isSome = true ∧ base.access 0 0 true [piece (.sp 0) 8] = .ok [.sp 0]
    ∧ base.access 0 0 true [piece (.mem 0x3000) 8] = .ok [.phys (at' 0x3000) 0x3000 2]
    ∧ base.ownMem (at' 0x3000) = true ∧ base.lineValue (at' 0x3000 / 64) = true ∧ base.armed (at' 0x3000 / 64) = false
    ∧ base.l1State base.cur (at' 0x3000 / 64) = .i ∧ (base.line (at' 0x3000 / 64)).u = [] ∧ base.openCells (at' 0x3000) 8 = []
    ∧ (let s := (base.setLine (at' 0x3000 / 64) { Line.empty with owner := some (0, .m) }).setL1 0 { L1.empty with ways := [{ line := at' 0x3000 / 64, way := 0, what := .tracked }] };
      s.l1State s.cur (at' 0x3000 / 64) = .m ∧ s.access 0 0 true [piece (.mem 0x3000) 8] = .ok [.phys (at' 0x3000) 0x3000 2])
    ∧ (base.setTag (at' 0x4000) 1).lineValue (at' 0x4000 / 64) = false ∧ leaving.unperformed leaving.cur leaving.hot = true
    ∧ base.unperformed base.cur base.hot = false ∧ ((reductionRow (.redadd 1 6 7 5 2)).map (·.release)) = some true := by decide +kernel

/-- A wait of context 0 of core 0 on the doubleword at 0x3000 for 1. -/
def wait1 (polled : Bool) : WaitaOp :=
  { dev := 0, d := 5, va := 0x3000, target := .phys (at' 0x3000), attr := 2, cmp := 0, dword := true, value := 1, mask := 0xFFFFFFFFFFFFFFFF, scope := 5, limit := 1
    issued := 0, polled := polled, met := none }
def waiting (polled : Bool) : State := { base.suspend 0 0 (.waita (wait1 polled)) with cyc := 2 }
/-- The same where the word is 1. -/
def met (polled : Bool) : State := { waiting polled with mem := (waiting polled).mem.write (at' 0x3000) [1] }
/-- A full cleat table at the word's home. -/
def fullTable (s : State) (pa : Nat) : State := s.modCleat pa fun _ => List.replicate 64 (.ring { core := 9, ctx := 0, op := 0, va := 0, pa := 0, data := 0, a := 0, c := 0, lim := 0, issued := 0 } none)

theorem witness_AddressWaits :
    (let s := regs base [(6, 0x3000), (7, 0xF002000000000000), (8, 0x1000)];
      s.scalar 6 0 8 = .ok (piece (.mem 0x3000) 8) ∧ s.reach 0 0 false false [piece (.mem 0x3000) 8] = .ok [.phys (at' 0x3000) 0x3000 2]
      ∧ (wait1 false).dev = s.dev ∧ s.reach 0 0 false false [piece (.sp 0) 8] = .ok [.sp 0] ∧ s.reach 0 0 false false [piece (.mem 0x1000) 8] = .ok [.phys (at' 0x1000) 0x1000 0])
    ∧ ((waiting false).ctxAt 0 0).status = .suspended (.waita (wait1 false)) ∧ (wait1 false).issued + 2 ^ (wait1 false).limit.toNat ≤ (waiting false).cyc
    ∧ (waiting false).wakePending 0 0 = false ∧ (waiting false).waitHolds 0 (wait1 false) = false ∧ (met false).waitHolds 0 (wait1 false) = true
    ∧ (waiting false).hostHolds (at' 0x3000 / 64) = false ∧ ((met true).ctxAt 0 0).status = .suspended (.waita (wait1 true)) := by decide +kernel

theorem witness_AddressWaits_home :
    (let s := waiting false;
      let u := s.armLine (at' 0x3000 / 64);
      let v := met false;
      u.waitHolds 0 (wait1 false) = false ∧ (v.armLine (at' 0x3000 / 64)).waitHolds 0 (wait1 false) = true ∧ (wait1 false).attr ≠ 1
      ∧ s.peerMem (at' 0x3000) = false ∧ (u.cleatAt (at' 0x3000)).length < 64
      ∧ ¬ (((fullTable s (at' 0x3000)).armLine (at' 0x3000 / 64)).cleatAt (at' 0x3000)).length < 64
      ∧ ((met true).recall (at' 0x3000 / 64)).waitHolds 0 (wait1 true) = true ∧ ((waiting true).recall (at' 0x3000 / 64)).waitHolds 0 (wait1 true) = false
      ∧ ({ s with peerTrained := true } : State).peerMem 0x10000003000 = true
      ∧ ((waiting true).setLine (at' 0x3000 / 64) { Line.empty with host := .exclusive }).hostHolds (at' 0x3000 / 64) = true) := by decide +kernel

/-- A wait on read-shared memory that does not hold, a wait without a value, and each comparison code with one. -/
theorem witness_AddressWaits_values :
    (let w := { wait1 false with attr := 1 };
      let s := base.suspend 0 0 (.waita w);
      (s.ctxAt 0 0).status = .suspended (.waita w) ∧ s.waitHolds 0 w = false ∧ s.hostHolds (at' 0x3000 / 64) = false)
    ∧ (tagged 1).waitValue 0 { wait1 false with target := .phys (at' 0x4000), attr := 3 } = none
    ∧ base.waitValue 0 { wait1 false with target := .scratch 8 } = some 0 ∧ base.waitValue 0 { wait1 false with attr := 0 } = some 0
    ∧ (∀ i : Fin 8, base.waitValue 0 { wait1 false with cmp := BitVec.ofFin i } = some 0) := by decide +kernel

/-! Groups, messages and tasks. -/

/-- Core 0 has arrived at the barrier of group slot 0, in phase 0. -/
def arrived : State := (base.modCore 0 fun k => { k with arrived := k.arrived.set 0 true }).onCtx fun c => { c with arrived := c.arrived.set 0 (some 0) }

theorem witness_BarrierInstructions : (0 : Fin 4).val = (0 : BitVec 2).toNat ∧ base.slotGroup base.cur 1 = none ∧ base.slotGroup base.cur 0 = some 0
    ∧ base.core.arrived[(0 : Fin 4)] = false ∧ arrived.core.arrived[(0 : Fin 4)] = true ∧ arrived.ctx.arrived[(0 : Fin 4)] = some arrived.core.phase[(0 : Fin 4)]
    ∧ ((regs base [(9, 4095)]).ctx.rx 9).toNat ≤ 4095 ∧ 4095 < ((regs base [(9, 4096)]).ctx.rx 9).toNat ∧ base.ctx.arrived[(0 : Fin 4)] ≠ some 0
    ∧ base.unperformed base.cur base.hot = false ∧ leaving.unperformed leaving.cur leaving.hot = true ∧ leaving.core.arrived[(0 : Fin 4)] = false := by decide +kernel

/-- Core 0 waits in the barrier; contributions of cores 0 and 1 to a reduction are in, under slices 0 and n. -/
def barred : State := arrived.suspend 0 0 (.barrier 0 0 false)
def share (c : CoreId) (slice : Nat) : Contribution := { core := c, ctx := 0, slice := slice, word := true, data := 1, dst := 3 }
def reducing (ks : List Contribution) : State :=
  { (base.suspend 0 0 (.vredg 0 0)).suspend 1 0 (.vredg 0 0) with
    groups := base.groups.set 0 (some { group0 with contribs := ks.map fun k => (0, k) }) }

theorem witness_BarrierProgress :
    base.groups[(0 : Fin 256)] = some group0 ∧ ((0 : BitVec 16), 0, 1) ∉ group0.heard
    ∧ ((0 : BitVec 16), 0, 0) ∉ ({ group0 with heard := [(0, 0, 1), (0, 0, 2), (0, 0, 3)] } : Group).heard
    ∧ (∀ r, r < ([0, 1, 2, 3] : List (BitVec 10)).length → r = 0 ∨ ((0 : BitVec 16), 0, r) ∈ ([(0, 0, 1), (0, 0, 2), (0, 0, 3)] : List (BitVec 16 × Nat × Nat)))
    ∧ base.memberCore group0 3 = some 3
    ∧ barred.slotOf 0 0 = some 0 ∧ (barred.coreAt 0).phase[(0 : Fin 4)] = 0 ∧ (barred.coreAt 0).arrived[(0 : Fin 4)] = true
    ∧ (barred.ctxAt 0 0).status = .suspended (.barrier 0 0 false) ∧ group0.rank (barred.coreAt 0).ident.rel = 0
    ∧ (reducing [share 0 0]).contribPending 0 0 = false ∧ ((reducing [share 0 0]).ctxAt 0 0).status = .suspended (.vredg 0 0)
    ∧ ((reducing [share 0 0, share 1 0]).ctxAt 1 0).status = .suspended (.vredg 0 0) := by decide +kernel

/-- Contributions to a reduction: distinct slices of integers or of floating-point numbers, one slice twice, and mixed elements. -/
theorem one_each (ks : List Contribution) (h : (ks.map (·.slice)).Nodup) (v : Nat) : (ks.filter fun e => e.slice = v).length ≤ 1 := by
  have := List.nodup_iff_count_le_one.mp h v
  simpa [List.count, List.filter_map, List.countP_eq_length_filter, Function.comp_def, Bool.beq_eq_decide_eq] using this

theorem witness_BarrierProgress_contributions :
    (∀ ks ∈ [[share 0 0, share 1 4095], [{ share 0 0 with word := false }, { share 1 2 with word := false }], [share 0 3, share 1 3],
        [share 0 0, { share 1 1 with word := false }]],
      (reducing ks).contribPending 0 0 = false ∧ ((group0.contribs ++ ks.map fun k => ((0 : BitVec 16), k)).filter fun f => f.1 = 0).map (·.2) = ks
      ∧ (ks.map fun e => (e.core, e.ctx)).Nodup ∧ ∀ e ∈ ks, ((reducing ks).ctxAt e.core e.ctx).status = .suspended (.vredg 0 0))
    ∧ (([share 0 0, share 1 4095] : List Contribution).map (·.slice)).Nodup ∧ (([share 0 0, { share 1 1 with word := false }] : List Contribution).map (·.slice)).Nodup
    ∧ (([{ share 0 0 with word := false }, { share 1 2 with word := false }] : List Contribution).map (·.slice)).Nodup
    ∧ (∀ e ∈ ([{ share 0 0 with word := false }, { share 1 2 with word := false }] : List Contribution), e.slice < 2 ^ 2)
    ∧ 2 ≤ (([share 0 3, share 1 3] : List Contribution).filter fun e => e.slice = 3).length
    ∧ (∀ u, u < 3 → (([share 0 3, share 1 3] : List Contribution).filter fun e => e.slice = u).length ≤ 1) := by decide +kernel

/-- A header of a class, a handler id, a package and a core, in a vector register. -/
def header (cl hid dev rel : Nat) : Msg := BitVec.ofNat 512 (cl * 2 ^ 58 + hid * 2 ^ 46 + dev * 2 ^ 45 + rel * 2 ^ 35)
def peered : State := { base with peerTrained := true, peerBase := 0x8000000000 }
def stuffed : State := base.modCore 0 fun k => { k with net := { k.net with sendBuf := List.replicate 32 { ctx := 0, word := letter, task := false } } }

theorem witness_SendInstructions :
    base.sendOk 0 (header 0 0 0 1) = true ∧ base.spawnOk 0 (header 0 0 0 1) = true ∧ base.core.sendRoom base.hot = true
    ∧ base.sendOk 0 (header 9 0 0 1) = false ∧ base.spawnOk 0 (header 9 0 0 1) = false ∧ stuffed.sendOk 0 (header 0 0 0 1) = true ∧ stuffed.core.sendRoom stuffed.hot = false
    ∧ base.sendsOf base.cur base.hot = [] ∧ sending.sendsOf sending.cur sending.hot ≠ []
    ∧ peered.sendOk 0 (header 1 0 1 1) = true ∧ (Msg.word (header 1 0 1 1) 0).extractLsb' 45 1 ≠ peered.dev
    ∧ base.sendOk 0 (header 2 0 0 0) = true ∧ (base.classEntry 0 2).extractLsb' 2 4 = 0 ∧ base.sendOk 0 (header 3 0 0 3) = true
    ∧ (base.classEntry 0 3).extractLsb' 2 4 = 1 ∧ base.sendOk 0 (header 4 0 0 3) = true ∧ (base.classEntry 0 4).extractLsb' 2 4 = 3 := by decide +kernel

/-- A packet of the launch, for its core 1 or another. -/
def packet (dst : BitVec 10) (w : Msg) : Packet := { lid := 0, dst := dst, word := w, src := .core 0 0, kind := .plain }
def tasking : State := base.modCore 0 fun k => { k with net := { k.net with sendBuf := [{ ctx := 0, word := header 0 0 0 0, task := true }] } }

theorem witness_CommitsAndRouterEvents_commit :
    sending.sendsOf 0 0 = [{ ctx := 0, word := letter, task := false }] ∧ (sending.coreAt 0).ident.lid = some 0 ∧ sending.unperformed 0 0 = false
    ∧ ({ sending with pending := leaving.pending } : State).unperformed 0 0 = true ∧ sending.stopped 0 = false
    ∧ (Msg.word letter 0).extractLsb' 2 2 = 0 ∧ (Msg.word (letter ||| 4) 0).extractLsb' 2 2 ≠ 0
    ∧ (sending.coreAt 0).net.retryBuf.length < 64 ∧ tasking.sendsOf 0 0 = [{ ctx := 0, word := header 0 0 0 0, task := true }]
    ∧ (tasking.coreAt 0).net.deque.length < 32 ∧ ((sending.modCtx 0 0 fun c => { c with status := .ending }).ctxAt 0 0).status = .ending := by decide +kernel

/-- Core 1 belongs to another address space, of partition 1: a packet for it is refused. -/
def foreign : State :=
  { base.modCore 1 (fun k => { k with ident := { k.ident with pasid := 1 } }) with
    spaces := base.spaces ++ [(1, { Space.reset with partition := 1 })], pending := [.messageArrival (packet 1 letter)] }
/-- A packet waits for core 1; partition 0 stopped for the swap of its tables while it does, or while nothing of it does. -/
def mailed : State := { base with pending := [.messageArrival (packet 1 letter)] }
def halted (s : State) (inside : List Instr) : State :=
  { s with partitions := s.partitions.set 0 { (s.part 0) with stopped := true, inside := inside } }

theorem witness_CommitsAndRouterEvents_swap :
    (base.part 0).stopped = false ∧ base.pending = [] ∧ base.parked = []
    ∧ Instr.messageArrival (packet 1 letter) ∈ (mailed.pending ++ mailed.parked).filter (mailed.inPartition 0)
    ∧ ((halted mailed mailed.pending).part 0).stopped = true ∧ ((halted mailed mailed.pending).part 0).inside = mailed.pending
    ∧ ((halted mailed []).part 0).inside = [] := by decide +kernel

theorem witness_CommitsAndRouterEvents_escape :
    base.rtQueue 0 = false ∧ (∃ i : Fin 5, ((0 : Fin 288), i, (0 : Fin 8)) ∉ mailed.escaped ∧ mailed.queueHolds (0, i, 0) = true)
    ∧ base.queueHolds (0, 0, 0) = false
    ∧ ({ base with partitions := base.partitions.set 0 { Partition.reset with classes := [0x80000080] } } : State).rtQueue 0 = true := by
  decide +kernel

/-- A launch whose number on its queue is 3, which core 0 sends packets of. -/
def third : State := { base with launches := [{ gang with pairIndex := some 3 }] }
theorem witness_CommitsAndRouterEvents_injected :
    base.launch? 0 = some gang ∧ gang.pairIndex = none ∧ (third.launch? 0).bind (·.pairIndex) = some 3 ∧ (packet 1 letter).src = .core base.dev 0
    ∧ gang.cores[(0 : BitVec 10).toNat]? = some 0 ∧ (Msg.word (packet 1 letter).word 0).extractLsb' 45 1 = base.dev ∧ (packet 1 letter).dst ≠ 0x3FF
    ∧ gang.cores[(packet 1 letter).dst.toNat]? = some 1 ∧ { packet 1 letter with src := .linkDie }.src = .linkDie := by decide +kernel

/-- A message for the peer, of class 1. -/
def crossing : State :=
  { linked base with cores := (base.modCore 0 fun k => { k with net := { k.net with sendBuf := [{ ctx := 0, word := header 1 0 1 1, task := false }] } }).cores }
theorem witness_CommitsAndRouterEvents_peer :
    crossing.sendsOf 0 0 = [{ ctx := 0, word := header 1 0 1 1, task := false }] ∧ (Msg.word (header 1 0 1 1) 0).extractLsb' 45 1 ≠ crossing.dev
    ∧ (Msg.word (header 1 0 1 1) 0).extractLsb' 32 3 = 0 ∧ crossing.peerTrained = true ∧ crossing.stopped 0 = false := by decide +kernel

theorem witness_CommitsAndRouterEvents_dropped :
    arrivalOf (packet 1 letter) ∈ mailed.pending ∧ mailed.receiver (packet 1 letter) = some 1 ∧ (packet 1 letter).dst ≠ 0x3FF
    ∧ (mailed.space (mailed.coreAt 1).ident.pasid).partition = (packet 1 letter).part
    ∧ arrivalOf (packet 1 letter) ∈ foreign.pending ∧ foreign.receiver (packet 1 letter) = some 1
    ∧ (foreign.space (foreign.coreAt 1).ident.pasid).partition ≠ (packet 1 letter).part ∧ (packet 0x3FF letter).dst = 0x3FF := by
  rw [arrivalOf, if_pos (by decide +kernel)]
  decide +kernel

theorem admitted_iff (k : Router) (kind : Fin 7) (src dst : BitVec 11) :
    (∃ e ∈ k.firewall.toList, e.getLsbD 63 = true ∧ e.getLsbD (56 + kind.val) = true ∧ (e.extractLsb' 0 11 = src ∨ e.extractLsb' 0 11 = dst))
      ↔ k.admits kind src dst = true := by
  constructor
  · rintro ⟨e, h, v, k, p⟩
    exact List.any_eq_true.mpr ⟨e, h, by simp_all⟩
  · intro h
    obtain ⟨e, h, p⟩ := List.any_eq_true.mp h
    simp only [Bool.and_eq_true, Bool.or_eq_true, beq_iff_eq] at p
    exact ⟨e, h, p.1.1, p.1.2, p.2⟩

/-- Router 8 stands at the Mizzen column, router 0 does not; router 8 admits fault packets of its core 32. -/
theorem witness_CommitsAndRouterEvents_firewall :
    base.mizzenRouter 8 = true ∧ base.mizzenRouter 0 = false ∧ (base.routers[(8 : Fin 288)]).admits 6 0 0 = false
    ∧ (base.routers[(8 : Fin 288)]).admits 1 0 32 = true
    ∧ base.mizzenPhys 32 = true ∧ base.mizzenPhys 0 = false ∧ base.mizzenPhys 33 = true := by
  decide +kernel

/-- Routes that differ in their router or their place. -/
theorem witness_CommitsAndRouterEvents_routes :
    (([((0 : Fin 288), 1, (2 : Fin 6)), (0, 2, 3)] : List (Fin 288 × Nat × Fin 6)).map fun e => (e.1, e.2.1)).Nodup ∧ 2 / 2048 = (0 : BitVec 4).toNat
    ∧ 2048 / 2048 ≠ (0 : BitVec 4).toNat := by decide +kernel

def mail (n : Nat) : MailEntry := { word := letter, kind := .plain, pc := 0x9000, prio := n, returns := 0, started := none }
def modNet (c : CoreId) (f : Net → Net) : State := base.modCore c fun k => { k with net := f k.net }

/-- A message of core 0 of the peer's half of the launch that is the third of its queue's pair. -/
def peerPacket (index : Nat) : Packet := { packet 1 letter with src := .core 1 0, half := some { queue := 0, index := index } }
theorem witness_MessageArrivals_peer :
    third.launchFor (peerPacket 3) = some { gang with pairIndex := some 3 } ∧ (linked third).peerTrained = true ∧ (1 : BitVec 1) ≠ third.dev
    ∧ third.launchFor (peerPacket 4) = none ∧ Sparse.get 0 third.pairCounts 0 ≤ 4
    ∧ ¬ Sparse.get 0 ({ third with pairCounts := [(0, 5)] } : State).pairCounts 0 ≤ 4
    ∧ base.launchFor (packet 1 letter) = some gang ∧ ({ base with launches := [] } : State).launchFor (packet 1 letter) = none := by decide +kernel

theorem witness_MessageArrivals :
    base.launch? 0 = some gang ∧ gang.core? (1 : BitVec 10).toNat = some 1 ∧ packetUnit (packet 1 letter) = 0 ∧ gang.phase = .running
    ∧ base.forwarder 1 = none ∧ (base.coreAt 1).net.refusing = false ∧ decide (Msg.field letter 4 4 = 1) = (base.coreAt 1).ident.xt
    ∧ base.mailAway 1 (packet 1 letter) = false ∧ base.entryPc 1 (packet 1 letter) = some 0x9000
    ∧ nackBlocks (base.coreAt 1).net.nacks 0 (.core 0 0) 0 = false ∧ (base.coreAt 1).net.mailbox.length < 64
    ∧ 64 ≤ ((modNet 1 fun n => { n with mailbox := List.replicate 64 (mail 1) }).coreAt 1).net.mailbox.length
    ∧ nackBlocks [((0 : BitVec 3), .core 0 0, (5 : BitVec 16))] 0 (.core 0 0) 0 = true
    ∧ base.entryPc 1 (packet 1 (header 0 1 0 1)) = none ∧ base.mailAway 1 (packet 1 (header 0 1 0 1)) = false
    ∧ decide (Msg.field (letter ||| 16) 4 4 = 1) ≠ (base.coreAt 1).ident.xt
    ∧ ({ gang with phase := .saving }).phase ≠ .running ∧ { base with hostPages := [] }.mailAway 1 (packet 1 letter) = true
    ∧ { base with migrated := [(5, 1)] }.forwarder 1 = some 5 ∧ base.launch? 7 = none ∧ base.nextLid ≤ 7
    ∧ ({ base with launches := [] } : State).launch? 0 = none ∧ 0 < base.nextLid := by decide +kernel

/-- Core 1 with a free slot, and with a ready context, a trap record or a message. -/
def trapEntry : TrapEntry := { word := letter, pc := 0x9000, started := none }

theorem witness_SlotHandoffs :
    (base.coreAt 1).slot = none ∧ base.mayRun 1 = true
    ∧ ((base.modCtx 1 2 fun c => { c with status := .ready }).coreAt 1).readyCtx = some 2 ∧ (base.coreAt 1).readyCtx = none ∧ (base.coreAt 1).freeCtx = some 0
    ∧ ((modNet 1 fun n => { n with trapq := [trapEntry] }).coreAt 1).net.trapq.find? (fun e => e.started.isNone) = some trapEntry
    ∧ ((modNet 1 fun n => { n with mailbox := [mail 1] }).coreAt 1).eligible (mail 1) = true ∧ (mail 1).kind = .plain ∧ (base.coreAt 1).net.deque = []
    ∧ ((base.coreAt 1).freeCtx.bind (base.newWork 1)).isNone = true ∧ ((base.coreAt 1).ctxs[(base.coreAt 1).last]).status ≠ .ready
    ∧ (let s := (base.modCore 1 fun k => { k with yielded := true }).modCtx 1 (base.coreAt 1).last fun c => { c with status := .ready };
      (s.coreAt 1).readyCtx = none ∧ ((s.coreAt 1).freeCtx.bind (s.newWork 1)).isNone = true ∧ ((s.coreAt 1).slot = none ∧ s.mayRun 1 = true)
      ∧ (s.ctxAt 1 (s.coreAt 1).last).status = .ready) := by decide +kernel

def entry (held : Bool) (refusals : Nat) : RetryEntry := { pkt := packet 1 letter, refusals := refusals, backoff := 64, held := held, since := 0, barred := false }
def task1 : Task := { word := header 0 0 0 0, prio := 1, returns := 0 }
/-- The record has a spill area of 2^5 records for each core at 0xA000, of which core 0 has filled two. -/
def spilled : State :=
  { modNet 0 (fun n => { n with spilled := 2, reloading := true, spillRet := [0, 0] }) with
    launches := [{ gang with record := BitVec.ofNat 512 (5 * 2 ^ 441 + 0xA000 * 2 ^ 384) }] }

theorem witness_RetryDequeAndSteal :
    base.member 0 0 = some 0 ∧ (entry false 0).pkt.lid = 0 ∧ (modNet 0 fun n => { n with retryBuf := [entry false 0] }).retryLimit = 64
    ∧ (entry false 63).refusals < base.retryLimit ∧ base.retryLimit ≤ (entry false 64).refusals
    ∧ (entry true 1).held = true ∧ (entry true 1).since + (entry true 1).delay ≤ ({ base with cyc := 64 } : State).cyc ∧ base.isHere (entry true 1).pkt = true
    ∧ (spilled.coreAt 0).net.reloading = true ∧ min (min 16 (spilled.coreAt 0).net.spilled) (32 - (spilled.coreAt 0).net.deque.length) = 2 ∧ (spilled.spilledTasks 0 0 2).isSome = true
    ∧ (base.coreAt 1).isIdle = true ∧ 1 < (base.stealDomain 1).length
    ∧ (base.stealDomain 1)[(lfsrNext (base.coreAt 1).net.lfsr).toNat % (base.stealDomain 1).length]? = some 2 ∧ (2 : CoreId) ≠ 1
    ∧ (base.coreAt 1).net.deque.length + [task1, task1].length ≤ 32 := by decide +kernel

/-- A ring of 8 doublewords at 0xB000 whose descriptor is at 0x3000, with one producer, and what a context of core 0 asks of it. -/
def ringWord (head tail eos : Nat) : Msg := BitVec.ofNat 512 (head + tail * 2 ^ 32 + 8 * 2 ^ 64 + 8 * 2 ^ 128 + 0xB000 * 2 ^ 192 + 2 ^ 320 + eos * 2 ^ 384)
def ringed (head tail eos : Nat) : State := { base with mem := base.mem.write (at' 0x3000) (toBytes 64 (ringWord head tail eos).toNat) }
def ringOp (op : BitVec 2) : RingOp := { core := 0, ctx := 0, op := op, va := 0x3000, pa := at' 0x3000, data := 7, a := 1, c := 2, lim := 1, issued := 0 }
/-- The context waits for it, parked or to be sent again. -/
def parkedRing : State := { (base.suspend 0 0 (.ring (ringOp 0))).modCleat (at' 0x3000) fun _ => [.ring (ringOp 0) none] with cyc := 2 }
def resending : State := (base.stall 0 0).modCore 0 fun k => { k with net := { k.net with rings := [ringOp 0] } }

theorem witness_RingQueues_issue :
    eff 0 0xF002000000000000 0 = .ok (.sp 0) ∧ eff 0 0x3000 0 = .ok (.mem 0x3000) ∧ base.translate 0 0x3000 true = some (at' 0x3000)
    ∧ base.noPeer (at' 0x3000) = false ∧ base.firmwareCore base.cur = false ∧ (base.region 0 0x3000).attr = 2 ∧ ringOk (BitVec.ofNat 512 (base.mem.num (at' 0x3000) 64)) = false
    ∧ (let s := ringed 0 0 0;
      ringOk (BitVec.ofNat 512 ((s.recall (at' 0x3000 / 64)).mem.num (at' 0x3000) 64)) = true ∧ s.ownMem (at' 0x3000) = true
      ∧ (0x3000 : Word).toNat % 64 = 0 ∧ s.homeBusy s.cur s.hot = false ∧ s.hostHolds (at' 0x3000 / 64) = false ∧ s.unperformed s.cur s.hot = false) := by decide +kernel

theorem witness_RingQueues_home :
    (let r := fun (h t e : Nat) => ringOf (ringWord h t e);
      (r 0 0 0).count < (r 0 0 0).cap ∧ ¬ (r 0 8 0).count < (r 0 8 0).cap ∧ 0 < (r 0 1 0).count ∧ (r 3 3 0).count = 0 ∧ (r 3 3 1).producers ≤ (r 3 3 1).eosSeen)
    ∧ (ringed 0 0 0).ringHeld (ringOp 0) = [] ∧ ((ringed 0 0 0).setLine (at' 0x3000 / 64) { Line.empty with host := .exclusive }).ringHeld (ringOp 0) ≠ []
    ∧ ((ringed 0 0 0).ringTry none (ringOp 0)).2 = some .done ∧ ((ringed 0 8 0).ringTry none (ringOp 0)).2 = none
    ∧ ((ringed 0 0 0).ringTry none (ringOp 1)).2 = none ∧ ((ringed 0 0 1).ringTry none (ringOp 1)).2 = some (.ended (ringOp 1))
    ∧ (ringed 0 1 0).token { pa := at' 0x3000, pasid := 0, ring := ringOf (ringWord 0 1 0) } 0 = false
    ∧ 64 ≤ ((fullTable (ringed 0 8 0) (at' 0x3000)).clusters[(fullTable (ringed 0 8 0) (at' 0x3000)).homeCluster (at' 0x3000)]).cleat.length := by decide +kernel

/-- A ring of two pages, of which the page of its slots at 0xBFC0 is not granted; its token marks at 0xC000 are. -/
def edge (tail : Nat) : State :=
  { base with hostPages := [{ whole with va := 0x3000, log := 12, pa := at' 0x3000 }, { whole with va := 0xC000, log := 12, pa := at' 0xC000 }]
              mem := base.mem.write (at' 0x3000) (toBytes 64 (ringWord 0 tail 0 + 0xFC0 * 2 ^ 192).toNat) }

theorem witness_RingQueues_pages :
    (let s := (ringed 0 1 0).claimHome (at' 0x3000 / 64);
      let r := ringOf (ringWord 0 1 0);
      r.slotVa r.tail = 0xB008 ∧ r.tokenVa r.tail = 0xB040 ∧ (s.region 0 0xB008).attr = 2 ∧ s.hostPhys 0 0xB008 true = some (at' 0xB008)
      ∧ s.hostPhys 0 0xB008 false = some (at' 0xB008) ∧ s.hostPhys 0 0xB040 true = some (at' 0xB040) ∧ s.hostPhys 0 0xB040 false = some (at' 0xB040)
      ∧ s.noPeer (at' 0xB008) = false ∧ s.noPeer (at' 0xB040) = false ∧ (ringOp 0).op ≠ 1)
    ∧ (let s := (edge 1).claimHome (at' 0x3000 / 64);
      let r := ringOf (BitVec.ofNat 512 (s.mem.num (at' 0x3000) 64));
      s.hostPhys 0 (r.slotVa r.tail) true = none ∧ (s.region 0 (r.slotVa r.tail)).attr = 2 ∧ s.hostPhys 0 (r.slotVa r.head) false = none
      ∧ (s.region 0 (r.slotVa r.head)).attr = 2 ∧ 0 < r.count ∧ r.count < r.cap
      ∧ s.hostPhys 0 (r.tokenVa r.head) false = some (at' 0xC000) ∧ (s.region 0 (r.tokenVa r.head)).attr = 2
      ∧ s.token { pa := at' 0x3000, pasid := 0, ring := r } r.head = false ∧ (edge 1).ringHeld (ringOp 1) = []) := by decide +kernel

/-- The plain case of an operation at the home: nothing parked, tagged or waiting; an end token in the first slot; and a wait that has
removed one. -/
def marking : State := { ringed 0 1 0 with mem := (ringed 0 1 0).mem.write (at' 0xB040) [1] }
def eaten : State := (ringed 1 1 1).modCleat (at' 0x3000) fun _ => [.ring (ringOp 1) (some (0, 1))]

theorem witness_RingQueues_writes :
    (∀ s ∈ [ringed 0 0 0, ringed 0 1 0, ringed 0 8 0, ringed 0 0 1, marking],
      s.ringHeld (ringOp 0) = [] ∧ s.parkedOn (at' 0x3000) = [] ∧ s.tags = [] ∧ s.lines = [] ∧ s.waits = [] ∧ (s.launches.all fun l => l.kept.isEmpty) = true
      ∧ ringOk (BitVec.ofNat 512 (s.mem.num (at' 0x3000) 64)) = true)
    ∧ (0 + 2 ^ 33 - 0) % 2 ^ 33 < 8 ∧ 0 < (1 + 2 ^ 33 - 0) % 2 ^ 33 ∧ 8 ≤ (8 + 2 ^ 33 - 0) % 2 ^ 33 ∧ (1 + 2 ^ 33 - 0) % 2 ^ 33 = 1
    ∧ ((ringed 0 1 0).mem.byte (at' 0xB040)).getLsbD 0 = false ∧ (marking.mem.byte (at' 0xB040)).getLsbD 0 = true
    ∧ eaten.cleatAt (at' 0x3000) = [.ring (ringOp 1) (some (0, 1))] := by decide +kernel
theorem witness_RingQueues_no_partials (l : Nat) : ((ringed 0 0 0).line l).u = [] := rfl

theorem witness_RingQueues_answers :
    ((base.stall 0 0).ctxAt 0 0).status = .stalled ∧ (parkedRing.ctxAt 0 0).status = .suspended (.ring (ringOp 0))
    ∧ (none, ringOp 0) ∈ ((base.stall 0 0).modCleat (at' 0x3000) fun _ => [.ring (ringOp 0) none]).parkedOn (at' 0x3000)
    ∧ (resending.coreAt 0).net.rings.find? (fun o => o.ctx = 0) = some (ringOp 0)
    ∧ parkedRing.waitingRing 0 0 = some (ringOp 0) ∧ (ringOp 0).issued + 2 ^ (ringOp 0).lim.toNat ≤ parkedRing.cyc := by decide +kernel

/-! Formats, the homes of cells and counters, engine and splice instructions. -/

theorem witness_VectorFloatOps : ((0 : BitVec 2) = 0 ∧ bf16 = bf16) ∨ ((0 : BitVec 2) = 1 ∧ bf16 = fp16) ∨ ((0 : BitVec 2) = 2 ∧ bf16 = fp32) := .inl ⟨rfl, rfl⟩
theorem witness_ComparisonsMasksPermutes : ((2 : BitVec 2) = 0 ∧ fp32 = bf16) ∨ ((2 : BitVec 2) = 1 ∧ fp32 = fp16) ∨ ((2 : BitVec 2) = 2 ∧ fp32 = fp32) :=
  .inr (.inr ⟨rfl, rfl⟩)
theorem witness_VectorReductions : ((1 : BitVec 2) = 0 ∧ fp16 = bf16 ∧ 5 = 5) ∨ ((1 : BitVec 2) = 1 ∧ fp16 = fp16 ∧ 5 = 5) ∨ ((1 : BitVec 2) = 2 ∧ fp16 = fp32 ∧ 5 = 4) :=
  .inr (.inl ⟨rfl, rfl, rfl⟩)

/-- No reduction finds no lane, and one with lane 0 finds it. -/
theorem witness_VectorReductions_lanes : ((List.range 64).filter fun j => ((base.onCtx fun c => c.wk 1 0).ctx.rk 1).getLsbD j) = []
    ∧ ((List.range 64).filter fun j => ((base.onCtx fun c => c.wk 1 1).ctx.rk 1).getLsbD j) = [0] := by decide +kernel

theorem witness_Conversions : (Instr.cvt 5 6 7 1).check = none ∧ (Instr.cvt 5 6 8 9).check = none ∧ (Instr.vcvt 5 6 7 1 3).check = none
    ∧ (Instr.vpack 5 6 8 3).check = none ∧ (Instr.vunpk 5 6 3 7 8).check = none
    ∧ (3 : BitVec 64).toInt < 128 ∧ ¬ (128 : BitVec 64).toInt < 128 := by decide +kernel

theorem witness_groupless : ¬ base.groupless 4 (piece (.mem 0x3000) 8) ∧ ¬ base.groupless 2 (piece (.mem 0x3000) 8) ∧ alone.groupless 2 (piece (.mem 0x3000) 8) :=
  ⟨fun h => absurd h.1 (by decide), fun h => absurd h.2.1 (by decide +kernel), rfl, by decide +kernel, 0x3000, rfl⟩

/-- A counter of 16 bytes and a cell of 8, by address. -/
def counter (va : Nat) : Piece := { loc := .mem (BitVec.ofNat 64 va), len := 16, align := 16 }

theorem witness_HomeRequests_signal :
    (regs base [(6, 0xF002000000000000)]).scalar 6 0 8 = .ok (piece (.sp 0) 8) ∧ base.access 0 0 true [piece (.sp 0) 8] = .ok [.sp 0]
    ∧ base.access 0 0 true [piece (.mem 0x1000) 8] = .ok [.phys (at' 0x1000) 0x1000 0]
    ∧ base.access 0 0 true [piece (.mem 0x3000) 8] = .ok [.phys (at' 0x3000) 0x3000 2] ∧ (2 : BitVec 2) ≠ 0
    ∧ base.unperformed base.cur base.hot = false ∧ reduced.unperformed reduced.cur reduced.hot = true
    ∧ (regs reduced [(6, 0xF002000000000000)]).scalar 6 0 8 = .ok (piece (.sp 0) 8) ∧ reduced.access 0 0 true [piece (.sp 0) 8] = .ok [.sp 0] := by decide +kernel

theorem witness_HomeRequests_counters :
    (regs base [(6, 0x3000)]).scalar 6 0 16 = .ok { loc := .mem 0x3000, len := 16, align := 16 }
    ∧ base.reach 0 0 true false [counter 0x3000] = .ok [.phys (at' 0x3000) 0x3000 2] ∧ base.ownMem (at' 0x3000) = true
    ∧ base.reach 0 0 true false [counter 0x1000] = .ok [.phys (at' 0x1000) 0x1000 0]
    ∧ 2 ^ 32 ≤ (0x100000000 : Word).toNat ∧ (0xFFFFFFFF : Word).toNat < 2 ^ 32 ∧ (0x3040 : Word).toNat % 64 = 0 ∧ (0x3041 : Word).toNat % 64 ≠ 0 := by decide +kernel

theorem witness_HomeRequests_cells :
    (regs base [(6, 0x4000)]).scalar 6 0 8 = .ok (piece (.mem 0x4000) 8)
    ∧ base.reach 0 0 true false [piece (.mem 0x4000) 8] = .ok [.phys (at' 0x4000) 0x4000 3] ∧ base.ownMem (at' 0x4000) = true
    ∧ base.reach 0 0 true false [piece (.mem 0x3000) 8] = .ok [.phys (at' 0x3000) 0x3000 2]
    ∧ base.reach 0 0 false false [piece (.mem 0x4000) 8] = .ok [.phys (at' 0x4000) 0x4000 3]
    ∧ base.reach 0 0 false false [piece (.sp 8) 8] = .ok [.sp 8] ∧ reduced.unperformed reduced.cur reduced.hot = true
    ∧ reduced.reach 0 0 true false [piece (.mem 0x4000) 8] = .ok [.phys (at' 0x4000) 0x4000 3]
    ∧ (0x3020 : Word).extractLsb' 0 6 ≠ 0 ∧ (0x3040 : Word).extractLsb' 0 6 = 0 := by decide +kernel

/-- The counter at 0x3000 holds a count; the cell at 0x4000 has a tag. -/
def counting (n : Nat) : State := { base with mem := base.mem.write (at' 0x3000) (toBytes 8 n) }
def cellOp (kind : HomeKind) : HomeOp := { homeOp kind with va := 0x4000, pa := at' 0x4000 }

theorem witness_HomeEffects :
    base.hostHolds ((homeOp .depdec).pa / 64) = false ∧ (base.line ((homeOp .depdec).pa / 64)).u = [] ∧ base.openCells (homeOp .depdec).pa 16 = []
    ∧ 1 < ((counting 2).claimHome (at' 0x3000 / 64)).mem.num (at' 0x3000) 8 % 2 ^ 32 ∧ ((counting 1).claimHome (at' 0x3000 / 64)).mem.num (at' 0x3000) 8 % 2 ^ 32 = 1
    ∧ ((counting 0).claimHome (at' 0x3000 / 64)).mem.num (at' 0x3000) 8 % 2 ^ 32 = 0 := by decide +kernel

theorem witness_HomeEffects_cells :
    (tagged 1).hostHolds ((cellOp .fcancel).pa / 64) = false ∧ ((tagged 1).line ((cellOp .fcancel).pa / 64)).u = [] ∧ base.tag (at' 0x4000) = 0
    ∧ (tagged 1).tag (at' 0x4000) = 1 ∧ (tagged 2).tag (at' 0x4000) = 2 ∧ (cellOp .fcancel).pa % 8 = 0 ∧ (tagged 2).furlEntries (at' 0x4000) = []
    ∧ base.openCells (at' 0x4000) 8 = [] := by decide +kernel

theorem witness_HomeEffects_link :
    (homeOp (.slink 0 2)).attr ≠ 3 ∧ base.dev = 0 ∧ (linked base).peerTrained = true ∧ (linked base).dev ≠ 1
    ∧ (farCell 0 (.slink 0 2)).attr = 3 ∧ (tagged 1).openCells (at' 0x4000) 8 ≠ [] ∧ ((tagged 1).stall 0 0).openCells (at' 0x4000) 8 ≠ []
    ∧ (((tagged 1).stall 0 0).ctxAt 0 0).status = .stalled ∧ ((tagged 1).stall 0 0).hostHolds (at' 0x4000 / 64) = false
    ∧ (((tagged 1).stall 0 0).line (at' 0x4000 / 64)).u = [] := by decide +kernel
/-- What a test of each core in turn shows. -/
theorem every_core {s : State} (p : Core → Bool) (h : s.cores.toList.all p = true) (c : CoreId) : p (s.coreAt c) = true :=
  List.all_eq_true.mp h _ (by simp [State.coreAt])

theorem witness_HomeEffects_calm : base.tidy 0 ∧ ∀ c, (base.spliceAt c).pend = [] :=
  ⟨base_tidy 0, fun c => List.isEmpty_iff.mp (every_core (s := base) (fun k => k.splice.pend.isEmpty) (by decide +kernel) c)⟩

/-- A command's header: its class, code, device, core and unit, and whether it wants a reply. -/
def command (cl code dev rel u reply : Nat) : Msg :=
  BitVec.ofNat 512 (cl * 2 ^ 58 + code * 2 ^ 46 + dev * 2 ^ 45 + rel * 2 ^ 35 + u * 2 ^ 32 + reply * 2)
def enqueuing (w : Msg) : State := base.onCtx fun c => c.wv 7 w
/-- Core 0's unit 1 with reserved elements and elements out. -/
def unit1 (s : State) (reserved : Nat) (out : List (BitVec 128)) : State := s.modUnit 0 1 fun q => { q with reserved := reserved, out := out }

theorem witness_EngineInstructions_enq :
    base.enqOk 0 (command 0 1 0 9 1 0) = false ∧ base.enqOk 0 (command 0 5 0 0 1 1) = true ∧ base.enqOk 0 (command 0 5 0 1 1 0) = true
    ∧ outUnit (command 0 5 0 0 1 1) = 1 ∧ (Msg.word (command 0 5 0 0 1 1) 0).getLsbD 1 = true
    ∧ 16 ≤ ((unit1 base 15 [0]).unitAt 0 1).reserved + ((unit1 base 15 [0]).unitAt 0 1).out.length ∧ ¬ 16 ≤ ((unit1 base 15 []).unitAt 0 1).reserved
    ∧ base.unperformed 0 0 = false ∧ leaving.unperformed 0 0 = true ∧ (base.unitAt 0 1).room 1 = true ∧ base.core.net.retryBuf.length < 64 ∧ base.core.ident.lid = some 0
    ∧ (Msg.word (command 0 5 0 0 1 1) 0).extractLsb' 32 3 ≠ 6 ∧ (Msg.word (command 0 5 0 0 1 1) 0).extractLsb' 45 1 = base.dev
    ∧ (Msg.word (command 0 5 0 0 1 1) 0).extractLsb' 35 10 = base.core.ident.rel ∧ (Msg.word (command 0 5 0 1 1 0) 0).extractLsb' 35 10 ≠ base.core.ident.rel := by
  decide +kernel

theorem witness_EngineInstructions_enq_known : unitEvent base.cur 1 5 ≠ none := fun h => nomatch h

theorem witness_EngineInstructions_deq :
    (base.unitAt 0 1).out = [] ∧ (base.unitAt 0 1).reserved = 0 ∧ ((unit1 base 1 []).unitAt 0 1).out = [] ∧ ((unit1 base 1 []).unitAt 0 1).reserved ≠ 0
    ∧ ((unit1 base 0 [2, 1]).unitAt 0 1).out = [2, 1] ∧ (2 : BitVec 128).extractLsb' 0 4 ≠ 1 ∧ (1 : BitVec 128).extractLsb' 0 4 = 1 := by decide +kernel

/-- The splice unit of core 0: pairs in its bag, and its free list. -/
def spliced (f : Splice → Splice) : State := base.modCore 0 fun k => { k with splice := f k.splice }

theorem witness_SpliceInstructions :
    base.core.splice.bag = [] ∧ base.core.splice.spilled = 0 ∧ base.core.splice.free = 0
    ∧ (spliced fun k => { k with bag := [(0x3020, 0x3040)] }).core.splice.bag.getLast? = some (0x3020, 0x3040)
    ∧ (0xF002000000000000 : Word).extractLsb' 60 4 = 15 ∧ (0x3020 : Word).extractLsb' 60 4 ≠ 15 ∧ ((0x3020 : Word).extractLsb' 0 57).toNat % 32 = 0
    ∧ ((0x3021 : Word).extractLsb' 0 57).toNat % 32 ≠ 0 ∧ ((0x3021 : Word).extractLsb' 0 57).toNat % 8 ≠ 0
    ∧ ((0x3028 : Word).extractLsb' 0 57).toNat % 8 = 0 ∧ ((0x3028 : Word).extractLsb' 0 57).toNat % 32 ≠ 0
    ∧ viewLink 2 ≠ .bad ∧ base.homeBusy base.cur base.hot = false ∧ base.core.splice.bag.length < 64 := by decide +kernel

/-- A spill area of 2^6 pairs at 0x6000; a full bag; one pair spilled. -/
def full (spill : Word) : State := spliced fun k => { k with bag := List.replicate 64 (0x3020, 0x3040), spill := spill }
def emptied : State := spliced fun k => { k with spill := 0x6006, spilled := 1 }
def okay (e : Except SlStop State) : Bool := match e with
  | .ok _ => true
  | .error _ => false

theorem witness_SpliceInstructions_bag :
    base.core.splice.pend = [] ∧ emptied.core.splice.bag = [] ∧ 0 < emptied.core.splice.spilled ∧ emptied.core.splice.pend = []
    ∧ emptied.load [{ loc := .mem (va57 ((emptied.core.splice.spill &&& 0x1FFFFFFFFFFFE00) + BitVec.ofNat 64 (16 * 0))), len := 16, align := 1 }]
      = .bytes [List.replicate 16 0] [.phys (at' 0x6000) 0x6000 2]
    ∧ 64 ≤ (full 0).core.splice.bag.length ∧ spillCap (full 0).core.splice.spill < (full 0).core.splice.spilled + 32
    ∧ (full 0x6006).core.splice.spilled + 32 ≤ spillCap (full 0x6006).core.splice.spill ∧ (full 0x6006).core.splice.pend = []
    ∧ (full 0x6006).unperformed 0 0 = false
    ∧ okay ((((full 0x6006).releaseAt 5).cleanOwn 0).slWrite 0 0x6000 (List.replicate 512 0)) = true
    ∧ ((0x3040 : Word).extractLsb' 0 57).toNat % 32 = 0 ∧ reduced.unperformed reduced.cur reduced.hot = true := by decide +kernel

theorem witness_SpliceInstructions_link :
    base.access 0 0 true [{ loc := .mem (va57 0x3028), len := 8, align := 8 }] = .ok [.phys (at' 0x3028) 0x3028 2]
    ∧ reduced.access 0 0 true [{ loc := .mem (va57 0x3028), len := 8, align := 8 }] = .ok [.phys (at' 0x3028) 0x3028 2]
    ∧ base.access 0 0 true [{ loc := .mem (va57 0x1028), len := 8, align := 8 }] = .ok [.phys (at' 0x1028) 0x1028 0]
    ∧ (0x1028 : Word).extractLsb' 60 4 ≠ 15 ∧ ((0x1028 : Word).extractLsb' 0 57).toNat % 8 = 0 ∧ ¬ ((0x1028 : Word).extractLsb' 0 57).toNat % 32 = 0
    ∧ (2 : Word).extractLsb' 57 7 = 0 := by decide +kernel
theorem witness_SpliceInstructions_calm : base.calm 0 (.phys (at' 0x1028) 0x1028 0) 8 ∧ base.tidy 0 :=
  ⟨⟨by decide +kernel, by decide +kernel, .inl (by decide +kernel)⟩, base_tidy 0⟩

theorem witness_SpliceInstructions_bad : viewLink 7 = .bad := by decide +kernel

theorem witness_SpliceInstructions_memory :
    (spliced fun k => { k with free := 0x3020 }).core.splice.free ≠ 0 ∧ nodeAt 0x3020 = 0x3020
    ∧ base.load [{ loc := .mem (va57 (0x3020 + 8)), len := 8, align := 1 }] = .bytes [List.replicate 8 0] [.phys (at' 0x3028) 0x3028 2]
    ∧ base.reach 0 0 true false [{ loc := .mem (va57 (0x3020 + 8)), len := 24, align := 1 }] = .ok [.phys (at' 0x3028) 0x3028 2]
    ∧ base.load [{ loc := .mem (va57 0x3028), len := 8, align := 8 }] = .bytes [List.replicate 8 0] [.phys (at' 0x3028) 0x3028 2]
    ∧ base.reach 0 0 true false [{ loc := .mem (va57 0x3028), len := 8, align := 8 }] = .ok [.phys (at' 0x3028) 0x3028 2] := by decide +kernel

/-- The queue 0 of the launch is in slot 0, with children of its launch. -/
def queued (children : Nat) : State :=
  { base with slots := base.slots.set 0 { Slot.reset with queue := some 0, children := List.replicate children (record, 0) } }

theorem witness_LaunchingAndEnding_launch :
    (regs base [(6, 0x3000)]).scalar 6 0 64 = .ok (piece (.mem 0x3000) 64)
    ∧ base.load [piece (.mem 0x3000) 64] = .bytes [List.replicate 64 0] [.phys (at' 0x3000) 0x3000 2]
    ∧ (queued 0).launchOf 1 = some gang ∧ (queued 0).slotOfQueue gang.queue = some 0
    ∧ ¬ 16 ≤ ((queued 15).slotAt 0).children.length ∧ 16 ≤ ((queued 16).slotAt 0).children.length
    ∧ ((base.stall 0 0).ctxAt 0 0).status = .stalled := by decide +kernel

theorem witness_LaunchingAndEnding_record :
    (queued 0).checkRecord 0 (BitVec.ofNat 512 (2 ^ 512 - 1)) = .invalid ∧ (queued 0).checkRecord 0 0 = .ok ()
    ∧ ({ queued 0 with hostPages := [] } : State).checkRecord 0 0 = .stop .miss 0
    ∧ base.unperformed base.cur base.hot = false ∧ leaving.unperformed leaving.cur leaving.hot = true ∧ (0x0CD : BitVec 9) ≠ 0 := by decide +kernel

theorem witness_LaunchingAndEnding_completion :
    base.launch? gang.lid = some gang ∧ leaving.unperformed 0 0 = true ∧ base.unperformed 0 0 = false ∧ gang.doneBy = none ∧ gang.live = true
    ∧ ({ gang with doneBy := some (1, 0) }).doneBy ≠ none ∧ ({ gang with doneBy := some (1, 0) }).doneBy ≠ some (0, 0)
    ∧ base.cwordBad gang.pasid (cwordOf gang.record) = false ∧ base.wordReady gang.pasid (cwordOf gang.record) = true
    ∧ base.hostPhys gang.pasid (cwordOf gang.record) true = some (at' 0) ∧ base.openCells (at' 0) 8 = [] ∧ base.launch? 7 = none := by decide +kernel

/-- No reduction unit of a core of the launch holds a result for its memory. -/
theorem witness_LaunchingAndEnding_settled : ∀ c ∈ gang.cores, (base.runOf (.unit c 4)).final = none ∧ ((queued 0).runOf (.unit c 4)).final = none := by
  decide +kernel

theorem base_calmAll : base.calmAll := ⟨fun _ => rfl, base_tidy⟩

theorem witness_LaunchingAndEnding_teardown : ∀ a b : Fin 128, ((queued 0).slotAt a).queue = some 0 → ((queued 0).slotAt b).queue = some 0 → a = b := by
  have h : ∀ a : Fin 128, ((queued 0).slotAt a).queue = some 0 → a = 0 := by decide +kernel
  intro a b ha hb
  rw [h a ha, h b hb]

theorem witness_LaunchingAndEnding_ends :
    (queued 0).owed = [] ∧ (queued 0).ringPending 0 = 0 ∧ (queued 0).launchesOf 0 = [gang] ∧ (queued 0).queuePasid 0 = gang.pasid
    ∧ ({ queued 0 with launches := [] } : State).launchesOf 0 = [] ∧ (queued 0).slotOfQueue 0 = some 0 ∧ ((queued 0).slotAt 0).head = none
    ∧ ((queued 0).slotAt 0).aside = none ∧ ((queued 0).slotAt 0).taken = none ∧ ((queued 0).slotAt 0).children = [] := by decide +kernel

/-- A firmware core runs. -/
def firmware : State := { base with cur := 1024 }

theorem witness_FirmwareInstructions :
    base.firmwareCore base.cur = false ∧ firmware.firmwareCore firmware.cur = true ∧ firmware.unperformed firmware.cur firmware.hot = false
    ∧ ({ firmware with pending := [.homeOperation { homeOp .depdec with core := 1024 }] } : State).unperformed 1024 0 = true ∧ firmware.setAt = []
    ∧ (firmware.mgmt.staged.any (· != { digest := 0, version := 0, rolemap := 0, good := true })) = false
    ∧ ((firmware.stage { digest := 1, version := 0, rolemap := 0, good := true }).mgmt.staged.any
        (· != { digest := 0, version := 0, rolemap := 0, good := true })) = true
    ∧ rolesOk base.mgmt.roles (16 * columnsOf base.mgmt.rigging 1) = true ∧ rolesOk 0 (16 * columnsOf base.mgmt.rigging 1) = false
    ∧ firmware.migrateCode 0 0 = 3 ∧ firmware.migrateCode 1000 1 = 2 ∧ firmware.migrateCode 0 1 = 1 ∧ firmware.migrateCode 0 1000 = 0 := by decide +kernel

theorem witness_FirmwareInstructions_window :
    winAt 0x500000000 = .nowhere ∧ winAt 4 = .nowhere ∧ winAt 0 = .ready 0 ∧ winAt 0x28 = .ready 5 ∧ winAt 0x30 = .other ∧ winAt 0x100 = .log 0 0 ∧ winAt 0x4F8 = .log 63 1
    ∧ winAt 0x800 = .power ∧ winAt 0x200000008 = .scratch 0 8 ∧ base.physCluster (0 / 4) = some 0 ∧ 350 ≤ (350 : Word).toNat ∧ (600 : Word).toNat ≤ 600 ∧ ¬ (601 : Word).toNat ≤ 600 := by decide +kernel

/-! Coherence and translations. -/

/-- The line of 0x3000, and base where it is held as given; a U copy of it. -/
def line3 : Nat := 0x1000000C0
def holding (f : Line → Line) : State := base.setLine line3 (f Line.empty)
def ucopy (c : CoreId) : UHolder := { core := c, part := 5 }

theorem witness_CoherenceRequests :
    base.hostHolds line3 = false ∧ (holding fun l => { l with host := .exclusive }).hostHolds line3 = true ∧ base.lineValue line3 = true
    ∧ (base.line line3).u = [] ∧ (base.line line3).owner = none ∧ (base.line line3).sharers = 0 ∧ (base.line line3).peer = false ∧ (base.line line3).host = .none ∧ base.armed line3 = false
    ∧ ((holding fun l => { l with owner := some (1, .m) }).line line3).owner = some (1, .m)
    ∧ base.ownMem (64 * line3) = true ∧ base.ownMem (64 * (line3 - 0x1000000C0)) = false ∧ base.hostHolds 0 = false
    ∧ ((holding fun l => { l with u := [ucopy 1, ucopy 2] }).line line3).u.find? (fun g => g.core == 2) = some (ucopy 2) := by decide +kernel

/-- Context 0 waits on 0x3000, armed at its home. -/
def armedWait : State := { (waiting false).modCleat (at' 0x3000) fun _ => [.waita 0 0 0 (at' 0x3000)] with waits := [(0, 0, wait1 false)] }

theorem witness_CoherenceRequests_armed : armedWait.armed line3 = true ∧ armedWait.hostHolds line3 = false ∧ armedWait.lineValue line3 = true
    ∧ (armedWait.line line3).owner = none ∧ (armedWait.line line3).u = [] ∧ armedWait.ownMem (64 * line3) = true := by decide +kernel
theorem witness_CoherenceRequests_cell : ¬ (tagged 1).lineValue (at' 0x4000 / 64) = true ∧ (tagged 1).hostHolds (at' 0x4000 / 64) = false
    ∧ (tagged 1).ownMem (64 * (at' 0x4000 / 64)) = true := by decide +kernel
theorem witness_CoherenceRequests_none : ∀ h ∈ (base.line line3).u, h.core ≠ 0 := fun _ h => nomatch h
/-- A line of host memory that the slice holds exclusively, and one that it has read shared. -/
theorem witness_CoherenceRequests_own : base.hostMem (64 * 1) = true ∧ ((base.setLine 1 { Line.empty with own := true }).line 1).own = true
    ∧ (base.line 1).own = false ∧ (0 : CoreId).val < 1024 ∧ (∀ o, (base.line 1).owner = some o → o.1 = 0) :=
  ⟨by decide +kernel, by decide +kernel, rfl, by decide, fun _ h => nomatch h⟩

/-- The line of 0x3000 in core 1's L1. -/
def cached (st : LineSt) : State := (holding fun l => { l with owner := some (1, st) }).setL1 1 { L1.empty with ways := [{ line := line3, way := 0, what := .tracked }] }

theorem witness_CoherenceSnoopsAndMerging_lines :
    base.openCells (64 * line3) 64 = [] ∧ ((holding fun l => { l with snooping := true }).line line3).snooping = true ∧ (base.line line3).snooping = false
    ∧ ((cached .m).line line3).owner = some (1, .m) ∧ ((cached .e).line line3).owner = some (1, .e) ∧ (cached .e).l1State 1 line3 = .e
    ∧ ((holding fun l => { l with u := [ucopy 1] }).line line3).u = [ucopy 1] ∧ base.lineValue line3 = true
    ∧ (base.line line3).u = [] ∧ ((holding fun l => { l with sharers := 1 }).line line3).sharers.getLsbD ((1 : CoreId).val / 4) = true
    ∧ base.ownMem (64 * 0) = false ∧ base.ownMem (64 * line3) = true ∧ base.hostMem 0 = true := by decide +kernel

/-- The package's memory is ready when both of its ready bits are set. -/
theorem witness_CoherenceSnoopsAndMerging_ready :
    base.memReady line3 = true ∧ (base.modMgmt fun m => { m with readyMap := 0 }).memReady line3 = false := by decide +kernel

theorem witness_CoherenceSnoopsAndMerging_reread :
    (let s := armedWait.setLine line3 { Line.empty with host := .exclusive };
      s.armed line3 = true ∧ s.hostHolds line3 = true ∧ (s.line line3).reread ≤ s.cyc) := by decide +kernel

/-- The line of 0x2000, which every core reads, and router 0 with entries for lines. -/
def line2 : Nat := 0x100000080
def entries (ms : List Merge) : State := { base with routers := base.routers.set 0 { base.routers[(0 : Fin 288)] with merge := ms } }
def waits (n : Nat) : Merge := { line := line2, waiters := List.replicate n (.core 0) }

theorem witness_CoherenceSnoopsAndMerging_routers :
    base.readShared line2 = true ∧ base.readShared line3 = false ∧ ((base.routers[(0 : Fin 288)]).merge).length < 16
    ∧ (0 : Fin 288) ≠ base.routerOf (base.homeCluster (64 * line2))
    ∧ ((entries [{ line := 1, waiters := [] }, waits 9]).routers[(0 : Fin 288)]).merge = [{ line := 1, waiters := [] }] ++ waits 9 :: []
    ∧ (waits 8).waiters.length < 9 ∧ ¬ (waits 9).waiters.length < 9 ∧ (waits 9).line = line2 ∧ ({ line := 1, waiters := [] } : Merge).line ≠ line2
    ∧ 16 ≤ ((entries (List.replicate 16 { line := 1, waiters := [] })).routers[(0 : Fin 288)]).merge.length := by decide +kernel

/-- A line of the peer's memory, whose way out is the router at the link die. -/
theorem witness_CoherenceSnoopsAndMerging_peer :
    (let s := { linked base with hostPages := [{ whole with pa := 0x8000000000 }] };
      let line := 0x8000002000 / 64;
      s.peerMem (64 * line) = true ∧ s.readShared line = true
      ∧ (routerAt (if (placeAt (0 : Fin 288)).1 ≤ 8 then 8 else 9, 15)) ≠ (0 : Fin 288)) := by decide +kernel

theorem witness_CoherenceSnoopsAndMerging_fresh : ∀ m ∈ (base.routers[(0 : Fin 288)]).merge, m.line ≠ line2 :=
  fun _ h => absurd (List.length_pos_of_mem h) (by decide +kernel)

/-- Core 0's context 0 has suspended on the page at 0x3000. -/
def faulting : State := base.suspend 0 0 (.fault 0x3000)
def stoppedSpace : State := { base with spaces := [(0, { Space.reset with stopped := true })] }

theorem witness_Translations :
    (base.space 0).stopped = false ∧ findGrant base.hostPages 0 0x3000 true = some whole ∧ ((base.stall 0 0).ctxAt 0 0).status = .stalled
    ∧ (faulting.ctxAt 0 0).status = .suspended (.fault 0x3000) ∧ (faulting.coreAt 0).slot = none
    ∧ findGrant ({ base with hostPages := [] } : State).hostPages 0 0x3000 true = none
    ∧ grantOk { whole with log := 12, va := 0x3000, pa := at' 0x3000 } 0 0x3FFF = true ∧ base.owed = [] ∧ base.held = []
    ∧ (stoppedSpace.space 0).stopped = true ∧ base.tableOk 0 [page 1 0] = true ∧ base.tableOk 0 (List.replicate 65 (page 1 0)) = false := by decide +kernel

/-- A page of furled words that nothing maps, and a Mizzen column that admits no fault packets. -/
def newPage : Grant := { whole with pasid := 0, log := 12, va := 0x4000, pa := 0x1000000000 }
def deaf : State := { faulting with routers := faulting.routers.map fun r => { r with firewall := r.firewall.map fun _ => 0 } }

theorem witness_Translations_outcomes :
    faulting.heard (.ctx 0 0) = true ∧ deaf.heard (.ctx 0 0) = false
    ∧ base.mapsTo 0 (at' 0x4000) ≠ [] ∧ base.mapsTo 0 0x1000000000 = [] ∧ (base.region 0 (va57 (BitVec.ofNat 64 (newPage.va + (0x1000000008 - newPage.pa))))).attr = 3
    ∧ (base.coreAt 0).ident.pasid = 0 ∧ (base.coreAt 0).ident.lid.isSome = true ∧ base.waitsThrough 0 0 0x4000 (2 ^ 12) = false
    ∧ (waiting false).waitsThrough 0 0 0x3000 (2 ^ 12) = true ∧ (waiting false).allCleat = [] ∧ base.refused = [] ∧ base.migrations = [] ∧ (base.launches.map (·.lid)).Nodup
    ∧ (queued 0).launchesOf 0 = [gang] ∧ gang.live = true := by decide +kernel
theorem witness_Translations_unwritten : ∀ c, base.gmWriting 0 c = false := fun c => by
  have h := every_core (s := base) (fun k => k.gm.run.final.isNone) (by decide +kernel) c
  simp_all [State.gmWriting]

theorem witness_Translations_drain : ∀ i ∈ base.pending ++ base.parked, base.accessOf 0 i = false :=
  fun _ h => absurd (List.length_pos_of_mem h) (by decide +kernel)
theorem witness_Translations_undrained : ∃ i ∈ leaving.pending ++ leaving.parked, leaving.accessOf 0 i = true :=
  ⟨.homeOperation (homeOp .depdec), List.mem_append_left _ (List.mem_singleton_self _), by decide +kernel⟩
theorem witness_Translations_unused : ∀ i ∈ base.pending ++ base.parked, base.usesPage 0 (low57 0x3000 / 2 ^ 12 * 2 ^ 12) (2 ^ 12) i = false :=
  fun _ h => absurd (List.length_pos_of_mem h) (by decide +kernel)
theorem witness_Translations_used : ∃ i ∈ leaving.pending ++ leaving.parked, leaving.usesPage 0 (low57 0x3FFF / 2 ^ 12 * 2 ^ 12) (2 ^ 12) i = true :=
  ⟨.homeOperation (homeOp .depdec), List.mem_append_left _ (List.mem_singleton_self _), by decide +kernel⟩

/-! Engines. Core 0's unit u runs a command; k stands for its fields. -/

def fields (h : Msg) (k : List (Nat × Nat)) : Msg := k.foldl (fun m e => m ||| (BitVec.ofNat 512 e.2 <<< e.1)) h
def run (s : State) (u : BitVec 3) (w : Msg) (done : Nat) : State :=
  s.modUnit 0 u fun q => { q with inq := [packet 0 w], run := { Run.start with progress := done } }
/-- A pointer to the core's own scratchpad. -/
def own : Nat := 0xF002000000000000
/-- Whether an access of an engine is answered with n parts of bytes, or may be written. -/
def reads (e : Except EngStop (List (List Byte) × State)) (n : Nat) : Bool := match e with
  | .ok (l, _) => l.length == n
  | .error _ => false
def writes (e : Except EngStop (List Span)) : Bool := match e with
  | .ok _ => true
  | .error _ => false
def chunk (s : State) (me : Eng) (a b : EAddr) (n : Nat) : Bool := match s.engRead me [(a, n)] with
  | .ok ([_], t) => writes (t.engCheck me [(b, n)])
  | _ => false

def linear (n : Nat) : Msg := fields (command 0 1 0 0 2 0) [(64, 0x3000), (128, 0x5000), (192, n)]
def rowsOf (n : Nat) : Msg := fields (command 0 2 0 0 2 0) [(64, 0x3000), (128, 0x5000), (192, n), (224, 1), (256, 100), (320, 100)]
def gather (n : Nat) : Msg := fields (command 0 3 0 0 2 0) [(64, 0x3000), (128, 0x5000), (192, 0x6000), (256, n), (288, 3)]

theorem witness_CopyEngine_linear :
    (run base 2 (linear 100) 64).working (.unit 0 2) 1 (packet 0 (linear 100)) ∧ reservedClear (linear 100) [(231, 192), (191, 64)] = true
    ∧ (run base 2 (linear 100) 64).engAddr (.unit 0 2) .any (Msg.word (linear 100) 1) = .ok (.mem 0x3000)
    ∧ (run base 2 (linear 100) 64).engAddr (.unit 0 2) .any (Msg.word (linear 100) 2) = .ok (.mem 0x5000)
    ∧ chunk ((run base 2 (linear 100) 64).begun (.unit 0 2)) (.unit 0 2) (.mem 0x3040) (.mem 0x5040) (min 64 (100 - 64)) = true
    ∧ reservedClear (linear 100 ||| (1 <<< 495)) [(231, 192), (191, 64)] = false := by
  decide +kernel

theorem witness_CopyEngine_linear_bad : (run base 2 (linear 1 ||| (1 <<< 495)) 0).working (.unit 0 2) 1 (packet 0 (linear 1 ||| (1 <<< 495))) := by
  decide +kernel

theorem witness_CopyEngine_rows :
    (run base 2 (rowsOf 65) 129).working (.unit 0 2) 2 (packet 0 (rowsOf 65)) ∧ reservedClear (rowsOf 65) [(239, 192), (383, 256), (191, 64)] = true
    ∧ chunk ((run base 2 (rowsOf 65) 129).begun (.unit 0 2)) (.unit 0 2) (.mem (0x3000 + 164)) (.mem (0x5000 + 164)) (min 64 (65 - 129 % 65)) = true
    ∧ reservedClear (rowsOf 65 ||| (1 <<< 240)) [(239, 192), (383, 256), (191, 64)] = false := by
  decide +kernel

theorem witness_CopyEngine_gather :
    (run base 2 (gather 2) 8).working (.unit 0 2) 3 (packet 0 (gather 2)) ∧ (run base 2 (gather 2) 16).working (.unit 0 2) 3 (packet 0 (gather 2))
    ∧ reservedClear (gather 2) [(290, 192), (191, 64)] = true ∧ Msg.field (gather 2) 290 288 ≠ 7 ∧ Msg.field (gather 2 ||| (7 <<< 288)) 290 288 = 7
    ∧ (run base 2 (gather 2) 8).engAddr (.unit 0 2) .any (Msg.word (gather 2) 3) = .ok (.mem 0x6000)
    ∧ reads (((run base 2 (gather 2) 8).begun (.unit 0 2)).engRead (.unit 0 2) [(.mem 0x6004, 4)]) 1 = true
    ∧ chunk ((run base 2 (gather 2) 8).begun (.unit 0 2)) (.unit 0 2) (.mem 0x3000) (.mem 0x5008) 8 = true := by
  decide +kernel

/-- LDB of 64 rows of 64 bytes without scales, dense or sparse; STC; ZC; MARK. -/
def loadBank (sparse : Nat) : Msg := fields (command 0 1 0 0 1 0) [(64, own), (128, 64), (164, 1), (168, sparse), (256, own + 0x2000)]
def storeRows (n : Nat) : Msg := fields (command 0 3 0 0 1 0) [(64, 0x3000), (128, 64), (160, 10), (167, 1), (171, n - 1), (192, 4096 - 2 * n), (204, n)]
def zeros (lo n : Nat) : Msg := fields (command 0 4 0 0 1 0) [(128, lo), (140, n)]

theorem witness_MatrixLoadsAndStores_ldb :
    (run base 1 (loadBank 0) 0).working (.unit 0 1) 1 (packet 0 (loadBank 0)) ∧ reservedClear (loadBank 0) [(319, 192), (169, 164), (161, 64)] = true
    ∧ (Msg.word (loadBank 0) 1).extractLsb' 60 4 = 15 ∧ (run base 1 (loadBank 0) 0).engAddr (.unit 0 1) .own (Msg.word (loadBank 0) 1) = .ok (.sp 0 0)
    ∧ (run base 1 (loadBank 0) 0).engAddr (.unit 0 1) .own (Msg.word (loadBank 0) 3) = .ok (.mem 0)
    ∧ (run base 1 (loadBank 0) 0).engAddr (.unit 0 1) .own (Msg.word (loadBank 0) 4) = .ok (.sp 0 0x2000) ∧ Msg.word (loadBank 0) 3 = 0
    ∧ reads (((run base 1 (loadBank 0) 0).begun (.unit 0 1)).engRead (.unit 0 1) ((List.range 64).map fun j => ((EAddr.sp 0 0).plus (j * 64), 64))) 64 = true := by
  decide +kernel

theorem witness_MatrixLoadsAndStores_masks :
    (run base 1 (loadBank 1) 0).working (.unit 0 1) 1 (packet 0 (loadBank 1)) ∧ (maskBits 0x00FF).length = keepOf 1 ∧ (maskBits 0x007F).length ≠ keepOf 1
    ∧ reads (((run base 1 (loadBank 1) 0).begun (.unit 0 1)).engRead (.unit 0 1)
      ([(.sp 0 0x2000, 16)] ++ (List.range 64).map fun j => ((EAddr.sp 0 0).plus (j * 64), 64))) 65 = true := by
  decide +kernel

theorem witness_MatrixLoadsAndStores_stc :
    (run base 1 (storeRows 9) 1).working (.unit 0 1) 3 (packet 0 (storeRows 9)) ∧ reservedClear (storeRows 9) [(216, 192), (180, 64)] = true
    ∧ Msg.field (storeRows 9) 203 192 + 9 + 9 = 4096 ∧ Msg.field (storeRows 9) 216 204 = 9 ∧ convertible 10 = true
    ∧ (run base 1 (storeRows 9) 1).engAddr (.unit 0 1) .own (Msg.word (storeRows 9) 1) = .ok (.mem 0x3000)
    ∧ writes (((run base 1 (storeRows 9) 1).begun (.unit 0 1)).engCheck (.unit 0 1) [((EAddr.mem 0x3000).plus 64, 36)]) = true := by
  decide +kernel

theorem witness_MatrixLoadsAndStores_zc_mark :
    (run base 1 (zeros 96 4000) 0).working (.unit 0 1) 4 (packet 0 (zeros 96 4000)) ∧ reservedClear (zeros 96 4000) [(152, 128)] = true
    ∧ Msg.field (zeros 96 4000) 139 128 + Msg.field (zeros 96 4000) 152 140 = 4096 ∧ 4096 < Msg.field (zeros 97 4000) 139 128 + Msg.field (zeros 97 4000) 152 140
    ∧ (run base 1 (zeros 97 4000) 0).working (.unit 0 1) 4 (packet 0 (zeros 97 4000))
    ∧ (run base 1 (command 0 5 0 0 1 0) 0).working (.unit 0 1) 5 (packet 0 (command 0 5 0 0 1 0)) ∧ reservedClear (command 0 5 0 0 1 0) [] = true
    ∧ (run base 1 (fields (command 0 5 0 0 1 0) [(64, 1)]) 0).working (.unit 0 1) 5 (packet 0 (fields (command 0 5 0 0 1 0) [(64, 1)]))
    ∧ reservedClear (fields (command 0 5 0 0 1 0) [(64, 1)]) [] = false := by
  decide +kernel

/-- Rows of a bank of integers and of one of FP8, with a number in their first element, or all zeros. -/
theorem witness_MatrixLoadsAndStores_bank :
    floatFmt (1 : BitVec 4).toNat = false ∧ floatFmt (4 : BitVec 4).toNat = true ∧ (List.replicate 64 (List.replicate 64 (0 : Byte))).length = 64
    ∧ (match scaledElem 4 false none 1 with
      | .fin _ m _ => decide (m ≠ 0)
      | _ => false) = true
    ∧ (match scaledElem 4 false none 0 with
      | .fin _ m _ => decide (m = 0)
      | _ => false) = true := by decide +kernel

/-- Two rows of 64 bytes of MMA, at the last rows of the accumulator; one row too many. -/
def multiply (row0 : Nat) : Msg := fields (command 0 2 0 0 1 0) [(64, own), (128, 64), (160, 1), (169, 1), (173, row0)]

theorem witness_MatrixMultiply :
    (run base 1 (multiply 3584) 0).working (.unit 0 1) 2 (packet 0 (multiply 3584)) ∧ (run base 1 (multiply 3584) 1).working (.unit 0 1) 2 (packet 0 (multiply 3584))
    ∧ mmaBad (multiply 3584) (base.core.matrix.banksFor false) = false ∧ mmaBad (multiply 3585) (base.core.matrix.banksFor false) = true
    ∧ (run base 1 (multiply 3585) 0).working (.unit 0 1) 2 (packet 0 (multiply 3585))
    ∧ rowLength 0 (base.core.matrix.banksFor false)[0] * formatBits 1 / 8 = 64
    ∧ (run base 1 (multiply 3584) 0).engAddr (.unit 0 1) .own (Msg.word (multiply 3584) 1) = .ok (.sp 0 0)
    ∧ (run base 1 (multiply 3584) 0).engAddr (.unit 0 1) .own (Msg.word (multiply 3584) 3) = .ok (.mem 0) ∧ Msg.word (multiply 3584) 3 = 0
    ∧ (match ((run base 1 (multiply 3584) 0).begun (.unit 0 1)).allOf (.unit 0 1) false ((List.range 2).map fun i => ((EAddr.sp 0 0).plus (i * 64), 64)) with
      | .ok _ => true | .error _ => false) = true
    ∧ reads (((run base 1 (multiply 3584) 1).begun (.unit 0 1)).engRead (.unit 0 1) [((EAddr.sp 0 0).plus 64, 64)]) 1 = true
    ∧ (base.core.matrix.banksFor false)[0].float = false ∧ (run base 1 (multiply 3584) 0).reefHolds 0 = false
    ∧ (let s := run base 1 (multiply 3584) 0;
      (s.modReef (s.dieOf 0) fun r => { r with bound := [0], share := 0 }).reefHolds 0 = true) := by
  decide +kernel

/-- A bank of integers and one of floating-point numbers; a column spoiled by a NaN; a row of a sparse bank. -/
theorem witness_MatrixMultiply_sums :
    Bank.zero.float = false ∧ { Bank.zero with float := true }.float = true ∧ 0 ∉ Bank.zero.nanCols ∧ (fp32.value (0 : BitVec 32).toNat).isNan = false
    ∧ 0 ∈ { Bank.zero with nanCols := [0] }.nanCols ∧ (fp32.value (0x7FC00000 : BitVec 32).toNat).isNan = true ∧ Bank.zero.sparse = 0
    ∧ { Bank.zero with sparse := 1 }.sparse ≠ 0 ∧ 0 < Bank.zero.nm := by decide +kernel

/-- DEC of one of two raw blocks at 0x6000, with the group table at 0x7000; the first block has the header h. -/
def decoding : Msg := fields (command 0 1 0 0 3 0) [(64, 0x6000), (128, 0x7000), (224, 1), (256, own), (320, own + 0x1000)]
def tokens (h : Nat) (done : Nat) : State :=
  run { base with mem := (base.mem.write (at' 0x6000) (toBytes 4 h)).write (at' 0x7000) (toBytes 8 (2 ^ 32 * 33)) } 3 decoding done
def rawBlock : Nat := 33 * 2 ^ 8 + 2 ^ 18

/-- The block that the engine reads, decoded. -/
def token (s : State) : Option Bool := match (s.begun (.unit 0 3)).engRead (.unit 0 3) [(.mem 0x7000, 20)] with
  | .ok ([g], t1) => (match t1.engRead (.unit 0 3) [(.mem 0x6000, 4)] with
    | .ok ([h], t2) => (match t2.engRead (.unit 0 3) [(.mem 0x6000, 4 * ((g.drop 4).map (·.toNat)).getD 0 0)] with
      | .ok ([bs], t3) =>
        if bitsOf (ofBytes h) 15 8 = 33 ∧ writes (t3.engCheck (.unit 0 3) [(.sp 0 0, 128)]) ∧ writes (t3.engCheck (.unit 0 3) [(.sp 0 0x1000, 1)])
        then some (decodeToken 33 bs).isSome else none
      | _ => none)
    | _ => none)
  | _ => none

theorem witness_DecodeEngine :
    (tokens rawBlock 0).working (.unit 0 3) 1 (packet 0 decoding) ∧ reservedClear decoding [(383, 256), (240, 64)] = true
    ∧ (Msg.word decoding 4).extractLsb' 60 4 = 15 ∧ (Msg.word decoding 5).extractLsb' 60 4 = 15
    ∧ (tokens rawBlock 0).engAddr (.unit 0 3) .own (Msg.word decoding 1) = .ok (.mem 0x6000) ∧ (tokens rawBlock 0).engAddr (.unit 0 3) .own (Msg.word decoding 2) = .ok (.mem 0x7000)
    ∧ (tokens rawBlock 0).engAddr (.unit 0 3) .own (Msg.word decoding 4) = .ok (.sp 0 0) ∧ (tokens rawBlock 0).engAddr (.unit 0 3) .own (Msg.word decoding 5) = .ok (.sp 0 0x1000)
    ∧ token (tokens rawBlock 0) = some true ∧ token (tokens (rawBlock + 1) 0) = some false ∧ Msg.field decoding 239 224 = 1
    ∧ bitsOf (ofBytes [0, 32, 0, 0]) 15 8 ≠ 33 := by
  decide +kernel

def undecoded (w : Msg) : State := run base 3 w 0
theorem witness_DecodeEngine_causes :
    (undecoded (decoding ||| (1 <<< 400))).working (.unit 0 3) 1 (packet 0 (decoding ||| (1 <<< 400))) ∧ reservedClear (decoding ||| (1 <<< 400)) [(383, 256), (240, 64)] = false
    ∧ (undecoded (command 0 1 0 0 3 0)).working (.unit 0 3) 1 (packet 0 (command 0 1 0 0 3 0)) ∧ reservedClear (command 0 1 0 0 3 0) [(383, 256), (240, 64)] = true
    ∧ (Msg.word (command 0 1 0 0 3 0) 4).extractLsb' 60 4 ≠ 15 := by
  decide +kernel

/-- Message records of dimension 1 at 0x5000 (η = 1, Λ = 2), 0x5040 and 0x5080, the second of which is NULL, and factors at 0x50C0 (one
variable), 0x5100 (two, with Λ = 0) and 0x5140 (none); the list at 0x5180 names the first record, and Λ = 0 at 0x5200. -/
def graph : State :=
  { base with mem := ((((((base.mem.write (at' 0x5000) (toBytes 16 (1 + 0x3F800000 * 2 ^ 64 + 0x40000000 * 2 ^ 96))).write (at' 0x5040) (toBytes 8 (1 + 256))).write
      (at' 0x5080) (toBytes 16 (1 + 0x3F000000 * 2 ^ 32 + 0x3F800000 * 2 ^ 64 + 0x40000000 * 2 ^ 96))).write (at' 0x50C0) (toBytes 16 (1 + 0x100))).write
      (at' 0x5100) (toBytes 8 (2 + 0x1100))).write (at' 0x5180) (toBytes 8 0x5000)).write (at' 0x5200) [1] }
def v2f : Msg := fields (command 0 2 0 0 4 0) [(64, 0x5000), (128, 0x5000), (192, 0x5080)]
def bel : Msg := fields (command 0 3 0 0 4 0) [(64, 0x5000), (128, 0x5180), (192, 0x5080), (256, 1)]
def damp : Msg := fields (command 0 5 0 0 4 0) [(64, 0x5000), (128, 0x5080)]
def mean (src : Nat) : Msg := fields (command 0 4 0 0 4 0) [(64, src), (128, 0x5400)]
def f2v (f : Nat) : Msg := fields (command 0 1 0 0 4 0) [(64, f), (384, 0x5080)]
def gm (w : Msg) : State := run graph 4 w 0
def me4 : Eng := .unit 0 4

/-- The elements that a command asks for, read one after the other; whether it has asked for one that it may read; whether it has them all. -/
def fed (f : State → Except EngStop Unit) : Nat → State → State
  | 0, s => s
  | n + 1, s => match f (s.begun me4) with
    | .error (.fetch a k) => (match (s.begun me4).engRead me4 [(a, k)] with
      | .ok ([bs], _) => fed f n (s.modRun me4 fun r => { r with words := r.words ++ [(a, bs)] })
      | _ => s)
    | _ => s
def asks (f : State → Except EngStop Unit) (s : State) : Bool := match f (s.begun me4) with
  | .error (.fetch a k) => reads ((s.begun me4).engRead me4 [(a, k)]) 1
  | _ => false
def has {α : Type} (x : Except EngStop α) : Bool := match x with
  | .ok _ => true
  | .error _ => false

/-- The output record may be written. -/
def record1 (s : State) (out : Word) : Bool := match (s.begun me4).gmAddr me4 out 64 with
  | .ok a => writes ((s.begun me4).engCheck me4 [(a, recordLen 1)])
  | .error _ => false

def needsV2f (s : State) : Except EngStop Unit := do
  let o ← s.gmMessage me4 0x5080 none true
  let _ ← s.gmMessage me4 0x5000 (some o.dim) false
  let _ ← s.gmOptional me4 0x5000 o.dim
def needsBel (s : State) : Except EngStop Unit := do
  let o ← s.gmMessage me4 0x5080 none true
  let _ ← s.gmOptional me4 0x5000 o.dim
  let fa ← s.gmAddr me4 0x5180 8
  let bs ← s.gmRead me4 fa 8
  let _ ← s.gmList me4 [BitVec.ofNat 64 (ofBytes bs)] o.dim
def needsDamp (s : State) : Except EngStop Unit := do
  let o ← s.gmMessage me4 0x5080 none true
  let _ ← s.gmMessage me4 0x5000 (some o.dim) false

theorem witness_GaussianEngine_v2f :
    (let s := fed needsV2f 20 (gm v2f);
      s.working me4 2 (packet 0 v2f) ∧ (s.runOf me4).final = none ∧ has (needsV2f (s.begun me4)) = true ∧ record1 s 0x5080 = true)
    ∧ asks needsV2f (gm v2f) = true ∧ asks needsV2f (fed needsV2f 4 (gm v2f)) = true ∧ reservedClear v2f [(255, 64)] = true
    ∧ (gm (v2f ||| (1 <<< 256))).working me4 2 (packet 0 (v2f ||| (1 <<< 256))) ∧ reservedClear (v2f ||| (1 <<< 256)) [(255, 64)] = false := by
  decide +kernel

theorem witness_GaussianEngine_bel :
    (let s := fed needsBel 30 (gm bel);
      s.working me4 3 (packet 0 bel) ∧ (s.runOf me4).final = none ∧ has (needsBel (s.begun me4)) = true ∧ record1 s 0x5080 = true)
    ∧ asks needsBel (gm bel) = true ∧ reservedClear bel [(262, 64)] = true ∧ Msg.field bel 262 256 = 1
    ∧ (gm (bel ||| (65 <<< 256))).working me4 3 (packet 0 (bel ||| (65 <<< 256))) ∧ 64 < Msg.field (bel ||| (65 <<< 256)) 262 256 := by
  decide +kernel

theorem witness_GaussianEngine_damp :
    (let s := fed needsDamp 20 (gm damp);
      s.working me4 5 (packet 0 damp) ∧ (s.runOf me4).final = none ∧ has (needsDamp (s.begun me4)) = true ∧ record1 s 0x5080 = true)
    ∧ asks needsDamp (gm damp) = true ∧ reservedClear damp [(191, 64)] = true
    ∧ (gm (damp ||| (1 <<< 192))).working me4 5 (packet 0 (damp ||| (1 <<< 192))) ∧ reservedClear (damp ||| (1 <<< 192)) [(191, 64)] = false := by
  decide +kernel

/-- A command that has computed what it writes, with one element left and with none. -/
def computed (outs : List (EAddr × List Byte)) : State := (gm v2f).modRun me4 fun r => { r with outs := outs, final := some (0, 1) }
theorem witness_GaussianEngine_writes :
    (computed [(.mem 0x5080, List.replicate 8 0)]).working me4 2 (packet 0 v2f) ∧ ((computed []).runOf me4).final = some (0, 1) ∧ ((computed []).runOf me4).outs = []
    ∧ ((computed [(.mem 0x5080, List.replicate 8 0)]).runOf me4).outs = (.mem 0x5080, List.replicate 8 0) :: []
    ∧ writes (((computed [(.mem 0x5080, List.replicate 8 0)]).begun me4).engCheck me4 [(.mem 0x5080, 8)]) = true := by
  decide +kernel

/-- The record of MEAN as it is read, with what OUT held; the factor of F2V and its message. -/
def needsMean (src : Word) (s : State) : Except EngStop Unit := do
  let b ← s.gmMessage me4 src none false
  let a ← s.gmAddr me4 0x5400 64
  let _ ← s.gmRead me4 a (4 * b.dim)
  let _ ← s.engCheck me4 [(a, 4 * b.dim)]
def solved (src : Word) : Option (Bool × Option Nat) :=
  let s := fed (needsMean src) 20 (gm (mean src.toNat))
  if has (needsMean src (s.begun me4)) then match (s.begun me4).gmMessage me4 src none false with
    | .ok b => some (b.null, match chol (triGet b.dim b.lam) b.dim with | .ok _ => none | .error j => some j)
    | .error _ => none
  else none

theorem witness_GaussianEngine_mean :
    (fed (needsMean 0x5000) 20 (gm (mean 0x5000))).working me4 4 (packet 0 (mean 0x5000)) ∧ reservedClear (mean 0x5000) [(191, 64)] = true
    ∧ solved 0x5000 = some (false, none) ∧ (solved 0x5040).map (·.1) = some true ∧ solved 0x5200 = some (false, some 0)
    ∧ asks (needsMean 0x5000) (gm (mean 0x5000)) = true
    ∧ (gm (mean 0 ||| (1 <<< 192))).working me4 4 (packet 0 (mean 0 ||| (1 <<< 192))) ∧ reservedClear (mean 0 ||| (1 <<< 192)) [(191, 64)] = false := by
  decide +kernel

def needsF2v (f : Word) (s : State) : Except EngStop Unit := do
  let fa ← s.gmAddr me4 f 64
  let h ← s.gmHead me4 fa
  if factorCause h ≠ none then return ()
  let _ ← s.gmRead me4 (fa.plus 8) (bodyLen ((factorDims h).foldl (· + ·) 0))
  let _ ← s.gmVars me4 (f2v f.toNat) (factorDims h) 0 (List.range (bitsOf h 2 0))
  let _ ← s.gmMessage me4 0x5080 (some ((factorDims h).getD 0 0)) true
def factor (f : Word) : Option (Nat × Option Nat) :=
  let z := (fed (needsF2v f) 40 (gm (f2v f.toNat))).begun me4
  if has (needsF2v f z) then match z.gmHead me4 (.mem f) with
    | .ok h =>
      let n := (factorDims h).foldl (· + ·) 0
      match z.gmRead me4 ((EAddr.mem f).plus 8) (bodyLen n) with
      | .ok bs => some (h, match factorMessage (factorDims h) 0 (addedEta (factorDims h) [] (wordsOf bs n))
            (addedLam (factorDims h) [] n (wordsOf (bs.drop (4 * n)) (n * (n + 1) / 2))) with
          | .ok _ => none
          | .error j => some j)
      | .error _ => some (h, none)
    | .error _ => none
  else none

theorem witness_GaussianEngine_f2v :
    (fed (needsF2v 0x50C0) 40 (gm (f2v 0x50C0))).working me4 1 (packet 0 (f2v 0x50C0)) ∧ reservedClear (f2v 0x50C0) [(449, 64)] = true
    ∧ factor 0x50C0 = some (1 + 0x100, none) ∧ factor 0x5100 = some (2 + 0x1100, some 0) ∧ (factor 0x5140).map (·.1) = some 0 ∧ factorCause 0 = some 0x141
    ∧ factorCause (1 + 0x100) = none ∧ factorCause (2 + 0x1100) = none ∧ asks (needsF2v 0x50C0) (gm (f2v 0x50C0)) = true
    ∧ (∀ j, j < 4 → bitsOf (1 + 0x100) 2 0 ≤ j → j ≠ 0 → Msg.word (f2v 0x50C0) (2 + j) = 0) ∧ Msg.field (f2v 0x50C0) 449 448 = 0
    ∧ (gm (f2v 0 ||| (1 <<< 450))).working me4 1 (packet 0 (f2v 0 ||| (1 <<< 450))) ∧ reservedClear (f2v 0 ||| (1 <<< 450)) [(449, 64)] = false := by
  decide +kernel

/-- A lane of the link engine runs a command of the launch; an ARED that has its place, with a chunk that it has sent or none. -/
def lane (w : Msg) (done : Nat) (ord : Option Nat) : State :=
  base.setLane 0 (some { pkt := packet 0x3FF w, ord := ord, run := { Run.start with progress := done } })
def linkCopy (src n : Nat) : Msg := fields (command 0 2 0 0x3FF 6 0) [(64, src), (128, 0x5000), (192, n)]
def ared (buf count op : Nat) : Msg := fields (command 0 1 0 0x3FF 6 0) [(64, buf), (128, count), (160, op)]
def paired (s : State) : State := { s with peerTrained := true, launches := [{ gang with pairIndex := some 0 }] }
def sent (s : State) : State := s.modRun (.link 0) fun r => { r with words := [(.mem 0x3000, List.replicate 64 0)] }

theorem witness_LinkEngine_copy :
    (lane (linkCopy 0x3000 100) 64 none).working (.link 0) 2 (packet 0x3FF (linkCopy 0x3000 100)) ∧ reservedClear (linkCopy 0x3000 100) [(231, 192), (191, 64)] = true
    ∧ (lane (linkCopy 0x3000 100) 64 none).engAddr (.link 0) .none (Msg.word (linkCopy 0x3000 100) 1) = .ok (.mem 0x3000)
    ∧ chunk ((lane (linkCopy 0x3000 100) 64 none).begun (.link 0)) (.link 0) (.mem 0x3040) (.mem 0x5040) (min 64 (100 - 64)) = true
    ∧ (lane (linkCopy own 1) 0 none).working (.link 0) 2 (packet 0x3FF (linkCopy own 1)) ∧ (Msg.word (linkCopy own 1) 1).extractLsb' 60 4 = 15
    ∧ (let w := fields (command 0 2 0 0x3FF 6 0) [(64, 0x3000), (128, own), (192, 1)];
      (lane w 0 none).working (.link 0) 2 (packet 0x3FF w) ∧ reservedClear w [(231, 192), (191, 64)] = true
      ∧ (lane w 0 none).engAddr (.link 0) .none (Msg.word w 1) = .ok (.mem 0x3000) ∧ (Msg.word w 2).extractLsb' 60 4 = 15) := by
  decide +kernel

theorem witness_LinkEngine_ared :
    (lane (ared 0x3000 16 0) 0 none).working (.link 0) 1 (packet 0x3FF (ared 0x3000 16 0)) ∧ ((lane (ared 0x3000 16 0) 0 none).lane? 0).bind (·.ord) = none
    ∧ (lane (ared 0x3000 0 0) 0 none).working (.link 0) 1 (packet 0x3FF (ared 0x3000 0 0)) ∧ (lane (ared own 16 0) 0 none).working (.link 0) 1 (packet 0x3FF (ared own 16 0))
    ∧ (lane (ared 0x3020 16 0) 0 none).working (.link 0) 1 (packet 0x3FF (ared 0x3020 16 0)) := by
  decide +kernel

theorem witness_LinkEngine_ared_fields :
    reservedClear (ared 0x3000 268435456 4) [(178, 64)] = true ∧ Msg.field (ared 0x3000 268435456 4) 159 128 = 268435456 ∧ ¬ 5 ≤ Msg.field (ared 0x3000 16 4) 162 160
    ∧ 5 ≤ Msg.field (ared 0x3000 16 5) 162 160 ∧ Msg.field (ared 0x3000 0 0) 159 128 = 0 ∧ (Msg.word (ared own 16 0) 1).extractLsb' 60 4 = 15
    ∧ (Msg.word (ared 0x3020 16 0) 1).toNat % 64 ≠ 0 ∧ (Msg.word (ared 0x3000 16 0) 1).toNat % 64 = 0 := by decide +kernel

theorem witness_LinkEngine_ared_pages :
    (pagesOf (Msg.word (ared 0x3000 16 0) 1) 64).all (fun va => ((lane (ared 0x3000 16 0) 0 none).region 0 va).attr == 2
      && ((lane (ared 0x3000 16 0) 0 none).hostPhys 0 va false).any fun pa => (lane (ared 0x3000 16 0) 0 none).ownMem pa) = true := by decide +kernel

theorem witness_LinkEngine_partner :
    (lane (ared 0x3000 16 0) 0 none).hasPartner (packet 0x3FF (ared 0x3000 16 0)) = false
    ∧ (paired (lane (ared 0x3000 16 0) 0 none)).hasPartner (packet 0x3FF (ared 0x3000 16 0)) = true
    ∧ ((paired base).launch? 0).map (·.partnerEnded) = some false
    ∧ (({ paired base with launches := [{ gang with pairIndex := some 0, partnerEnded := true }] } : State).launch? 0).map (·.partnerEnded) = some true
    ∧ 0 < Sparse.get 0 ({ paired base with pairCounts := [(0, 1)] } : State).pairCounts 0
    ∧ (paired base).launchFor (packet 0x3FF (ared 0x3000 16 0)) = some { gang with pairIndex := some 0 } ∧ (paired base).launch? 0 = some { gang with pairIndex := some 0 } := by
  decide +kernel

theorem witness_LinkEngine_chunk :
    (let s := paired (lane (ared 0x3000 16 0) 0 (some 5));
      s.working (.link 0) 1 (packet 0x3FF (ared 0x3000 16 0)) ∧ (s.lane? 0).bind (·.ord) = some 5 ∧ (s.runOf (.link 0)).words = []
      ∧ (pagesOf (va57 0x3000) 64).all (fun va => (s.hostPhys 0 va false).all fun pa => s.ownMem pa) = true
      ∧ reads ((s.begun (.link 0)).engRead (.link 0) [(.mem 0x3000, 64)]) 1 = true)
    ∧ (let s := sent (paired (lane (ared 0x3000 16 0) 0 (some 5)));
      s.running (.link 0) = some (packet 0x3FF (ared 0x3000 16 0)) ∧ s.aredLane ⟨⟨0, 0⟩, 0, 5⟩ = some 0 ∧ s.engReady (.link 0) = true
      ∧ (s.runOf (.link 0)).words = [(.mem 0x3000, List.replicate 64 0)] ∧ writes ((s.begun (.link 0)).engCheck (.link 0) [(.mem 0x3000, 64)]) = true)
    ∧ (List.replicate 64 (0 : Byte)).length = min (4096 / 4) (16 - 0) * 4 := by decide +kernel

/-! Arrivals at units, the launch unit and its messages. -/

def full1 : State := base.modUnit 0 1 fun q => { q with inq := List.replicate 9 (packet 0 (command 0 5 0 0 1 0)) }

theorem witness_CommandsAndElements :
    base.launch? 0 = some gang ∧ packetUnit (packet 0 (command 0 5 0 0 1 0)) = 1 ∧ gang.core? (packet 0 (command 0 5 0 0 1 0)).dst.toNat = some 0 ∧ gang.phase = .running
    ∧ base.forwarder 0 = none ∧ (base.coreAt 0).net.refusing = false ∧ nackBlocks (base.coreAt 0).net.nacks 1 (.core 0 0) 0 = false
    ∧ ((base.coreAt 0).unit 1).room 1 = true ∧ ((full1.coreAt 0).unit 1).room 1 = false ∧ nackBlocks [((1 : BitVec 3), .core 0 0, (5 : BitVec 16))] 1 (.core 0 0) 0 = true
    ∧ packetUnit (packet 0x3FF (ared 0x3000 16 0)) = 6 ∧ base.linkNacks = [] ∧ base.linkq.length < 64 ∧ hidOf (ared 0x3000 16 0) ∈ [1, 2]
    ∧ 64 ≤ ({ base with linkq := List.replicate 64 (packet 0x3FF (ared 0x3000 16 0)) } : State).linkq.length
    ∧ base.member 0 0 = some 0 ∧ base.launchOf 0 = some gang ∧ gang.field 480 480 = 1 ∧ base.handler 0 (gang.field 479 468) = some (0, 0x9000)
    ∧ (base.coreAt 0).net.trapq.length < 16 := by decide +kernel

theorem witness_CommandsAndElements_source : ∀ d n, (packet 0 (command 0 5 0 0 1 0)).src = .core d n → d = base.dev := by
  intro d n h
  injection h with h _
  exact h.symm

theorem witness_CommandsAndElements_known : unitEvent 0 1 (hidOf (packet 0 (command 0 5 0 0 1 0)).word) ≠ none := by
  rw [show hidOf (packet 0 (command 0 5 0 0 1 0)).word = 5 by decide +kernel]
  exact fun h => nomatch h

/-- A descriptor of queue 0 of eight records at 0x10000; a head of one cluster. -/
def descriptor (tail : Nat) : Msg := BitVec.ofNat 512 (0x10000 + 3 * 2 ^ 64 + tail * 2 ^ 192 + 2 ^ 256)
def head0 : Head :=
  { record := record, args := 0, descs := [], child := false, place := 0, arrived := 0, since := 0, eligibleAt := some 0, gateOpen := true, gateAt := 0
    orphan := false, missed := false }
/-- Queue 0 with its descriptor in slot 0, with or without a head, with launches; the package is ready. -/
def listed (d : Msg) (h : Option Head) (ls : List Launch) : State :=
  { base with queues := [(0, some d)], slots := base.slots.set 0 { Slot.reset with queue := some 0, head := h }, launches := ls
              mgmt := { base.mgmt with readyMap := BitVec.allOnes 334 } }
def gateAt (v : Nat) : State :=
  let s := listed (descriptor 1) (some { head0 with args := 0x3000, gateOpen := false }) []
  { s with mem := s.mem.write (at' 0x3000) (toBytes 8 v) }

theorem witness_QueuesAndSlots_register :
    (let f := fun (hi lo : Nat) => Msg.field (descriptor 0) hi lo;
      f 511 320 = 0 ∧ f 287 261 = 0 ∧ f 191 185 = 0 ∧ f 63 57 = 0 ∧ f 5 0 = 0 ∧ 3 ≤ f 67 64 ∧ f 71 71 = 0)
    ∧ Msg.field (BitVec.ofNat 512 (2 * 2 ^ 64)) 67 64 < 3 ∧ (listed (descriptor 1) none []).desc 0 = some (descriptor 1)
    ∧ (listed (descriptor 1) none []).setAt = [] := by decide +kernel

/-- A record whose group tables are malformed by its argument block: the gate at 0x3004. -/
def crooked : State := { listed (descriptor 1) none [] with mem := base.mem.write (at' 0) (toBytes 8 0x3004) }

theorem witness_QueuesAndSlots_doorbell :
    (let s := listed (descriptor 1) none [];
      s.mgmt.readyMap.getLsbD 5 = true ∧ base.mgmt.readyMap.getLsbD 5 = false ∧ s.qf 0 256 256 = 1 ∧ 2 ^ s.qf 0 67 64 = 8 ∧ s.qf 0 255 224 = 0
      ∧ ({ base with queues := [(0, some 0)] } : State).qf 0 256 256 = 0) := by decide +kernel

theorem witness_QueuesAndSlots_idle :
    (let s := listed (descriptor 0) none [];
      s.waiting = [] ∧ s.slotIdle 0 = true ∧ (s.slotAt 0).idleSince + s.rigging 143 128 200 * 1500 = 300000 ∧ s.cyc < 300000
      ∧ ({ s with cyc := 300000 } : State).slotIdle 0 = true ∧ (listed (descriptor 1) none []).slotIdle 0 = false) := by decide +kernel

/-- Every slot holds the idle queue 5, which was signalled in cycle 0. -/
def crowded (cyc : Nat) : State :=
  { listed (descriptor 1) none [] with
    queues := [(0, some (descriptor 0)), (5, some (descriptor 0))], slots := Vector.replicate 128 { Slot.reset with queue := some 5 }, cyc := cyc }

theorem witness_QueuesAndSlots_slots :
    (let s := { listed (descriptor 1) none [] with slots := Vector.replicate 128 Slot.reset };
      s.slotOfQueue 0 = none ∧ (s.slotAt 0).queue = none ∧ s.desc 0 = some (descriptor 1))
    ∧ (∀ m, ((crowded 1).slotAt m).queue ≠ none) ∧ (crowded 1).slotOfQueue 0 = none ∧ (∀ m, (crowded 1).slotIdle m = true ∧ ((crowded 1).slotAt m).lastBell < (crowded 1).cyc)
    ∧ (∀ m, ((crowded 1).slotAt 0).lastBell = ((crowded 1).slotAt m).lastBell ∧ 0 ≤ m) ∧ (∀ m, ¬ ((crowded 0).slotAt m).lastBell < (crowded 0).cyc)
    ∧ (∀ m, ((crowded 0).slotAt m).queue ≠ none)
    ∧ (let s := { listed (descriptor 0) none [] with waiting := [(1, 0)], cyc := 300000 };
      s.slotIdle 0 = true ∧ (s.slotAt 0).idleSince + s.rigging 143 128 200 * 1500 ≤ s.cyc ∧ ((1, 0) : BitVec 16 × Nat) ∈ s.waiting) := by decide +kernel

theorem witness_QueuesAndSlots_read :
    (let s := listed (descriptor 1) none [];
      (s.slotAt 0).queue = some 0 ∧ s.queuePasid 0 = 0 ∧ s.canRead 0 = true ∧ (s.slotAt 0).children = [] ∧ (s.slotAt 0).aside = none ∧ (s.slotAt 0).taken = none
      ∧ s.startAway 0 0 = false ∧ s.unitRead 0 (s.headVa 0) 64 = .got 0 ∧ s.readArgs 0 0 = .ok 0 ∧ s.readDescs 0 0 0 = .ok []
      ∧ s.readArgs 0 (BitVec.ofNat 512 (2 ^ 61)) = .invalid ∧ s.cwordBad 0 (cwordOf (BitVec.ofNat 512 (2 ^ 61))) = false
      ∧ s.wordReady 0 (cwordOf (BitVec.ofNat 512 (2 ^ 61))) = true
      ∧ s.readArgs 0 (BitVec.ofNat 512 (2 ^ 64)) = .invalid ∧ s.cwordBad 0 (cwordOf (BitVec.ofNat 512 (2 ^ 64))) = true
      ∧ s.hostPhys 0 (cwordOf (BitVec.ofNat 512 (2 ^ 61))) true = some (at' 0) ∧ (s.line (at' 0 / 64)).u = [] ∧ s.openCells (at' 0) 8 = [])
    ∧ crooked.readArgs 0 0 = .ok (BitVec.ofNat 512 0x3004) ∧ crooked.readDescs 0 0 (BitVec.ofNat 512 0x3004) = .invalid
    ∧ ((queued 1).slotAt 0).children.head?.map (·.1) = some record
    ∧ ({ listed (descriptor 1) none [] with spaces := [(0, { Space.reset with stopped := true })] } : State).unitRead 0 0x10000 64 = .refused := by decide +kernel

theorem witness_QueuesAndSlots_gate :
    ((gateAt 0).slotAt 0).queue = some 0 ∧ ((gateAt 0).slotAt 0).head = some { head0 with args := 0x3000, gateOpen := false } ∧ (gateAt 0).deadQueues.contains 0 = false
    ∧ low57 (Msg.word 0x3000 0) ≠ 0 ∧ (gateAt 0).unitRead 0 (va57 (Msg.word 0x3000 0)) 8 = .got 0
    ∧ (gateAt 0xFFFFFFFFFFFFFFFD).unitRead 0 (va57 (Msg.word 0x3000 0)) 8 = .got 0xFFFFFFFFFFFFFFFD
    ∧ (gateAt 1).unitRead 0 (va57 (Msg.word 0x3000 0)) 8 = .got 1
    ∧ (BitVec.ofNat 512 (2 ^ 63)) ≠ 0 ∧ low57 (Msg.word (BitVec.ofNat 512 (2 ^ 63)) 0) = 0 := by decide +kernel

/-- The candidate of the head, and of a saved launch. -/
def cand0 : Cand := { ref := .slot 0, q := 0, w := 1, h := 1, groups := 0, dur := 0, arrived := 0, eligible := 0 }
def savedGang : Launch := { gang with phase := .saved, images := [base.coreAt 0, base.coreAt 1, base.coreAt 2, base.coreAt 3] }
def notReady (s : State) : State := { s with mgmt := { s.mgmt with readyMap := 32 } }
def blocking (tried : Bool) : Blocked := { who := .slot 0, since := 0, deadline := 5, projected := [], tried := tried }

theorem witness_Scheduling_placement :
    (listed (descriptor 1) (some head0) []).mgmt.hold = false ∧ base.mgmt.readyMap.getLsbD 5 = false ∧ (listed (descriptor 1) none []).ranked = []
    ∧ (listed (descriptor 1) (some head0) []).mgmt.readyMap.getLsbD 5 = true
    ∧ (listed (descriptor 1) (some head0) []).ranked = [cand0] ∧ (listed (descriptor 1) (some head0) []).hasRoom cand0 = true
    ∧ cand0.fit (listed (descriptor 1) (some head0) []).openClusters = some [0] ∧ ((listed (descriptor 1) (some head0) []).slotAt 0).head = some head0
    ∧ (listed (descriptor 1) (some head0) []).isRt cand0 = false := by decide +kernel

theorem witness_Scheduling_blocked :
    (notReady (listed (descriptor 1) (some head0) [])).ranked = [cand0] ∧ cand0.fit (notReady (listed (descriptor 1) (some head0) [])).openClusters = none
    ∧ (notReady (listed (descriptor 1) (some head0) [])).mgmt.readyMap.getLsbD 5 = true := by decide +kernel

theorem witness_Scheduling_resume :
    ((listed (descriptor 1) none [savedGang]).ranked.map (·.ref)) = [.saved 0] ∧ (listed (descriptor 1) none [savedGang]).launch? 0 = some savedGang
    ∧ ((listed (descriptor 1) none [savedGang]).ranked.map fun k => (k.fit (listed (descriptor 1) none [savedGang]).openClusters).isSome) = [true]
    ∧ ((listed (descriptor 1) none [savedGang]).ranked.all fun k => (listed (descriptor 1) none [savedGang]).hasRoom k) = true := by decide +kernel

theorem witness_Scheduling_deadline :
    (let s : State := { listed (descriptor 1) (some head0) [gang] with blocked := some (blocking false), cyc := 5 };
      s.blocked = some (blocking false) ∧ s.ranked = [cand0] ∧ (blocking false).is cand0 = true ∧ (blocking false).deadline ≤ s.cyc ∧ (s.launches.map (·.lid)).Nodup)
    ∧ (blocking true).tried = true ∧ base.blocked = none := by decide +kernel

/-- A launch of queue 0 in the way of its head, with an area to be saved in, and room for its image or none; no cluster for the head. -/
def inTheWay (room : Nat) : State :=
  let s := listed (descriptor 1 ||| (0x20000 <<< 128)) (some head0) [gang]
  { s with blocked := some (blocking false), cyc := 1500000, mgmt := { s.mgmt with saveRoom := room } }

theorem witness_Scheduling_choice :
    (let s := inTheWay (2 ^ 40);
      let k := s.ranked.head?.getD cand0;
      s.ranked = [k] ∧ (blocking false).is k = true ∧ (blocking false).deadline ≤ s.cyc ∧ s.saveFits [gang] = true ∧ s.migrations = [] ∧ s.qf 0 184 128 ≠ 0
      ∧ s.qf 0 70 68 ≤ s.candPrio k ∧ gang.enteredAt + 1500000 ≤ s.cyc ∧ k.fit (s.openClusters ++ s.leaving ++ [gang].flatMap Launch.held) ≠ none)
    ∧ (let s := { notReady (listed (descriptor 1) (some head0) []) with blocked := some (blocking false), cyc := 5 };
      s.ranked = [cand0] ∧ cand0.fit (s.openClusters ++ s.leaving) = none ∧ (blocking false).deadline ≤ s.cyc ∧ s.launches = [])
    ∧ (coresOf [0]).Nodup ∧ (coresOf [0])[1]? = some 1 := by decide +kernel

/-- A head of two clusters, each held by a launch, and room for the image of one of them. -/
def gang1 : Launch := { gang with lid := 1, cores := coresOf [1] }
def tight : State :=
  let s := listed (descriptor 1 ||| (0x20000 <<< 128)) (some { head0 with record := record ||| (1 <<< 448) }) [gang, gang1]
  { s with blocked := some (blocking false), cyc := 1500000, mgmt := { s.mgmt with saveRoom := 0x40000 } }

theorem witness_Scheduling_noRoom :
    (let k := tight.ranked.head?.getD cand0;
      let at' := (k.fit (tight.openClusters ++ tight.leaving ++ [gang, gang1].flatMap Launch.held)).getD [];
      tight.ranked = [k] ∧ (blocking false).is k = true ∧ tight.saveFits [gang] = true ∧ tight.saveFits [gang1] = true ∧ tight.qf 0 70 68 ≤ tight.candPrio k
      ∧ k.fit (tight.openClusters ++ tight.leaving ++ [gang, gang1].flatMap Launch.held) = some at'
      ∧ tight.saveFits ([gang, gang1].filter fun g => g.held.any at'.contains) = false ∧ (tight.launches.map (·.lid)).Nodup) := by decide +kernel

/-- The real-time queue 0 with a head, or a launch that has awaited resumption, for longer than its RTDELAY of 1 us. -/
def late (h : Option Head) (ls : List Launch) : State := { listed (descriptor 1 ||| (1 <<< 71) ||| (1 <<< 80)) h ls with cyc := 1501 }

theorem witness_Scheduling_missed :
    (let s := late (some head0) [];
      (s.slotAt 0).queue = some 0 ∧ (s.slotAt 0).head = some head0 ∧ s.qf 0 71 71 = 1 ∧ head0.missed = false ∧ s.firstSaved 0 = none
      ∧ head0.since + s.qf 0 95 80 * 1500 < s.cyc)
    ∧ (late none [savedGang]).firstSaved 0 = some savedGang ∧ savedGang.missed = false ∧ savedGang.enteredAt + 1 * 1500 < (late none [savedGang]).cyc
    ∧ (late none [savedGang]).qf 0 95 80 = 1 := by decide +kernel

/-- The launch is being saved, when a line of its image is the host's, and when its copy engine is in the middle of its stores. -/
def saving : State := { base with launches := [{ gang with phase := .saving }] }

def savingHeld : State :=
  let s : State := { saving with queues := [(0, some (descriptor 0 ||| (0x20000 <<< 128)))] }
  s.setLine (at' 0x20000 / 64) { s.line (at' 0x20000 / 64) with host := .exclusive }

def savingMidway : State :=
  let s := run base 4 (command 0 1 0 0 4 0) 0
  { s.modRun (.unit 0 4) fun r => { r with final := some (0, 0) } with launches := [{ gang with phase := .saving }] }

theorem witness_Scheduling_saving :
    saving.launch? 0 = some { gang with phase := .saving } ∧ gang.cores.all (fun c => saving.midway c == false) = true
    ∧ saving.saveHeld { gang with phase := .saving } = []
    ∧ savingHeld.launch? 0 = some { gang with phase := .saving } ∧ gang.cores.all (fun c => savingHeld.midway c == false) = true
    ∧ savingHeld.saveHeld { gang with phase := .saving } ≠ []
    ∧ savingMidway.midway 0 = true
    ∧ (let l := { savedGang with phase := .resuming };
      ({ base with launches := [l] } : State).launch? 0 = some l ∧ l.cores.Nodup ∧ l.images.length = l.cores.length ∧ ∀ m ∈ l.images, m.splice.pend = []) := by
  decide +kernel

theorem witness_Scheduling_not_busy : ¬ ∃ i ∈ base.pending ++ base.parked, base.gangOf i = some 0 ∧ isKick i = false ∧ isKept i = false ∧ i ≠ .preemptionSaved 0 :=
  fun ⟨_, h, _⟩ => absurd (List.length_pos_of_mem h) (by decide +kernel)
theorem witness_Scheduling_busy :
    ∃ i ∈ leaving.pending ++ leaving.parked, leaving.gangOf i = some 0 ∧ isKick i = false ∧ isKept i = false ∧ i ≠ .preemptionSaved 0 :=
  ⟨.homeOperation (homeOp .depdec), List.mem_append_left _ (List.mem_singleton_self _), by decide +kernel, by decide +kernel, by decide +kernel, fun h => nomatch h⟩

/-- Ready records of the launch, for its core 1 and for a core that is none; a release that waits, for the counter at 0x3000. -/
def ready (rel : Nat) : Ready := { lid := 0, core := 0, word := header 0 0 0 rel, prio := 0, cycle := 0, counter := 0, va := 0x3000 }
def release : Held := { core := 0, lid := 0, pa := at' 0x3000, va := 0x3000, cycle := 0, prio := 0, task := 0x5000, record := none }
/-- The release waits: with its record, or to read it. -/
def releasing (h : Held) : State := { base with held := [h] }

theorem witness_LaunchUnitMessages_direct :
    (queued 0).slotOfQueue 0 = some 0 ∧ (queued 0).newest 0 = some gang ∧ ({ queued 0 with launches := [] } : State).newest 0 = none
    ∧ gang.core? 0 = some 0 ∧ 0 ∈ startCores gang.record ∧ 1 ∉ startCores gang.record ∧ gang.core? 1023 = none
    ∧ (0x9000 : Word).getLsbD 0 = false ∧ (0x9001 : Word).getLsbD 0 = true ∧ (queued 0).window 0 = 0
    ∧ base.slotOfQueue 0 = none ∧ base.mgmt.readyMap.getLsbD 1 = true
    ∧ (base.modMgmt fun m => { m with readyMap := 0 }).mgmt.readyMap.getLsbD 1 = false ∧ base.stopped 0 = false := by decide +kernel

theorem witness_LaunchUnitMessages_ready :
    base.mgmt.hold = false ∧ base.nextReady = none ∧ ({ base with readyq := [ready 1] } : State).nextReady = some (ready 1) ∧ base.launch? (ready 1).lid = some gang
    ∧ base.readyOk gang (ready 1) = true ∧ base.readyOk gang (ready 1023) = false ∧ gang.cores.head? = some 0 := by decide +kernel

theorem witness_LaunchUnitMessages_release :
    (releasing release).held.find? (fun g => g.pa == release.pa) = some release ∧ (releasing release).launch? release.lid = some gang
    ∧ ((releasing release).space 0).stopped = false ∧ ((releasing release).region 0 0x5000).attr ≠ 0 ∧ low57 release.task % 64 = 0
    ∧ (releasing release).vaRefused 0 0x5000 = false ∧ (releasing release).vaHeld 0 0x5000 64 = false ∧ ((releasing release).readVa 0 0x5000 64).map (BitVec.ofNat 512) = some 0
    ∧ (releasing release).readyq.length < 1024
    ∧ ({ releasing release with readyq := List.replicate 1024 (ready 1) } : State).readyq.length = 1024
    ∧ (releasing { release with record := some 0 }).held.find? (fun g => g.pa == release.pa) = some { release with record := some 0 }
    ∧ ({ releasing release with hostPages := [] } : State).readVa 0 0x5000 64 = none
    ∧ ({ releasing release with hostPages := [] } : State).vaRefused 0 0x5000 = false
    ∧ (((releasing release).setLine (at' 0x5000 / 64) { (releasing release).line (at' 0x5000 / 64) with host := .exclusive }).vaHeld 0 0x5000 64) = true
    ∧ (releasing { release with task := 0x5008 }).held.find? (fun g => g.pa == release.pa) = some { release with task := 0x5008 } ∧ low57 0x5008 % 64 ≠ 0 := by
  decide +kernel

/-! Cells, splice rewriting, migration. -/

/-- A request of core 0 that met the cell at 0x4000. -/
def asking (chain : Bool) (what : FurlWhat) : FurlReq :=
  { dev := 0, core := 0, ctx := 0, va := 0x4000, pa := at' 0x4000, chain := chain, anc := (0, 0, 0), what := what, issued := 0 }
/-- The cell UNFURLING with n waiters. -/
def unfurling (n : Nat) : State := (tagged 2).modCleat (at' 0x4000) fun _ => List.replicate n (.furl (asking false .load) false true 0)
def home4 (s : State) : List Cleat := (s.clusters[s.homeCluster (at' 0x4000)]).cleat

/-- The host holds the line of an address exclusively. -/
def hosted (va : Nat) : State := base.setLine (at' va / 64) { base.line (at' va / 64) with host := .exclusive }

theorem witness_FurledRequests_cells :
    (base.line ((asking false .load).pa / 64)).u = [] ∧ base.hostHolds ((asking false .load).pa / 64) = false
    ∧ base.tag (asking false .load).pa = 0 ∧ (tagged 3).tag (asking false .load).pa = 3
    ∧ (tagged 1).tag (asking true .load).pa = 1 ∧ (asking true .load).chain = true ∧ (asking false .load).chain = false
    ∧ (tagged 2).tag (at' 0x4000) = 2 ∧ (home4 (tagged 1)).length < 64 ∧ 64 ≤ (home4 (fullTable (tagged 1) (at' 0x4000))).length
    ∧ 64 ≤ (home4 (fullTable (tagged 2) (at' 0x4000))).length
    ∧ (((unfurling 7).furlEntries (at' 0x4000)).filterMap Cleat.waiter).length = 7 ∧ (((unfurling 8).furlEntries (at' 0x4000)).filterMap Cleat.waiter).length = 8
    ∧ (unfurling 8).tag (at' 0x4000) = 2 ∧ ((unfurling 8).line (at' 0x4000 / 64)).u = [] ∧ (asking false (.red 0 2 1)).what = .red 0 2 1
    ∧ (hosted 0x4000).hostHolds ((asking false .load).pa / 64) = true := by decide +kernel

theorem witness_FurledRequests_load : ∀ f wd o, (asking false .load).what ≠ .red f wd o := fun _ _ _ h => nomatch h

def limited (c : Nat) : State := { unfurling 1 with cyc := c }
def refusedOnce : State := { base with refused := [(asking false .load, 0)], cyc := 2 ^ 22 }

theorem witness_FurledRequests_limit :
    (asking false .load).issued + 2 ^ (limited 0).rigging 148 144 22 = 2 ^ 22 ∧ (limited (2 ^ 22)).refused = []
    ∧ ((limited (2 ^ 22)).furlEntries (at' 0x4000)).find? (isFurl (asking false .load)) = some (.furl (asking false .load) false true 0) := by decide +kernel
theorem witness_FurledRequests_refused : ∃ e ∈ refusedOnce.refused, e.1 = asking false .load := ⟨(asking false .load, 0), List.mem_singleton_self _, rfl⟩

/-- A reduction that the cell's table had no room for, with its page granted or not; requests of the peer's core 0. -/
def refusedRed (pages : List Grant) : State := { base with refused := [(asking false (.red 0 2 1), 0)], hostPages := pages }
theorem witness_FurledRequests_resend :
    (refusedRed [whole]).hostPhys ((refusedRed [whole]).coreAt 0).ident.pasid 0x4000 true = some (at' 0x4000)
    ∧ (refusedRed []).hostPhys ((refusedRed []).coreAt 0).ident.pasid 0x4000 true = none ∧ (asking false (.red 0 2 1)).dev = base.dev
    ∧ ({ asking false .load with dev := 1 }).dev ≠ base.dev ∧ (linked base).peerTrained = true
    ∧ (∃ e ∈ (refusedRed []).refused, e.1 = asking false (.red 0 2 1)) := by decide +kernel

theorem witness_FurledRequests_unrefused : ∀ e ∈ (limited (2 ^ 22)).refused, e.1 ≠ asking false .load := fun _ h => absurd (List.length_pos_of_mem h) (by decide +kernel)

/-- The record of the cell at 0x5000, and its word 0 when the record breaks 11 R348. -/
def recordAt : Word := va57 (0x5010 &&& 0x1FFFFFFFFFFFFC0)

theorem witness_FurledWakes_message :
    (base.coreAt 0).ident.lid = some 0 ∧ (base.space 0).stopped = false ∧ (base.region 0 recordAt).attr ≠ 0 ∧ base.vaRefused 0 recordAt = false
    ∧ base.vaHeld 0 recordAt 64 = false ∧ base.readVa 0 recordAt 64 = some 0 ∧ (base.launchOf 0).all (fun l => decide (l.cores.length ≤ 1024)) = true
    ∧ base.recordOk 1 0 = true ∧ base.sendOk 0 (base.evalWord (asking false .load) 0 (base.evalCore (asking false .load) 1 0).1) = true
    ∧ base.recordOk 1 1 = false ∧ (base.coreAt 0).net.retryBuf.length < 64 ∧ (stoppedSpace.space 0).stopped = true ∧ (stoppedSpace.coreAt 0).ident.lid = some 0
    ∧ ({ base with hostPages := [] } : State).readVa 0 recordAt 64 = none ∧ ({ base with hostPages := [] } : State).vaRefused 0 recordAt = false
    ∧ (hosted 0x5000).vaHeld 0 recordAt 64 = true ∧ (hosted 0x5000).vaRefused 0 recordAt = false := by decide +kernel

/-- Context 0 of core 0 waits for one or two cells; an atomic of it does; its copy engine does. -/
def furled (ps : List Nat) (st : Wait) : State := (base.suspend 0 0 st).modCtx 0 0 fun c => { c with asked := ps }
theorem witness_FurledWakes_answers :
    ((furled [at' 0x4000] .furled).ctxAt 0 0).status = .suspended .furled ∧ ((furled [at' 0x4000] .furled).ctxAt 0 0).asked = [at' 0x4000]
    ∧ ((furled [at' 0x4000, at' 0x4008] .furled).ctxAt 0 0).asked = [at' 0x4000, at' 0x4008] ∧ at' 0x4008 ≠ at' 0x4000
    ∧ ((furled [at' 0x4000] (.atomic (homeOp .depdec))).ctxAt 0 0).status = .suspended (.atomic (homeOp .depdec))
    ∧ ((run base 2 (linear 100) 0).modRun (.unit 0 2) fun r => { r with asked := [at' 0x4000] }).runOf (FurlReq.eng (asking false (.engine 2)) 2)
      = { Run.start with asked := [at' 0x4000] } := by decide +kernel

/-- A record in core 0's own region; a wake of the peer's core; an atomic whose page lies elsewhere now; a context whose end waits. -/
theorem witness_FurledWakes_others :
    (let va := va57 (0x1010 &&& 0x1FFFFFFFFFFFFC0);
      (base.region 0 va).attr = 0 ∧ (base.region 0 va).owner = (0 : CoreId).val ∧ (base.region 0 va).odev = base.dev ∧ base.vaRefused 0 va = false
      ∧ base.vaHeld 0 va 64 = false ∧ (base.hostPhys 0 va false).map (fun pa => ofBytes (base.ownBytes 0 pa 64)) = some 0)
    ∧ ({ asking false .load with dev := 1 }).dev ≠ base.dev ∧ (asking false .load).dev = base.dev
    ∧ base.hostPhys (base.coreAt 0).ident.pasid (homeOp .depdec).va true = some (homeOp .depdec).pa
    ∧ ({ base with hostPages := [] } : State).hostPhys 0 (homeOp .depdec).va true ≠ some (homeOp .depdec).pa
    ∧ ((base.modCtx 0 1 fun c => { c with status := .flushing }).ctxAt 0 1).status = .flushing := by decide +kernel

def rewriting (e a b : Nat) : State :=
  let free := fun (m : Mem) (n : Nat) => m.write (at' (n + 8)) (toBytes 8 (n + 32 + 2))
  let node := fun (m : Mem) (n h : Nat) => m.write (at' n) (toBytes 32 (h + 2 * 2 ^ 64 + 2 * 2 ^ 128 + 2 * 2 ^ 192))
  { spliced (fun k => { k with bag := [(0x3020, 0x3040)], run := true, rules := 0x10000, free := 0x3100 }) with
    mem := (node (node (free (free (free (free base.mem 0x3100) 0x3120) 0x3140) 0x3160) 0x3020 a) 0x3040 b).write (at' 0x10000) (toBytes 32 e) }
def me5 : Eng := .unit 0 5

/-- The same with the pair in hand. -/
def inHand (e a b : Nat) : State :=
  (rewriting e a b).modSplice 0 fun k => { k with bag := [], taking := some (0x3020, 0x3040) }

/-- The state in which a step of the unit has read the first n places that it needs. -/
def fedSl {α : Type} (f : State → Except SlStop α) : Nat → State → State
  | 0, s => s
  | n + 1, s => match f (s.begun me5) with
    | .error (.eng (.fetch a k) _) => (match s.engRead me5 [(a, k)] with
      | .ok (bs, _) => fedSl f n (s.modRun me5 fun r => { r with words := r.words ++ [(a, bs.flatten)] })
      | .error _ => s)
    | _ => s

/-- What the pair in hand needs before its rewrite begins: its rule, the plan, the far ends. -/
def chosen (kind : BitVec 3) (s : State) : Except SlStop (Taken × Option Plan × List (Port × Option Port)) := do
  let k ← s.takeRule 0 0x3020 0x3040
  match ← if kind = 4 then s.template 0 k else .ok k.plan with
  | none => return (k, none, [])
  | some plan => return (k, some plan, ← s.slFars 0 (portsOf 1 [(k.a, hdrArity k.hdrA), (k.b, hdrArity k.hdrB)]))

/-- Whether a rule of a kind from 1 to 4 gives the pair a plan, or none, once all is read. -/
def begins (kind : BitVec 3) (plan : Bool) (s : State) : Bool := match chosen kind ((fedSl (chosen kind) 32 s).begun me5) with
  | .ok (k, o, _) => k.entry % 8 == kind.toNat && o.isSome == plan
  | .error _ => false

/-- What stops the taking of the pair once all is read. -/
def stopsAt (s : State) : Option SlStop := match ((fedSl (fun t => t.takeRule 0 0x3020 0x3040) 8 s).begun me5).takeRule 0 0x3020 0x3040 with
  | .error e => some e
  | .ok _ => none

theorem witness_SpliceRewriting_plans :
    begins 1 true (inHand 1 0x800 0x800) = true ∧ begins 2 true (inHand 2 0x800 0x800) = true ∧ begins 3 true (inHand 3 0 0x800) = true
    ∧ begins 4 true (inHand (4 + 0x5000 * 2 ^ 64) 0 0) = true ∧ begins 1 false (inHand 1 0x800 0) = true ∧ begins 2 false (inHand 2 0 0) = true
    ∧ begins 3 false (inHand 3 0x400 0) = true ∧ begins 4 false (inHand (4 + 0x5004 * 2 ^ 64) 0 0) = true := by decide +kernel

theorem witness_SpliceRewriting_ready :
    (rewriting 1 0 0).engReady me5 = true ∧ (rewriting 1 0 0).mayRun 0 = true ∧ ((rewriting 1 0 0).spliceAt 0).rewrite = none ∧ (rewriting 1 0 0).slTakes 0 = true
    ∧ ((rewriting 1 0 0).spliceAt 0).taking = none ∧ (inHand 1 0 0).engReady me5 = true ∧ (inHand 1 0 0).mayRun 0 = true
    ∧ ((inHand 1 0 0).spliceAt 0).rewrite = none ∧ ((inHand 1 0 0).spliceAt 0).taking = some (0x3020, 0x3040)
    ∧ ((1 : BitVec 3), Instr.spliceAnnihilate 0) = (1, .spliceAnnihilate 0) ∧ hdrArity 0 = 0 ∧ hdrArity 0x400 = 1 ∧ hdrArity 0x800 = 2 := by decide +kernel

theorem witness_SpliceRewriting_others :
    stopsAt (inHand 0 0 0) = some (.drop 0x180 0x3020) ∧ stopsAt (inHand 7 0 0) = some (.drop 0x183 0x3020) ∧ stopsAt (inHand 1 0xC00 0) = some (.violation 0x3020)
    ∧ (match ((inHand 1 0 0).begun me5).takeRule 0 0x3020 0x3040 with
      | .error (.eng (.fetch a n) _) => reads ((inHand 1 0 0).engRead me5 [(a, n)]) 1
      | _ => false) = true
    ∧ (match ((fedSl (fun t => t.takeRule 0 0x3020 0x3040) 8 (inHand 5 0 0)).begun me5).takeRule 0 0x3020 0x3040 with
      | .ok k => k.entry == 5 && classValid ((inHand 5 0 0).classEntry 0 (bitsOf k.entry 25 20))
      | .error _ => false) = true ∧ ((inHand 5 0 0).coreAt 0).ident.lid = some 0 ∧ ((inHand 5 0 0).coreAt 0).net.retryBuf.length < 64 := by decide +kernel

def engineRule : State :=
  let s := inHand (6 + 2 * 2 ^ 8 + 0x5000 * 2 ^ 64) 0x400 0
  { s with mem := s.mem.write (at' 0x5000) (toBytes 64 (linear 64).toNat) }
/-- The rule of the pair and, if it is an ENGINE rule, its command. -/
def engined (s : State) : Except SlStop State := do s.applyEngine 0 (← s.takeRule 0 0x3020 0x3040)

/-- The headers of HANDLER rules that SEND would take and refuse, and what a trap record needs. -/
theorem witness_SpliceRewriting_handler :
    (let header := fun (e : Nat) => Msg.ofWords [mkHeader (bitsOf e 25 20) (bitsOf e 19 8) base.dev (base.coreAt 0).ident.rel.toNat 0 0 0 0 false 0 0];
      (inHand 5 0 0).sendOk 0 (header 5) = true ∧ (inHand (5 + 9 * 2 ^ 20) 0 0).sendOk 0 (header (5 + 9 * 2 ^ 20)) = false)
    ∧ base.launchOf 0 = some gang ∧ gang.field 480 480 = 1 ∧ base.handler 0 (gang.field 479 468) = some (0, 0x9000) ∧ (base.coreAt 0).net.trapq.length < 16 := by
  decide +kernel

theorem witness_SpliceRewriting_engine :
    (let s := (fedSl engined 32 engineRule).begun me5;
      match s.takeRule 0 0x3020 0x3040 with
      | .ok k => k.entry % 8 == 6 && (match s.applyEngine 0 k with | .ok _ => true | .error _ => false)
      | .error _ => false) = true := by decide +kernel

/-- A rewrite of kind 1 in progress. -/
def under (step : RwStep) (queue : List (Word × Word)) : Rewrite :=
  { Rewrite.new 1 none (0x3020, 0x3040) [(0x3020, 1), (0x3040, 1)] [({ node := 0x3020, port := 1 }, some { node := 0x3060, port := 0 })] ⟨[], []⟩ with
    step := step, queue := queue }
def rewritten (r : Rewrite) : State :=
  let s := spliced fun k => { k with rewrite := some r, free := 0x3100 }
  { s with mem := ((s.mem.write (at' 0x3108) (toBytes 8 0x3122)).write (at' 0x3030) (toBytes 8 0x3060)).write (at' 0x3068) (toBytes 8 0x3028) }
/-- The same once what the step needs is read. -/
def prepared (r : Rewrite) : State := fedSl (advance 0 r) 4 (rewritten r)

/-- Whether the rewrite goes on from there to a state that f accepts. -/
def advances (r : Rewrite) (s : State) (f : State → Bool) : Bool := match advance 0 r (s.begun me5) with
  | .ok u => f u
  | .error _ => false
def violates (r : Rewrite) (s : State) : Bool := match advance 0 r (s.begun me5) with
  | .error (.violation _) => true
  | _ => false

def caused (r : Rewrite) (s : State) : Bool := match advance 0 r (s.begun me5) with
  | .error (.eng (.cause _) _) => true
  | _ => false
/-- A rewrite of an element that meets a read-shared page, and one that gives its nodes back. -/
def shut : Rewrite := { under (.redirect 0) [] with ifs := [({ node := 0x2020, port := 1 }, some { node := 0x3060, port := 0 })], via := some (0, 0) }
def givingUp : Rewrite := { under (.giveBack []) [] with via := some (0, 0) }

theorem witness_SpliceRewriting_stops :
    caused shut (rewritten shut) = true ∧ shut.queue = [] ∧ givingUp.step = .giveBack [] ∧ givingUp.queue = [] ∧ givingUp.via = some (0, 0)
    ∧ ((rewritten shut).spliceAt 0).rewrite = some shut ∧ ((rewritten shut).spliceAt 0).engw = [] := by decide +kernel

/-- A rewrite that still takes its node, and one of an element. -/
def growing (ns : List Word) : Rewrite := { under .alloc [] with headers := [0], nodes := ns }

def ofElement : Rewrite := { under .finish [] with via := some (0, 0) }

theorem witness_SpliceRewriting_steps :
    ((rewritten (under .finish [(0x3020, 0x3040)])).spliceAt 0).rewrite = some (under .finish [(0x3020, 0x3040)])
    ∧ ((rewritten (under .finish [(0x3020, 0x3040)])).spliceAt 0).bag.length < 64 ∧ (rewritten (under .finish [])).engReady me5 = true
    ∧ (rewritten (under .finish [])).mayRun 0 = true
    ∧ (under .finish []).kind = 1 ∧ (under .finish []).via = none ∧ (under .finish []).queue = [] ∧ (under .finish []).step = .finish
    ∧ advances (under (.free [{ node := 0x3020, port := 0 }]) []) (rewritten (under (.free [{ node := 0x3020, port := 0 }]) [])) (fun _ => true) = true
    ∧ violates (under (.settle 0 none) []) (let s := rewritten (under (.settle 0 none) []); { s with mem := s.mem.write (at' 0x3068) (toBytes 8 7) }) = true
    ∧ ((rewritten ofElement).spliceAt 0).rewrite = some ofElement ∧ ofElement.via = some (0, 0) ∧ ((rewritten ofElement).spliceAt 0).engw = [] := by decide +kernel

theorem witness_SpliceRewriting_accesses :
    (match ((prepared (growing [])).begun me5).slAlloc 0 with | .ok (some (n, _)) => n == 0x3100 | _ => false) = true
    ∧ ((spliced id).spliceAt 0).free = 0 ∧ (growing []).nodes.length < (growing []).headers.length ∧ (growing [0x3100]).headers.length ≤ (growing [0x3100]).nodes.length
    ∧ (growing [0x3100]).via = none ∧ (under (.build 0) []).nodes.length ≤ 0
    ∧ (let r := under (.redirect 0) []; let x : Port := { node := 0x3020, port := 1 }; let f : Port := { node := 0x3060, port := 0 };
      r.ifAt 0 = some (x, f) ∧ (r.cont 8 x).1 = none
      ∧ (match ((rewritten r).begun me5).slCas 0 x (linkTo (some f)) (redirTo none) with | .ok (w, _) => w == linkTo (some f) | .error _ => false) = true
      ∧ (match ((rewritten r).begun me5).slCas 0 f (linkTo (some x)) (linkTo none) with | .ok (w, _) => w == linkTo (some x) | .error _ => false) = true) := by
  decide +kernel

/-- No core's splice unit has nodes whose freeing is pending. -/
def nonePending (s : State) : Bool := s.cores.toList.all fun k => k.splice.pend.isEmpty

theorem nonePending_iff (s : State) (h : nonePending s = true) (d : CoreId) : (s.spliceAt d).pend = [] := by
  have h1 := List.all_eq_true.mp h (s.cores[d]) (by simp)
  exact List.isEmpty_iff.mp h1

theorem witness_SpliceRewriting_no_pend :
    advances (under (.free [{ node := 0x3020, port := 0 }]) []) (rewritten (under (.free [{ node := 0x3020, port := 0 }]) [])) nonePending = true := by decide +kernel

/-- Core 0's unit runs a command of its own; pairs; an entry of the engine-wait table. -/
def splicing (w : Msg) (f : Splice → Splice) : State := (run base 5 w 0).modCore 0 fun k => { k with splice := f k.splice }
def marked : EngWait := { slot := 0, a := 0x3020, hdrA := 0x400, hdrB := 0, far := none, rtype := 0, rpay := 2, elem := none, held := false }
def started : Msg := fields (command 0 1 0 0 5 0) [(64, 0x10000), (256, 7)]

theorem witness_SpliceUnit_commands :
    ((splicing started id).unitAt 0 5).inq.head? = some (packet 0 started) ∧ hidOf started = 1 ∧ (splicing started id).mayRun 0 = true
    ∧ ((splicing started id).spliceAt 0).pend = []
    ∧ reservedClear started [(287, 64)] = true ∧ reservedClear (started ||| (1 <<< 288)) [(287, 64)] = false
    ∧ ((splicing (started ||| (1 <<< 288)) id).unitAt 0 5).inq.head? = some (packet 0 (started ||| (1 <<< 288)))
    ∧ ((splicing (command 0 2 0 0 5 0) id).unitAt 0 5).inq.head? = some (packet 0 (command 0 2 0 0 5 0)) ∧ hidOf (command 0 2 0 0 5 0) = 2
    ∧ ((splicing (command 0 3 0 0 5 0) id).unitAt 0 5).inq.head? = some (packet 0 (command 0 3 0 0 5 0)) ∧ hidOf (command 0 3 0 0 5 0) = 3
    ∧ reservedClear (command 0 2 0 0 5 0) [] = true ∧ reservedClear (command 0 3 0 0 5 0) [] = true
    ∧ ((splicing (command 0 3 0 0 5 0) id).spliceAt 0).rewrite = none ∧ ((splicing (command 0 3 0 0 5 0) id).spliceAt 0).taking = none
    ∧ ((splicing (command 0 3 0 0 5 0) id).spliceAt 0).pend = []
    ∧ ((splicing (command 0 3 0 0 5 0) id).spliceAt 0).run = false
    ∧ ((splicing (command 0 3 0 0 5 0) fun k => { k with pend := [(0x3020, 0)] }).spliceAt 0).pend ≠ []
    ∧ ((splicing (command 0 2 0 0 5 0) fun k => { k with rewrite := some (under .finish []) }).spliceAt 0).rewrite = some (under .finish []) := by decide +kernel

theorem witness_SpliceUnit_no_entry : ∀ x ∈ ((splicing (command 0 3 0 0 5 0) id).spliceAt 0).engw, x.held = true :=
  fun _ h => absurd (List.length_pos_of_mem h) (by decide +kernel)

def reloadable : State := spliced fun k => { k with spilled := 33, spill := 0x10005 }
theorem witness_SpliceUnit_reload :
    reloadable.engReady me5 = true ∧ reloadable.mayRun 0 = true ∧ (reloadable.spliceAt 0).bag = [] ∧ 0 < (reloadable.spliceAt 0).spilled
    ∧ (match (reloadable.begun me5).engRead me5 [(.mem (spillEntry (reloadable.spliceAt 0).spill (33 - 32)), 16 * 32)] with
      | .ok ([_], t) => nonePending t | _ => false) = true := by decide +kernel

def stealing : State := { spliced fun k => { k with run := true } with cyc := 64 }
def bags : State := (spliced fun k => { k with stealing := true }).modCore 2 fun k => { k with splice := { k.splice with bag := [(1, 2), (3, 4), (5, 6)] } }
theorem witness_SpliceUnit_steal :
    (stealing.spliceAt 0).run = true ∧ (stealing.spliceAt 0).rewrite = none ∧ (stealing.spliceAt 0).taking = none ∧ (stealing.spliceAt 0).bag = []
    ∧ (stealing.spliceAt 0).spilled = 0
    ∧ (stealing.spliceAt 0).stealing = false ∧ (stealing.spliceAt 0).since + 64 ≤ stealing.cyc ∧ 1 < (stealing.stealDomain 0).length ∧ stealing.mayRun 0 = true
    ∧ (((stealing.stealDomain 0)[(lfsrNext (stealing.coreAt 0).net.lfsr).toNat % (stealing.stealDomain 0).length]?).any fun v => v != 0) = true
    ∧ bags.engReady me5 = true ∧ (bags.spliceAt 2).bag.length = 3 ∧ (bags.spliceAt 0).bag.length + 2 ≤ 64 ∧ nonePending bags = true := by decide +kernel

theorem witness_SpliceUnit_tidy : bags.tidy 0 := fun _ h => absurd (List.length_pos_of_mem h) (by decide +kernel)
theorem witness_SpliceUnit_failed :
    marked.elem = none ∧ elemCause (1 ||| (0x83 <<< 23)) ≠ 0 ∧ base.launchOf 0 = some gang ∧ gang.field 480 480 = 1
    ∧ base.handler 0 (gang.field 479 468) = some (0, 0x9000) ∧ (base.coreAt 0).net.trapq.length < 16 := by decide +kernel

/-- The entry whose command's element has come, or is still out; one that waits for a node while the unit does not run. -/
def came (e : BitVec 128) (held : Bool) : EngWait := { marked with elem := some e, held := held }

def waitingRule (w : EngWait) (run : Bool) : State := spliced fun k => { k with engw := [w], free := 0x3100, run := run }
theorem witness_SpliceUnit_element :
    ((waitingRule marked true).spliceAt 0).engw.find? (fun x => x.slot == 0) = some marked ∧ ((waitingRule marked true).spliceAt 0).pend = []
    ∧ marked.elem = none ∧ elemCause 0 = 0 ∧ elemCause (1 ||| (0x83 <<< 23)) ≠ 0
    ∧ (let s := waitingRule (came 0 false) true;
      (s.spliceAt 0).engw.find? (fun x => x.slot == 0) = some (came 0 false) ∧ (s.spliceAt 0).rewrite = none ∧ (s.spliceAt 0).taking = none
      ∧ s.engReady me5 = true ∧ s.mayRun 0 = true ∧ nonePending s = true)
    ∧ (let s := waitingRule (came 0 true) true;
      (s.spliceAt 0).engw.find? (fun x => x.slot == 0) = some (came 0 true) ∧ (s.spliceAt 0).run = true ∧ nonePending s = true)
    ∧ (let s := (waitingRule (came 0 false) true).modSplice 0 fun k => { k with rewrite := some (under .finish []) };
      (s.spliceAt 0).rewrite = some (under .finish []) ∧ (s.spliceAt 0).engw.find? (fun x => x.slot == 0) = some (came 0 false))
    ∧ (under .finish []).via ≠ some (0, 0) := by decide +kernel

/-- Core 0's work moves to core 1000 for firmware core 1024. -/
def moving : Migration := { src := 0, dst := 1000, core := 1024, ctx := 0, d := 5 }
def migrating : State := { base with migrations := [moving] }
def moved : State := { base with pending := [.migrationForward 0 (packet 0 letter)] }

theorem witness_MigrationEvents_records :
    base.launch? gang.lid = some gang ∧ gang.phase = .running ∧ base.launchOf 0 = some gang ∧ gang.field 480 480 = 1 ∧ base.handler 0 (gang.field 479 468) = some (0, 0x9000)
    ∧ (base.coreAt 0).net.trapq.length < 16 ∧ ({ base with launches := [savedGang] } : State).launch? 0 = some savedGang ∧ savedGang.phase ≠ .running := by decide +kernel

theorem witness_MigrationEvents_forward :
    gang.core? (packet 1 letter).dst.toNat = some 1 ∧ packetUnit (packet 1 letter) = 0 ∧ (base.coreAt 1).net.refusing = false
    ∧ decide (Msg.field letter 4 4 = 1) = (base.coreAt 1).ident.xt ∧ base.mailAway 1 (packet 1 letter) = false ∧ base.entryPc 1 (packet 1 letter) = some 0x9000
    ∧ nackBlocks (base.coreAt 1).net.nacks 0 (.core 0 0) 0 = false ∧ (base.coreAt 1).net.mailbox.length < 64
    ∧ packetUnit (packet 0 (command 0 5 0 0 1 0)) ≠ 0 ∧ (((run base 1 (command 0 5 0 0 1 0) 0).coreAt 0).unit 1).room 1 = true
    ∧ (((run base 1 (command 0 5 0 0 1 0) 0).coreAt 0).unit 1).inq ≠ [] := by decide +kernel

theorem witness_MigrationEvents_open : ∃ q, Instr.migrationForward 0 q ∈ moved.pending ++ moved.parked := ⟨_, List.mem_append_left _ (List.mem_singleton_self _)⟩
theorem witness_MigrationEvents_closed : ¬ ∃ q, Instr.migrationForward 0 q ∈ base.pending ++ base.parked :=
  fun ⟨_, h⟩ => absurd (List.length_pos_of_mem h) (by decide +kernel)

theorem witness_MigrationEvents_install :
    migrating.migrations.find? (fun m => m.src == 0 && m.dst == 1000) = some moving ∧ migrating.launchOf 0 = some gang ∧ migrating.midway 0 = false
    ∧ (migrating.spliceAt 0).pend = [] ∧ (0 : CoreId) ≠ 1000 ∧ moving.core ≠ 0 ∧ moving.core ≠ 1000
    ∧ ({ savingMidway with migrations := [moving] } : State).midway 0 = true := by decide +kernel
theorem witness_MigrationEvents_tidy : migrating.tidy 0 := base_tidy 0

theorem witness_MigrationEvents_busy : ∃ i ∈ leaving.pending ++ leaving.parked, coreBusy 0 0 i = true :=
  ⟨.homeOperation (homeOp .depdec), List.mem_append_left _ (List.mem_singleton_self _), rfl⟩

theorem witness_MigrationEvents_idle : ∀ i ∈ migrating.pending ++ migrating.parked, coreBusy 0 0 i = false :=
  fun _ h => absurd (List.length_pos_of_mem h) (by decide +kernel)

theorem witness_PackageEvents :
    riggingOk riggingDefault = true ∧ bitsOf (0 : BitVec 1024).toNat 31 0 ≠ 0x47474952 ∧ columnsOf riggingDefault 0 = 16
    ∧ bitsOf (riggingDefault ||| (1 <<< 320)).toNat 703 320 ≠ 0 ∧ base.dev = 0 ∧ base.peerTrained = false ∧ peered.peerTrained = true
    ∧ base.halted = false ∧ ({ base with halted := true } : State).halted = true ∧ base.migrations = [] ∧ migrating.migrations = [moving]
    ∧ migrating.firmwareCore moving.core = true ∧ base.firmwareCore 0 = false
    ∧ base.mgmt.errorLog.length < 64 ∧ (List.replicate 64 (1 <<< 64 : BitVec 128)).all (·.getLsbD 64) = true := by decide +kernel

/-- The error log names a line of device memory. -/
def poisonedLine : State := base.modMgmt fun m => { m with errorLog := [BitVec.ofNat 128 (2 ^ 64 + 2 ^ 60 + 0x3040)] }
theorem witness_PackageEvents_named :
    ∃ e ∈ poisonedLine.mgmt.errorLog, e.getLsbD 64 = true ∧ e.extractLsb' 60 4 = 1 ∧ (e.extractLsb' 0 57).toNat / 64 = 0x307F / 64 :=
  ⟨_, List.mem_singleton_self _, by decide +kernel, by decide +kernel, by decide +kernel⟩

theorem witness_ManagementEvents :
    350 ≤ (350 : Word).toNat ∧ (600 : Word).toNat ≤ 600 ∧ (0x28 : BitVec 36).toNat < 0x30 ∧ 0x900 ≤ (0x978 : BitVec 36).toNat ∧ (0x978 : BitVec 36).toNat < 0x980
    ∧ (base.modMgmt fun m => { m with share := 8, powerCap := 400 }).mgmt.share = 8 ∧ (base.modMgmt fun m => { m with powerCap := 400 }).mgmt.cap < 401
    ∧ (base.modMgmt fun m => { m with hold := true }).mgmt.hold = true ∧ 590 + 10 ≤ (base.modMgmt fun m => { m with hold := true }).mgmt.cap
    ∧ base.mgmt.hold = false ∧ base.mgmt.share ≠ 8 ∧ poisonedLine.mgmt.errorLog.length = 1
    ∧ base.ready 1 = true ∧ (base.modMgmt fun m => { m with readyMap := 1 }).ready 1 = false ∧ base.setNow (.valid 0) = false
    ∧ (base.hwSet (.valid 0)).setNow (.valid 0) = true := by decide +kernel

/-- Core 0 is about to issue the ADDI at 0x9000, a word 0, or finds its watchdog run out; then with its line in its instruction cache. -/
def issuing (bits : Nat) : State :=
  { base.onCtx fun c => { c with pc := 0x9000 } with sched := [.issue 0], mem := base.mem.write (at' 0x9000) (toBytes 4 bits) }
def addiWord : BitVec 32 := 0b1_000010_00101_00110_000000001100100
/-- Its bytes in memory: the upper halfword comes first. -/
def addiBytes : Nat := addiWord.toNat / 2 ^ 16 + addiWord.toNat % 2 ^ 16 * 2 ^ 16

theorem witness_StepRunsDecodedInstruction :
    (issuing 0).powered = true ∧ (issuing 0).halted = false ∧ (issuing 0).sched = .issue 0 :: [] ∧ ((issuing 0).coreAt 0).slot = some 0 ∧ (issuing 0).mayRun 0 = true
    ∧ ((issuing 0).ctxAt 0 0).status = .running ∧ ((issuing 0).ctxAt 0 0).busy ≤ (issuing 0).cyc
    ∧ (issuing 0).usedOf ((issuing 0).ctxAt 0 0) < ((issuing 0).ctxAt 0 0).budget.toNat
    ∧ (((issuing 0).onCtx fun c => { c with budget := 0 }).ctxAt 0 0).budget.toNat ≤ (issuing 0).usedOf (((issuing 0).onCtx fun c => { c with budget := 0 }).ctxAt 0 0)
    ∧ (match (issuing 0).fetchHalf 0 0x9000 with | .ok (h, _) => h == 0 | .error _ => false) = true
    ∧ (match (issuing addiBytes).fetchHalf 0 0x9000 with
      | .ok (h, t) => h.getLsbD 15 && (match t.fetchHalf 0 (va57 (0x9000 + 2)) with | .ok (g, _) => h ++ g == addiWord | .error _ => false)
      | .error _ => false) = true := by decide +kernel

/-- The instruction line of 0x9000 in core 0's cache. -/
def kept : State := base.modCore 0 fun k => { k with icache := [(lineVa 0x9000, List.replicate 64 0)] }

theorem witness_StepRunsDecodedInstruction_fetch :
    icacheLine (base.coreAt 0).icache (lineVa 0x9000) = none ∧ base.translate 0 0x9000 false = some (at' 0x9000) ∧ base.noPeer (at' 0x9000) = false
    ∧ base.firmwareCore 0 = false ∧ 2 ≤ (base.region 0 0x9000).attr.toNat ∧ (base.line (at' 0x9000 / 64)).u = [] ∧ base.hostMem (at' 0x9000) = false
    ∧ base.hostHolds (at' 0x9000 / 64) = false ∧ low57 0x9000 % 64 < 63 ∧ (hosted 0x9000).hostHolds (at' 0x9000 / 64) = true
    ∧ noPeer.translate 0 0x9000 false = some (at' 0x9000) ∧ noPeer.noPeer (at' 0x9000) = true ∧ base.translate 1 0x1000 false = some (at' 0x1000)
    ∧ (base.region 0 0x1000).attr = 0 ∧ (base.region 0 0x1000).owner ≠ 1 ∧ base.noPeer (at' 0x1000) = false ∧ base.firmwareCore 1 = false
    ∧ noTlb.translate 0 0x9000 false = none ∧ icacheLine (kept.coreAt 0).icache (lineVa 0x9000) ≠ none
    ∧ (match ({ kept with peerBase := 0x4000000000 } : State).codeLine 0 0x9000 with | .error _ => true | .ok _ => false) = true := by decide +kernel

theorem witness_StepRunsDecodedInstruction_own :
    icacheLine (base.coreAt 0).icache (lineVa 0x1000) = none ∧ base.translate 0 0x1000 false = some (at' 0x1000) ∧ base.noPeer (at' 0x1000) = false
    ∧ base.firmwareCore 0 = false ∧ (base.region 0 0x1000).attr = 0 ∧ (base.region 0 0x1000).owner = (0 : CoreId).val ∧ (base.region 0 0x1000).odev = base.dev
    ∧ base.hostHolds (at' 0x1000 / 64) = false ∧ (base.line (at' 0x1000 / 64)).u = [] ∧ base.hostMem (at' 0x1000) = false := by decide +kernel
theorem witness_StepRunsDecodedInstruction_half : ∃ e, decodeHalf 0 = .error e := ⟨_, rfl⟩
theorem witness_StepRunsDecodedInstruction_event : leaving.sched = [] ∧ leaving.pending = .homeOperation (homeOp .depdec) :: [] ∧ leaving.powered = true
    ∧ mayOvertake leaving.parked (.homeOperation (homeOp .depdec)) = true ∧ leaving.inOrder (.homeOperation (homeOp .depdec)) = true := by decide +kernel

theorem witness_RoundTrip_half : Instr.nop16.wellFormed = true ∧ encode .nop16 = .half 3 ∧ (3 : BitVec 16).getLsbD 15 = false := ⟨rfl, rfl, rfl⟩

theorem witness_NothingStops : ({ base with powered := false } : State).powered = false ∧ ({ base with powered := false } : State).sched = [] := ⟨rfl, rfl⟩

theorem witness_RoundTrip : (Instr.addi 5 6 100).wellFormed = true ∧ encode (.addi 5 6 100) = .word addiWord ∧ addiWord.getLsbD 31 = true := ⟨rfl, rfl, rfl⟩

theorem witness_CanonicalKept : State.reset.canonical :=
  ⟨rfl, rfl, fun c => every_core (s := State.reset) (fun k => Sparse.wf 0 k.sp) (by decide +kernel) c, fun _ h => nomatch h⟩
theorem witness_CanonicalKept_step : (match step { State.reset with pending := [.readyBitSet 4] } with | .next _ => true | _ => false) = true := by decide +kernel

end Sys2Proof.Tests
end

section
namespace Sys2Proof.Machine

/-! Every instruction and every event answers a next state (00 R13, 01 R41). A meaning is a tree of conditions; the lemmas of Answers walk
that tree, one lemma for each operation that several meanings share. -/

/-- The outcome is a next state: neither a fault nor a refusal. -/
def Answers (o : Out) : Prop := ∃ t, o = .next t

theorem Answers.next {t : State} : Answers (.next t) := ⟨t, rfl⟩

theorem Answers.ite {a b : Out} {p : Prop} [Decidable p] (ha : Answers a) (hb : Answers b) : Answers (if p then a else b) := by
  split
  · exact ha
  · exact hb

section
variable {s : State} {c : CoreId} {x : CtxId}

/-! What instructions share: a stop, an access, a place, a release, and the steps of each unit. -/

theorem answers_stopStep {st : Stop} : Answers (s.stopStep st) := by
  cases st <;> exact .next

theorem answers_endLoad {len : Nat} {ps : List Piece} {r : Loaded} {fin : List (List Byte) → Ctx → Ctx} : Answers (endLoad len ps r fin s) := by
  cases r with
  | stop st => exact answers_stopStep
  | cause q va => exact .next
  | ask cells => exact .next
  | bytes bs qs => exact .next

theorem answers_storeStep {len : Nat} {ps : List Piece} {bss : List (List Byte)} {fin : Ctx → Ctx} : Answers (storeStep len ps bss fin s) := by
  unfold storeStep
  split
  · exact answers_stopStep
  · exact .next

theorem answers_storeEach (ps : List (Piece × List Byte)) : ∀ s, Answers (storeEach ps s) := by
  induction ps with
  | nil => exact fun _ => .next
  | cons e r ih =>
    intro s
    unfold storeEach
    split
    · exact answers_stopStep
    · exact ih _

theorem answers_ldStep {len z : Nat} {signed : Bool} {d b : BitVec 5} {off : Int} : Answers (ldStep len z signed d b off s) := by
  unfold ldStep
  split
  · exact answers_stopStep
  · exact answers_endLoad

theorem answers_stStep {len z : Nat} {d b : BitVec 5} {off : Int} : Answers (stStep len z d b off s) := by
  unfold stStep
  split
  · exact answers_stopStep
  · exact answers_storeStep

theorem answers_vldStep {w : Nat} {d : BitVec 5} {p : Word} {act : List Nat} {off : Nat → Int} : Answers (vldStep w d p act off s) := by
  unfold vldStep
  split
  · exact answers_stopStep
  · exact answers_endLoad

theorem answers_vstStep {w : Nat} {v : Msg} {p : Word} {act : List Nat} {off : Nat → Int} : Answers (vstStep w v p act off s) := by
  unfold vstStep
  split
  · exact answers_stopStep
  · exact answers_storeStep

theorem answers_vldEach {w : Nat} {d : BitVec 5} {p : Word} {act : List Nat} {off : Nat → Int} : Answers (vldEach w d p act off s) := by
  unfold vldEach
  split
  · exact answers_stopStep
  · exact .ite answers_vldStep (.ite answers_stopStep answers_endLoad)

theorem answers_vstEach {w : Nat} {v : Msg} {p : Word} {act : List Nat} {off : Nat → Int} : Answers (vstEach w v p act off s) := by
  unfold vstEach
  split
  · exact answers_stopStep
  · exact .ite answers_vstStep (.ite answers_stopStep (answers_storeEach _ _))

theorem answers_withScale {sp : Option Piece} {go : Option Nat → State → Out} (h : ∀ z t, Answers (go z t)) : Answers (withScale sp go s) := by
  unfold withScale
  split
  · exact h _ _
  · split
    · exact answers_stopStep
    · exact .next
    · exact .next
    · exact h _ _

theorem answers_releasing {rel : Bool} {scope : BitVec 4} {go : State → Out} (h : ∀ t, Answers (go t)) : Answers (releasing rel scope go s) :=
  .ite (h _) (.ite .next (h _))

theorem answers_orderedStep {write : Bool} {scope : BitVec 4} {p : Except Stop Piece} {go : State → Out} (h : ∀ t, Answers (go t)) :
    Answers (orderedStep write scope p go s) := by
  unfold orderedStep
  split
  · exact answers_stopStep
  · split
    · exact answers_stopStep
    · split
      · exact answers_stopStep
      · exact h _

theorem answers_withPlace {scope : BitVec 4} {write board : Bool} {p : Except Stop Piece} {go : Place → State → Out} (h : ∀ q t, Answers (go q t)) :
    Answers (withPlace scope write board p go s) := by
  unfold withPlace
  split
  · exact answers_stopStep
  · split
    · exact answers_stopStep
    · split
      · exact answers_stopStep
      · split
        · exact h _ _
        · exact .next
        · exact answers_stopStep

theorem answers_branchStep {len : Nat} {p : Word → Word → Bool} {a b : BitVec 5} {o : Word} : Answers (branchStep len p a b o s) := .ite .next .next

theorem answers_loopStep {count : Word} {o : BitVec 15} : Answers (loopStep count o s) := by
  refine .ite .next (.ite ?_ (.ite .next .next))
  split
  · exact answers_stopStep
  · exact .next

theorem answers_endStep : Answers (endStep s) := .ite .next .next

theorem answers_amoStep {fn : BitVec 4} {d a b : BitVec 5} {scope : BitVec 4} {rel : Bool} : Answers (amoStep fn d a b scope rel s) := by
  unfold amoStep
  refine answers_withPlace fun q t => ?_
  cases q with
  | sp o => exact answers_releasing fun _ => .next
  | phys pa va attr =>
    refine answers_releasing fun u => ?_
    split <;> exact .next

theorem answers_redStep {fn : BitVec 4} {w a b : BitVec 5} {scope : BitVec 4} {rel : Bool} : Answers (redStep fn w a b scope rel s) := by
  unfold redStep
  refine answers_withPlace fun q t => ?_
  cases q with
  | sp o => exact answers_releasing fun _ => .next
  | phys pa va attr => exact answers_releasing fun _ => .ite .next (.ite .next .next)

theorem answers_barrierStep {n : BitVec 2} {go : Fin 4 → Fin 256 → State → Out} (h : ∀ k g t, Answers (go k g t)) : Answers (barrierStep n go s) := by
  unfold barrierStep
  split
  · exact .next
  · exact h _ _ _

theorem answers_bufferStep {ok task : Bool} {w : Msg} : Answers (bufferStep ok task w s) := .ite .next (.ite .next .next)

theorem answers_ringStep {op : BitVec 2} {a b d lim : BitVec 5} : Answers (ringStep op a b d lim s) := by
  unfold ringStep
  split
  · exact answers_stopStep
  · exact .next
  · dsimp only
    split
    · exact answers_stopStep
    · exact .next
    · refine .ite .next (.ite .next ?_)
      split
      · exact answers_stopStep
      · exact answers_releasing fun _ => .next

theorem answers_withCell {a : BitVec 5} {go : Word → Nat → State → Out} (h : ∀ va pa t, Answers (go va pa t)) : Answers (withCell a go s) := by
  refine answers_withPlace fun q t => ?_
  cases q with
  | sp o => exact .next
  | phys pa va attr => exact .ite .next (h _ _ _)

theorem answers_withCounter {a : BitVec 5} {go : Word → Nat → State → Out} (h : ∀ va pa t, Answers (go va pa t)) : Answers (withCounter a go s) := by
  refine answers_withPlace fun q t => ?_
  cases q with
  | sp o => exact .next
  | phys pa va attr => exact .ite .next (h _ _ _)

theorem answers_peekStep {d a : BitVec 5} {fin : State → Place → Word} : Answers (peekStep d a fin s) := answers_withPlace fun _ _ => .next

theorem answers_csrStep {enc : Word} {d : BitVec 5} {r : BitVec 12} {new : Word → Option Word} : Answers (csrStep enc d r new s) := by
  unfold csrStep
  split
  · exact .next
  · split
    · exact .next
    · exact .ite .next .next

theorem answers_firmwareStep {d a : BitVec 5} {code : BitVec 12} {go : State → Out} (h : Answers (go s)) : Answers (firmwareStep d a code go s) :=
  .ite h .next

theorem answers_engStep {w : Eng} {code : Nat} {go : Packet → State → Except EngStop State} : Answers (engStep w code go s) := by
  unfold engStep
  split
  · exact .next
  · refine .ite .next (.ite .next ?_)
    split <;> exact .next

theorem answers_gmStep {code : Nat} {go : Packet → State → Except EngStop State} : Answers (gmStep c code go s) := answers_engStep

theorem answers_slStep {again : Instr} {go : State → Except SlStop State} : Answers (slStep c again go s) := by
  refine .ite .next (.ite .next ?_)
  split <;> exact .next

theorem answers_ruleStep {kind : BitVec 3} : Answers (ruleStep c kind s) := answers_slStep

theorem answers_slCommand {code : Nat} {fields : List (Nat × Nat)} {go : Packet → State → Option State} : Answers (slCommand c code fields go s) := by
  unfold slCommand
  split
  · exact .next
  · refine .ite .next (.ite .next (.ite .next ?_))
    split <;> exact .next

theorem answers_atWord {w : WaitaOp} {again : Instr} {go : Nat → State → State} : Answers (atWord w again go s) := by
  unfold atWord
  split
  · exact .ite .next .next
  · exact .next

/-! Instructions whose meaning has a tree of its own. -/

theorem answers_padd {d a b : BitVec 5} : Answers (execPadd d a b s) := by
  unfold execPadd
  split <;> exact .next

theorem answers_fence {sc : BitVec 4} {o : BitVec 3} : Answers (execFence sc o s) :=
  .ite .next (.ite .next (answers_releasing fun _ => .next))

theorem answers_vldt {v a : BitVec 5} {k : BitVec 3} {w : BitVec 2} {t : BitVec 1} : Answers (execVldt v a k w t s) := by
  unfold execVldt
  split
  · exact answers_stopStep
  · exact answers_vldStep

theorem answers_vstt {v a : BitVec 5} {k : BitVec 3} {w : BitVec 2} {t : BitVec 1} : Answers (execVstt v a k w t s) := by
  unfold execVstt
  split
  · exact answers_stopStep
  · exact answers_vstStep

theorem answers_vldf {v a b : BitVec 5} {k : BitVec 3} {f : BitVec 4} : Answers (execVldf v a b k f s) := by
  unfold execVldf
  split
  · exact answers_stopStep
  · split
    · exact answers_stopStep
    · exact .next
    · exact .next
    · split
      · exact answers_stopStep
      · exact answers_withScale fun _ _ => .next

theorem answers_vstf {v a b : BitVec 5} {k : BitVec 3} {f : BitVec 4} : Answers (execVstf v a b k f s) := by
  unfold execVstf
  split
  · exact answers_stopStep
  · split
    · exact answers_stopStep
    · split
      · exact answers_stopStep
      · exact answers_withScale fun _ _ => .next

theorem answers_waita {d a b : BitVec 5} {sc : BitVec 4} {w : BitVec 2} : Answers (execWaita d a b sc w s) := by
  unfold execWaita
  refine answers_withPlace fun q t => ?_
  cases q with
  | sp o => exact .next
  | phys pa va attr => exact .ite .next .next

theorem answers_barw {n : BitVec 2} : Answers (execBarw n s) := by
  refine answers_barrierStep fun k _ t => ?_
  split <;> exact .next

theorem answers_done {a : BitVec 5} : Answers (execDone a s) := by
  unfold execDone
  dsimp only
  split <;> exact .next

theorem answers_enq {a : BitVec 5} : Answers (execEnq a s) := by
  refine .ite .next (.ite .next (.ite answers_stopStep (.ite answers_stopStep (answers_releasing fun t => ?_))))
  dsimp only
  split <;> exact .next

theorem answers_deq {a : BitVec 5} {u : BitVec 3} : Answers (execDeq a u s) := by
  unfold execDeq
  dsimp only
  split
  · exact .ite .next .next
  · exact .ite .next .next

theorem answers_spop {d : BitVec 5} : Answers (execSpop d s) := by
  refine .ite ?_ ?_
  · split <;> exact .next
  · dsimp only
    split
    · exact answers_stopStep
    · exact .next
    · exact .next
    · split <;> exact .next

theorem answers_spush {a b : BitVec 5} : Answers (execSpush a b s) := by
  unfold execSpush
  split
  · exact answers_stopStep
  · refine answers_releasing fun t => ?_
    split <;> exact .next

theorem answers_salloc {d : BitVec 5} : Answers (execSalloc d s) := by
  refine .ite .next ?_
  dsimp only
  split
  · exact answers_stopStep
  · exact .next
  · exact .next
  · split
    · exact answers_stopStep
    · exact .next

theorem answers_sfree {a : BitVec 5} : Answers (execSfree a s) := by
  unfold execSfree
  split
  · exact answers_stopStep
  · dsimp only
    split
    · exact answers_stopStep
    · exact .next

theorem answers_slink {d a b : BitVec 5} : Answers (execSlink d a b s) := by
  unfold execSlink
  split
  · exact answers_stopStep
  · refine .ite .next (answers_withPlace fun q t => ?_)
    cases q with
    | sp o => exact .next
    | phys pa va attr => exact answers_releasing fun _ => .ite .next .next

theorem answers_sread {d a : BitVec 5} : Answers (execSread d a s) := by
  unfold execSread
  split
  · exact answers_stopStep
  · dsimp only
    split
    · exact answers_stopStep
    · exact .next
    · exact .next
    · exact .next

theorem answers_signal {a b : BitVec 5} {sc : BitVec 4} : Answers (execSignal a b sc s) := by
  unfold execSignal
  refine answers_withPlace fun q t => ?_
  cases q with
  | sp o => exact answers_releasing fun _ => .next
  | phys pa va attr => exact answers_releasing fun _ => .next

theorem answers_launch {a : BitVec 5} : Answers (execLaunch a s) := by
  unfold execLaunch
  split
  · exact answers_stopStep
  · split
    · exact answers_stopStep
    · exact .next
    · exact .next
    · exact answers_releasing fun _ => .next

/-! Waits, barriers and rings. -/

theorem answers_waitaArm : Answers (execWaitaArm c x s) := by
  unfold execWaitaArm
  split
  · exact answers_atWord
  · exact .next

theorem answers_waitaExpiry : Answers (execWaitaExpiry c x s) := by
  unfold execWaitaExpiry
  split
  · exact .ite .next (.ite .next .next)
  · exact .next

theorem answers_waitaPoll : Answers (execWaitaPoll c x s) := by
  unfold execWaitaPoll
  split
  · exact .ite answers_atWord .next
  · exact .next

theorem answers_barrierNotification {g : Fin 256} {phase : BitVec 16} {round rank : Nat} :
    Answers (execBarrierNotification g phase round rank s) := by
  unfold execBarrierNotification
  split
  · exact .next
  · exact .ite .next (.ite .next .next)

theorem answers_gatherReport {g : Fin 256} {phase : BitVec 16} {rank : Nat} : Answers (execGatherReport g phase rank s) := by
  unfold execGatherReport
  split
  · exact .next
  · exact .ite .next (.ite .next .next)

theorem answers_barrierCompletion {g : Fin 256} {phase : BitVec 16} : Answers (execBarrierCompletion g phase c s) := by
  unfold execBarrierCompletion
  split
  · exact .ite .next .next
  · exact .next

theorem answers_vredgResult {g : Fin 256} {phase : BitVec 16} : Answers (execVredgResult g phase s) := by
  unfold execVredgResult
  split
  · exact .next
  · exact .ite .next .next

theorem answers_ringOpAtHome {op : RingOp} : Answers (execRingOpAtHome op s) := by
  refine .ite .next ?_
  dsimp only
  split
  · exact .next
  · exact .ite .next .next

theorem answers_ringAnswer {r : RingAns} : Answers (execRingAnswer c x r s) := by
  cases r with
  | done => exact .next
  | popped w op => exact .next
  | ended op => exact .next
  | fault va w => exact .ite .next .next
  | cause q v => exact .ite .next .next
  | parked op => exact .ite .next .next

theorem answers_ringResend : Answers (execRingResend c x s) := by
  unfold execRingResend
  split <;> exact .next

theorem answers_ringWaitExpiry : Answers (execRingWaitExpiry c x s) := by
  unfold execRingWaitExpiry
  split
  · exact .next
  · exact .ite .next .next

/-! Messages. -/

theorem answers_nack {lid : Nat} {p : Party} {mid : BitVec 16} {counted : Bool} : Answers (execNack lid p mid counted s) := by
  unfold execNack
  split
  · exact .next
  · exact .ite .next .next

theorem answers_retryResend {lid : Nat} {p : Party} {mid : BitVec 16} : Answers (execRetryResend lid p mid s) := by
  unfold execRetryResend
  split
  · exact .next
  · exact .ite .next .next

theorem answers_sendCommit : Answers (execSendCommit c x s) := by
  refine .ite .next ?_
  split <;> exact .next

theorem answers_messageArrival {p : Packet} : Answers (execMessageArrival p s) := by
  unfold execMessageArrival
  dsimp only
  split
  · exact .next
  · split
    · exact .next
    · refine .ite .next ?_
      split <;> exact .next

theorem answers_engineCommandArrival {p : Packet} : Answers (execEngineCommandArrival p s) := by
  unfold execEngineCommandArrival
  dsimp only
  split
  · exact .next
  · refine .ite .next ?_
    split
    · exact .next
    · refine .ite .next ?_
      split <;> exact .next

theorem answers_completionElementArrival {lid : Nat} {dst : Party} {u : BitVec 3} {e : BitVec 128} {reply : Bool} {rel : BitVec 10} :
    Answers (execCompletionElementArrival lid dst u e reply rel s) := by
  cases dst with
  | linkDie => exact .next
  | core d r =>
    refine .ite .next ?_
    split
    · exact .next
    · exact .ite .next (.ite .next .next)

theorem answers_migrationForward {p : Packet} : Answers (execMigrationForward c p s) := by
  unfold execMigrationForward
  split
  · exact .next
  · split
    · exact .next
    · exact .ite .next .next

theorem answers_trapRecordArrival {lid : Nat} {r : Msg} : Answers (execTrapRecordArrival c lid r s) := by
  unfold execTrapRecordArrival
  split
  · exact .next
  · exact .ite .next .next

theorem answers_dequeReload : Answers (execDequeReload c s) := by
  refine .ite .next ?_
  dsimp only
  split <;> exact .next

theorem answers_stealRequest : Answers (execStealRequest c s) := by
  refine .ite .next ?_
  dsimp only
  split
  · exact .next
  · exact .ite .next .next

/-! Coherence and the host. -/

theorem answers_uPartial {line : Nat} : Answers (execUPartial c line s) := by
  unfold execUPartial
  dsimp only
  split <;> exact .next

theorem answers_snoopShare {line : Nat} : Answers (execSnoopShare c line s) := by
  unfold execSnoopShare
  split
  · exact .ite .next .next
  · exact .next

theorem answers_snoopInvalidate {line : Nat} : Answers (execSnoopInvalidate c line s) := by
  refine .ite .next ?_
  dsimp only
  split
  · exact .ite .next .next
  · exact .next

theorem answers_mergeRead {router : Fin 288} {line : Nat} {who : Reader} : Answers (execMergeRead router line who s) := by
  refine .ite .next (.ite .next ?_)
  dsimp only
  split
  · exact .ite .next .next
  · cases who with
    | core _ => exact .ite .next .next
    | router _ => exact .next

theorem answers_homeOperation {op : HomeOp} : Answers (execHomeOperation op s) := by
  refine .ite .next ?_
  split
  · exact .next
  · split <;> exact .next

theorem answers_homeResponse {r : HomeAns} : Answers (execHomeResponse c x r s) := by
  unfold execHomeResponse
  dsimp only
  split <;> exact .next

/-! Furled cells. -/

theorem answers_furledRequestAtHome {r : FurlReq} : Answers (execFurledRequestAtHome r s) :=
  .ite .next (.ite .next (.ite .next (.ite .next (.ite (.ite .next .next) (.ite .next .next)))))

theorem answers_furledWake {r : FurlReq} {a : FurlAns} : Answers (execFurledWake r a s) := by
  refine .ite .next ?_
  split
  · split <;> exact .next
  · exact .ite .next (.ite .next (.ite .next .next))
  · refine .ite .next ?_
    split <;> exact .next

theorem answers_furlWaitLimit {r : FurlReq} : Answers (execFurlWaitLimit r s) := by
  refine .ite .next (.ite .next ?_)
  split <;> exact .next

theorem answers_furlWaiterResend {r : FurlReq} : Answers (execFurlWaiterResend r s) := by
  refine .ite ?_ .next
  dsimp only
  split
  · refine .ite .next ?_
    split <;> exact .next
  · exact .next

theorem answers_evaluationMessage {r : FurlReq} {w : Word} : Answers (execEvaluationMessage r w s) := by
  unfold execEvaluationMessage
  dsimp only
  split
  · exact .next
  · refine .ite .next (.ite .next ?_)
    split
    · exact .next
    · exact .ite .next (.ite .next .next)

/-! The splice unit. -/

theorem answers_spliceSteal : Answers (execSpliceSteal c s) := by
  refine .ite .next ?_
  dsimp only
  split
  · exact .next
  · exact .ite .next .next

theorem answers_bagStealArrival {victim thief : CoreId} : Answers (execBagStealArrival victim thief s) := by
  refine .ite .next ?_
  split <;> exact .next

theorem answers_engineRuleElement {n : Nat} {e : BitVec 128} : Answers (execEngineRuleElement c n e s) := by
  unfold execEngineRuleElement
  dsimp only
  split
  · refine .ite .next ?_
    split
    · exact .ite answers_slStep .next
    · exact .ite .next answers_slStep
  · exact .ite answers_slStep .next
  · exact .next

/-! Launches, queues and pre-emption. -/

theorem answers_doorbell {q : BitVec 16} {tail : BitVec 32} : Answers (execDoorbell q tail s) := by
  refine .ite .next (.ite .next ?_)
  dsimp only
  split
  · exact .next
  · split <;> exact .next

theorem answers_gateRead {n : Fin 128} : Answers (execGateRead n s) := by
  unfold execGateRead
  dsimp only
  split
  · refine .ite .next ?_
    split
    · exact .ite .next (.ite .next .next)
    · exact .next
  · exact .next

theorem answers_gangPlacement : Answers (execGangPlacement s) := by
  refine .ite .next ?_
  split
  · exact .next
  · split
    · exact .next
    · dsimp only
      split <;> exact .next

theorem answers_deadlinePreempt : Answers (execDeadlinePreempt s) := by
  unfold execDeadlinePreempt
  split
  · exact .ite .next .next
  · exact .next

theorem answers_rtReservationMiss {n : Fin 128} : Answers (execRtReservationMiss n s) := by
  unfold execRtReservationMiss
  split
  · exact .next
  · split
    · exact .ite .next .next
    · exact .ite .next .next
    · exact .next

theorem answers_launchCompletion {lid : Nat} {value : Word} {who : Option (CoreId × CtxId)} : Answers (execLaunchCompletion lid value who s) := by
  unfold execLaunchCompletion
  split
  · exact .next
  · exact .ite .next (.ite .next .next)

theorem answers_childLaunchRequest {rec0 : Msg} {r : Word} : Answers (execChildLaunchRequest c x rec0 r s) := by
  unfold execChildLaunchRequest
  dsimp only
  split
  · exact .next
  · split
    · exact .next
    · exact .next
    · exact .next
    · exact .next
    · exact .ite .next .next

theorem answers_readyQueueSend : Answers (execReadyQueueSend s) := by
  refine .ite .next ?_
  split
  · exact .next
  · split <;> exact .next

theorem answers_readyQueueReoffer {pa : Nat} : Answers (execReadyQueueReoffer pa s) := by
  unfold execReadyQueueReoffer
  split <;> exact .next

theorem answers_aredChunkExchange {a : AredPlace} {peer : List Byte} : Answers (execAredChunkExchange a peer s) := by
  unfold execAredChunkExchange
  dsimp only
  split
  · exact .next
  · split
    · exact .next
    · refine .ite .next ?_
      split <;> exact .next

theorem answers_preemptionSaved {lid : Nat} : Answers (execPreemptionSaved lid s) := by
  unfold execPreemptionSaved
  split
  · exact .next
  · exact .ite .next (.ite .next (.ite .next (.ite .next .next)))

theorem answers_gangResume {lid : Nat} : Answers (execGangResume lid s) := by
  unfold execGangResume
  split
  · exact .next
  · exact .ite .next .next

theorem answers_migrationImageInstalled {src dst : CoreId} : Answers (execMigrationImageInstalled src dst s) := by
  unfold execMigrationImageInstalled
  split
  · exact .ite .next (.ite .next .next)
  · exact .next

/-! Translation. -/

theorem answers_atsResponse {who : Asker} {pasid : BitVec 20} {va : Word} {write : Bool} : Answers (execAtsResponse who pasid va write s) := by
  refine .ite .next ?_
  split <;> exact .next

theorem answers_priResponse {who : Asker} {pasid : BitVec 20} {va : Word} {g : Option Grant} : Answers (execPriResponse who pasid va g s) := by
  refine .ite .next ?_
  split
  · exact .ite .next .next
  · exact .next

end

/-! All of them. -/

/-- Every instruction and every event: what no line names is a next state without a condition. -/
theorem answers_exec (i : Instr) (s : State) : Answers (exec i s) := by
  cases i with dsimp only [exec]
  | padd => exact answers_padd
  | beq | bne | blt | bge | bltu | bgeu | beqz16 | bnez16 => exact answers_branchStep
  | jalr => exact .ite .next .next
  | loop | loopi => exact answers_loopStep
  | endTask | end16 => exact answers_endStep
  | done => exact answers_done
  | csrr | csrw | csrset | csrclr => exact answers_csrStep
  | tlbinv => exact .ite .next .next
  | fence => exact answers_fence
  | ldB | ldH | ldW | ldD | ldBu | ldHu | ldWu | ldD16 => exact answers_ldStep
  | stB | stH | stW | stD | stD16 => exact answers_stStep
  | ldAcq => exact answers_orderedStep fun _ => answers_ldStep
  | stRel => exact answers_orderedStep fun _ => answers_releasing fun _ => answers_stStep
  | vld => exact answers_vldStep
  | vst => exact answers_vstStep
  | vlds | vldg => exact answers_vldEach
  | vsts | vstg => exact answers_vstEach
  | vldt => exact answers_vldt
  | vstt => exact answers_vstt
  | vldf => exact answers_vldf
  | vstf => exact answers_vstf
  | amoaddW | amoaddD | amoandD | amoorD | amoxorD | amominD | amomaxD | amominuD | amomaxuD | amoswapW | amoswapD | amocasW | amocasD | amocas2Q
  | famoaddF32 => exact answers_amoStep
  | redadd | redand | redor | redxor | redmin | redmax | redminu | redmaxu => exact answers_redStep
  | waita => exact answers_waita
  | bar => exact answers_barrierStep fun _ _ _ => .ite .next (answers_releasing fun _ => .next)
  | bara => exact answers_barrierStep fun _ _ _ => .ite .next (answers_releasing fun _ => .next)
  | barw => exact answers_barw
  | vredg => exact answers_barrierStep fun _ _ _ => .ite .next (.ite .next (answers_releasing fun _ => .next))
  | send | spawn => exact answers_bufferStep
  | flush => exact .ite .next .next
  | qpush | qpop | qeos => exact answers_ringStep
  | launch => exact answers_launch
  | depset => exact answers_withCounter fun _ _ _ => .ite .next (answers_releasing fun _ => .next)
  | depdec => exact answers_withCounter fun _ _ _ => answers_releasing fun _ => .next
  | signal => exact answers_signal
  | enq => exact answers_enq
  | deq => exact answers_deq
  | furl => exact answers_withCell fun _ _ _ => .ite .next (answers_releasing fun _ => .next)
  | unfurl => exact answers_withCell fun _ _ _ => answers_releasing fun _ => .next
  | fcancel => exact answers_withCell fun _ _ _ => .next
  | fpeek | ftag => exact answers_peekStep
  | spop => exact answers_spop
  | spush => exact answers_spush
  | salloc => exact answers_salloc
  | sfree => exact answers_sfree
  | slink => exact answers_slink
  | sread => exact answers_sread
  | migrate =>
    refine answers_firmwareStep ?_
    exact .ite .next .next
  | mgrd | mgwr => exact answers_firmwareStep (answers_releasing fun _ => .next)
  | rtswap =>
    refine answers_firmwareStep ?_
    exact .ite .next (.ite .next .next)
  | watchdog | illegalInstruction => exact .ite .next .next
  | instructionFetchFault | launchAnswer => exact .ite .next (.ite .next .next)
  | cpLin | cp2d | cpGath | tdDec | lkCopy | lkAred | mxLdb | mxStc | mxZc | mxMark => exact answers_engStep
  | mxMma => exact .ite .next answers_engStep
  | gmF2v | gmV2f | gmBel | gmMean | gmDamp => exact answers_gmStep
  | slStart | slStop | slDrain => exact answers_slCommand
  | bagReload => exact answers_slStep
  | spliceAnnihilate | spliceCommute | spliceErase | spliceTemplate | spliceHandler | spliceEngine => exact answers_ruleStep
  | spliceSteal => exact answers_spliceSteal
  | bagStealArrival => exact answers_bagStealArrival
  | engineRuleElement => exact answers_engineRuleElement
  | waitaArm => exact answers_waitaArm
  | waitaExpiry => exact answers_waitaExpiry
  | waitaPoll => exact answers_waitaPoll
  | barrierNotification => exact answers_barrierNotification
  | gatherReport => exact answers_gatherReport
  | barrierCompletion => exact answers_barrierCompletion
  | vredgResult => exact answers_vredgResult
  | ringOpAtHome => exact answers_ringOpAtHome
  | ringAnswer => exact answers_ringAnswer
  | ringResend => exact answers_ringResend
  | ringWaitExpiry => exact answers_ringWaitExpiry
  | nack => exact answers_nack
  | retryResend => exact answers_retryResend
  | sendCommit => exact answers_sendCommit
  | messageArrival => exact answers_messageArrival
  | engineCommandArrival => exact answers_engineCommandArrival
  | completionElementArrival => exact answers_completionElementArrival
  | migrationForward => exact answers_migrationForward
  | trapRecordArrival => exact answers_trapRecordArrival
  | dequeReload => exact answers_dequeReload
  | stealRequest => exact answers_stealRequest
  | drainAndSwap | escapeRecovery | partitionDrop | firewallDrop => exact .ite .next .next
  | gets | getm | getu => exact .ite .next .next
  | uPartial => exact answers_uPartial
  | hostRead | hostReadOwn | hostWrite => exact .ite .next (.ite .next .next)
  | bisnpResponse | bisnpReread | lineFill | hostSnpdata | hostSnpinv => exact .ite .next .next
  | snoopShare => exact answers_snoopShare
  | snoopInvalidate => exact answers_snoopInvalidate
  | mergeRead => exact answers_mergeRead
  | homeOperation => exact answers_homeOperation
  | homeResponse => exact answers_homeResponse
  | furledRequestAtHome => exact answers_furledRequestAtHome
  | furledWake => exact answers_furledWake
  | furlWaitLimit => exact answers_furlWaitLimit
  | furlWaiterResend => exact answers_furlWaiterResend
  | evaluationMessage => exact answers_evaluationMessage
  | atsResponse => exact answers_atsResponse
  | priResponse => exact answers_priResponse
  | atsInvalidation => exact .ite .next .next
  | regionTableDrain => exact .ite .next (.ite .next .next)
  | doorbell => exact answers_doorbell
  | directMessage | slotIdleTimeout | queueRegister => exact .ite .next .next
  | gateRead => exact answers_gateRead
  | gangPlacement => exact answers_gangPlacement
  | deadlinePreempt => exact answers_deadlinePreempt
  | rtReservationMiss => exact answers_rtReservationMiss
  | launchCompletion => exact answers_launchCompletion
  | childLaunchRequest => exact answers_childLaunchRequest
  | readyQueueSend => exact answers_readyQueueSend
  | readyQueueReoffer => exact answers_readyQueueReoffer
  | aredChunkExchange => exact answers_aredChunkExchange
  | aredPartnerEnded | mapAcknowledged => exact .ite .next .next
  | preemptionSaved => exact answers_preemptionSaved
  | gangResume => exact answers_gangResume
  | migrationImageInstalled => exact answers_migrationImageInstalled
  | powerOn | readyBitSet | stayLinkTrained | stayLinkLoss | thermalTrip => exact .ite .next .next
  | thermalStep => exact .ite .next (.ite .next .next)
  | _ => exact .next

/-! A step stops only without power (14 R446). -/

/-- The order of moves names an instruction, an event or a rest. -/
def Choice.Goes (ch : Choice) : Prop := ∀ f, ch ≠ .stop f

theorem Choice.goes_run {i : Instr} {s : State} : (Choice.run i s).Goes := fun _ h => nomatch h
theorem Choice.goes_rest {s : State} : (Choice.rest s).Goes := fun _ h => nomatch h

theorem State.fetchStop_goes {s : State} {c : CoreId} {x : CtxId} {st : Stop} : (s.fetchStop c x st).Goes := by
  cases st with
  | trap cause va => exact Choice.goes_run
  | miss va write => exact Choice.goes_run
  | busy ls => exact Choice.goes_rest

theorem State.issueAt_goes {s : State} {c : CoreId} : (s.issueAt c).Goes := by
  unfold State.issueAt
  split
  · exact Choice.goes_rest
  · dsimp only
    split
    · exact Choice.goes_rest
    · split
      · exact Choice.goes_run
      · split
        · exact Choice.goes_run
        · exact Choice.goes_run
        · exact State.fetchStop_goes

theorem State.free_goes {s : State} : s.free.Goes := by
  unfold State.free
  split
  · exact Choice.goes_run
  · split
    · exact Choice.goes_rest
    · split
      · exact Choice.goes_rest
      · split
        · exact State.issueAt_goes
        · exact Choice.goes_rest

/-- A move that State.sched names goes ahead or rests. -/
theorem State.choose_goes_of_sched {s : State} {m : Move} {r : List Move} (h : s.sched = m :: r) : s.choose.Goes := by
  unfold State.choose
  rw [h]
  cases m with
  | issue c =>
    dsimp only
    split
    · exact State.issueAt_goes
    · exact Choice.goes_rest
  | deliver n =>
    dsimp only
    split
    · exact Choice.goes_run
    · exact Choice.goes_rest
  | input i =>
    dsimp only
    split
    · exact Choice.goes_run
    · exact Choice.goes_rest
  | setup a => exact Choice.goes_rest
  | pass n => exact Choice.goes_rest

theorem State.choose_of_powered {s : State} (h : s.sched = []) (hp : s.powered = true) : s.choose = s.free := by
  unfold State.choose
  rw [h]
  exact if_pos hp

theorem State.choose_of_unpowered {s : State} (h : s.sched = []) (hp : s.powered = false) : s.choose = .stop .poweredOff := by
  unfold State.choose
  rw [h]
  exact if_neg (by simp [hp])

/-- A step whose move goes ahead or rests answers a next state, since every instruction and event does. -/
theorem answers_step {s : State} (h : s.choose.Goes) : Answers (step s) := by
  unfold step
  split
  · exact answers_exec _ _
  · exact .next
  next f hf => exact absurd hf (h f)

/-- Settles O58: every meaning is a tree of conditions whose leaves are next states, and the order of moves stops in its one case without
power. -/
theorem nothingStops : Obligations.NothingStops := by
  refine ⟨answers_exec, fun s => ?_⟩
  cases h : s.sched with
  | cons m r => exact .inl (answers_step (State.choose_goes_of_sched h))
  | nil =>
    cases hp : s.powered with
    | true => exact .inl (answers_step (State.choose_of_powered h hp ▸ State.free_goes))
    | false => exact .inr ⟨by simp [step, State.choose_of_unpowered h hp], rfl, rfl⟩

end Sys2Proof.Machine
end

section
namespace Sys2Proof.Machine

/-! The management window (14 R425, R446 to R448): the places of its words, and requests to the CXL.io function. -/

/-- While CXL.io is usable, a request has its effect (14 R446). -/
theorem withIo_ready {go : State → State} {s : State} (h : s.ready 1 = true) : withIo go s = .next (go s) := by
  simp [withIo, h]

/-- While CXL.io is not usable, a request is refused and counted (14 R446). -/
theorem withIo_unready {go : State → State} {s : State} (h : s.ready 1 = false) : withIo go s = .next (s.refusal .unsupported) := by
  simp [withIo, h]

/-- Word 0 of entry n of the error log. -/
theorem winAt_log (n : Fin 64) : winAt (BitVec.ofNat 36 (0x100 + 16 * n.val)) = .log n.val 0 := by
  revert n
  decide

theorem winAt_power : winAt 0x800 = .power := by decide

/-- Only 0x800 is the power register, and only 0x100 to 0x4FF are the error log. -/
theorem winAt_elsewhere {a : BitVec 36} (hp : a.toNat ≠ 0x800) (hl : a.toNat < 0x100 ∨ 0x500 ≤ a.toNat) :
    winAt a ≠ .power ∧ ∀ i j, winAt a ≠ .log i j := by
  unfold winAt
  dsimp only
  split
  · exact ⟨nofun, nofun⟩
  · split
    case h_1 h0 =>
      have ho : bitsOf a.toNat 31 0 = a.toNat := by
        unfold bitsOf at h0 ⊢
        omega
      rw [ho, if_neg (by omega : ¬ (0x100 ≤ a.toNat ∧ a.toNat < 0x500)), if_neg hp]
      split
      · exact ⟨nofun, nofun⟩
      · split <;> exact ⟨nofun, nofun⟩
    case h_2 | h_3 =>
      split
      · exact ⟨nofun, nofun⟩
      · split <;> exact ⟨nofun, nofun⟩
    case h_4 | h_5 | h_6 => exact ⟨nofun, nofun⟩

/-- A read of an error-log entry's word 0 latches both its words. -/
theorem State.latchEntry_log (s : State) (n : Fin 64) :
    s.latchEntry (BitVec.ofNat 36 (0x100 + 16 * n.val)) = s.modMgmt fun m =>
      { m with latch := (BitVec.ofNat 36 (0x100 + 16 * n.val), [s.mgmt.logWord n.val 0, s.mgmt.logWord n.val 1]) } := by
  have h : s.windowEntry (BitVec.ofNat 36 (0x100 + 16 * n.val))
      = some (BitVec.ofNat 36 (0x100 + 16 * n.val), [s.mgmt.logWord n.val 0, s.mgmt.logWord n.val 1], 0) := by
    simp [State.windowEntry, winAt_log]
  unfold State.latchEntry
  rw [h]
  rfl

/-- A write to a word that is neither the power register nor of the error log changes nothing (14 R447). -/
theorem State.windowWrite_elsewhere {s : State} {a : BitVec 36} {v : Word} (hp : winAt a ≠ .power) (hl : ∀ i j, winAt a ≠ .log i j) :
    s.windowWrite a v = s := by
  unfold State.windowWrite
  split
  · exact absurd ‹_› hp
  · exact absurd ‹_› (hl _ _)
  · rfl

theorem State.windowWrite_power {s : State} {v : Word} : s.windowWrite 0x800 v = s.writeCap v := by
  unfold State.windowWrite
  rw [winAt_power]

/-! The error log (14 R425) and its W1C bits (00 R7). -/

theorem getLsbD_one_shift {k i : Nat} (hi : i < 128) : (1#128 <<< k).getLsbD i = decide (i = k) := by
  simp only [BitVec.getLsbD_shiftLeft, BitVec.getLsbD_one]
  grind

theorem getLsbD_unless {p : Prop} [Decidable p] {k i : Nat} (hi : i < 128) :
    (if p then (0 : BitVec 128) else 1#128 <<< k).getLsbD i = decide (¬ p ∧ i = k) := by
  split
  next h => simp [h]
  next h => rw [getLsbD_one_shift hi]; simp [h]

/-- What a write of w leaves of an entry e: V and OVF are cleared by a one, but for those that hardware sets in the same cycle. -/
theorem getLsbD_cleared {p q : Prop} [Decidable p] [Decidable q] {w e : BitVec 128} {i : Nat} (hi : i < 128) :
    (e &&& ~~~(w &&& ((if p then (0 : BitVec 128) else 1#128 <<< 64) ||| (if q then (0 : BitVec 128) else 1#128 <<< 65)))).getLsbD i = true
      ↔ e.getLsbD i = true ∧ ((i = 64 ∧ p) ∨ (i = 65 ∧ q) ∨ ¬ ((i = 64 ∨ i = 65) ∧ w.getLsbD i = true)) := by
  simp only [BitVec.getLsbD_and, BitVec.getLsbD_not, BitVec.getLsbD_or, getLsbD_unless hi, hi, decide_true, Bool.true_and, Bool.and_eq_true,
    Bool.not_eq_true', Bool.and_eq_false_iff, Bool.or_eq_false_iff, decide_eq_false_iff_not]
  grind

theorem State.errorLog_clearLog (s : State) (n : Nat) (w : BitVec 128) :
    (s.clearLog n w).mgmt.errorLog = s.mgmt.errorLog.modify n fun e =>
      e &&& ~~~(w &&& ((if s.setNow (.valid n) then (0 : BitVec 128) else 1#128 <<< 64)
        ||| (if n = 63 ∧ s.setNow .overflow then (0 : BitVec 128) else 1#128 <<< 65))) := rfl

theorem State.length_errorLog_clearLog (s : State) (n : Nat) (w : BitVec 128) :
    (s.clearLog n w).mgmt.errorLog.length = s.mgmt.errorLog.length := by
  rw [errorLog_clearLog, List.length_modify]

theorem State.getElem?_clearLog_ne {s : State} {n i : Nat} {w : BitVec 128} (h : i ≠ n) :
    (s.clearLog n w).mgmt.errorLog[i]? = s.mgmt.errorLog[i]? := by
  rw [errorLog_clearLog, List.getElem?_modify_ne _ _ (Ne.symm h)]

theorem State.getLsbD_clearLog {s : State} {n : Nat} {w : BitVec 128} {i : Nat} (hn : n < s.mgmt.errorLog.length) (hi : i < 128) :
    ((s.clearLog n w).mgmt.errorLog.getD n 0).getLsbD i = true ↔ (s.mgmt.errorLog.getD n 0).getLsbD i = true
      ∧ ((i = 64 ∧ s.setNow (.valid n) = true) ∨ (i = 65 ∧ n = 63 ∧ s.setNow .overflow = true)
        ∨ ¬ ((i = 64 ∨ i = 65) ∧ w.getLsbD i = true)) := by
  rw [errorLog_clearLog, List.getD_eq_getElem?_getD, List.getElem?_modify_eq, List.getElem?_eq_getElem hn,
    List.getD_eq_getElem?_getD, List.getElem?_eq_getElem hn]
  exact getLsbD_cleared hi

/-! The power cap (14 R449, R450). -/

theorem State.writeCap_bounds (s : State) (v : Word) : 350 ≤ (s.writeCap v).mgmt.powerCap ∧ (s.writeCap v).mgmt.powerCap ≤ 600 := by
  show 350 ≤ (if 350 ≤ v.toNat ∧ v.toNat ≤ 600 then v.toNat else max 350 (min 600 (Config.openCap v)))
    ∧ (if 350 ≤ v.toNat ∧ v.toNat ≤ 600 then v.toNat else max 350 (min 600 (Config.openCap v))) ≤ 600
  split <;> omega

theorem State.writeCap_exact {s : State} {v : Word} (hl : 350 ≤ v.toNat) (hh : v.toNat ≤ 600) : (s.writeCap v).mgmt.powerCap = v.toNat :=
  if_pos ⟨hl, hh⟩

/-- A step down above 100 °C takes 25 W off the cap in force, to 350 W at the least (14 R450). -/
theorem cap_thermalStep (m : Mgmt) :
    ({ m with thermalCut := if 350 < m.powerCap - m.thermalCut then m.thermalCut + 25 else m.thermalCut } : Mgmt).cap = max 350 (m.cap - 25) := by
  show max 350 (m.powerCap - if 350 < m.powerCap - m.thermalCut then m.thermalCut + 25 else m.thermalCut)
    = max 350 (max 350 (m.powerCap - m.thermalCut) - 25)
  split <;> omega

/-! The hold of dispatch (14 R449). -/

/-- Whether dispatch is held after a look at the estimate: above the cap with the share at 1/8, or still, while the estimate is not 10 W below
the cap. -/
def Mgmt.holdNext (m : Mgmt) : Bool := decide (m.share = 8 ∧ m.cap < m.estimate) || (m.hold && decide (m.cap < m.estimate + 10))

section
variable {m : Mgmt}

theorem Mgmt.holdNext_over (hs : m.share = 8) (hc : m.cap < m.estimate) : m.holdNext = true := by simp [holdNext, hs, hc]

theorem Mgmt.holdNext_under (h : m.estimate + 10 ≤ m.cap) : m.holdNext = false := by
  simp only [holdNext, Bool.or_eq_false_iff, decide_eq_false_iff_not, Bool.and_eq_false_iff]
  exact ⟨by omega, .inr (by omega)⟩

theorem Mgmt.holdNext_kept (h : m.hold = true) (hc : m.cap < m.estimate + 10) : m.holdNext = true := by simp [holdNext, h, hc]

theorem Mgmt.holdNext_off (h : m.hold = false) (hc : m.share ≠ 8 ∨ m.estimate ≤ m.cap) : m.holdNext = false := by
  simp only [holdNext, h, Bool.false_and, Bool.or_false, decide_eq_false_iff_not]
  omega

theorem Mgmt.holdNext_same (h1 : ¬ (m.share = 8 ∧ m.cap < m.estimate)) (h2 : ¬ (m.hold = true ∧ m.estimate + 10 ≤ m.cap)) : m.holdNext = m.hold := by
  cases hh : m.hold with
  | false => exact holdNext_off hh (by omega)
  | true => exact holdNext_kept hh (by simpa [hh] using h2)

end

section
variable (s : State)

@[simp] theorem State.mgmt_kickReady : s.kickReady.mgmt = s.mgmt := by unfold kickReady; split <;> rfl
@[simp] theorem State.cores_kickReady : s.kickReady.cores = s.cores := by unfold kickReady; split <;> rfl
@[simp] theorem State.mem_kickReady : s.kickReady.mem = s.mem := by unfold kickReady; split <;> rfl

theorem State.pending_subset_kickReady : s.pending ⊆ s.kickReady.pending := by
  unfold kickReady
  split
  · exact List.subset_append_left _ _
  · exact fun _ h => h

/-- The review changes the hold, and nothing else of the management state. -/
theorem State.mgmt_reviewHold : s.reviewHold.mgmt = { s.mgmt with hold := s.mgmt.holdNext } := by
  unfold reviewHold
  dsimp only
  split
  next h => rw [Mgmt.holdNext_over h.1 h.2]; rfl
  next =>
    split
    next h => rw [Mgmt.holdNext_under h.2, mgmt_kickReady]; rfl
    next h1 h2 => rw [Mgmt.holdNext_same h1 h2]

theorem State.cores_reviewHold : s.reviewHold.cores = s.cores := by
  unfold reviewHold
  dsimp only
  split
  · rfl
  · split
    · exact cores_kickReady _
    · rfl

theorem State.mem_reviewHold : s.reviewHold.mem = s.mem := by
  unfold reviewHold
  dsimp only
  split
  · rfl
  · split
    · exact mem_kickReady _
    · rfl

/-- With the hold taken back the launch unit goes on. -/
theorem State.gangPlacement_mem_reviewHold (hh : s.mgmt.hold = true) (hc : s.mgmt.estimate + 10 ≤ s.mgmt.cap) : .gangPlacement ∈ s.reviewHold.pending := by
  unfold reviewHold
  dsimp only
  rw [if_neg (by omega), if_pos ⟨hh, hc⟩]
  exact State.pending_subset_kickReady _ (List.mem_append_right _ (List.mem_singleton_self _))

end

/-! The measurements (14 R444). -/

/-- The measurement blocks in bytes, each after its index. -/
def Mgmt.measured (m : Mgmt) : List Byte :=
  (1 :: toBytes 32 Config.bootRomDigest.toNat) ++ (2 :: toBytes 32 (Config.sha256 (toBytes 128 m.rigging.toNat)).toNat)
    ++ (3 :: toBytes 32 m.imageDigest.toNat ++ toBytes 4 m.imageVersion.toNat)
    ++ (match m.staged with
      | some g => 4 :: toBytes 32 g.digest.toNat ++ toBytes 4 g.version.toNat
      | none => [])
    ++ [5, m.handover.setWidth 8]

theorem Mgmt.blocks_bytes (m : Mgmt) : (m.blocks.flatMap fun b => BitVec.ofNat 8 b.1 :: b.2) = m.measured := by
  unfold blocks measured
  cases m.staged <;> simp

/-- Settles O54: each event is one change of the management state, of which the lemmas above say what it is. -/
theorem managementEvents : Obligations.ManagementEvents := by
  intro s n bits v w req
  dsimp only
  refine ⟨?latch, ?refused, ?clear, ?cap, ?elsewhere, ?power, ?matrix, ?down, ?up, ?kept, ?trip, ?attest⟩
  case latch =>
    rw [exec_readbackLatch, execReadbackLatch, State.latchEntry_log]
    exact ⟨_, rfl, ⟨rfl, .of_eq rfl rfl⟩, rfl⟩
  case refused =>
    intro hr a
    simp only [List.cons_append, List.nil_append, List.forall_mem_cons, exec_errorLogClear, execErrorLogClear, exec_powerCapWrite,
      execPowerCapWrite, exec_registerWrite, execRegisterWrite, exec_getVersion, execGetVersion, exec_getCapabilities, execGetCapabilities,
      exec_negotiateAlgorithms, execNegotiateAlgorithms, exec_getDigests, execGetDigests, exec_getCertificate, execGetCertificate,
      exec_challenge, execChallenge, exec_getMeasurements, execGetMeasurements, doe, withIo_unready hr]
    exact ⟨rfl, rfl, rfl, rfl, rfl, rfl, rfl, rfl, rfl, rfl, fun _ h => (List.not_mem_nil h).elim⟩
  case clear =>
    intro hr
    rw [exec_errorLogClear, execErrorLogClear, withIo_ready hr]
    refine ⟨_, rfl, ⟨rfl, .of_eq rfl rfl⟩, s.length_errorLog_clearLog _ _, fun i hi =>
      State.getElem?_clearLog_ne hi, fun hn i hi => ?_⟩
    rw [State.getLsbD_clearLog hn hi, or_assoc]
  case cap =>
    intro hr
    simp only [exec_powerCapWrite, execPowerCapWrite, exec_registerWrite, execRegisterWrite, withIo_ready hr, State.windowWrite_power]
    have hc : Gives (.next (s.writeCap v)) fun t => (t.cores = s.cores ∧ SameBytes s t) ∧ 350 ≤ t.mgmt.powerCap ∧ t.mgmt.powerCap ≤ 600
        ∧ (350 ≤ v.toNat → v.toNat ≤ 600 → t.mgmt.powerCap = v.toNat) :=
      ⟨_, rfl, ⟨rfl, .of_eq rfl rfl⟩, (s.writeCap_bounds v).1, (s.writeCap_bounds v).2, State.writeCap_exact⟩
    exact ⟨hc, hc, fun a hp hl => congrArg _ (State.windowWrite_elsewhere hp hl)⟩
  case elsewhere => exact fun a ha => winAt_elsewhere (by omega) (by omega)
  case power =>
    let k : Mgmt := { s.mgmt with estimate := w }
    refine ⟨_, rfl, ⟨State.cores_reviewHold _, .of_eq (State.mem_reviewHold _) (State.cores_reviewHold _)⟩, ?_⟩
    rw [State.mgmt_reviewHold]
    exact ⟨rfl, Mgmt.holdNext_over (m := k), fun hh hc => ⟨Mgmt.holdNext_under (m := k) hc, State.gangPlacement_mem_reviewHold _ hh hc⟩,
      Mgmt.holdNext_kept (m := k), Mgmt.holdNext_off (m := k)⟩
  case matrix =>
    let k : Mgmt := { s.mgmt with estimate := w, share := max 8 (min 64 (Config.matrixShare s.tick w s.mgmt.cap)) }
    refine ⟨_, rfl, ⟨State.cores_reviewHold _, .of_eq (State.mem_reviewHold _) (State.cores_reviewHold _)⟩, ?_⟩
    rw [State.mgmt_reviewHold]
    exact ⟨rfl, Nat.le_max_left _ _, max_le (by decide) (min_le_left _ _), Mgmt.holdNext_over (m := k),
      fun _ hc => Mgmt.holdNext_under (m := k) hc⟩
  case down => exact fun hw => ⟨_, if_pos hw, ⟨rfl, .of_eq rfl rfl⟩, cap_thermalStep _⟩
  case up => exact fun hw => ⟨_, (if_neg (by omega)).trans (if_pos hw), ⟨rfl, .of_eq rfl rfl⟩, rfl⟩
  case kept => exact fun hl hh => (if_neg (by omega)).trans (if_neg (by omega))
  case trip => exact fun hw => if_neg (by omega)
  case attest =>
    intro hr
    simp only [exec_getVersion, execGetVersion, exec_getCapabilities, execGetCapabilities, exec_negotiateAlgorithms, execNegotiateAlgorithms,
      exec_getDigests, execGetDigests, exec_getCertificate, execGetCertificate, exec_challenge, execChallenge, exec_getMeasurements,
      execGetMeasurements, doe, withIo_ready hr, Mgmt.blocks_bytes]
    exact ⟨⟨_, rfl, ⟨rfl, .of_eq rfl rfl⟩, rfl, rfl⟩, ⟨_, rfl, ⟨rfl, .of_eq rfl rfl⟩, rfl, rfl⟩, ⟨_, rfl, ⟨rfl, .of_eq rfl rfl⟩, rfl, rfl⟩,
      ⟨_, rfl, ⟨rfl, .of_eq rfl rfl⟩, rfl, rfl⟩, ⟨_, rfl, ⟨rfl, .of_eq rfl rfl⟩, rfl, rfl⟩, ⟨_, rfl, ⟨rfl, .of_eq rfl rfl⟩, rfl, rfl⟩,
      ⟨_, rfl, ⟨rfl, .of_eq rfl rfl⟩, rfl, rfl⟩⟩

end Sys2Proof.Machine
end

section
namespace Sys2Proof.Machine

/-! The registers at the start of a handler (02 R54). -/

/-- A write of x changes x alone. -/
theorem Ctx.exists_wx (c : Ctx) (r : BitVec 5) (w : Word) : ∃ x, c.wx r w = { c with x := x } := by
  unfold Ctx.wx
  split
  · exact ⟨c.x, rfl⟩
  · exact ⟨_, rfl⟩

theorem Ctx.rx_reset (r : BitVec 5) : Ctx.reset.rx r = 0 := by
  unfold Ctx.rx Ctx.reset
  split
  · rfl
  · exact Vector.getElem_replicate _

/-- The first n payload words of a message, written to the registers from x17 on. -/
def Ctx.payload (c : Ctx) (w : Msg) (n : Nat) : Ctx := (List.range n).foldl (fun c j => c.wx (BitVec.ofNat 5 (17 + j)) (Msg.word w (j + 1))) c

theorem Ctx.payload_succ (c : Ctx) (w : Msg) (n : Nat) :
    c.payload w (n + 1) = (c.payload w n).wx (BitVec.ofNat 5 (17 + n)) (Msg.word w (n + 1)) := by
  simp [Ctx.payload, List.range_succ]

theorem Ctx.exists_payload (c : Ctx) (w : Msg) (n : Nat) : ∃ x, c.payload w n = { c with x := x } := by
  induction n with
  | zero => exact ⟨c.x, rfl⟩
  | succ n ih =>
    obtain ⟨x, hx⟩ := ih
    rw [payload_succ, hx]
    exact Ctx.exists_wx _ _ _

theorem Ctx.rx_payload (c : Ctx) (w : Msg) (r : BitVec 5) {n : Nat} (hn : n ≤ 7) :
    (c.payload w n).rx r = if 17 ≤ r.toNat ∧ r.toNat < 17 + n then Msg.word w (r.toNat - 16) else c.rx r := by
  induction n with
  | zero => exact (if_neg (by omega)).symm
  | succ n ih =>
    have hk : (BitVec.ofNat 5 (17 + n)).toNat = 17 + n := Nat.mod_eq_of_lt (by omega)
    rw [payload_succ, Ctx.rx_wx, Ctx.withX, ih (by omega)]
    by_cases h : r = BitVec.ofNat 5 (17 + n)
    · have hz : r ≠ 0 := fun e => by
        have : 17 + n = 0 := hk ▸ h ▸ congrArg BitVec.toNat e
        omega
      rw [if_pos ⟨h, hz⟩, h, hk, if_pos (by omega)]
      congr 1
      omega
    · have hr : r.toNat ≠ 17 + n := fun e => h (BitVec.eq_of_toNat_eq (e.trans hk.symm))
      rw [if_neg fun e => h e.1]
      exact if_congr (by omega) rfl rfl

/-- The context of a started handler before its registers are written. -/
def startBase (i : Ident) (t : Trigger) : Ctx :=
  { Ctx.reset with status := .running, pc := t.pc, fmt := 0x400 ||| (if i.xt then 0x100 else 0), budget := i.budget, trigger := some t }

/-- The context of a started handler with its registers. -/
def startRegs (i : Ident) (t : Trigger) : Ctx := (((startBase i t).wx 2 i.stack).wx 16 (Msg.word t.word 0)).payload t.word 7

section
variable {i : Ident} {t : Trigger}

/-- Beside x, a started handler's context is as before its registers are written. -/
theorem exists_startRegs (i : Ident) (t : Trigger) : ∃ x, startRegs i t = { startBase i t with x := x } := by
  obtain ⟨x, hx⟩ := (startBase i t).exists_wx 2 i.stack
  obtain ⟨y, hy⟩ := Ctx.exists_wx { startBase i t with x := x } 16 (Msg.word t.word 0)
  unfold startRegs
  rw [hx, hy]
  exact Ctx.exists_payload _ _ _

theorem rx_startRegs (i : Ident) (t : Trigger) (r : BitVec 5) : (startRegs i t).rx r =
    if 17 ≤ r.toNat ∧ r.toNat < 24 then Msg.word t.word (r.toNat - 16) else if r = 16 then Msg.word t.word 0 else if r = 2 then i.stack else 0 := by
  have h0 : (startBase i t).rx r = 0 := Ctx.rx_reset r
  rw [startRegs, Ctx.rx_payload _ _ _ (le_refl 7), Ctx.rx_wx, Ctx.withX, Ctx.rx_wx, Ctx.withX, h0]
  have h16 : r = 16 ∧ r ≠ 0 ↔ r = 16 := ⟨fun h => h.1, fun h => ⟨h, h ▸ by decide⟩⟩
  have h2 : r = 2 ∧ r ≠ 0 ↔ r = 2 := ⟨fun h => h.1, fun h => ⟨h, h ▸ by decide⟩⟩
  exact if_congr Iff.rfl rfl (if_congr h16 rfl (if_congr h2 rfl rfl))

/-- A handler that evaluates no cell starts with its registers, and a trap handler with its trap registers too (14 R422). -/
theorem startCtx_plain (h : t.kind = .plain) : startCtx i t = if t.src = .trapq then
    { startRegs i t with tcause := Msg.word t.word 1, tpc := Msg.word t.word 2, tval := Msg.word t.word 3, tmsg := Msg.word t.word 5 }
    else startRegs i t := by
  unfold startCtx
  rw [h]
  rfl

theorem rx_startCtx (h : t.kind = .plain) (r : BitVec 5) : (startCtx i t).rx r = (startRegs i t).rx r := by
  obtain ⟨x, hx⟩ := exists_startRegs i t
  rw [startCtx_plain h, hx]
  split <;> rfl

/-- A trap register: what the record says for a trap handler, else 0 (14 R422). -/
def Trigger.trapReg (t : Trigger) (j : Nat) : Word := if t.src = .trapq then Msg.word t.word j else 0

theorem exists_startCtx (h : t.kind = .plain) : ∃ x, startCtx i t =
    { startBase i t with x := x, tcause := t.trapReg 1, tpc := t.trapReg 2, tval := t.trapReg 3, tmsg := t.trapReg 5 } := by
  obtain ⟨x, hx⟩ := exists_startRegs i t
  refine ⟨x, ?_⟩
  rw [startCtx_plain h, hx]
  unfold Trigger.trapReg
  split <;> rfl

end

/-! The issue slot (04 R114, R115). -/

/-- Context x, changed by f, takes the issue slot. -/
def State.seat (s : State) (c : CoreId) (x : CtxId) (f : Ctx → Ctx) : State :=
  s.modCore c fun k => { k.modCtx x f with slot := some x, yielded := false }

/-- Core c's network interface is n. -/
def State.withNet (s : State) (c : CoreId) (n : Net) : State := s.modCore c fun k => { k with net := n }

section
variable (s : State) (c : CoreId) (x : CtxId) (f : Ctx → Ctx) (n : Net)

theorem State.slot_seat : ((s.seat c x f).coreAt c).slot = some x := by rw [seat, coreAt_modCore]

theorem State.net_seat : ((s.seat c x f).coreAt c).net = (s.coreAt c).net := by rw [seat, coreAt_modCore]; rfl

theorem State.ctxAt_seat : (s.seat c x f).ctxAt c x = f (s.ctxAt c x) := by
  rw [ctxAt, seat, coreAt_modCore]
  exact Vector.getElem_set_self _

theorem State.allBut_seat : AllBut s (s.seat c x f) c x := fun d y h => by
  have hm := s.ctxAt_modCtx_of_ne f h
  rw [← hm]
  simp only [ctxAt, seat, modCtx, coreAt_modCore_eq]
  split <;> rfl

theorem State.sameBytes_seat : SameBytes s (s.seat c x f) := ⟨fun _ => rfl, fun d o => by
  rw [seat, coreAt_modCore_eq]
  split <;> rfl⟩

theorem State.ctxAt_withNet (d : CoreId) (y : CtxId) : (s.withNet c n).ctxAt d y = s.ctxAt d y := by
  rw [ctxAt, withNet, coreAt_modCore_eq]
  split <;> rfl

theorem State.sameBytes_withNet : SameBytes s (s.withNet c n) := ⟨fun _ => rfl, fun d o => by
  rw [withNet, coreAt_modCore_eq]
  split <;> rfl⟩

theorem State.net_withNet : ((s.withNet c n).coreAt c).net = n := by rw [withNet, coreAt_modCore]

theorem State.giveSlot_eq : s.giveSlot c x = s.seat c x fun q =>
    { q.goOn with status := .running, since := s.handCycle (s.coreAt c), busy := s.handCycle (s.coreAt c) } := rfl

theorem State.startIn_withNet (t : Trigger) : (s.withNet c n).startIn c x t = (s.withNet c n).seat c x fun _ =>
    { startCtx (s.coreAt c).ident t with since := s.handCycle (s.coreAt c), busy := s.handCycle (s.coreAt c) + 3 } := by
  have h : (s.withNet c n).coreAt c = { s.coreAt c with net := n } := by rw [withNet, coreAt_modCore]
  show (s.withNet c n).seat c x (fun _ => { startCtx ((s.withNet c n).coreAt c).ident t with
    since := s.handCycle ((s.withNet c n).coreAt c), busy := s.handCycle ((s.withNet c n).coreAt c) + 3 }) = _
  rw [h]
  rfl

end

/-! Who gets the slot (04 R115, 08 R252, 14 R421). -/

section
variable {s : State} {c : CoreId} {x : CtxId}

theorem State.handoff_ready (hs : (s.coreAt c).slot = none) (hr : s.mayRun c = true) (h : (s.coreAt c).readyCtx = some x) :
    s.handoff c = s.giveSlot c x := by
  simp [handoff, hs, hr, h]

theorem State.handoff_work (hs : (s.coreAt c).slot = none) (hr : s.mayRun c = true) (h : (s.coreAt c).readyCtx = none) :
    s.handoff c = ((s.coreAt c).freeCtx.bind (s.newWork c)).getD
      (if (s.coreAt c).ctxs[(s.coreAt c).last].status = .ready then s.giveSlot c (s.coreAt c).last else s) := by
  unfold handoff
  simp only [hs, hr, h, Option.isSome_none, Bool.not_true, Bool.or_self, Bool.false_eq_true, if_false]
  cases (s.coreAt c).freeCtx.bind (s.newWork c) <;> rfl

theorem State.handoff_start {t : State} (hs : (s.coreAt c).slot = none) (hr : s.mayRun c = true) (h : (s.coreAt c).readyCtx = none)
    (hf : (s.coreAt c).freeCtx = some x) (hw : s.newWork c x = some t) : s.handoff c = t := by
  rw [handoff_work hs hr h, hf, Option.bind_some, hw, Option.getD_some]

theorem State.newWork_trap {r : TrapEntry} (h : (s.coreAt c).net.trapq.find? (fun e => e.started.isNone) = some r) :
    s.newWork c x = some ((s.withNet c { (s.coreAt c).net with trapq := markTrap (s.coreAt c).net.trapq x }).startIn c x
      { word := r.word, kind := .plain, src := .trapq, prio := 0, returns := 0, pc := r.pc }) := by
  unfold newWork
  simp only [h]
  rfl

theorem State.newWork_mail {m : MailEntry} (hq : (s.coreAt c).net.trapq.find? (fun e => e.started.isNone) = none)
    (hm : (s.coreAt c).net.mailbox = [m]) (he : (s.coreAt c).eligible m = true)
    (hd : (s.coreAt c).net.deque = [] ∨ (s.coreAt c).net.reloading = true) :
    s.newWork c x = some ((s.withNet c { (s.coreAt c).net with mailbox := [{ m with started := some x }] }).startIn c x
      { word := m.word, kind := m.kind, src := .mailbox, prio := m.prio, returns := m.returns, pc := m.pc }) := by
  have hb : bestMail ((s.coreAt c).net.mailbox.filter (s.coreAt c).eligible) none = some m := by rw [hm, List.filter_singleton, he]; rfl
  have ht : (if (s.coreAt c).net.reloading then none else (s.coreAt c).net.deque.getLast?.filter fun t => !s.handlerAway c (hidOf t.word)) = none := by
    rcases hd with hd | hd <;> simp [hd]
  have hk : markMail (s.coreAt c).net.mailbox m x = [{ m with started := some x }] := by rw [hm]; exact if_pos rfl
  unfold newWork
  simp only [hq, hb, ht, startMail, ← hk]
  rfl

end

/-- What the start of a handler by the record or message w leaves in context x of core c, whatever started it. -/
def State.Started (s t : State) (c : CoreId) (x : CtxId) (w : Msg) : Prop :=
  (t.coreAt c).slot = some x ∧ (∀ d y, d ≠ c ∨ y ≠ x → t.ctxAt d y = s.ctxAt d y) ∧ SameBytes s t
    ∧ (t.ctxAt c x).status = .running ∧ (t.ctxAt c x).budget = (s.coreAt c).ident.budget ∧ t.usedOf (t.ctxAt c x) = 0
    ∧ (t.ctxAt c x).busy = s.handCycle (s.coreAt c) + 3 ∧ (t.ctxAt c x).lstat = 0
    ∧ (t.ctxAt c x).rx 2 = (s.coreAt c).ident.stack ∧ (t.ctxAt c x).rx 16 = Msg.word w 0
    ∧ (∀ j, 1 ≤ j → j ≤ 7 → (t.ctxAt c x).rx (BitVec.ofNat 5 (16 + j)) = Msg.word w j)
    ∧ (∀ r : BitVec 5, r ≠ 2 → r.toNat < 16 ∨ 23 < r.toNat → (t.ctxAt c x).rx r = 0) ∧ (∀ r, (t.ctxAt c x).rv r = 0)
    ∧ (t.ctxAt c x).fmt = (if (s.coreAt c).ident.xt then 0x500 else 0x400)

section
variable (s : State) (c : CoreId) (x : CtxId) (n : Net) {g : Trigger}

theorem State.ctxAt_startIn : ((s.withNet c n).startIn c x g).ctxAt c x =
    { startCtx (s.coreAt c).ident g with since := s.handCycle (s.coreAt c), busy := s.handCycle (s.coreAt c) + 3 } := by
  rw [startIn_withNet, ctxAt_seat]

theorem State.rx_startIn (hg : g.kind = .plain) (r : BitVec 5) : (((s.withNet c n).startIn c x g).ctxAt c x).rx r
    = if 17 ≤ r.toNat ∧ r.toNat < 24 then Msg.word g.word (r.toNat - 16) else if r = 16 then Msg.word g.word 0
      else if r = 2 then (s.coreAt c).ident.stack else 0 := by
  rw [ctxAt_startIn]
  exact (rx_startCtx hg r).trans (rx_startRegs _ g r)

theorem State.started_startIn (hg : g.kind = .plain) : s.Started ((s.withNet c n).startIn c x g) c x g.word := by
  obtain ⟨xs, hx⟩ := exists_startCtx (i := (s.coreAt c).ident) hg
  have hc := s.ctxAt_startIn c x n (g := g)
  have hr := s.rx_startIn c x n hg
  rw [hx] at hc
  refine ⟨?slot, ?others, ?bytes, ?status, ?budget, ?used, ?busy, ?lstat, ?stack, ?header, ?payload, ?rest, ?vectors, ?fmt⟩
  case slot => rw [startIn_withNet, slot_seat]
  case others => exact fun d y h => by rw [startIn_withNet, allBut_seat _ _ _ _ d y h, ctxAt_withNet]
  case bytes => rw [startIn_withNet]; exact (s.sameBytes_withNet c n).trans (sameBytes_seat _ _ _ _)
  case status | budget | lstat => rw [hc]; rfl
  case busy => rw [hc]
  case used => rw [hc]; exact Nat.sub_eq_zero_of_le (Nat.le_max_left _ _)
  case stack => exact hr 2
  case header => exact hr 16
  case payload =>
    intro j h1 h7
    have hj : (BitVec.ofNat 5 (16 + j)).toNat = 16 + j := Nat.mod_eq_of_lt (by omega)
    rw [hr, hj, if_pos (by omega)]
    congr 1
    omega
  case rest =>
    intro r h2 hj
    have h16 : r ≠ 16 := fun e => by subst e; exact absurd hj (by decide)
    rw [hr, if_neg (by omega), if_neg h16, if_neg h2]
  case vectors => exact fun r => by rw [hc]; exact Vector.getElem_replicate _
  case fmt => rw [hc]; show 0x400 ||| _ = _; split <;> rfl

theorem State.trapRegs_startIn (hg : g.kind = .plain) : let k := ((s.withNet c n).startIn c x g).ctxAt c x
    k.pc = g.pc ∧ k.tcause = g.trapReg 1 ∧ k.tpc = g.trapReg 2 ∧ k.tval = g.trapReg 3 ∧ k.tmsg = g.trapReg 5 ∧ k.evCell = 0 := by
  obtain ⟨xs, hx⟩ := exists_startCtx (i := (s.coreAt c).ident) hg
  dsimp only
  rw [ctxAt_startIn, hx]
  exact ⟨rfl, rfl, rfl, rfl, rfl, rfl⟩

theorem State.net_startIn : (((s.withNet c n).startIn c x g).coreAt c).net = n := by
  rw [startIn_withNet, net_seat, net_withNet]

end

/-- A resident context that takes the slot goes on from where it stood (04 R115, R142). -/
theorem State.gives_giveSlot (s : State) (c : CoreId) (x : CtxId) : Gives (.next (s.giveSlot c x)) fun t => (t.coreAt c).slot = some x
    ∧ ((s.ctxAt c x).falls = 0 → t.ctxAt c x = { s.ctxAt c x with
        status := .running, since := s.handCycle (s.coreAt c), busy := s.handCycle (s.coreAt c) })
    ∧ ((s.ctxAt c x).falls ≠ 0 → t.ctxAt c x = { (s.ctxAt c x).retire (s.ctxAt c x).falls ((s.ctxAt c x).seq (s.ctxAt c x).falls) with
        status := .running, since := s.handCycle (s.coreAt c), busy := s.handCycle (s.coreAt c), falls := 0 })
    ∧ AllBut s t c x ∧ SameBytes s t := by
  rw [giveSlot_eq]
  refine ⟨_, rfl, slot_seat _ _ _ _, fun h => ?_, fun h => ?_, allBut_seat _ _ _ _, sameBytes_seat _ _ _ _⟩
  · rw [ctxAt_seat, Ctx.goOn, if_pos h]
  · rw [ctxAt_seat, Ctx.goOn, if_neg h]

/-- Settles O21: a handoff is one of giveSlot, startIn with a trap record or a message, and nothing, and the first two are what they leave. -/
theorem slotHandoffs : Obligations.SlotHandoffs := by
  intro s c x k hslot hrun turn starts
  simp only [exec_issueSlotHandoff, execIssueSlotHandoff]
  refine ⟨?resident, ?trap, ?mail, ?idle⟩
  case resident =>
    rintro (hr | ⟨hr, hw, rfl, hst⟩)
    · rw [State.handoff_ready hslot hrun hr]
      exact s.gives_giveSlot c x
    · have hh : s.handoff c = s.giveSlot c k.last := by
        rw [State.handoff_work hslot hrun hr, hw, Option.getD_none]
        exact if_pos hst
      rw [hh]
      exact s.gives_giveSlot c _
  case trap =>
    intro r hr hf hq
    rw [State.handoff_start hslot hrun hr hf (State.newWork_trap hq)]
    obtain ⟨hpc, hcause, htpc, hval, hmsg, -⟩ := s.trapRegs_startIn c x { k.net with trapq := markTrap k.net.trapq x }
      (g := { word := r.word, kind := .plain, src := .trapq, prio := 0, returns := 0, pc := r.pc }) rfl
    exact ⟨_, rfl, s.started_startIn c x _ rfl, hpc, hcause, htpc, hval, hmsg⟩
  case mail =>
    intro m hr hf hq hm he hp hd
    have hq' : k.net.trapq.find? (fun e => e.started.isNone) = none :=
      List.find?_eq_none.mpr fun e h => by simpa using hq e h
    rw [State.handoff_start hslot hrun hr hf (State.newWork_mail hq' hm he hd)]
    obtain ⟨hpc, hcause, htpc, hval, hmsg, hev⟩ := s.trapRegs_startIn c x { k.net with mailbox := [{ m with started := some x }] }
      (g := { word := m.word, kind := m.kind, src := .mailbox, prio := m.prio, returns := m.returns, pc := m.pc }) hp
    exact ⟨_, rfl, s.started_startIn c x _ hp, hpc, hcause, htpc, hval, hmsg, hev, congrArg Net.mailbox (s.net_startIn c x _)⟩
  case idle =>
    intro hr hw hst
    rw [State.handoff_work hslot hrun hr, hw, Option.getD_none]
    exact congrArg _ (if_neg hst)

end Sys2Proof.Machine
end

section
namespace Sys2Proof.Machine

/-! Refutations. A statement about every state is also one about states that no run reaches, in which a table is not in the form that the
operations on it keep. Each state below is the package at reset but for one such table and what it takes to come upon it. -/

/-- The state that an instruction answers. -/
def Outcome.state (o : Out) : State := match o with
  | .next t => t
  | _ => State.reset

/-- What is claimed of the answer of an instruction holds of the state that it answers. -/
theorem Gives.state {o : Out} {p : State → Prop} (h : Gives o p) : p (Outcome.state o) := by
  obtain ⟨t, rfl, hp⟩ := h
  exact hp

/-- A running launch of address space 0 with a record and cores. -/
def launchOn (record : Msg) (cores : List CoreId) : Launch :=
  { lid := 0, queue := 0, record := record, args := 0, pasid := 0, cores := cores, groups := [], phase := .running, images := [], kept := []
    inbox := [], startedAt := 0, enteredAt := 0, backfill := none, missed := false, pairIndex := none, areds := [], partnerEnded := false
    doneBy := none }

/-- The whole of address space 0 at a physical base. -/
def grantAt (pa : Nat) (write : Bool) : Grant := { pasid := 0, va := 0, log := 57, pa := pa, write := write }

/-! Taking a trap: a cleat table of the peer that is listed twice. -/

/-- A launch with a trap handler: THVALID, and THID 0. -/
def trapLaunch : Launch := launchOn (BitVec.ofNat 512 (2 ^ 480)) [0]

/-- A message started the handler. -/
def messageTrigger : Trigger := { word := 0, kind := .plain, src := .mailbox, prio := 1, returns := 0, pc := 0 }

/-- The base of the peer's memory, where the handler table of trapLaunch lies with one entry: a good handler of class 0 at 0x9000. -/
def peerEntry : Nat := 0x10000000000

/-- A reduction that waits on the cell of the entry and, once it wakes, clears the entry: AND with 0. -/
def clearingWait : Cleat :=
  .furl { dev := 0, core := 1, ctx := 0, va := 0, pa := peerEntry, chain := false, anc := (0, 0, 0), what := .red 1 1 0, issued := 0 } true true 0

/-- Context 0 of core 0 runs a handler of trapLaunch. The line of the entry has an update-only partial, its cell is UNFURLING, and the peer's
cleat table of its home is listed twice: first with a wait of this context alone, then with the reduction. -/
def listedTwice : State :=
  { State.reset.modCore 0 fun k =>
      { (k.modCtx 0 fun q => { q with status := .running, trigger := some messageTrigger }) with ident := { k.ident with lid := some 0, nhlog := 1 } } with
    launches := [trapLaunch], hostPages := [grantAt peerEntry true], peerTrained := true
    mem := Mem.write [] peerEntry (toBytes 8 0x8000000000009000)
    tags := [(peerEntry / 8, 2)]
    lines := [(peerEntry / 64, { Line.empty with u := [{ core := 2, part := 0 }], uop := 3, uw := 1 })]
    peerCleat := [(0, [.waita 0 0 0 peerEntry]), (0, [clearingWait])] }

theorem listedTwice_handler : (listedTwice.ctxAt 0 0).trigger = some messageTrigger ∧ listedTwice.launchOf 0 = some trapLaunch
    ∧ trapLaunch.field 480 480 = 1 ∧ listedTwice.handler 0 (trapLaunch.field 479 468) = some (0, 0x9000)
    ∧ (listedTwice.coreAt 0).net.trapq = [] := by decide +kernel

/-- The trap gives up the context's wait, the second listing comes to light, the trap handler's entry no longer reads as a good handler, and
no record enters the trap queue. -/
theorem listedTwice_trap : ((listedTwice.takeTrapAt 0 0 0x002 0 0).coreAt 0).net.trapq = [] := by decide +kernel

/-- Refutes O7: in listedTwice the trap record does not enter the trap queue, though the handler's entry is good when the trap is raised. The
first of two listings of one cleat table goes with the wait that the trap gives up, and what the second one holds then counts. The form that
Sparse.wf describes has no key twice. -/
theorem not_takingATrap : ¬ Obligations.TakingATrap := by
  intro h
  obtain ⟨htrig, hlaunch, hvalid, hgood, hroom⟩ := listedTwice_handler
  obtain ⟨-, -, -, ⟨w, hw, -⟩, -⟩ := h.1 listedTwice 0 0 0x002 0 0 messageTrigger trapLaunch 0 0x9000
    htrig (by decide) (by decide) hlaunch hvalid hgood (hroom ▸ by decide) nofun
  rw [listedTwice_trap] at hw
  exact List.cons_ne_nil _ _ (List.append_eq_nil_iff.mp hw.symm).2

/-! The end of a launch: an address with two grants. -/

/-- A launch without cores, whose completion word is at address 0. -/
def emptyLaunch : Launch := launchOn 0 []

/-- The whole address space is granted twice: for reading at the base of device memory, then for writing in the range of a peer that is not
trained. -/
def grantedTwice : State := { State.reset with launches := [emptyLaunch], hostPages := [grantAt 0x4000000000 false, grantAt 0x10000000000 true] }

theorem grantedTwice_word : grantedTwice.launch? emptyLaunch.lid = some emptyLaunch
    ∧ grantedTwice.cwordBad emptyLaunch.pasid (cwordOf emptyLaunch.record) = false
    ∧ grantedTwice.wordReady emptyLaunch.pasid (cwordOf emptyLaunch.record) = true
    ∧ grantedTwice.hostPhys emptyLaunch.pasid (cwordOf emptyLaunch.record) true = some 0x10000000000
    ∧ grantedTwice.openCells 0x10000000000 8 = [] := by decide +kernel

/-- The completion with the value 1 writes nothing at the physical address of the word. -/
theorem grantedTwice_completion :
    (Outcome.state (exec (.launchCompletion emptyLaunch.lid 1 none) grantedTwice)).mem.byte 0x10000000000 = 0
    ∧ (grantedTwice.mem.write 0x10000000000 (toBytes 8 (1 : Word).toNat)).byte 0x10000000000 = 1 := by decide +kernel

/-- Refutes O33: in grantedTwice cwordBad finds nothing against the completion word, for it looks at the first grant of the address; the write
goes by the first grant that allows it, which leads to a peer that is not trained, and nothing is written. A grant takes the place of those that it
meets (log 45), so that a run gives an address one grant. -/
theorem not_launchingAndEnding : ¬ Obligations.LaunchingAndEnding := by
  intro h
  obtain ⟨hl, hbad, hready, hpa, hopen⟩ := grantedTwice_word
  obtain ⟨hold, hnew⟩ := grantedTwice_completion
  have hcalm : grantedTwice.calmAll := ⟨fun _ => rfl, fun _ _ he => nomatch he⟩
  obtain ⟨-, hends, -⟩ := h.2.1 grantedTwice emptyLaunch 1 none
  obtain ⟨-, hdone⟩ := hends hl (.inl rfl)
  obtain ⟨-, -, -, hword⟩ := (hdone fun ⟨_, hw, _⟩ => nomatch hw).state
  have hb := (hword _ (fun _ hc => nomatch hc) hbad hready hpa hcalm hopen).1 0x10000000000
  exact absurd (hold.symm.trans (hb.trans hnew)) (by decide)

/-! Coherence: a directory entry whose owner is in state I. -/

/-- The directory names core 0 the owner of line 0 in state I, and its cluster a sharer. -/
def invalidOwner : State := { State.reset with lines := [(0, { Line.empty with owner := some (0, .i), sharers := 1 })] }

theorem invalidOwner_fill :
    invalidOwner.readShared 0 = false ∧ (invalidOwner.line 0).u = [] ∧ invalidOwner.lineValue 0 = true
    ∧ (invalidOwner.line 0).sharers.getLsbD ((0 : CoreId).val / 4) = true
    ∧ (Outcome.state (exec (.lineFill 0 0 .s) invalidOwner)).l1State 0 0 = .i := by decide +kernel

/-- Refutes O36: in invalidOwner a fill for a sharer leaves the line in state I, for a copy in the L1 of an owner is in the state that the
directory gives the owner. The requests of 07 R224 and R225 make owners in M, O and E alone. -/
theorem not_coherenceSnoopsAndMerging : ¬ Obligations.CoherenceSnoopsAndMerging := by
  intro h
  obtain ⟨hshared, hu, hplain, hbit, hi⟩ := invalidOwner_fill
  obtain ⟨-, -, -, -, -, -, -, -, -, -, -, -, -, -, -, hfill, -⟩ := h.1 invalidOwner 0 0 0 .none .s
  obtain ⟨-, -, -, hne⟩ := (hfill hshared hu hplain hbit).state
  exact hne hi

/-! A device-fatal error: an L1 of no core. -/

/-- The cores are numbered below 1,152, and the L1 data caches list one of that number, with line 0 stored to. -/
def strayCache : State := { State.reset with l1s := [(1152, { L1.empty with ways := [{ line := 0, way := 0, what := .own 7 true }] })] }

theorem strayCache_calmAll : strayCache.calmAll := by
  refine ⟨fun _ => rfl, fun c e he hc => ?_⟩
  rw [List.mem_singleton.mp he] at hc
  exact absurd hc (Nat.ne_of_gt c.isLt)

theorem strayCache_fatal : strayCache.mem.byte 0 = 0 ∧ (Outcome.state (exec (.deviceFatalError 0 0 0) strayCache)).mem.byte 0 = 7 := by
  decide +kernel

/-- Refutes O53: in strayCache a device-fatal error changes a byte of memory, for it writes back every L1 that is listed, and calmAll speaks of
the L1s of cores alone. -/
theorem not_packageEvents : ¬ Obligations.PackageEvents := by
  intro h
  obtain ⟨hold, hnew⟩ := strayCache_fatal
  obtain ⟨-, -, -, -, -, -, -, -, ⟨hfatal, -⟩, -⟩ := h strayCache 0 false false 0 0 0 0 0 0
  obtain ⟨-, -, -, -, -, -, hbytes, -⟩ := hfatal.state
  have hb := (hbytes strayCache_calmAll).1 0
  exact absurd (hnew.symm.trans (hb.trans hold)) (by decide)

end Sys2Proof.Machine
end

section
namespace Sys2Proof.Machine

/-! The elements of a register (05 R148, R149). -/

theorem packElems_cons (w x : Nat) (xs : List Nat) : packElems w (x :: xs) = x % 2 ^ w + 2 ^ w * packElems w xs := rfl

theorem packElems_lt (w : Nat) (xs : List Nat) : packElems w xs < 2 ^ (w * xs.length) := by
  induction xs with
  | nil => simp [packElems]
  | cons x xs ih =>
    have hx : x % 2 ^ w < 2 ^ w := Nat.mod_lt _ (Nat.two_pow_pos w)
    rw [packElems_cons, List.length_cons, Nat.mul_succ, Nat.pow_add, Nat.mul_comm (2 ^ (w * xs.length))]
    calc x % 2 ^ w + 2 ^ w * packElems w xs < 2 ^ w * (packElems w xs + 1) := by rw [Nat.mul_succ]; omega
      _ ≤ 2 ^ w * 2 ^ (w * xs.length) := Nat.mul_le_mul_left _ ih

/-- The field at place i of numbers laid side by side is the i-th one, and 0 beyond the last. -/
theorem packElems_field (w : Nat) (xs : List Nat) (i : Nat) : packElems w xs / 2 ^ (i * w) % 2 ^ w = xs.getD i 0 % 2 ^ w := by
  induction xs generalizing i with
  | nil => simp [packElems]
  | cons x xs ih =>
    rw [packElems_cons]
    cases i with
    | zero => simp
    | succ i =>
      have hx : x % 2 ^ w < 2 ^ w := Nat.mod_lt _ (Nat.two_pow_pos w)
      rw [Nat.succ_mul, Nat.add_comm (i * w), Nat.pow_add, ← Nat.div_div_eq_div_mul, Nat.add_mul_div_left _ _ (Nat.two_pow_pos w),
        Nat.div_eq_of_lt hx, Nat.zero_add, ih, List.getD_cons_succ]

theorem elem_eq (v : Msg) (w i : Nat) : elem v w i = v.toNat / 2 ^ (i * w) % 2 ^ w := by rw [elem, Nat.shiftRight_eq_div_pow]

theorem elem_lt (v : Msg) (w i : Nat) : elem v w i < 2 ^ w := Nat.mod_lt _ (Nat.two_pow_pos w)

@[simp] theorem elem_mod (v : Msg) (w i : Nat) : elem v w i % 2 ^ w = elem v w i := Nat.mod_eq_of_lt (elem_lt v w i)

theorem toNat_ofElems {w : Nat} {xs : List Nat} (h : w * xs.length ≤ 512) : (ofElems w xs).toNat = packElems w xs := by
  rw [ofElems, BitVec.toNat_ofNat]
  exact Nat.mod_eq_of_lt ((packElems_lt w xs).trans_le (Nat.pow_le_pow_right Nat.two_pos h))

/-- A register made of elements reads them back. -/
theorem elem_ofElems {w : Nat} {xs : List Nat} (h : w * xs.length ≤ 512) (i : Nat) : elem (ofElems w xs) w i = xs.getD i 0 % 2 ^ w := by
  rw [elem_eq, toNat_ofElems h, packElems_field]

theorem getD_map_range (n : Nat) (f : Nat → Nat) (i : Nat) : ((List.range n).map f).getD i 0 = if i < n then f i else 0 := by
  split
  next h => simp [h]
  next h => rw [List.getD_eq_default]; simpa using h

theorem elem_ofElems_range {w n : Nat} (h : w * n ≤ 512) (f : Nat → Nat) (i : Nat) :
    elem (ofElems w ((List.range n).map f)) w i = if i < n then f i % 2 ^ w else 0 := by
  rw [elem_ofElems (by simpa using h), getD_map_range]
  split
  · rfl
  · exact Nat.zero_mod _

/-- Elements count modulo 2^w. -/
theorem packElems_congr {w : Nat} {xs ys : List Nat} (h : xs.map (· % 2 ^ w) = ys.map (· % 2 ^ w)) : packElems w xs = packElems w ys := by
  have key : ∀ zs : List Nat, packElems w zs = (zs.map (· % 2 ^ w)).foldr (fun x acc => x + 2 ^ w * acc) 0 := fun zs => by
    rw [List.foldr_map]
    rfl
  rw [key, key, h]

theorem ofElems_range_congr {w n : Nat} {f g : Nat → Nat} (h : ∀ i, i < n → f i % 2 ^ w = g i % 2 ^ w) :
    ofElems w ((List.range n).map f) = ofElems w ((List.range n).map g) := by
  rw [ofElems, ofElems, packElems_congr]
  simp only [List.map_map]
  exact List.map_congr_left fun i hi => h i (List.mem_range.mp hi)

theorem elem_maskedElems {w n : Nat} (h : w * n ≤ 512) (k : Word) (old : Msg) (f : Nat → Nat) {i : Nat} (hi : i < n) :
    elem (maskedElems w n k old f) w i = if k.getLsbD i then f i % 2 ^ w else elem old w i := by
  rw [maskedElems, elem_ofElems_range h, if_pos hi]
  split
  · rfl
  · exact elem_mod _ _ _

theorem maskedElems_congr {w n : Nat} {k : Word} {old : Msg} {f g : Nat → Nat} (h : ∀ i, i < n → f i % 2 ^ w = g i % 2 ^ w) :
    maskedElems w n k old f = maskedElems w n k old g :=
  ofElems_range_congr fun i hi => by
    split
    · exact h i hi
    · rfl

/-- A mask made of tests reads them back (05 R158). -/
theorem getLsbD_packMask {n i : Nat} (hn : n ≤ 64) (f : Nat → Nat) :
    (BitVec.ofNat 64 (packElems 1 ((List.range n).map f))).getLsbD i = (decide (i < n) && decide (f i % 2 = 1)) := by
  have hlt : packElems 1 ((List.range n).map f) < 2 ^ 64 :=
    (packElems_lt 1 _).trans_le (Nat.pow_le_pow_right (by decide) (by simpa using hn))
  have hf := packElems_field 1 ((List.range n).map f) i
  rw [getD_map_range] at hf
  rw [← BitVec.testBit_toNat, BitVec.toNat_ofNat, Nat.mod_eq_of_lt hlt, Nat.testBit_eq_decide_div_mod_eq]
  simp only [Nat.mul_one, pow_one] at hf
  rw [hf]
  split
  next h => simp [h]
  next h => simp [h]

theorem getLsbD_maskOf {n i : Nat} (hn : n ≤ 64) (p : Nat → Bool) : (maskOf n p).getLsbD i = (decide (i < n) && p i) := by
  rw [maskOf, getLsbD_packMask hn]
  cases p i <;> simp

/-! Widths and formats. -/

theorem lanesOf_eq (w : BitVec 2) : lanesOf w = 512 / (8 * 2 ^ w.toNat) := by revert w; decide

theorem lanesOf_le (w : BitVec 2) : lanesOf w ≤ 64 := by revert w; decide

theorem widthOf_mul_lanesOf (w : BitVec 2) : widthOf w * lanesOf w = 512 := by revert w; decide

/-- A floating-point format that the vector instructions take (05 R159), and its code. -/
def VecFormat (w : BitVec 2) (f : Fp) : Prop := (w = 0 ∧ f = bf16) ∨ (w = 1 ∧ f = fp16) ∨ (w = 2 ∧ f = fp32)

section
variable {w : BitVec 2} {f : Fp}

theorem VecFormat.vecFp (h : VecFormat w f) : vecFp w = f := by
  rcases h with ⟨rfl, rfl⟩ | ⟨rfl, rfl⟩ | ⟨rfl, rfl⟩ <;> rfl

theorem VecFormat.width_mul_lanes (h : VecFormat w f) : f.width * f.lanes = 512 := by
  rcases h with ⟨-, rfl⟩ | ⟨-, rfl⟩ | ⟨-, rfl⟩ <;> rfl

theorem VecFormat.lanes_le (h : VecFormat w f) : f.lanes ≤ 64 := by
  rcases h with ⟨-, rfl⟩ | ⟨-, rfl⟩ | ⟨-, rfl⟩ <;> decide

end

/-! Registers that an instruction writes. -/

section
variable {s : State} {issue : Nat}

/-- A context while an instruction of it ends: its next issue is in cycle u. -/
def Ctx.issuing (c : Ctx) (u : Nat) : Ctx := { c with busy := u }

@[simp] theorem Ctx.rx_issuing (c : Ctx) (u : Nat) (r : BitVec 5) : (c.issuing u).rx r = c.rx r := rfl
@[simp] theorem Ctx.rv_issuing (c : Ctx) (u : Nat) (r : BitVec 5) : (c.issuing u).rv r = c.rv r := rfl
@[simp] theorem Ctx.rk_issuing (c : Ctx) (u : Nat) (r : BitVec 3) : (c.issuing u).rk r = c.rk r := rfl
@[simp] theorem Ctx.rm_issuing (c : Ctx) (u : Nat) : (c.issuing u).rm = c.rm := rfl
@[simp] theorem Ctx.xt_issuing (c : Ctx) (u : Nat) : (c.issuing u).xt = c.xt := rfl
@[simp] theorem Ctx.satd_issuing (c : Ctx) (u : Nat) : (c.issuing u).satd = c.satd := rfl

theorem setWidth_noFlags : (0 : Flags).setWidth 64 = (0#64 : Word) := rfl

/-- v[d] written, and flags added. -/
theorem vfWritten_ctxStep {d : BitVec 5} {g : Ctx → Msg} {h : Ctx → Flags} {w : Msg} {fl : Flags} (hg : ∀ u, g (s.ctx.issuing u) = w)
    (hh : ∀ u, h (s.ctx.issuing u) = fl) : VfWritten s d w fl (ctxStep 4 issue (fun c => (c.wv d (g c)).addFlags (h c)) s) := by
  refine registerOnly_ctxStep (fun u => (Ctx.wrote_wv _ _ _).trans (Ctx.wrote_addFlags _ _)) (fun u r => rfl) (fun u r => ?_) (fun u r => rfl)
    (fun u => ?_)
  · exact (Ctx.rv_wv _ _ _ _).trans (congrArg (fun m => s.ctx.withV d m r) (hg u))
  · exact congrArg (fun fl : Flags => s.ctx.fmt ||| fl.setWidth 64) (hh u)

/-- v[d] written with no flag. -/
theorem vfWritten_zero {d : BitVec 5} {w : Msg} {o : Out} : VfWritten s d w 0 o ↔ VWritten s d w o := by
  rw [VfWritten, VWritten, setWidth_noFlags, BitVec.or_zero]

/-- k[d] written, and flags added. -/
theorem kWritten_ctxStep {d : BitVec 3} {g : Ctx → Word} {h : Ctx → Flags} {w : Word} {fl : Flags} (hg : ∀ u, g (s.ctx.issuing u) = w)
    (hh : ∀ u, h (s.ctx.issuing u) = fl) : KWritten s d w fl (ctxStep 4 issue (fun c => (c.wk d (g c)).addFlags (h c)) s) := by
  refine registerOnly_ctxStep (fun u => (Ctx.wrote_wk _ _ _).trans (Ctx.wrote_addFlags _ _)) (fun u r => ?_) (fun u r => ?_) (fun u r => ?_)
    (fun u => ?_)
  · rw [Ctx.rx_addFlags, Ctx.rx_wk]; rfl
  · rw [Ctx.rv_addFlags, Ctx.rv_wk]; rfl
  · exact (Ctx.rk_wk _ _ _ _).trans (congrArg (fun m => s.ctx.withK d m r) (hg u))
  · exact (Ctx.fmt_addFlags _ _).trans (congrArg₂ (fun (m : Word) (fl : Flags) => m ||| fl.setWidth 64) (Ctx.fmt_wk _ _ _) (hh u))

/-- k[d] written with no flag. -/
theorem kWritten_ctxStep_zero {d : BitVec 3} {g : Ctx → Word} {w : Word} (hg : ∀ u, g (s.ctx.issuing u) = w) :
    KWritten s d w 0 (ctxStep 4 issue (fun c => c.wk d (g c)) s) := by
  refine registerOnly_ctxStep (fun u => Ctx.wrote_wk _ _ _) (fun u r => ?_) (fun u r => ?_) (fun u r => ?_) (fun u => ?_)
  · rw [Ctx.rx_wk]; rfl
  · rw [Ctx.rv_wk]; rfl
  · exact (Ctx.rk_wk _ _ _ _).trans (congrArg (fun m => s.ctx.withK d m r) (hg u))
  · rw [Ctx.fmt_wk, setWidth_noFlags, BitVec.or_zero]

end

/-! Scalar floating point (04 R132 to R135). -/

theorem ite_precFp (p : BitVec 1) : (if p = 0 then fp32 else fp64) = precFp p := rfl

theorem ite_precFp_not (p : BitVec 1) : (if p = 0 then fp64 else fp32) = precFp (~~~p) := by revert p; decide

theorem mod_ite_fpBits (p : BitVec 1) (x : Word) : x.toNat % (if p = 0 then 2 ^ 32 else 2 ^ 64) = fpBits p x := by
  unfold fpBits precFp
  split <;> rfl

theorem sigFlag_pair (x y : FVal) : sigFlag [x, y] = if x.isSig || y.isSig then flagNV else 0 := by simp [sigFlag]

theorem fpEq_eq (x y : FVal) : fpEq x y = (if x.eqv y then 1 else 0, if x.isSig || y.isSig then flagNV else 0) := Prod.ext rfl (sigFlag_pair x y)

/-- x[d] written from x[a] and x[b] as floating-point values. -/
theorem fpWritten_fpRR {s : State} {op : Fp → BitVec 2 → FVal → FVal → Nat × Flags} {d a b : BitVec 5} {p : BitVec 1} {r : Nat × Flags}
    (h : op (precFp p) s.ctx.rm ((precFp p).value (fpBits p (s.ctx.rx a))) ((precFp p).value (fpBits p (s.ctx.rx b))) = r) :
    FpWritten s 4 d r (fpRR op d a b p s) :=
  fpWritten_ctxStep (g := fun c => op (precFp p) c.rm ((precFp p).value (fpBits p (c.rx a))) ((precFp p).value (fpBits p (c.rx b)))) fun _ => h

/-- Settles O3: each instruction is one write of x[d] and of the flags, in the format and from the operands stated. -/
theorem scalarFloatOps : Obligations.ScalarFloatOps := by
  intro s d a b p
  simp only [ite_precFp, ite_precFp_not, mod_ite_fpBits, exec_fadd, exec_fsub, exec_fmul, exec_fdiv, exec_fsqrt, exec_fmin, exec_fmax, exec_fma,
    exec_feq, exec_flt, exec_fle, exec_fclass, exec_ftoi, exec_ftoiu, exec_itof, exec_iutof, exec_ftof]
  exact ⟨fpWritten_fpRR rfl, fpWritten_fpRR rfl, fpWritten_fpRR rfl, fpWritten_fpRR rfl, fpWritten_ctxStep fun _ => rfl,
    fpWritten_ctxStep fun _ => rfl, fpWritten_ctxStep fun _ => rfl, fpWritten_ctxStep fun _ => rfl, fpWritten_fpRR (fpEq_eq _ _), fpWritten_fpRR rfl,
    fpWritten_fpRR rfl, xWritten_ctxStep fun _ => rfl, fpWritten_ctxStep fun _ => rfl, fpWritten_ctxStep fun _ => rfl,
    fpWritten_ctxStep fun _ => rfl, fpWritten_ctxStep fun _ => rfl, fpWritten_ctxStep fun _ => rfl⟩

end Sys2Proof.Machine
end

section
namespace Sys2Proof.Machine

/-! Elements by the vector instructions' own schemes (05 R149, R158, R159). -/

section
variable {s : State} {d : BitVec 5} {k : BitVec 3}

/-- A register made of masked elements is written element by element. -/
theorem elements_vecElems {w n : Nat} {f : Ctx → Nat → Nat} {g : Nat → Nat} (hn : w * n ≤ 512)
    (h : ∀ u i, i < n → f (s.ctx.issuing u) i % 2 ^ w = g i % 2 ^ w) : Elements s d w n k g 0 (vecElems w n d k f s) :=
  ⟨maskedElems w n (s.ctx.rk k) (s.ctx.rv d) g, fun _ hi => elem_maskedElems hn _ _ _ hi,
    vfWritten_zero.mpr (vWritten_ctxStep fun u => maskedElems_congr (h u))⟩

/-- The flags of results of which the inactive ones have none. -/
theorem allFlags_masked (n : Nat) (r : Nat → Nat × Flags) (e : Nat → Nat) :
    allFlags ((List.range n).map fun i => if (s.ctx.rk k).getLsbD i then r i else (e i, 0)) = flagsOver s n k fun i => (r i).2 := by
  rw [allFlags, flagsOver, List.foldl_map]
  refine List.foldl_ext _ _ _ fun a i _ => ?_
  split
  · rfl
  · exact BitVec.or_zero

/-- The floating-point elements of a register, and the flags of the active ones. -/
theorem elements_vecFpElems {w : BitVec 2} {f : Fp} {g : Fp → Ctx → Nat → Nat × Flags} {r : Nat → Nat × Flags} (hf : VecFormat w f)
    (h : ∀ u i, (g f (s.ctx.issuing u) i).1 % 2 ^ f.width = (r i).1 % 2 ^ f.width ∧ (g f (s.ctx.issuing u) i).2 = (r i).2) :
    Elements s d f.width (512 / f.width) k (fun i => (r i).1) (flagsOver s (512 / f.width) k fun i => (r i).2) (vecFpElems d k w g s) := by
  refine ⟨maskedElems f.width f.lanes (s.ctx.rk k) (s.ctx.rv d) fun i => (r i).1,
    fun _ hi => elem_maskedElems hf.width_mul_lanes.le _ _ _ hi, vfWritten_ctxStep (fun u => ?_) fun u => ?_⟩
  · rw [hf.vecFp, List.map_map]
    refine ofElems_range_congr fun i _ => ?_
    change (if (s.ctx.rk k).getLsbD i then g f (s.ctx.issuing u) i else (elem (s.ctx.rv d) f.width i, 0)).1 % 2 ^ f.width = _
    split
    · exact (h u i).1
    · rfl
  · rw [hf.vecFp]
    exact (allFlags_masked _ _ _).trans (congrArg (flagsOver s _ k) (funext fun i => (h u i).2))

end

/-! Vector floating point (05 R159 to R161). -/

/-- The sign of an encoding is that of its highest bit. -/
theorem Fp.signOf_eq (f : Fp) {x : Nat} (h : x < 2 ^ f.width) : f.signOf x = !decide (x < 2 ^ (f.width - 1)) := by
  have hw : f.width = f.eb + f.mb + 1 := by unfold Fp.width; omega
  have hp := Nat.two_pow_pos (f.eb + f.mb)
  rw [hw, Nat.pow_succ] at h
  rw [Fp.signOf, bitsOf, hw, Nat.add_sub_cancel_left, Nat.shiftRight_eq_div_pow, Nat.add_sub_cancel, pow_one]
  by_cases hx : x < 2 ^ (f.eb + f.mb)
  · rw [Nat.div_eq_of_lt hx]; simp [hx]
  · have : x / 2 ^ (f.eb + f.mb) = 1 := by
      rw [Nat.div_eq_iff hp]
      omega
    rw [this]
    simp [hx]

theorem Fp.setSign_eq (f : Fp) (x : Nat) (neg : Bool) :
    f.setSign x neg = if (f.value x).isNan then f.nan else x % 2 ^ (f.width - 1) + if neg then 2 ^ (f.width - 1) else 0 := by
  have hw : f.width - 1 = f.eb + f.mb := by unfold Fp.width; omega
  rw [Fp.setSign, Fp.withSign, hw]
  cases neg
  · simp
  · simp [Nat.add_comm]

/-- Settles O25: each instruction is one register of masked floating-point elements, with the flags of the active ones. -/
theorem vectorFloatOps : Obligations.VectorFloatOps := by
  intro s d a b k w f hf n bit val rm op signed
  have same : ∀ {g : Fp → Ctx → Nat → Nat × Flags} {r : Nat → Nat × Flags}, (∀ u i, g f (s.ctx.issuing u) i = r i) →
      op r (vecFpElems d k w g s) := fun hg => elements_vecFpElems hf fun u i => by rw [hg u i]; exact ⟨rfl, rfl⟩
  have hneg : ∀ i, (!f.signOf (bit a i)) = decide (bit a i < 2 ^ (f.width - 1)) := fun i => by
    rw [Fp.signOf_eq f (elem_lt _ _ _), Bool.not_not]
  simp only [exec_vfadd, exec_vfsub, exec_vfmul, exec_vfma, exec_vfnma, exec_vfmin, exec_vfmax, exec_vfabs, exec_vfneg, exec_vfrcpe, exec_vfrsqrte,
    exec_vfclass]
  exact ⟨same fun _ _ => rfl, same fun _ _ => rfl, same fun _ _ => rfl, same fun _ _ => rfl, same fun _ _ => rfl, same fun _ _ => rfl,
    same fun _ _ => rfl, same fun _ i => Prod.ext (Fp.setSign_eq f (bit a i) false) rfl,
    same fun _ i => Prod.ext ((Fp.setSign_eq f (bit a i) (!f.signOf (bit a i))).trans (by rw [hneg])) rfl,
    same fun _ _ => rfl, same fun _ _ => rfl, same fun _ _ => rfl⟩

end Sys2Proof.Machine
end

section
namespace Sys2Proof.Machine

/-! Counts and signs of words. -/

theorem cpopNatRec_eq {w : Nat} (x : BitVec w) (n acc : Nat) : x.cpopNatRec n acc = acc + ((List.range n).filter fun i => x.getLsbD i).length := by
  induction n generalizing acc with
  | zero => simp
  | succ n ih =>
    rw [BitVec.cpopNatRec_succ, ih, List.range_succ, List.filter_append, List.length_append]
    cases h : x.getLsbD n <;> simp [h]; omega

theorem popCount_eq (x : Word) : BitVec.ofNat 64 (popCount x) = x.cpop := by
  rw [BitVec.cpop, cpopNatRec_eq, Nat.zero_add, popCount]

theorem trailingZeros_eq (x : Word) : BitVec.ofNat 64 (trailingZeros x) = x.ctz := by
  refine BitVec.eq_of_toNat_eq ?_
  by_cases hx : x = 0#64
  · subst hx
    have hz : ((List.range 64).find? fun i => (0#64).getLsbD i) = none := List.find?_eq_none.mpr fun i _ => by rw [BitVec.getLsbD_zero]; decide
    rw [trailingZeros, hz, BitVec.ctz, BitVec.reverse_eq_zero_iff.mpr rfl, BitVec.clz_eq_iff_eq_zero.mpr rfl]
    rfl
  have hlt : x.ctz.toNat < 64 := by simpa [BitVec.lt_def] using BitVec.ctz_lt_iff_ne_zero.mpr hx
  have hfind : ((List.range 64).find? fun i => x.getLsbD i) = some x.ctz.toNat := by
    rw [List.find?_range_eq_some]
    refine ⟨BitVec.getLsbD_true_ctz_of_ne_zero hx, List.mem_range.mpr hlt, fun j hj => ?_⟩
    rw [BitVec.getLsbD_false_of_lt_ctz hj]
    rfl
  rw [trailingZeros, hfind, Option.getD_some, BitVec.ofNat_toNat, BitVec.setWidth_eq]

theorem toSigned_eq (w x : Nat) : toSigned w x = (BitVec.ofNat w x).toInt := by
  rw [toSigned, BitVec.toInt_eq_toNat_cond, BitVec.toNat_ofNat]
  cases w with
  | zero => simp [Nat.mod_one]
  | succ w =>
    rw [Nat.add_sub_cancel, Nat.pow_succ, Nat.mul_comm (2 ^ w) 2]
    simp only [Nat.mul_lt_mul_left (show 0 < 2 from Nat.two_pos)]
    push_cast
    rw [pow_succ, mul_comm ((2 : Int) ^ w) 2]

theorem ofSigned_eq (w : Nat) (x : Int) : ofSigned w x = (BitVec.ofInt w x).toNat := by
  rw [ofSigned, BitVec.toNat_ofInt]
  push_cast
  rfl

@[simp] theorem toNat_ofNat_elem (v : Msg) (w i : Nat) : (BitVec.ofNat w (elem v w i)).toNat = elem v w i := by
  rw [BitVec.toNat_ofNat, elem_mod]

/-- An element is a number of its width when it has that number's bits. -/
theorem elem_eq_toNat_iff {v : Msg} {w i : Nat} {y : BitVec w} : elem v w i = y.toNat ↔ BitVec.ofNat w (elem v w i) = y := by
  rw [← BitVec.toNat_inj, toNat_ofNat_elem]

theorem imm5_eq (i : BitVec 5) (w : BitVec 2) : imm5 i w = (BitVec.ofInt (8 * 2 ^ w.toNat) i.toInt).toNat := ofSigned_eq _ _

theorem boolWord_bne_zero (x : Word) : boolWord (x != 0) = if x = 0 then 0 else 1 := by
  rw [boolWord, bne, ← ite_not]
  simp

/-! Comparisons (05 R157, R158). -/

section
variable {s : State} {d : BitVec 3} {k : BitVec 3} {a b : BitVec 5} {w : BitVec 2}

theorem tested_maskOf {n : Nat} {p : Ctx → Nat → Bool} {q : Nat → Bool} (hn : n ≤ 64)
    (h : ∀ u i, p (s.ctx.issuing u) i = ((s.ctx.rk k).getLsbD i && q i)) : Tested s d n k q 0 (ctxStep 4 1 (fun c => c.wk d (maskOf n (p c))) s) :=
  ⟨maskOf n fun i => (s.ctx.rk k).getLsbD i && q i, fun i _ => by rw [getLsbD_maskOf hn, Bool.and_assoc],
    kWritten_ctxStep_zero fun u => congrArg (maskOf n) (funext (h u))⟩

theorem tested_vecCmp {p : Nat → Nat → Nat → Bool} {q : Nat → Bool}
    (h : ∀ i, p (8 * 2 ^ w.toNat) (elem (s.ctx.rv a) (8 * 2 ^ w.toNat) i) (elem (s.ctx.rv b) (8 * 2 ^ w.toNat) i) = q i) :
    Tested s d (512 / (8 * 2 ^ w.toNat)) k q 0 (vecCmp p d a b k w s) := by
  rw [← lanesOf_eq]
  exact tested_maskOf (lanesOf_le w) fun _ i => congrArg _ (h i)

theorem tested_vecCmpI {p : Nat → Nat → Nat → Bool} {q : Nat → Bool} {i : BitVec 5}
    (h : ∀ j, p (8 * 2 ^ w.toNat) (elem (s.ctx.rv a) (8 * 2 ^ w.toNat) j) (imm5 i w) = q j) :
    Tested s d (512 / (8 * 2 ^ w.toNat)) k q 0 (vecCmpI p d a i k w s) := by
  rw [← lanesOf_eq]
  exact tested_maskOf (lanesOf_le w) fun _ j => congrArg _ (h j)

/-- A comparison of numbers: the mask of those that meet it, and the flags of the active ones. -/
theorem tested_vecFpCmp {f : Fp} {p : FVal → FVal → Nat × Flags} {q : Nat → Bool} {fl : Nat → Flags} (hf : VecFormat w f)
    (h : ∀ i, p (vecVal f (s.ctx.rv a) i) (vecVal f (s.ctx.rv b) i) = (if q i then 1 else 0, fl i)) :
    Tested s d (512 / f.width) k q (flagsOver s (512 / f.width) k fl) (vecFpCmp p d a b k w s) := by
  have hr : ∀ u i, (if (((s.ctx.issuing u).rk k).getLsbD i) then p (vecVal f ((s.ctx.issuing u).rv a) i) (vecVal f ((s.ctx.issuing u).rv b) i) else (0, 0))
      = if (s.ctx.rk k).getLsbD i then (if q i then 1 else 0, fl i) else (0, 0) := fun u i => congrArg (fun r => ite _ r _) (h i)
  refine ⟨BitVec.ofNat 64 (packElems 1 ((List.range f.lanes).map fun i => (if (s.ctx.rk k).getLsbD i then (if q i then 1 else 0, fl i) else (0, 0)).1)),
    fun i _ => ?_, kWritten_ctxStep (fun u => ?_) fun u => ?_⟩
  · rw [getLsbD_packMask hf.lanes_le, Bool.and_assoc]
    cases (s.ctx.rk k).getLsbD i <;> cases q i <;> rfl
  · rw [hf.vecFp, List.map_map]
    exact congrArg (fun g => BitVec.ofNat 64 (packElems 1 ((List.range f.lanes).map g))) (funext fun i => congrArg Prod.fst (hr u i))
  · rw [hf.vecFp]
    exact (congrArg (fun g => allFlags ((List.range f.lanes).map g)) (funext (hr u))).trans
      (allFlags_masked f.lanes (fun i => (if q i then 1 else 0, fl i)) fun _ => 0)

end

/-- The comparisons of O26 on integers. -/
theorem integerComparisons (s : State) (d k : BitVec 3) (a b i : BitVec 5) (w : BitVec 2) :
    let W := 8 * 2 ^ w.toNat
    let x := fun j => BitVec.ofNat W (elem (s.ctx.rv a) W j)
    let y := fun j => BitVec.ofNat W (elem (s.ctx.rv b) W j)
    let im : BitVec W := BitVec.ofInt W i.toInt
    let t := fun (p : Nat → Bool) (o : Out) => Tested s d (512 / W) k p 0 o
    t (fun j => decide (x j = y j)) (exec (.vceq d a b k w) s) ∧ t (fun j => decide (x j ≠ y j)) (exec (.vcne d a b k w) s)
    ∧ t (fun j => decide ((x j).toInt < (y j).toInt)) (exec (.vclt d a b k w) s) ∧ t (fun j => decide ((x j).toInt ≤ (y j).toInt)) (exec (.vcle d a b k w) s)
    ∧ t (fun j => decide ((x j).toNat < (y j).toNat)) (exec (.vcltu d a b k w) s) ∧ t (fun j => decide ((x j).toNat ≤ (y j).toNat)) (exec (.vcleu d a b k w) s)
    ∧ t (fun j => decide (x j = im)) (exec (.vceqi d a i k w) s) ∧ t (fun j => decide ((x j).toInt < im.toInt)) (exec (.vclti d a i k w) s) := by
  intro W x y im t
  have hxy : ∀ j, elem (s.ctx.rv a) W j = elem (s.ctx.rv b) W j ↔ x j = y j := fun j => by
    rw [← elem_eq_toNat_iff, toNat_ofNat_elem]
  simp only [t, exec_vceq, exec_vcne, exec_vclt, exec_vcle, exec_vcltu, exec_vcleu, exec_vceqi, exec_vclti]
  refine ⟨tested_vecCmp fun j => ?_, tested_vecCmp fun j => ?_, tested_vecCmp fun j => ?_, tested_vecCmp fun j => ?_, tested_vecCmp fun j => ?_,
    tested_vecCmp fun j => ?_, tested_vecCmpI fun j => ?_, tested_vecCmpI fun j => ?_⟩
  · exact decide_eq_decide.mpr (hxy j)
  · exact (congrArg (! ·) (decide_eq_decide.mpr (hxy j))).trans decide_not.symm
  · rw [toSigned_eq, toSigned_eq]
  · rw [toSigned_eq, toSigned_eq]
  · rw [toNat_ofNat_elem, toNat_ofNat_elem]
  · rw [toNat_ofNat_elem, toNat_ofNat_elem]
  · rw [imm5_eq]
    exact decide_eq_decide.mpr elem_eq_toNat_iff
  · rw [imm5_eq, toSigned_eq, toSigned_eq, BitVec.ofNat_toNat, BitVec.setWidth_eq]

/-! Permutations (05 R162). -/

theorem lanesOf_even (w : BitVec 2) : 2 * (lanesOf w / 2) = lanesOf w := by revert w; decide

/-- Elements at the width and number of lanes of a width code. -/
theorem elements_width {s : State} {d : BitVec 5} {k : BitVec 3} {w : BitVec 2} {f : Ctx → Nat → Nat} {g : Nat → Nat}
    (h : ∀ u i, f (s.ctx.issuing u) i = g i) : Elements s d (widthOf w) (lanesOf w) k g 0 (vecElems (widthOf w) (lanesOf w) d k f s) :=
  elements_vecElems (widthOf_mul_lanesOf w).le fun u i _ => congrArg (· % 2 ^ widthOf w) (h u i)

theorem ofInt_toSigned (n w x : Nat) : BitVec.ofInt n (toSigned w x) = (BitVec.ofNat w x).signExtend n := congrArg _ (toSigned_eq w x)

theorem zipElem_eq (w h : Nat) (a b : Msg) (i : Nat) : zipElem w h a b i = if i % 2 = 0 then elem a w (h + i / 2) else elem b w (h + i / 2) :=
  apply_ite (fun v => elem v w (h + i / 2)) _ _ _

theorem zipElem_zero (w : Nat) (a b : Msg) (i : Nat) : zipElem w 0 a b i = if i % 2 = 0 then elem a w (i / 2) else elem b w (i / 2) := by
  rw [zipElem_eq, Nat.zero_add]

theorem unzipElem_eq {n : Nat} (hn : 2 * (n / 2) = n) (w h : Nat) (a b : Msg) (i : Nat) :
    unzipElem w n h a b i = if i < n / 2 then elem a w (2 * i + h) else elem b w (2 * (i - n / 2) + h) := by
  rw [unzipElem, Nat.mul_sub, hn]

theorem elem_vins (w : BitVec 2) (c x : Nat) (v : Msg) {i : Nat} (hi : i < lanesOf w) :
    elem (ofElems (widthOf w) ((List.range (lanesOf w)).map fun i => if i = c then x else elem v (widthOf w) i)) (widthOf w) i
      = if i = c then x % 2 ^ widthOf w else elem v (widthOf w) i := by
  rw [elem_ofElems_range (widthOf_mul_lanesOf w).le, if_pos hi]
  split
  · rfl
  · exact elem_mod _ _ _

/-- The permutations of O26. -/
theorem permutations (s : State) (d a b : BitVec 5) (k : BitVec 3) (w : BitVec 2) :
    let x := fun j => elem (s.ctx.rv a) (widthOf w) j
    let y := fun j => elem (s.ctx.rv b) (widthOf w) j
    let n := lanesOf w
    let c := (s.ctx.rx b).toNat
    let op := fun (f : Nat → Nat) (o : Out) => Elements s d (widthOf w) n k f 0 o
    op (fun j => if y j < n then x (y j) else 0) (exec (.vperm d a b k w) s) ∧ op (fun _ => (s.ctx.rx a).toNat) (exec (.vbcast d a k w) s)
    ∧ XWritten s 4 d (if c < n then (BitVec.ofNat (widthOf w) (x c)).signExtend 64 else 0) (exec (.vext d a b w) s)
    ∧ (∃ r, VWritten s d r (exec (.vins d a b w) s)
        ∧ ∀ j, j < n → elem r (widthOf w) j = if j = c then (s.ctx.rx a).toNat % 2 ^ widthOf w else elem (s.ctx.rv d) (widthOf w) j)
    ∧ op (fun j => if c ≤ j then x (j - c) else elem (s.ctx.rv d) (widthOf w) j) (exec (.vslideup d a b k w) s)
    ∧ op (fun j => if j + c < n then x (j + c) else 0) (exec (.vslidedn d a b k w) s)
    ∧ op (fun j => if j % 2 = 0 then x (j / 2) else y (j / 2)) (exec (.vziplo d a b k w) s)
    ∧ op (fun j => if j % 2 = 0 then x (n / 2 + j / 2) else y (n / 2 + j / 2)) (exec (.vziphi d a b k w) s)
    ∧ op (fun j => if j < n / 2 then x (2 * j) else y (2 * (j - n / 2))) (exec (.vunziplo d a b k w) s)
    ∧ op (fun j => if j < n / 2 then x (2 * j + 1) else y (2 * (j - n / 2) + 1)) (exec (.vunziphi d a b k w) s) := by
  intro x y n c op
  simp only [op, exec_vperm, exec_vbcast, exec_vext, exec_vins, exec_vslideup, exec_vslidedn, exec_vziplo, exec_vziphi, exec_vunziplo, exec_vunziphi]
  exact ⟨elements_width fun _ _ => rfl, elements_width fun _ _ => rfl, xWritten_ctxStep fun _ => congrArg (ite _ · _) (ofInt_toSigned _ _ _),
    ⟨_, vWritten_ctxStep fun _ => rfl, fun _ hj => elem_vins w c _ _ hj⟩, elements_width fun _ _ => rfl, elements_width fun _ _ => rfl,
    elements_width fun _ _ => zipElem_zero _ _ _ _, elements_width fun _ _ => zipElem_eq _ _ _ _ _,
    elements_width fun _ _ => unzipElem_eq (lanesOf_even w) _ 0 _ _ _, elements_width fun _ _ => unzipElem_eq (lanesOf_even w) _ 1 _ _ _⟩

/-- Settles O26: a comparison writes the mask of its test, a mask instruction one register, and a permutation the elements of a function. -/
theorem comparisonsMasksPermutes : Obligations.ComparisonsMasksPermutes := by
  refine ⟨fun s d k a b i w => ⟨integerComparisons s d k a b i w, fun f hf => ?_⟩, fun s d a b e f => ?_, fun s d a b k w => ?_⟩
  · simp only [exec_vfceq, exec_vfclt, exec_vfcle, exec_vfcun]
    exact ⟨tested_vecFpCmp hf fun i => fpEq_eq _ _, tested_vecFpCmp hf fun i => rfl, tested_vecFpCmp hf fun i => rfl,
      tested_vecFpCmp hf fun i => Prod.ext rfl (sigFlag_pair _ _)⟩
  · simp only [exec_kand, exec_kor, exec_kxor, exec_knot, exec_kmov, exec_kfromx, exec_kpopc, exec_kfirst, exec_kany, exec_ktox]
    exact ⟨kWritten_ctxStep_zero fun _ => rfl, kWritten_ctxStep_zero fun _ => rfl, kWritten_ctxStep_zero fun _ => rfl,
      kWritten_ctxStep_zero fun _ => rfl, kWritten_ctxStep_zero fun _ => rfl, kWritten_ctxStep_zero fun _ => rfl,
      xWritten_ctxStep fun _ => popCount_eq _, xWritten_ctxStep fun _ => trailingZeros_eq _, xWritten_ctxStep fun _ => boolWord_bne_zero _,
      xWritten_ctxStep fun _ => rfl⟩
  · simp only [← lanesOf_eq]
    exact permutations s d a b k w

end Sys2Proof.Machine
end

section
namespace Sys2Proof.Machine

/-! Reductions (05 R163, R164). -/

/-- The least of numbers that the start bounds: the start where there is none, and one of them otherwise. -/
theorem foldl_min_spec {α : Type} [LinearOrder α] {xs : List α} {a : α} (h : ∀ v ∈ xs, v ≤ a) :
    (xs = [] → xs.foldl min a = a) ∧ (xs ≠ [] → xs.foldl min a ∈ xs ∧ ∀ v ∈ xs, xs.foldl min a ≤ v) := by
  refine ⟨fun hx => by rw [hx, List.foldl_nil], fun hx => ?_⟩
  obtain ⟨m, hm⟩ := Option.ne_none_iff_exists'.mp (mt List.min?_eq_none_iff.mp hx)
  have hmin := List.min?_eq_some_iff.mp hm
  rw [List.foldl_min, hm, Option.getD_some, min_eq_right (h m hmin.1)]
  exact hmin

theorem foldl_max_spec {α : Type} [LinearOrder α] {xs : List α} {a : α} (h : ∀ v ∈ xs, a ≤ v) :
    (xs = [] → xs.foldl max a = a) ∧ (xs ≠ [] → xs.foldl max a ∈ xs ∧ ∀ v ∈ xs, v ≤ xs.foldl max a) :=
  foldl_min_spec (α := αᵒᵈ) h

/-- The active elements of v[a], as signed numbers. -/
def signedActive (c : Ctx) (a : BitVec 5) (k : BitVec 3) (w n : Nat) : List Int :=
  ((List.range n).filter fun j => (c.rk k).getLsbD j).map fun j => (BitVec.ofNat w (elem (c.rv a) w j)).toInt

theorem map_toSigned_activeElems (c : Ctx) (a : BitVec 5) (k : BitVec 3) (w n : Nat) :
    (activeElems c a k w n).map (toSigned w) = signedActive c a k w n := by
  rw [activeElems, signedActive, List.map_map]
  exact List.map_congr_left fun i _ => toSigned_eq w _

theorem signedActive_le {c : Ctx} {a : BitVec 5} {k : BitVec 3} {w n : Nat} {v : Int} (h : v ∈ signedActive c a k w n) : v ≤ 2 ^ (w - 1) - 1 := by
  obtain ⟨j, -, rfl⟩ := List.mem_map.mp h
  exact Int.le_sub_one_of_lt BitVec.toInt_lt

theorem le_signedActive {c : Ctx} {a : BitVec 5} {k : BitVec 3} {w n : Nat} {v : Int} (h : v ∈ signedActive c a k w n) : -(2 ^ (w - 1)) ≤ v := by
  obtain ⟨j, -, rfl⟩ := List.mem_map.mp h
  exact BitVec.le_toInt _

theorem activeElems_le {c : Ctx} {a : BitVec 5} {k : BitVec 3} {w n v : Nat} (h : v ∈ activeElems c a k w n) : v ≤ 2 ^ w - 1 := by
  obtain ⟨j, -, rfl⟩ := List.mem_map.mp h
  exact Nat.le_sub_one_of_lt (elem_lt _ _ _)

/-- The integer reductions of O27. -/
theorem integerReductions (s : State) (d a : BitVec 5) (k : BitVec 3) (w : BitVec 2) :
    let sx := signedActive s.ctx a k (widthOf w) (lanesOf w)
    let ux := activeElems s.ctx a k (widthOf w) (lanesOf w)
    XWritten s 4 d (BitVec.ofInt 64 sx.sum) (exec (.vredadd d a k w) s)
    ∧ (∃ r : Int, XWritten s 4 d (BitVec.ofInt 64 r) (exec (.vredmin d a k w) s) ∧ (sx = [] → r = 2 ^ (widthOf w - 1) - 1)
        ∧ (sx ≠ [] → r ∈ sx ∧ ∀ v ∈ sx, r ≤ v))
    ∧ (∃ r : Int, XWritten s 4 d (BitVec.ofInt 64 r) (exec (.vredmax d a k w) s) ∧ (sx = [] → r = -(2 ^ (widthOf w - 1)))
        ∧ (sx ≠ [] → r ∈ sx ∧ ∀ v ∈ sx, v ≤ r))
    ∧ (∃ r : Nat, XWritten s 4 d (BitVec.ofNat 64 r) (exec (.vredminu d a k w) s) ∧ (ux = [] → r = 2 ^ widthOf w - 1)
        ∧ (ux ≠ [] → r ∈ ux ∧ ∀ v ∈ ux, r ≤ v))
    ∧ ∃ r : Nat, XWritten s 4 d (BitVec.ofNat 64 r) (exec (.vredmaxu d a k w) s) ∧ (ux = [] → r = 0) ∧ (ux ≠ [] → r ∈ ux ∧ ∀ v ∈ ux, v ≤ r) := by
  intro sx ux
  simp only [exec_vredadd, exec_vredmin, exec_vredmax, exec_vredminu, exec_vredmaxu]
  have hs := map_toSigned_activeElems s.ctx a k (widthOf w) (lanesOf w)
  exact ⟨xWritten_ctxStep fun _ => congrArg (fun l => BitVec.ofInt 64 (List.sum l)) hs,
    ⟨_, xWritten_ctxStep fun _ => congrArg (fun l => BitVec.ofInt 64 (List.foldl min _ l)) hs, foldl_min_spec fun _ => signedActive_le⟩,
    ⟨_, xWritten_ctxStep fun _ => congrArg (fun l => BitVec.ofInt 64 (List.foldl max _ l)) hs, foldl_max_spec fun _ => le_signedActive⟩,
    ⟨_, xWritten_ctxStep fun _ => BitVec.ofInt_natCast _ _, foldl_min_spec fun _ => activeElems_le⟩,
    ⟨_, xWritten_ctxStep fun _ => BitVec.ofInt_natCast _ _, foldl_max_spec fun _ _ => Nat.zero_le _⟩⟩

/-! Dot products (05 R165). -/

theorem foldl_add_eq {α M : Type} [AddMonoid M] (f : α → M) (xs : List α) (a : M) : xs.foldl (fun t j => t + f j) a = a + (xs.map f).sum := by
  induction xs generalizing a with
  | nil => simp
  | cons x xs ih => rw [List.foldl_cons, ih, List.map_cons, List.sum_cons, add_assoc]

theorem dotLane_eq (ext : Nat → Int) (acc : Nat) (a b : Msg) (i : Nat) : dotLane ext acc a b i
    = (BitVec.ofInt 32 (acc + ((List.range 4).map fun j => ext (elem a 8 (4 * i + j)) * ext (elem b 8 (4 * i + j))).sum)).toNat := by
  rw [dotLane, ofSigned_eq, foldl_add_eq]

theorem dotLane_toSigned (acc : Nat) (a b : Msg) (i : Nat) : dotLane (toSigned 8) acc a b i = (BitVec.ofInt 32 (acc + ((List.range 4).map fun j =>
    (BitVec.ofNat 8 (elem a 8 (4 * i + j))).toInt * (BitVec.ofNat 8 (elem b 8 (4 * i + j))).toInt).sum)).toNat := by
  simp only [dotLane_eq, toSigned_eq]

theorem dotLane_natCast (acc : Nat) (a b : Msg) (i : Nat) : dotLane (fun x => (x : Int)) acc a b i % 2 ^ 32
    = (acc + ((List.range 4).map fun j => elem a 8 (4 * i + j) * elem b 8 (4 * i + j)).sum) % 2 ^ 32 := by
  have hsum : (acc : Int) + ((List.range 4).map fun j => (elem a 8 (4 * i + j) : Int) * (elem b 8 (4 * i + j) : Int)).sum
      = ((acc + ((List.range 4).map fun j => elem a 8 (4 * i + j) * elem b 8 (4 * i + j)).sum : Nat) : Int) := by
    rw [Nat.cast_add, Nat.cast_list_sum, List.map_map]
    simp only [Function.comp_def, Nat.cast_mul]
  rw [dotLane_eq, hsum, BitVec.ofInt_natCast, BitVec.toNat_ofNat, Nat.mod_mod]

/-! Floating-point reductions (05 R164). -/

theorem ceilLog2_lanes_of_format {w : BitVec 2} {f : Fp} {h : Nat}
    (hf : (w = 0 ∧ f = bf16 ∧ h = 5) ∨ (w = 1 ∧ f = fp16 ∧ h = 5) ∨ (w = 2 ∧ f = fp32 ∧ h = 4)) :
    VecFormat w f ∧ ceilLog2 f.lanes = h := by
  rcases hf with ⟨rfl, rfl, rfl⟩ | ⟨rfl, rfl, rfl⟩ | ⟨rfl, rfl, rfl⟩
  · exact ⟨.inl ⟨rfl, rfl⟩, by decide⟩
  · exact ⟨.inr (.inl ⟨rfl, rfl⟩), by decide⟩
  · exact ⟨.inr (.inr ⟨rfl, rfl⟩), by decide⟩

/-- Settles O27: a reduction writes x[d] with the fold of the active elements, and a dot product the sums of its lanes. -/
theorem vectorReductions : Obligations.VectorReductions := by
  intro s d a b k w
  have hint := integerReductions s d a k w
  rw [lanesOf_eq] at hint
  obtain ⟨hadd, hmin, hmax, hminu, hmaxu⟩ := hint
  refine ⟨hadd, hmin, hmax, hminu, hmaxu, ?_, ?_, fun f h hfh => ?_⟩
  · rw [exec_vdot4]
    exact elements_vecElems (by decide) fun _ i _ => congrArg (· % 2 ^ 32) (dotLane_toSigned _ _ _ i)
  · rw [exec_vdot4u]
    exact elements_vecElems (by decide) fun _ i _ => dotLane_natCast _ _ _ i
  · obtain ⟨hf, rfl⟩ := ceilLog2_lanes_of_format hfh
    obtain rfl := hf.vecFp
    simp only [exec_vfredadd, exec_vfredmin, exec_vfredmax]
    exact ⟨fpWritten_ctxStep fun _ => rfl, fpWritten_ctxStep fun _ => rfl, fpWritten_ctxStep fun _ => rfl⟩

end Sys2Proof.Machine
end

section
namespace Sys2Proof.Machine

/-! Formats that the conversions take (03 R103). -/

theorem rule_eq_none_iff {c : Prop} [Decidable c] {e : DecodeError} : rule c e = none ↔ c := by
  rw [rule]
  split <;> simp_all

theorem orElse_eq_none {α : Type} {x y : Option α} (h : (x <|> y) = none) : x = none ∧ y = none := by
  cases x with
  | none => exact ⟨rfl, by simpa using h⟩
  | some x => simp at h

/-- An element of a convertible format fills the register a whole number of times. -/
theorem formatBits_mul_div {f : BitVec 4} (h : convertible f = true) : formatBits f * (512 / formatBits f) = 512 := by revert f; decide

theorem formatBits_pos {f : BitVec 4} (h : convertible f = true) : 0 < formatBits f := by revert f; decide

section
variable {s : State} {d a : BitVec 5} {k : BitVec 3}

theorem allFlags_map (n : Nat) (r : Nat → Nat × Flags) : allFlags ((List.range n).map r) = (List.range n).foldl (fun z i => z ||| (r i).2) 0 := by
  rw [allFlags, List.foldl_map]

theorem ofSigned_toSigned (n w x : Nat) : ofSigned n (toSigned w x) = ((BitVec.ofNat w x).signExtend n).toNat := by
  rw [ofSigned_eq, ofInt_toSigned]

theorem testBit_elem (v : Msg) (w i j : Nat) : (elem v w i).testBit j = (decide (j < w) && v.getLsbD (i * w + j)) := by
  rw [elem, Nat.testBit_mod_two_pow, Nat.testBit_shiftRight, BitVec.testBit_toNat]

/-- A group of n elements that enters a register of m elements at its top (03 R108). -/
theorem elem_pushed {w n m i : Nat} (hm : m * w = 512) (hn : n ≤ m) (hi : i < m) (old g : Msg) :
    elem ((old >>> (n * w)) ||| (g <<< (512 - n * w))) w i = if i < m - n then elem old w (i + n) else elem g w (i - (m - n)) := by
  have hnw : n * w ≤ m * w := Nat.mul_le_mul_right w hn
  refine Nat.eq_of_testBit_eq fun j => ?_
  rw [apply_ite (Nat.testBit · j), testBit_elem, testBit_elem, testBit_elem]
  by_cases hj : j < w
  · simp only [hj, decide_true, Bool.true_and, BitVec.getLsbD_or, BitVec.getLsbD_ushiftRight, BitVec.getLsbD_shiftLeft]
    split
    next h =>
      have hlow : (i + n + 1) * w ≤ m * w := Nat.mul_le_mul_right w (by omega)
      rw [Nat.add_mul, Nat.add_mul] at hlow
      have hlt : i * w + j < 512 - n * w := by omega
      have hidx : n * w + (i * w + j) = (i + n) * w + j := by rw [Nat.add_mul]; omega
      simp [hlt, hidx]
    next h =>
      have hhigh : (m - n) * w ≤ i * w := Nat.mul_le_mul_right w (by omega)
      have htop : (i + 1) * w ≤ m * w := Nat.mul_le_mul_right w hi
      rw [Nat.add_mul] at htop
      rw [Nat.sub_mul] at hhigh
      have hge : ¬i * w + j < 512 - n * w := by omega
      have hlt : i * w + j < 512 := by omega
      have hidx : i * w + j - (512 - n * w) = (i - (m - n)) * w + j := by rw [Nat.sub_mul, Nat.sub_mul]; omega
      rw [BitVec.getLsbD_of_ge old _ (by omega), hidx]
      simp [hge, hlt]
  · simp [hj]

/-- CVT (03 R106). -/
theorem fpWritten_cvt (s : State) (d a : BitVec 5) (sf df : BitVec 4) :
    let r := convert s.ctx.rm s.ctx.satd s.ctx.xt sf df ((s.ctx.rx a).toNat % 2 ^ formatBits sf)
    FpWritten s 4 d (if df ∈ [1, 3, 9, 10] then (((BitVec.ofNat (formatBits df) r.1).signExtend 64).toNat, r.2) else r) (exec (.cvt d a sf df) s) := by
  intro r
  rw [exec_cvt]
  refine fpWritten_ctxStep fun _ => ?_
  change ((if df ∈ [1, 3, 9, 10] then ofSigned 64 (toSigned (formatBits df) r.1) else r.1), r.2) = _
  rw [ofSigned_toSigned]
  split <;> rfl

/-- VCVT (03 R107). -/
theorem vfWritten_vcvt {sf df : BitVec 4} (hd : convertible df = true) :
    let n := 512 / max (formatBits sf) (formatBits df)
    let r := fun i => convert s.ctx.rm s.ctx.satd s.ctx.xt sf df (elem (s.ctx.rv a) (formatBits sf) i)
    ∃ v, VfWritten s d v (flagsOver s n k fun i => (r i).2) (exec (.vcvt d a sf k df) s)
      ∧ ∀ i, i < 512 / formatBits df → elem v (formatBits df) i
        = if i < n then (if (s.ctx.rk k).getLsbD i then (r i).1 % 2 ^ formatBits df else elem (s.ctx.rv d) (formatBits df) i) else 0 := by
  intro n r
  have hn : formatBits df * n ≤ 512 :=
    (Nat.mul_le_mul_left _ (Nat.div_le_div_left (le_max_right _ _) (formatBits_pos hd))).trans (formatBits_mul_div hd).le
  rw [exec_vcvt]
  refine ⟨ofElems (formatBits df) ((List.range n).map fun i => (if (s.ctx.rk k).getLsbD i then r i else (elem (s.ctx.rv d) (formatBits df) i, 0)).1),
    vfWritten_ctxStep (fun u => ?_) fun u => allFlags_masked n r _, fun i _ => ?_⟩
  · exact congrArg (ofElems _) List.map_map
  · rw [elem_ofElems_range hn]
    split
    · split
      · rfl
      · exact elem_mod _ _ _
    · rfl

/-- VPACK (03 R108). -/
theorem vfWritten_vpack {sf df : BitVec 4} (hd : convertible df = true) (hlt : formatBits df < formatBits sf) :
    let n := 512 / formatBits sf
    let r := fun i => convert s.ctx.rm s.ctx.satd s.ctx.xt sf df (elem (s.ctx.rv a) (formatBits sf) i)
    let m := 512 / formatBits df
    ∃ v, VfWritten s d v ((List.range n).foldl (fun z i => z ||| (r i).2) 0) (exec (.vpack d a sf df) s)
      ∧ ∀ i, i < m → elem v (formatBits df) i
        = if i < m - n then elem (s.ctx.rv d) (formatBits df) (i + n) else (r (i - (m - n))).1 % 2 ^ formatBits df := by
  intro n r m
  have hm : m * formatBits df = 512 := (Nat.mul_comm _ _).trans (formatBits_mul_div hd)
  have hn : n ≤ m := Nat.div_le_div_left hlt.le (formatBits_pos hd)
  have hnw : formatBits df * n ≤ 512 := by rw [Nat.mul_comm, ← hm]; exact Nat.mul_le_mul_right _ hn
  rw [exec_vpack]
  refine ⟨(s.ctx.rv d >>> (n * formatBits df)) ||| (ofElems (formatBits df) ((List.range n).map fun i => (r i).1) <<< (512 - n * formatBits df)),
    vfWritten_ctxStep (fun u => ?_) fun u => allFlags_map n r, fun i hi => ?_⟩
  · exact congrArg (fun l => (s.ctx.rv d >>> (n * formatBits df)) ||| (ofElems (formatBits df) l <<< (512 - n * formatBits df))) List.map_map
  · rw [elem_pushed hm hn hi]
    split
    · rfl
    · rw [elem_ofElems_range hnw, if_pos (by omega)]

/-- VUNPK (03 R109). -/
theorem vfWritten_vunpk {sf df : BitVec 4} {g : BitVec 3} (hd : convertible df = true) :
    let n := 512 / formatBits df
    let r := fun i => convert s.ctx.rm s.ctx.satd s.ctx.xt sf df (elem (s.ctx.rv a) (formatBits sf) (g.toNat * n + i))
    ∃ v, VfWritten s d v ((List.range n).foldl (fun z i => z ||| (r i).2) 0) (exec (.vunpk d a sf g df) s)
      ∧ ∀ i, i < n → elem v (formatBits df) i = (r i).1 % 2 ^ formatBits df := by
  intro n r
  rw [exec_vunpk]
  refine ⟨ofElems (formatBits df) ((List.range n).map fun i => (r i).1), vfWritten_ctxStep (fun u => ?_) fun u => allFlags_map n r, fun i hi => ?_⟩
  · exact congrArg (ofElems _) List.map_map
  · rw [elem_ofElems_range (formatBits_mul_div hd).le, if_pos hi]

/-- BALIGN_Q (03 R112) at width w. -/
theorem vWritten_balignQ (s : State) (d a b : BitVec 5) (k : BitVec 3) (w : Nat) :
    let e := max (s.ctx.rx b).toInt (-127)
    ∃ v, VWritten s d v (balignQ w d a b k s) ∧ ∀ j, j < 16 → elem v 32 j
      = if (s.ctx.rk k).getLsbD j = true ∧ e < 128 then (BitVec.ofInt 32 (blockFixed w e (fp32.value (elem (s.ctx.rv a) 32 j)))).toNat else 0 := by
  intro e
  refine ⟨ofElems 32 ((List.range 16).map fun i =>
    if (s.ctx.rk k).getLsbD i ∧ e < 128 then ofSigned 32 (blockFixed w e (fp32.value (elem (s.ctx.rv a) 32 i))) else 0),
    vWritten_ctxStep fun _ => rfl, fun j hj => ?_⟩
  rw [elem_ofElems_range (by decide), if_pos hj, ofSigned_eq]
  split
  · exact Nat.mod_eq_of_lt (BitVec.isLt _)
  · rfl

/-- Settles O28: a conversion writes its destination element by element, with the flags of the elements that it converts. -/
theorem conversions : Obligations.Conversions := by
  intro s d a b k sf df g c conv ws wd sumOf lanes
  have hlanes : activeF32 s.ctx a k = lanes := List.map_map
  refine ⟨fun _ => fpWritten_cvt s d a sf df, fun h => ?_, fun h => ?_, fun h => ?_, ?_, ?_, fun w i hi => ?_⟩
  · exact vfWritten_vcvt (rule_eq_none_iff.mp h).2
  · obtain ⟨hconv, hlt⟩ := orElse_eq_none h
    exact vfWritten_vpack (rule_eq_none_iff.mp hconv).2 (rule_eq_none_iff.mp hlt)
  · exact vfWritten_vunpk (rule_eq_none_iff.mp (orElse_eq_none h).1).2
  · rw [exec_bscale]
    exact xWritten_ctxStep fun _ => congrArg (fun l : List FVal => BitVec.ofNat 64 (l.foldl _ _)) hlanes
  · rw [exec_balignExp]
    exact xWritten_ctxStep fun _ => congrArg (fun l : List FVal => BitVec.ofInt 64 (l.foldl _ _)) hlanes
  · rcases hi with ⟨rfl, rfl⟩ | ⟨rfl, rfl⟩
    · exact vWritten_balignQ s d a b k 8
    · exact vWritten_balignQ s d a b k 16

end

end Sys2Proof.Machine
end

section
namespace Sys2Proof.Machine

theorem Ctx.rk_zero (c : Ctx) : c.rk 0 = 0xFFFFFFFFFFFFFFFF := if_pos rfl

/-- Refutes O57: the statement has every mask register read 0 after a reset, k0 among them, and k0 reads all ones in every context (00 R11). -/
theorem not_stateAtReset : ¬ Obligations.StateAtReset := by
  intro h
  obtain ⟨-, -, -, -, -, -, -, -, -, -, -, -, -, hcore⟩ := h.1 State.reset rfl
  obtain ⟨-, -, -, -, -, -, hctx⟩ := hcore 0
  obtain ⟨-, -, -, -, -, -, -, hk⟩ := hctx 0
  exact absurd ((Ctx.rk_zero _).symm.trans (hk 0)) (by decide)

end Sys2Proof.Machine
end

section
namespace Sys2Proof.Machine

/-! What an instruction that changes its context alone leaves of the cores. -/

section
variable {s t : State}

theorem OnlyHot.coreAt_of_ne (h : OnlyHot s t) {c : CoreId} (hc : c ≠ s.cur) : t.coreAt c = s.coreAt c :=
  (congrArg (State.coreAt · c) h).trans (State.coreAt_modCore_of_ne s (fun k => { k.modCtx s.hot (fun _ => t.ctx) with next := t.core.next }) hc)

theorem OnlyHot.coreAt_cur (h : OnlyHot s t) : t.coreAt s.cur = { s.core.modCtx s.hot (fun _ => t.ctx) with next := t.core.next } :=
  (congrArg (State.coreAt · s.cur) h).trans (State.coreAt_modCore s s.cur fun k => { k.modCtx s.hot (fun _ => t.ctx) with next := t.core.next })

theorem OnlyHot.ctxAt_of_ne (h : OnlyHot s t) {x : CtxId} (hx : x ≠ s.hot) : t.ctxAt s.cur x = s.ctxAt s.cur x := by
  rw [State.ctxAt, h.coreAt_cur]
  exact Vector.getElem_set_ne s.hot.isLt x.isLt fun e => hx (Fin.ext e.symm)

end

/-! Control registers (14 R427, R429). -/

/-- What a write of a control register leaves of its context. -/
theorem Ctx.csrw_eq (q : Ctx) (r : BitVec 12) (v : Word) : q.csrw r v =
    { q with
      fmt := if r = 0x001 then v &&& 0x1D1F else q.fmt
      budget := if r = 0x002 then BitVec.ofNat 32 (max 1024 (bitsOf v.toNat 31 0)) else q.budget
      lstat := if r = 0x010 then (if v.getLsbD 0 then v.setWidth 2 else 0) else q.lstat
      lc0 := if r = 0x011 then v else q.lc0
      ls0 := if r = 0x012 then va57 v &&& ~~~1 else q.ls0
      le0 := if r = 0x013 then va57 v &&& ~~~1 else q.le0
      lc1 := if r = 0x014 then v else q.lc1
      ls1 := if r = 0x015 then va57 v &&& ~~~1 else q.ls1
      le1 := if r = 0x016 then va57 v &&& ~~~1 else q.le1
      evCell := if r = 0x020 then v &&& 0x1FFFFFFFFFFFFF9 else q.evCell
      evChain0 := if r = 0x021 then v &&& 0x1FFFFFFFFFFFFF9 else q.evChain0
      evChain1 := if r = 0x022 then v &&& 0x1FFFFFFFFFFFFF9 else q.evChain1
      evChain2 := if r = 0x023 then v &&& 0x1FFFFFFFFFFFFF9 else q.evChain2 } := by
  unfold Ctx.csrw
  simp only [← BitVec.toNat_inj]
  split <;> simp_all [loopAddr, evWord]

/-- What a write of a control register leaves of its core. -/
theorem Core.csrw_eq (k : Core) (r : BitVec 12) (v : Word) : k.csrw r v =
    { k with
      net := { k.net with clsen := if r = 0x008 then v else k.net.clsen }
      splice := { k.splice with
        free := if r = 0x030 then v &&& 0x1FFFFFFFFFFFFE0 else k.splice.free
        rules := if r = 0x031 then v &&& 0x1FFFFFFFFFFFFE0 else k.splice.rules
        spill := if r = 0x032 then v &&& 0x1FFFFFFFFFFFE1F else k.splice.spill } } := by
  unfold Core.csrw
  simp only [← BitVec.toNat_inj]
  split <;> simp_all

/-- The least budget is 1,024 (04 R120). -/
theorem budget_eq (v : Word) : BitVec.ofNat 32 (max 1024 (bitsOf v.toNat 31 0)) = if (v.setWidth 32).toNat < 1024 then 1024 else v.setWidth 32 := by
  have hb : bitsOf v.toNat 31 0 = (v.setWidth 32).toNat := by rw [BitVec.toNat_setWidth]; rfl
  rw [hb]
  split
  next h => rw [max_eq_left h.le]; rfl
  next h => rw [max_eq_right (Nat.le_of_not_lt h), BitVec.ofNat_toNat, BitVec.setWidth_eq]

/-- What a write of v to a control register leaves in a state, with the old value in x[d]. -/
structure CsrDone (s : State) (d : BitVec 5) (r : BitVec 12) (old v : Word) (t : State) : Prop where
  written : CsrWritten s r v t
  bytes : SameBytes s t
  others : Others s t
  x : ∀ n, t.ctx.rx n = s.ctx.withX d old n
  v : ∀ n, t.ctx.rv n = s.ctx.rv n
  k : ∀ n, t.ctx.rk n = s.ctx.rk n
  pc : s.ctx.lstat = 0 → r ≠ 0x010 → t.ctx.pc = va57 (s.ctx.pc + 4)

/-- A context after an instruction that only writes x: what no control register but lstat, lc0 and lc1 shows is as before, and with no loop armed
these too. -/
structure Ctx.EndsAs (c d : Ctx) (n : Word) : Prop where
  fmt : d.fmt = c.fmt
  budget : d.budget = c.budget
  ev : d.evCell = c.evCell ∧ d.evChain0 = c.evChain0 ∧ d.evChain1 = c.evChain1 ∧ d.evChain2 = c.evChain2
  trap : d.tcause = c.tcause ∧ d.tpc = c.tpc ∧ d.tval = c.tval ∧ d.tmsg = c.tmsg
  plain : c.lstat = 0 → d.lstat = 0 ∧ d.lc0 = c.lc0 ∧ d.ls0 = c.ls0 ∧ d.le0 = c.le0 ∧ d.lc1 = c.lc1 ∧ d.ls1 = c.ls1 ∧ d.le1 = c.le1
  pc : c.lstat = 0 → d.pc = n

theorem Ctx.endsAs_retire (c : Ctx) (len : Nat) (n : Word) : c.EndsAs (c.retire len n) n := by
  have hk := c.retire_looped len n
  refine ⟨c.retire_fmt len n, ?_, ?_, ?_, fun h => ?_, fun h => ?_⟩
  · rw [hk]
  · rw [hk]; exact ⟨rfl, rfl, rfl, rfl⟩
  · rw [hk]; exact ⟨rfl, rfl, rfl, rfl⟩
  · rw [c.retire_noLoop len n h]; exact ⟨h, rfl, rfl, rfl, rfl, rfl, rfl⟩
  · rw [c.retire_noLoop len n h]

theorem Ctx.endsAs_retire_wx (c : Ctx) (d : BitVec 5) (w : Word) (len : Nat) (n : Word) : c.EndsAs ((c.wx d w).retire len n) n := by
  have h := (c.wx d w).endsAs_retire len n
  unfold Ctx.wx at h ⊢
  split at h
  next hd => rw [if_pos hd]; exact h
  next hd => rw [if_neg hd]; exact ⟨h.fmt, h.budget, h.ev, h.trap, h.plain, h.pc⟩

/-- The loops after an instruction that writes x[d] are those of the loop check. -/
theorem Ctx.lstat_retire_wx (c : Ctx) (d : BitVec 5) (w : Word) (u len : Nat) (n : Word) :
    (((c.issuing u).wx d w).retire len n).lstat = (c.retire len n).lstat := by
  have e : (c.issuing u).wx d w = { c.wx d w with busy := u } := by
    unfold Ctx.wx
    split <;> rfl
  rw [e]
  exact (Ctx.retire_wrote (c.wrote_wx d w) u len n).2.1

theorem Ctx.rx_csrw (q : Ctx) (r : BitVec 12) (v : Word) (n : BitVec 5) : (q.csrw r v).rx n = q.rx n := by rw [Ctx.csrw_eq]; rfl
theorem Ctx.rv_csrw (q : Ctx) (r : BitVec 12) (v : Word) (n : BitVec 5) : (q.csrw r v).rv n = q.rv n := by rw [Ctx.csrw_eq]; rfl
theorem Ctx.rk_csrw (q : Ctx) (r : BitVec 12) (v : Word) (n : BitVec 3) : (q.csrw r v).rk n = q.rk n := by rw [Ctx.csrw_eq]; rfl
theorem Ctx.lstat_csrw {q : Ctx} {r : BitVec 12} {v : Word} (h : r ≠ 0x010) : (q.csrw r v).lstat = q.lstat := by rw [Ctx.csrw_eq]; exact if_neg h

theorem State.core_csrw (s : State) (r : BitVec 12) (v : Word) : (s.modCore s.cur fun k => k.csrw r v).core = s.core.csrw r v :=
  s.coreAt_modCore s.cur _

theorem State.ctxAt_csrw (s : State) (r : BitVec 12) (v : Word) (x : CtxId) :
    (s.modCore s.cur fun k => k.csrw r v).ctxAt s.cur x = s.ctxAt s.cur x := by
  rw [State.ctxAt, State.coreAt_modCore, Core.csrw_eq]
  rfl

theorem State.sameBytes_csrw (s : State) (r : BitVec 12) (v : Word) : SameBytes s (s.modCore s.cur fun k => k.csrw r v) := by
  refine ⟨fun _ => rfl, fun c o => congrArg (Mem.byte · o) ?_⟩
  rw [State.coreAt_modCore_eq]
  split
  next h => rw [Core.csrw_eq, h]
  next h => rfl

/-- What a write of a control register leaves of its core, and the frame of the instruction. -/
theorem coreAt_csr {s t : State} {r : BitVec 12} {v : Word} (hot : OnlyHot (s.modCore s.cur fun k => k.csrw r v) t) :
    ((t.coreAt s.cur).net = (s.core.csrw r v).net ∧ (t.coreAt s.cur).splice = (s.core.csrw r v).splice ∧ (t.coreAt s.cur).ident = (s.core.csrw r v).ident)
      ∧ Others s t := by
  have hcore : t.coreAt s.cur = { (s.core.csrw r v).modCtx s.hot (fun _ => t.ctx) with next := t.core.next } := by
    rw [← State.core_csrw]
    exact hot.coreAt_cur
  refine ⟨by rw [hcore]; exact ⟨rfl, rfl, rfl⟩, fun c hc => ?_, fun x hx => ?_⟩
  · exact (hot.coreAt_of_ne hc).trans (State.coreAt_modCore_of_ne _ _ hc)
  · exact (hot.ctxAt_of_ne hx).trans (s.ctxAt_csrw r v x)

/-- The context and the core after a write of a control register: every register by its own rule. -/
theorem csrWritten_of_ends {s t : State} {r : BitVec 12} {v n : Word} {u : Nat}
    (hnet : (t.coreAt s.cur).net = (s.core.csrw r v).net) (hsplice : (t.coreAt s.cur).splice = (s.core.csrw r v).splice)
    (hident : (t.coreAt s.cur).ident = (s.core.csrw r v).ident) (hctx : ((s.ctx.issuing u).csrw r v).EndsAs t.ctx n)
    (hlstat : r = 0x010 → t.ctx.lstat = (({ s.ctx with lstat := if v.getLsbD 0 then v.setWidth 2 else 0 } : Ctx).retire 4 (va57 (s.ctx.pc + 4))).lstat) :
    CsrWritten s r v t := by
  rw [Core.csrw_eq] at hnet hsplice hident
  rw [Ctx.csrw_eq] at hctx
  refine ⟨hctx.fmt, hctx.budget.trans (congrArg (ite _ · _) (budget_eq v)), congrArg Net.clsen hnet, fun hl hr => hctx.plain ((if_neg hr).trans hl), hlstat, hctx.ev,
    ?_, ?_⟩
  · rw [hsplice]; exact ⟨rfl, rfl, rfl⟩
  · obtain ⟨hcause, hpc, hval, hmsg⟩ := hctx.trap
    exact ⟨hcause, hpc, hval, hmsg, hident⟩

theorem csrDone_ctxStep (s : State) (d : BitVec 5) (r : BitVec 12) (old v : Word) :
    Gives (ctxStep 4 1 (fun q => (q.csrw r v).wx d old) (s.modCore s.cur fun k => k.csrw r v)) (CsrDone s d r old v) := by
  rw [ctxStep_eq]
  obtain ⟨t, ht, hot, hbytes, hctx⟩ := jumpStep_onlyHot 4 1 (fun q => (q.csrw r v).wx d old)
    ((s.modCore s.cur fun k => k.csrw r v).ctx.seq 4) (s.modCore s.cur fun k => k.csrw r v)
  have hq : (s.modCore s.cur fun k => k.csrw r v).ctx = s.ctx := s.ctxAt_csrw r v s.hot
  rw [hq] at hctx
  replace hctx : ∃ u, t.ctx = (((s.ctx.issuing u).csrw r v).wx d old).retire 4 (va57 (s.ctx.pc + 4)) := ⟨_, hctx⟩
  obtain ⟨u, hctx⟩ := hctx
  obtain ⟨⟨hnet, hsplice, hident⟩, hothers⟩ := coreAt_csr hot
  have hends := ((s.ctx.issuing u).csrw r v).endsAs_retire_wx d old 4 (va57 (s.ctx.pc + 4))
  rw [← hctx] at hends
  refine ⟨t, ht, csrWritten_of_ends hnet hsplice hident hends fun hr => ?_, (s.sameBytes_csrw r v).trans hbytes, hothers, fun n => ?_, fun n => ?_,
    fun n => ?_, fun hl hr => hends.pc ((Ctx.lstat_csrw hr).trans hl)⟩
  · subst hr
    rw [hctx]
    exact Ctx.lstat_retire_wx { s.ctx with lstat := if v.getLsbD 0 then v.setWidth 2 else 0 } d old u 4 _
  · rw [hctx, Ctx.retire_rx, Ctx.rx_wx, Ctx.withX, Ctx.rx_csrw]; rfl
  · rw [hctx, Ctx.retire_rv, Ctx.rv_wx, Ctx.rv_csrw]; rfl
  · rw [hctx, Ctx.retire_rk, Ctx.rk_wx, Ctx.rk_csrw]; rfl

/-! Reads. -/

theorem csrStep_read {s : State} {enc : Word} {d : BitVec 5} {r : BitVec 12} {old : Word} {new : Word → Option Word} (h : s.csr s.cur s.hot r = some old)
    (hn : new old = none) : XWritten s 4 d old (csrStep enc d r new s) := by
  rw [csrStep, h]
  simp only [hn]
  exact xWritten_ctxStep fun _ => rfl

theorem csrStep_write {s : State} {enc : Word} {d : BitVec 5} {r : BitVec 12} {old v : Word} {new : Word → Option Word} (h : s.csr s.cur s.hot r = some old)
    (hn : new old = some v) (hrun : ¬ ((r = 0x031 ∨ r = 0x032) ∧ s.core.splice.run = true)) : Gives (csrStep enc d r new s) (CsrDone s d r old v) := by
  rw [csrStep, h]
  simp only [hn, if_neg hrun]
  exact csrDone_ctxStep s d r old v

/-- The three forms that read a control register and write nothing else. -/
theorem csr_reads {s : State} {d : BitVec 5} {r : BitVec 12} {v : Word} (h : s.csr s.cur s.hot r = some v) :
    XWritten s 4 d v (exec (.csrr d r) s) ∧ XWritten s 4 d v (exec (.csrset d 0 r) s) ∧ XWritten s 4 d v (exec (.csrclr d 0 r) s) := by
  rw [exec_csrr, exec_csrset, exec_csrclr]
  exact ⟨csrStep_read h rfl, csrStep_read h rfl, csrStep_read h rfl⟩

theorem wdog_eq (used : Nat) (budget : BitVec 32) :
    BitVec.ofNat 64 (used % 2 ^ 32 * 2 ^ 32 + budget.toNat) = BitVec.ofNat 32 used ++ budget := by
  refine BitVec.eq_of_toNat_eq ?_
  have hb := budget.isLt
  rw [BitVec.toNat_append, BitVec.toNat_ofNat, BitVec.toNat_ofNat, ← Nat.shiftLeft_add_eq_or_of_lt hb, Nat.shiftLeft_eq]
  omega

theorem csr_wdog {s : State} (h : s.ctx.status = .running) :
    s.csr s.cur s.hot 0x002 = some (BitVec.ofNat 32 (s.cyc - s.ctx.since) ++ s.ctx.budget) := by
  have hu : s.usedOf s.ctx = s.cyc - s.ctx.since := by rw [State.usedOf, Ctx.holdsSlot, h]; rfl
  rw [← wdog_eq, ← hu]
  rfl

theorem va57_setWidth (x : BitVec 57) : va57 (x.setWidth 64) = x.signExtend 64 := by
  rw [va57, sext, BitVec.setWidth_setWidth_of_le _ (by decide), BitVec.setWidth_eq]

theorem window_eq (b : BitVec 57) : (0x8000000000000000 : Word) ||| (b.setWidth 64 &&& 0x1FFFFFFC0000000) = 1#1 ++ 0#6 ++ b.extractLsb' 30 27 ++ 0#30 := by
  have hmask : ∀ i : Fin 64, (0x1FFFFFFC0000000 : Word).getLsbD i = (decide (30 ≤ i.val) && decide (i.val < 57)) := by decide
  have htop : ∀ i : Fin 64, (0x8000000000000000 : Word).getLsbD i = decide (i.val = 63) := by decide
  have hhead : ∀ j : Fin 7, (1#1 ++ 0#6).getLsbD j = decide (j.val = 6) := by decide
  refine BitVec.eq_of_getLsbD_eq fun i hi => ?_
  rw [BitVec.getLsbD_or, BitVec.getLsbD_and, hmask ⟨i, hi⟩, htop ⟨i, hi⟩, BitVec.getLsbD_append, BitVec.getLsbD_append, BitVec.getLsbD_setWidth,
    BitVec.getLsbD_extractLsb', BitVec.getLsbD_zero]
  by_cases h30 : i < 30
  · simp [h30]; omega
  by_cases h57 : i < 57
  · have hidx : 30 + (i - 30) = i := by omega
    have hlt : i - 30 < 27 := by omega
    have h63 : i ≠ 63 := by omega
    simp [h30, h57, hlt, hidx, hi, h63, Nat.le_of_not_lt h30]
  · have hge : ¬i - 30 < 27 := by omega
    rw [if_neg h30, if_neg hge, hhead ⟨i - 30 - 27, by omega⟩]
    simp [h57]
    omega
/-- lnk.win (14 R428). -/
theorem State.lnkWin_eq (s : State) : s.lnkWin = if s.peerTrained then 1#1 ++ 0#6 ++ s.peerBase.extractLsb' 30 27 ++ 0#30 else 0 :=
  congrArg (ite _ · _) (window_eq s.peerBase)

/-- Settles O8: a read gives the listed value, and a write is one change of the context or of its core. -/
theorem controlRegisters : Obligations.ControlRegisters := by
  refine ⟨fun s d => ?_, fun s d a r old h hrun => ?_⟩
  · exact ⟨csr_reads rfl, fun hr => csr_reads (csr_wdog hr), csr_reads (congrArg some (va57_setWidth _)), csr_reads rfl,
      csr_reads (congrArg some s.lnkWin_eq), csr_reads rfl, csr_reads rfl, csr_reads rfl, csr_reads rfl, csr_reads rfl, csr_reads rfl, csr_reads rfl,
      csr_reads rfl, csr_reads rfl, csr_reads rfl, csr_reads rfl, csr_reads rfl, csr_reads rfl, csr_reads rfl, csr_reads rfl, csr_reads rfl,
      csr_reads rfl, csr_reads rfl, csr_reads rfl, csr_reads rfl, csr_reads rfl, csr_reads rfl, csr_reads rfl, csr_reads rfl, csr_reads rfl,
      csr_reads rfl, csr_reads rfl, csr_reads rfl, csr_reads rfl, csr_reads rfl, csr_reads rfl, csr_reads rfl⟩
  · have wrote : ∀ {v : Word} {o : Out}, Gives o (CsrDone s d r old v) → Gives o fun t => CsrWritten s r v t ∧ SameBytes s t ∧ Others s t
        ∧ (∀ n, t.ctx.rx n = s.ctx.withX d old n) ∧ (∀ n, t.ctx.rv n = s.ctx.rv n) ∧ (∀ n, t.ctx.rk n = s.ctx.rk n)
        ∧ (s.ctx.lstat = 0 → r ≠ 0x010 → t.ctx.pc = va57 (s.ctx.pc + 4)) := fun ⟨t, ht, hd⟩ =>
      ⟨t, ht, hd.written, hd.bytes, hd.others, hd.x, hd.v, hd.k, hd.pc⟩
    rw [exec_csrw, exec_csrset, exec_csrclr]
    exact ⟨wrote (csrStep_write h rfl hrun), fun ha => ⟨wrote (csrStep_write h (if_neg ha) hrun), wrote (csrStep_write h (if_neg ha) hrun)⟩⟩

end Sys2Proof.Machine
end

section
namespace Sys2Proof.Machine

/-! A store to two pages: the line of the second element leaves the L1 for that of the first. -/

/-- Core 0's context 0 holds the stride 4,096 in x1 and the mask of elements 0 and 1 in k1. -/
def twoPagesCtx : Ctx := { Ctx.reset with x := Ctx.reset.x.set 1 4096, k := Ctx.reset.k.set 1 3 }

/-- Pages 0 and 1 of the address space, at physical addresses 0 and 8,192. -/
def twoPagesGrants : List Grant := [{ pasid := 0, va := 0, log := 12, pa := 0, write := true }, { pasid := 0, va := 4096, log := 12, pa := 8192, write := true }]

/-- The first set of an L1 full of the core's own lines, line 128 of physical address 8,192 in the way that gives way first. -/
def fullSet : L1 := { ways := (List.finRange 8).map fun n => { line := 128 * (n.val + 1), way := n, what := .own 0 false }, plru := [] }

/-- Both pages lie in a region owned by core 0, whose L1 holds line 128 but not line 0; the host holds line 128 exclusively. -/
def twoPages : State :=
  { State.reset with
    cores := State.reset.cores.set 0 { Core.reset with ctxs := Core.reset.ctxs.set 0 twoPagesCtx, tlb1 := twoPagesGrants }
    spaces := [(0, { Space.reset with table := [BitVec.ofNat 128 (1 + 2 ^ 76)] })]
    l1s := [(0, fullSet)]
    lines := [(128, { Line.empty with host := .exclusive })] }

/-- The two elements of the store. -/
def twoPagesPieces : List Piece := [{ loc := .mem 0, len := 8, align := 8 }, { loc := .mem 4096, len := 8, align := 8 }]

theorem twoPages_goesAhead :
    twoPages.pieces (twoPages.ctx.rx 0) (widthOf 3 / 8) (activeOf (twoPages.ctx.rk 1) (lanesOf 3)) (fun n => n * (twoPages.ctx.rx 1).toInt) = .ok twoPagesPieces
    ∧ twoPages.access twoPages.cur twoPages.hot true twoPagesPieces = .ok [.phys 0 0 0, .phys 8192 4096 0] := by decide +kernel

/-- The store does not end: its context stands at it still. -/
theorem twoPages_store : (Outcome.state (exec (.vsts 0 0 1 1 3) twoPages)).ctx.pc = twoPages.ctx.pc ∧ twoPages.ctx.lstat = 0
    ∧ va57 (twoPages.ctx.pc + BitVec.ofNat 64 4) ≠ twoPages.ctx.pc := by decide +kernel

/-- Refutes O12: in twoPages both elements of a strided store may go ahead as it begins, for the L1 of core 0 holds core 0's own line of the second
one; the first element's line takes its place there, and then the second element waits for the exclusive copy that the host has of its line, so
that the store has not ended. -/
theorem not_vectorMemoryAccesses : ¬ Obligations.VectorMemoryAccesses := by
  intro h
  obtain ⟨hpieces, haccess⟩ := twoPages_goesAhead
  obtain ⟨hpc, hloop, hne⟩ := twoPages_store
  have hends := (h.2.1 twoPages (.vsts 0 0 1 1 3) (widthOf 3) 0 _ _ _ twoPagesPieces _ (.inl rfl) hpieces haccess).state
  obtain ⟨hnext, -, -, -⟩ := hends.1.flow.plain hloop
  exact hne (hnext.symm.trans hpc)

end Sys2Proof.Machine
end

section
namespace Sys2Proof.Machine

/-! The slice-order tree (03 R100). -/

theorem sliceNode_succ (c : Nat → Option Nat) (k i : Nat) :
    sliceNode c (k + 1) i = combineOpt addF32ne (sliceNode c k (2 * i)) (sliceNode c k (2 * i + 1)) := by
  rw [sliceNode]
  cases sliceNode c k (2 * i) <;> cases sliceNode c k (2 * i + 1) <;> rfl

/-- The lowest level of a tree taken first. -/
theorem sliceNode_level (c : Nat → Option Nat) (k i : Nat) :
    sliceNode c (k + 1) i = sliceNode (fun j => combineOpt addF32ne (c (2 * j)) (c (2 * j + 1))) k i := by
  induction k generalizing i with
  | zero => exact sliceNode_succ c 0 i
  | succ k ih => rw [sliceNode_succ, ih, ih, ← sliceNode_succ]

theorem sliceNode_absent {c : Nat → Option Nat} {k i : Nat} (h : ∀ j, i * 2 ^ k ≤ j → c j = none) : sliceNode c k i = none := by
  induction k generalizing i with
  | zero => exact h i (by simp)
  | succ k ih =>
    have hp := Nat.two_pow_pos k
    have hlow : i * 2 ^ (k + 1) = 2 * i * 2 ^ k := by rw [Nat.pow_succ]; ring
    rw [sliceNode_succ, ih fun j hj => h j (hlow ▸ hj), ih fun j hj => h j (by rw [hlow]; exact (Nat.mul_le_mul_right _ (Nat.le_succ _)).trans hj)]
    rfl

/-- Levels above the ones that hold a contribution add nothing. -/
theorem sliceNode_taller {c : Nat → Option Nat} {k l : Nat} (hkl : k ≤ l) (h : ∀ j, 2 ^ k ≤ j → c j = none) : sliceNode c l 0 = sliceNode c k 0 := by
  induction l, hkl using Nat.le_induction with
  | base => rfl
  | succ l hl ih =>
    have habsent : sliceNode c l 1 = none := sliceNode_absent fun j hj => h j ((Nat.pow_le_pow_right Nat.two_pos hl).trans (by simpa using hj))
    rw [sliceNode_succ, Nat.mul_zero, ih, habsent]
    cases sliceNode c k 0 <;> rfl

theorem sliceNode_height {c : Nat → Option Nat} {k l : Nat} (hk : ∀ j, 2 ^ k ≤ j → c j = none) (hl : ∀ j, 2 ^ l ≤ j → c j = none) :
    sliceNode c k 0 = sliceNode c l 0 :=
  (le_total k l).elim (fun h => (sliceNode_taller h hk).symm) fun h => sliceNode_taller h hl

theorem treeLevel_getD (op : Nat → Nat → Nat) (xs : List (Option Nat)) (j : Nat) :
    (treeLevel op xs).getD j none = combineOpt op (xs.getD (2 * j) none) (xs.getD (2 * j + 1) none) := by
  induction xs using treeLevel.induct generalizing j with
  | case1 a b r ih =>
    rw [treeLevel]
    cases j with
    | zero => rfl
    | succ j => rw [List.getD_cons_succ, ih, Nat.mul_succ]; rfl
  | case2 a =>
    rw [treeLevel]
    cases j with
    | zero => cases a <;> rfl
    | succ j => rfl
  | case3 => rfl

theorem treeLevel_length (op : Nat → Nat → Nat) (xs : List (Option Nat)) : 2 * (treeLevel op xs).length ≤ xs.length + 1 := by
  induction xs using treeLevel.induct with
  | case1 a b r ih => simp only [treeLevel, List.length_cons]; omega
  | case2 a => simp [treeLevel]
  | case3 => simp [treeLevel]

/-- The tree over a list is that of the nodes. -/
theorem treeReduce_eq_sliceNode {xs : List (Option Nat)} {k : Nat} (h : xs.length ≤ 2 ^ k) :
    treeReduce addF32ne k xs = sliceNode (fun j => xs.getD j none) k 0 := by
  induction k generalizing xs with
  | zero => cases xs <;> rfl
  | succ k ih =>
    have hlen := treeLevel_length addF32ne xs
    rw [Nat.pow_succ] at h
    rw [treeReduce, ih (by omega), sliceNode_level]
    exact congrArg (sliceNode · k 0) (funext fun j => treeLevel_getD addF32ne xs j)

theorem le_two_pow_ceilLog2 (n : Nat) : n ≤ 2 ^ ceilLog2 n := by
  rw [ceilLog2]
  split
  next h => exact h
  next h =>
    have := Nat.lt_log2_self (n := n - 1)
    omega

theorem sliceSum_eq {c : Nat → Option Nat} {n l : Nat} (hn : ∀ j, n ≤ j → c j = none) (hl : ∀ j, 2 ^ l ≤ j → c j = none) :
    sliceSum ((List.range n).map c) = fp32.canon ((sliceNode c l 0).getD 0) := by
  have hc : (fun j => ((List.range n).map c).getD j none) = c := funext fun j => by
    by_cases hj : j < n
    · simp [hj]
    · rw [List.getD_eq_default _ _ (by simpa using hj), hn j (Nat.le_of_not_lt hj)]
  have hle := le_two_pow_ceilLog2 n
  rw [sliceSum, List.length_map, List.length_range, treeReduce_eq_sliceNode (by simpa using hle), hc,
    sliceNode_height (fun j hj => hn j (hle.trans hj)) hl]

/-! Encodings fit their format. -/

/-- A number below 2^(B + sh) shifted down by sh and rounded is at most 2^B. -/
theorem roundInt_le {rm : BitVec 2} {neg sticky : Bool} {m B : Nat} {sh : Int} (h : (Nat.log2 m : Int) + 1 ≤ B + sh) :
    (roundInt rm neg sticky m sh).1 ≤ 2 ^ B := by
  have hm : m < 2 ^ (Nat.log2 m + 1) := Nat.lt_log2_self
  cases sh with
  | ofNat k =>
    have hlt : m >>> k < 2 ^ B := by
      rw [Nat.shiftRight_eq_div_pow, Nat.div_lt_iff_lt_mul (Nat.two_pow_pos k), ← Nat.pow_add]
      exact hm.trans_le (Nat.pow_le_pow_right Nat.two_pos (by simp at h; omega))
    have key : ∀ up : Bool, (if up then m >>> k + 1 else m >>> k) ≤ 2 ^ B := fun up => by
      cases up
      · exact hlt.le
      · exact hlt
    exact key _
  | negSucc k =>
    simp only [roundInt, Nat.shiftLeft_eq]
    calc m * 2 ^ (k + 1) ≤ 2 ^ (Nat.log2 m + 1) * 2 ^ (k + 1) := Nat.mul_le_mul_right _ hm.le
      _ = 2 ^ (Nat.log2 m + 1 + (k + 1)) := (Nat.pow_add _ _ _).symm
      _ ≤ 2 ^ B := Nat.pow_le_pow_right Nat.two_pos (by omega)

theorem Fp.withSign_lt {f : Fp} {neg : Bool} {x : Nat} (h : x < 2 ^ (f.eb + f.mb)) : f.withSign neg x < 2 ^ f.width := by
  rw [Fp.withSign, Fp.width, show 1 + f.eb + f.mb = f.eb + f.mb + 1 by omega, Nat.pow_succ]
  split <;> omega

/-- A format whose greatest finite value, infinity and NaN are encodings of it. -/
structure Fp.Sound (f : Fp) : Prop where
  top : f.top < 2 ^ f.eb - 1
  topM : f.topM < 2 ^ f.mb
  nan : f.nan < 2 ^ f.width

theorem fp32_sound : fp32.Sound := ⟨by decide, by decide, by decide⟩

section
variable {f : Fp}

theorem Fp.field_lt {e m : Nat} (he : e ≤ 2 ^ f.eb - 1) (hm : m < 2 ^ f.mb) : e * 2 ^ f.mb + m < 2 ^ (f.eb + f.mb) := by
  have hp := Nat.two_pow_pos f.eb
  calc e * 2 ^ f.mb + m < (e + 1) * 2 ^ f.mb := by rw [Nat.succ_mul]; omega
    _ ≤ 2 ^ f.eb * 2 ^ f.mb := Nat.mul_le_mul_right _ (by omega)
    _ = 2 ^ (f.eb + f.mb) := (Nat.pow_add _ _ _).symm

theorem Fp.inf_lt (neg : Bool) : f.inf neg < 2 ^ f.width := Fp.withSign_lt (Fp.field_lt le_rfl (Nat.two_pow_pos _))

theorem Fp.zero_lt (neg : Bool) : f.zero neg < 2 ^ f.width := Fp.withSign_lt (Nat.two_pow_pos _)

theorem Fp.Sound.overflow_lt (hf : f.Sound) (rm : BitVec 2) (neg : Bool) : f.overflow rm neg < 2 ^ f.width := by
  rw [Fp.overflow]
  split
  · exact Fp.withSign_lt (Fp.field_lt hf.top.le hf.topM)
  · exact Fp.inf_lt neg

/-- The fields of a rounded number. -/
theorem Fp.Sound.bits_lt (hf : f.Sound) {n : Nat} {q : Int} (hn : n < 2 ^ (f.mb + 1)) (hq : q ≤ (f.top : Int) - f.bias - f.mb) :
    (if n < 2 ^ f.mb then n else (q + f.mb + f.bias).toNat * 2 ^ f.mb + (n - 2 ^ f.mb)) < 2 ^ (f.eb + f.mb) := by
  have htop := hf.top
  rw [Nat.pow_succ] at hn
  split
  next h => exact h.trans_le (Nat.pow_le_pow_right Nat.two_pos (Nat.le_add_left _ _))
  next h => exact Fp.field_lt (by omega) (by omega)

theorem Fp.Sound.round_lt (hf : f.Sound) (rm : BitVec 2) (neg : Bool) (m : Nat) (e : Int) (sticky : Bool) :
    (f.round rm neg m e sticky).1 < 2 ^ f.width := by
  unfold Fp.round
  split
  · exact Fp.zero_lt neg
  · have hr : (roundInt rm neg sticky m (max (e + Nat.log2 m - f.mb) (1 - (f.bias : Int) - f.mb) - e)).1 ≤ 2 ^ (f.mb + 1) :=
      roundInt_le (by push_cast; omega)
    dsimp only
    generalize roundInt rm neg sticky m _ = r at hr ⊢
    generalize max (e + (Nat.log2 m : Int) - f.mb) _ = q0
    have hn : (if r.1 = 2 ^ (f.mb + 1) then 2 ^ f.mb else r.1) < 2 ^ (f.mb + 1) := by
      have hp := Nat.two_pow_pos f.mb
      rw [Nat.pow_succ] at hr ⊢
      split <;> omega
    generalize (if r.1 = 2 ^ (f.mb + 1) then 2 ^ f.mb else r.1) = n at hn ⊢
    generalize (if r.1 = 2 ^ (f.mb + 1) then q0 + 1 else q0) = q
    by_cases hover : (f.top : Int) - f.bias - f.mb < q ∨ (q = (f.top : Int) - f.bias - f.mb ∧ 2 ^ f.mb + f.topM < n)
    · rw [if_pos hover]
      exact hf.overflow_lt rm neg
    · rw [if_neg hover]
      exact Fp.withSign_lt (hf.bits_lt hn (by omega))

theorem Fp.Sound.add_lt (hf : f.Sound) (rm : BitVec 2) (a b : FVal) : (f.add rm a b).1 < 2 ^ f.width := by
  unfold Fp.add
  split
  · exact hf.nan
  · exact hf.nan
  · split
    · exact Fp.inf_lt _
    · exact hf.nan
  · exact Fp.inf_lt _
  · exact Fp.inf_lt _
  · unfold Fp.sum
    dsimp only
    split
    · exact Fp.zero_lt _
    · exact hf.round_lt _ _ _ _ _

end

theorem addF32ne_lt (a b : Nat) : addF32ne a b < 2 ^ 32 := fp32_sound.add_lt 0 (fp32.value a) (fp32.value b)

theorem sliceNode_lt {c : Nat → Option Nat} (hc : ∀ j x, c j = some x → x < 2 ^ 32) (k i : Nat) {x : Nat} (h : sliceNode c k i = some x) :
    x < 2 ^ 32 := by
  induction k generalizing i x with
  | zero => exact hc i x h
  | succ k ih =>
    rw [sliceNode_succ] at h
    revert h
    cases ha : sliceNode c k (2 * i) with
    | none => exact fun h => ih _ h
    | some a =>
      cases hb : sliceNode c k (2 * i + 1) with
      | none => exact fun h => ih _ (ha.trans h)
      | some b =>
        intro h
        obtain rfl := Option.some.inj h
        exact addF32ne_lt a b

theorem canon_sliceNode_lt {c : Nat → Option Nat} (hc : ∀ j x, c j = some x → x < 2 ^ 32) (k : Nat) :
    fp32.canon ((sliceNode c k 0).getD 0) < 2 ^ 32 := by
  rw [Fp.canon]
  split
  · exact fp32_sound.nan
  · cases h : sliceNode c k 0 with
    | none => decide
    | some x => exact sliceNode_lt hc k 0 h

end Sys2Proof.Machine
end

section
namespace Sys2Proof.Machine

/-! What a trap leaves of the other contexts (01 R41, 14 R417). -/

/-- Every context stands as it did. -/
def StatusKept (s t : State) : Prop := ∀ d y, (t.ctxAt d y).status = (s.ctxAt d y).status

theorem StatusKept.trans {s t u : State} (h : StatusKept s t) (g : StatusKept t u) : StatusKept s u := fun d y => (g d y).trans (h d y)

theorem statusKept_of_cores {s t : State} (h : t.cores = s.cores) : StatusKept s t := fun d y => by rw [State.ctxAt_congr h]

theorem statusKept_modCore (s : State) (c : CoreId) {f : Core → Core} (h : ∀ (k : Core) (y : CtxId), ((f k).ctxs[y]).status = (k.ctxs[y]).status) :
    StatusKept s (s.modCore c f) := fun d y => by
  rw [State.ctxAt, State.coreAt_modCore_eq]
  split
  · exact h _ y
  · rfl

theorem wakeCore_cores (s : State) (c : CoreId) : (s.wakeCore c).cores = s.cores := by
  unfold State.wakeCore
  split <;> rfl

theorem StatusKept.post {s t : State} (h : StatusKept s t) (i : Instr) : StatusKept s (t.post i) := h

theorem StatusKept.wakeCore {s t : State} (h : StatusKept s t) (c : CoreId) : StatusKept s (t.wakeCore c) :=
  h.trans (statusKept_of_cores (wakeCore_cores t c))

theorem freeSlot_statusKept (s : State) (c : CoreId) : StatusKept s (s.freeSlot c) := by
  unfold State.freeSlot
  refine StatusKept.post (statusKept_modCore s c fun k y => ?_) _
  simp only [Core.modCtx, Fin.getElem_fin, Vector.getElem_set]
  split
  next h =>
    have hy : (k.slot.getD k.last) = y := Fin.ext h
    subst hy
    split <;> rfl
  next h => rfl

theorem leaveSlot_statusKept (s : State) (c : CoreId) (x : CtxId) : StatusKept s (s.leaveSlot c x) := by
  unfold State.leaveSlot
  split
  · exact freeSlot_statusKept s c
  · exact fun _ _ => rfl

theorem toPeer_cores (s : State) (i : Instr) : (s.toPeer i).cores = s.cores := (toPeer_onlyWaiters s i).cores

theorem faultService_cores (s : State) (lid : Nat) : (s.faultService lid).cores = s.cores := by
  unfold State.faultService
  split
  · split <;> rfl
  · rfl

theorem takeMid_statusKept (s : State) (c : CoreId) (b : Bool) : StatusKept s (if b then (0, s) else s.takeMid c).2 := by
  cases b with
  | true => exact fun _ _ => rfl
  | false => exact statusKept_modCore s c fun _ _ => rfl

theorem enterTrapq_statusKept (s : State) (c : CoreId) (r : Msg) : StatusKept s (s.enterTrapq c r) := by
  unfold State.enterTrapq
  split
  · exact fun _ _ => rfl
  · dsimp only
    split
    · exact statusKept_of_cores (faultService_cores _ _)
    · split
      · exact statusKept_of_cores (faultService_cores _ _)
      · generalize decide (4 ≤ bitsOf (Msg.word r 1).toNat 29 27) = b
        refine StatusKept.wakeCore ?_ c
        refine StatusKept.trans (takeMid_statusKept s c b) ?_
        exact statusKept_modCore _ c fun _ _ => rfl

theorem report_statusKept (s : State) (c : CoreId) (w : Msg) (cause : BitVec 9) (val : Word) (ret : Nat) : StatusKept s (s.report c w cause val ret) := by
  unfold State.report
  dsimp only
  split
  · split
    · exact enterTrapq_statusKept _ _ _
    · split <;> exact statusKept_of_cores rfl
  · split
    · exact fun _ _ => rfl
    · exact statusKept_of_cores (toPeer_cores _ _)
  · exact fun _ _ => rfl

theorem storeAt_cores (s : State) (attr : BitVec 2) (pa : Nat) (bs : List Byte) : (s.storeAt attr pa bs).cores = s.cores := by
  unfold State.storeAt
  split
  · exact store_cores s pa bs
  · exact put_cores s pa bs

theorem writeVa_cores (s : State) (pasid : BitVec 20) (va : Word) (n x : Nat) : (s.writeVa pasid va n x).cores = s.cores := by
  unfold State.writeVa
  split
  · split
    · rfl
    · exact (storeAt_cores _ _ _ _).trans (claimHome_cores s _)
  · rfl

theorem spillTasks_statusKept (c : CoreId) (ts : List Task) (s t : State) (h : s.spillTasks c ts = some t) : StatusKept s t := by
  induction ts generalizing s with
  | nil =>
    obtain rfl := Option.some.inj h
    exact fun _ _ => rfl
  | cons a r ih =>
    rw [State.spillTasks, Option.bind_eq_some_iff] at h
    obtain ⟨va, -, h⟩ := h
    refine StatusKept.trans ?_ (ih _ h)
    exact (statusKept_of_cores (writeVa_cores s _ _ _ _)).trans (statusKept_modCore _ c fun _ _ => rfl)

theorem pushTask_statusKept (s : State) (c : CoreId) (a : Task) : StatusKept s (s.pushTask c a).1 := by
  unfold State.pushTask
  dsimp only
  split
  · exact statusKept_modCore s c fun _ _ => rfl
  · split
    next t h => exact (spillTasks_statusKept c _ s t h).trans (statusKept_modCore _ c fun _ _ => rfl)
    next => exact fun _ _ => rfl

theorem evalFailure_cores (s : State) (c : CoreId) (k : Ctx) : (s.evalFailure c k).cores = s.cores := by
  unfold State.evalFailure
  dsimp only
  split
  · rfl
  · split <;> rfl

/-- Ending a handler leaves every other context as it stands. -/
theorem clearCtx_status (s : State) {c d : CoreId} {x y : CtxId} (back : Bool) (h : (d, y) ≠ (c, x)) :
    ((s.clearCtx c x back).ctxAt d y).status = (s.ctxAt d y).status := by
  refine (leaveSlot_statusKept _ c x d y).trans (congrArg Ctx.status ?_)
  rw [State.ctxAt, State.coreAt_modCore_eq]
  split
  next hd =>
    subst hd
    refine (Vector.getElem_set_ne x.isLt y.isLt fun e => h ?_).trans rfl
    rw [Fin.ext e]
  next => rfl

/-- A trap leaves every context but its own as it stands. -/
theorem takeTrapAt_status (s : State) {c d : CoreId} {x y : CtxId} (cause : BitVec 9) (val aux : Word) (h : (d, y) ≠ (c, x)) :
    ((s.takeTrapAt c x cause val aux).ctxAt d y).status = (s.ctxAt d y).status := by
  have hclear : (((s.evalFailure c (s.ctxAt c x)).clearCtx c x ((s.ctxAt c x).returns cause)).ctxAt d y).status = (s.ctxAt d y).status :=
    (clearCtx_status _ _ h).trans (statusKept_of_cores (evalFailure_cores s c _) d y)
  have hrec : ∀ (b : Bool) (r : Msg) (u : State), StatusKept u
      (if b then (match (s.coreAt c).ident.lid with
        | some lid => u.faultService lid
        | none => u) else u.enterTrapq c r) := fun b r u => by
    cases b with
    | true =>
      cases (s.coreAt c).ident.lid with
      | some lid => exact statusKept_of_cores (faultService_cores u lid)
      | none => exact fun _ _ => rfl
    | false => exact enterTrapq_statusKept u c _
  have hpush : ∀ (u : State) (b : Bool) (a : Task), StatusKept u (if b then u.pushTask c a else (u, true)).1 := fun u b a => by
    cases b with
    | true => exact pushTask_statusKept u c a
    | false => exact fun _ _ => rfl
  have hreport : ∀ (u : State) (r : State × Bool) (t : Trigger) (v : Word), StatusKept u r.1 →
      StatusKept u (if r.2 then r.1 else r.1.report c t.word 0x0CB v t.returns) := fun u r t v h => by
    split
    · exact h
    · exact h.trans (report_statusKept _ _ _ _ _ _)
  rw [← hclear]
  unfold State.takeTrapAt
  dsimp only
  cases (s.ctxAt c x).trigger with
  | none => rfl
  | some t =>
    exact (hrec _ _ _ d y).trans (hreport _ _ _ _ (hpush _ _ _) d y)

end Sys2Proof.Machine
end

section
namespace Sys2Proof.Machine

/-! The end of a wait (04 R115). -/

theorem Ctx.loopEnd1_status (c : Ctx) (st : Status) (n : Word) :
    ({ c with status := st } : Ctx).loopEnd1 n = ({ (c.loopEnd1 n).1 with status := st }, (c.loopEnd1 n).2) := by
  unfold Ctx.loopEnd1
  dsimp only
  split
  · split <;> rfl
  · rfl

theorem Ctx.loopEnd0_status (c : Ctx) (st : Status) (n : Word) :
    ({ c with status := st } : Ctx).loopEnd0 n = ({ (c.loopEnd0 n).1 with status := st }, (c.loopEnd0 n).2) := by
  unfold Ctx.loopEnd0
  dsimp only
  split
  · split <;> rfl
  · rfl

theorem Ctx.loopLeave_status (c : Ctx) (st : Status) (n : Word) :
    ({ c with status := st } : Ctx).loopLeave n = { c.loopLeave n with status := st } := by
  unfold Ctx.loopLeave
  dsimp only
  split <;> split <;> rfl

/-- The loop check reads no status. -/
theorem Ctx.retire_status (c : Ctx) (st : Status) (len : Nat) (n : Word) :
    ({ c with status := st } : Ctx).retire len n = { c.retire len n with status := st } := by
  have hp : ({ c with status := st } : Ctx).pc = c.pc := rfl
  unfold Ctx.retire
  dsimp only
  rw [Ctx.loopEnd1_status]
  by_cases h : n = va57 (c.pc + BitVec.ofNat 64 len)
  · simp only [if_pos h]
    split
    · simp only [h, Ctx.loopEnd0_status, Ctx.loopLeave_status]
    · simp only [h, Ctx.loopLeave_status]
  · simp only [h, if_false, false_and, Ctx.loopLeave_status]

theorem Ctx.Wrote.registers_retire {c d : Ctx} (h : c.Wrote d) (len : Nat) (n : Word) : Registers c len n d.rx d.rv d.rk d.fmt (d.retire len n) := by
  obtain ⟨hpc, hls, h0, h1⟩ := Ctx.retire_wrote h d.busy len n
  refine ⟨?_, fun r => Ctx.retire_rx d len n r, fun r => Ctx.retire_rv d len n r, fun r => Ctx.retire_rk d len n r, Ctx.retire_fmt d len n,
    ⟨hpc, hls, h0, h1, fun hl => ?_⟩⟩
  · unfold CtxKeeps
    rw [Ctx.retire_looped, h]
  · have hd : d.lstat = 0 := by rw [h]; exact hl
    rw [Ctx.retire_noLoop _ _ _ hd]
    exact ⟨rfl, hd, by rw [h], by rw [h]⟩

/-- A context whose wait ends with its registers changed by f. -/
def Ctx.afterWait (k : Ctx) (f : Ctx → Ctx) : Ctx := { (f k).retire 4 (k.seq 4) with status := .ready }

theorem Ctx.afterWait_answered (k : Ctx) (d : BitVec 5) (v : Msg) : Answered k .ready k.rx (k.withV d v) (k.afterWait fun c => c.wv d v) := by
  have hw : ({ k with status := .ready } : Ctx).Wrote { k.wv d v with status := .ready } := rfl
  obtain ⟨hkeeps, hx, hv, hk, hf, hflow⟩ := hw.registers_retire 4 (k.seq 4)
  rw [Ctx.retire_status] at hkeeps hx hv hk hf hflow
  exact ⟨hkeeps, hx, fun r => (hv r).trans (Ctx.rv_wv k d r v), hk, hf, hflow⟩

theorem Ctx.afterWait_pc {k : Ctx} (h : k.lstat = 0) : (k.afterWait id).pc = va57 (k.pc + 4) := by
  unfold Ctx.afterWait
  rw [id, Ctx.retire_noLoop _ _ _ h]
  rfl

/-- Of cores, nothing but contexts differs. -/
structure OnlyContexts (s t : State) : Prop where
  mem : t.mem = s.mem
  core : ∀ d, t.coreAt d = { s.coreAt d with ctxs := (t.coreAt d).ctxs }

theorem OnlyContexts.refl (s : State) : OnlyContexts s s := ⟨rfl, fun _ => rfl⟩

theorem OnlyContexts.trans {s t u : State} (h : OnlyContexts s t) (g : OnlyContexts t u) : OnlyContexts s u :=
  ⟨g.mem.trans h.mem, fun d => by rw [g.core d, h.core d]⟩

theorem OnlyContexts.sameBytes {s t : State} (h : OnlyContexts s t) : SameBytes s t := ⟨fun a => by rw [h.mem], fun c o => by rw [h.core c]⟩

theorem OnlyContexts.modCtx (s : State) (c : CoreId) (x : CtxId) (f : Ctx → Ctx) : OnlyContexts s (s.modCtx c x f) :=
  ⟨rfl, fun d => by
    rw [State.modCtx, State.coreAt_modCore_eq]
    split <;> rfl⟩

/-- A step of one context. -/
structure ContextStep (c : CoreId) (x : CtxId) (f : Ctx → Ctx) (s t : State) : Prop where
  only : OnlyContexts s t
  self : t.ctxAt c x = f (s.ctxAt c x)
  others : AllBut s t c x

theorem ContextStep.modCtx (s : State) (c : CoreId) (x : CtxId) (f : Ctx → Ctx) : ContextStep c x f s (s.modCtx c x f) :=
  ⟨OnlyContexts.modCtx s c x f, State.ctxAt_modCtx s c x f, fun _ _ h => State.ctxAt_modCtx_of_ne s f h⟩

theorem ContextStep.wakeCore {c : CoreId} {x : CtxId} {f : Ctx → Ctx} {s t : State} (h : ContextStep c x f s t) (d : CoreId) :
    ContextStep c x f s (t.wakeCore d) := by
  have hm : (t.wakeCore d).mem = t.mem := by
    unfold State.wakeCore
    split <;> rfl
  have hc := wakeCore_cores t d
  exact ⟨⟨hm.trans h.only.mem, fun e => by rw [State.coreAt_congr hc, ← h.only.core e]⟩, (State.ctxAt_congr hc c x).trans h.self,
    fun e y hn => (State.ctxAt_congr hc e y).trans (h.others e y hn)⟩

theorem ContextStep.comp {c : CoreId} {x : CtxId} {f g : Ctx → Ctx} {s t u : State} (h : ContextStep c x f s t) (k : ContextStep c x g t u) :
    ContextStep c x (fun d => g (f d)) s u :=
  ⟨h.only.trans k.only, by rw [k.self, h.self], fun d y hn => (k.others d y hn).trans (h.others d y hn)⟩

theorem makeReady_contextStep (s : State) (c : CoreId) (x : CtxId) : ContextStep c x (fun k => { k with status := .ready }) s (s.makeReady c x) :=
  (ContextStep.modCtx s c x _).wakeCore c

theorem finishWait_contextStep (s : State) (c : CoreId) (x : CtxId) (f : Ctx → Ctx) : ContextStep c x (fun k => k.afterWait f) s (s.finishWait c x f) :=
  (ContextStep.modCtx s c x _).comp (makeReady_contextStep _ c x)

/-- Steps of contexts that differ, each as it finds its context at first. -/
theorem foldl_contextStep {α : Type} {key : α → CoreId × CtxId} {step : State → α → State} {P : α → Ctx → Prop} {fin : α → Ctx → Ctx}
    (h : ∀ t a, P a (t.ctxAt (key a).1 (key a).2) → ContextStep (key a).1 (key a).2 (fin a) t (step t a)) (ks : List α) (s : State)
    (hn : (ks.map key).Nodup) (hp : ∀ a ∈ ks, P a (s.ctxAt (key a).1 (key a).2)) :
    OnlyContexts s (ks.foldl step s) ∧ (∀ a ∈ ks, (ks.foldl step s).ctxAt (key a).1 (key a).2 = fin a (s.ctxAt (key a).1 (key a).2))
      ∧ ∀ d y, (d, y) ∉ ks.map key → (ks.foldl step s).ctxAt d y = s.ctxAt d y := by
  induction ks generalizing s with
  | nil => exact ⟨OnlyContexts.refl s, fun _ h => absurd h List.not_mem_nil, fun _ _ _ => rfl⟩
  | cons a r ih =>
    rw [List.map_cons, List.nodup_cons] at hn
    obtain ⟨ha, hr⟩ := hn
    have hstep := h s a (hp a List.mem_cons_self)
    have hkept : ∀ d y, (d, y) ≠ key a → (step s a).ctxAt d y = s.ctxAt d y := fun d y hd =>
      hstep.others d y (not_and_or.mp fun ⟨h1, h2⟩ => hd (Prod.ext h1 h2))
    have hlater : ∀ b ∈ r, key b ≠ key a := fun b hb e => ha (e ▸ List.mem_map_of_mem hb)
    obtain ⟨ho, hs, hk⟩ := ih (step s a) hr fun b hb => by
      rw [hkept _ _ (hlater b hb)]
      exact hp b (List.mem_cons_of_mem a hb)
    refine ⟨hstep.only.trans ho, fun b hb => ?_, fun d y hd => ?_⟩
    · rcases List.mem_cons.mp hb with rfl | hb
      · exact (hk _ _ ha).trans hstep.self
      · exact (hs b hb).trans (congrArg (fin b) (hkept _ _ (hlater b hb)))
    · rw [List.map_cons, List.mem_cons, not_or] at hd
      exact (hk d y hd.2).trans (hkept d y hd.1)

end Sys2Proof.Machine
end

section
namespace Sys2Proof.Machine

/-! Barriers and group reductions (07 R242 to R245). -/

section
variable {ks : List Contribution}

/-- How many contributions name a slice. -/
def named (ks : List Contribution) (v : Nat) : Nat := (ks.filter fun e => e.slice = v).length

theorem mem_slices_of_named {v : Nat} (h : 1 < named ks v) : v ∈ ks.map (·.slice) := by
  obtain ⟨e, he⟩ := List.exists_mem_of_length_pos (Nat.zero_lt_of_lt h)
  obtain ⟨he, hv⟩ := List.mem_filter.mp he
  exact List.mem_map.mpr ⟨e, he, of_decide_eq_true hv⟩

theorem mem_doubled {v : Nat} : v ∈ ((ks.map (·.slice)).filter fun n => 1 < (ks.filter fun k => k.slice == n).length) ↔ 1 < named ks v := by
  have hb : (ks.filter fun k => k.slice == v).length = named ks v := congrArg List.length (List.filter_congr fun k _ => beq_eq_decide _ _)
  rw [List.mem_filter, decide_eq_true_iff, hb]
  exact ⟨And.right, fun h => ⟨mem_slices_of_named h, h⟩⟩

theorem doubledSlice_eq_none (h : ∀ v, named ks v ≤ 1) : doubledSlice ks = none := by
  refine List.min?_eq_none_iff.mpr (List.eq_nil_iff_forall_not_mem.mpr fun v hv => ?_)
  exact absurd (mem_doubled.mp hv) (Nat.not_lt.mpr (h v))

theorem doubledSlice_eq_some {v : Nat} (h : 2 ≤ named ks v) (hu : ∀ u, u < v → named ks u ≤ 1) : doubledSlice ks = some v := by
  refine List.min?_eq_some_iff.mpr ⟨mem_doubled.mpr h, fun u hm => ?_⟩
  by_contra hlt
  exact absurd (mem_doubled.mp hm) (Nat.not_lt.mpr (hu u (Nat.lt_of_not_le hlt)))

theorem any_word_iff : ks.any (·.word) = true ↔ ∃ e ∈ ks, e.word = true := List.any_eq_true

theorem any_float_iff : (ks.any fun k => !k.word) = true ↔ ∃ e ∈ ks, e.word = false := by
  simp only [List.any_eq_true, Bool.not_eq_true']

theorem vredgOutcome_doubled {v : Nat} (h : 2 ≤ named ks v) (hu : ∀ u, u < v → named ks u ≤ 1) :
    vredgOutcome ks = .error (0x0C9, BitVec.ofNat 64 v) := by rw [vredgOutcome, doubledSlice_eq_some h hu]

theorem vredgOutcome_mixed (h : ∀ v, named ks v ≤ 1) (hw : ∃ e ∈ ks, e.word = true) (hf : ∃ e ∈ ks, e.word = false) :
    vredgOutcome ks = .error (0x0CA, 0) := by
  rw [vredgOutcome, doubledSlice_eq_none h]
  exact if_pos ⟨any_word_iff.mpr hw, any_float_iff.mpr hf⟩

theorem vredgOutcome_ok (h : ∀ v, named ks v ≤ 1) (hs : ∀ e ∈ ks, ∀ f ∈ ks, e.word = f.word) :
    vredgOutcome ks = .ok (ofElems 32 ((List.range 16).map (vredgLane ks))) := by
  rw [vredgOutcome, doubledSlice_eq_none h]
  refine if_neg fun ⟨hw, hf⟩ => ?_
  obtain ⟨e, he, hw⟩ := any_word_iff.mp hw
  obtain ⟨f, hf, hn⟩ := any_float_iff.mp hf
  exact absurd ((hw.symm.trans (hs e he f hf)).trans hn) (by decide)

theorem vredgLane_word (hw : ∀ e ∈ ks, e.word = true) (i : Nat) : vredgLane ks i = (ks.map fun e => elem e.data 32 i).sum % 2 ^ 32 := by
  unfold vredgLane
  split
  next => rw [foldl_add_eq, Nat.zero_add]
  next h =>
    have hk : ks = [] := List.eq_nil_iff_forall_not_mem.mpr fun e he => h (any_word_iff.mpr ⟨e, he, hw e he⟩)
    rw [hk]
    exact (by decide : sliceSum [] = 0)

/-- The element i of the contribution of each slice. -/
def sliceElem (ks : List Contribution) (i j : Nat) : Option Nat := (ks.find? fun e => e.slice = j).map fun e => elem e.data 32 i

theorem sliceElem_none {i j : Nat} (h : ∀ e ∈ ks, e.slice ≠ j) : sliceElem ks i j = none := by
  rw [sliceElem, List.find?_eq_none.mpr fun e he => by simpa using h e he]
  rfl

theorem slice_lt_foldl_max {e : Contribution} (he : e ∈ ks) : e.slice < ks.foldl (fun n k => max n (k.slice + 1)) 0 := by
  have hm : e.slice + 1 ∈ ks.map (·.slice + 1) := List.mem_map_of_mem he
  have h := ((foldl_max_spec fun v _ => Nat.zero_le v).2 (List.ne_nil_of_mem hm)).2 _ hm
  rwa [List.foldl_map] at h

theorem vredgLane_float (hf : ∀ e ∈ ks, e.word = false) {i l : Nat} (hl : ∀ e ∈ ks, e.slice < 2 ^ l) :
    vredgLane ks i = fp32.canon ((sliceNode (sliceElem ks i) l 0).getD 0) := by
  have hw : ¬ ks.any (·.word) = true := fun h => by
    obtain ⟨e, he, hw⟩ := any_word_iff.mp h
    exact absurd (hw.symm.trans (hf e he)) (by decide)
  unfold vredgLane
  rw [if_neg hw]
  have hc : ∀ j, ((ks.find? fun k => k.slice == j).map fun k => elem k.data 32 i) = sliceElem ks i j := fun j => rfl
  simp only [hc]
  exact sliceSum_eq (fun j hj => sliceElem_none fun e he => Nat.ne_of_lt ((slice_lt_foldl_max he).trans_le hj))
    fun j hj => sliceElem_none fun e he => Nat.ne_of_lt ((hl e he).trans_le hj)

end

end Sys2Proof.Machine
end

section
namespace Sys2Proof.Machine

variable {s : State} {g : Fin 256} {k : Group} {phase : BitVec 16} {ks : List Contribution}

/-! The result of a group reduction (07 R245). -/

/-- Each contributor waits for the result. -/
def AwaitResult (s : State) (ks : List Contribution) : Prop := ∀ e ∈ ks, ∃ m p, (s.ctxAt e.core e.ctx).status = .suspended (.vredg m p)

/-- The context of a contribution. -/
def contributorOf (e : Contribution) : CoreId × CtxId := (e.core, e.ctx)

theorem State.endVredg_error {e : Contribution} {m : Fin 4} {p : BitVec 16} (h : (s.ctxAt e.core e.ctx).status = .suspended (.vredg m p))
    (q : BitVec 9) (v : Word) : s.endVredg (.error (q, v)) e = s.takeTrapAt e.core e.ctx q v 0 := by rw [State.endVredg, h]

theorem State.endVredg_ok {e : Contribution} {m : Fin 4} {p : BitVec 16} (h : (s.ctxAt e.core e.ctx).status = .suspended (.vredg m p))
    (v : Msg) : s.endVredg (.ok v) e = s.finishWait e.core e.ctx fun c => c.wv e.dst v := by rw [State.endVredg, h]

/-- The trap of one contributor leaves the others as they wait. -/
theorem foldl_endVredg_error (q : BitVec 9) (v : Word) (ks : List Contribution) (s : State) (hn : (ks.map contributorOf).Nodup) (h : AwaitResult s ks) :
    ks.foldl (fun t e => t.endVredg (.error (q, v)) e) s = ks.foldl (fun t e => t.takeTrapAt e.core e.ctx q v 0) s := by
  induction ks generalizing s with
  | nil => rfl
  | cons a r ih =>
    rw [List.map_cons, List.nodup_cons] at hn
    obtain ⟨ha, hr⟩ := hn
    obtain ⟨m, p, hs⟩ := h a List.mem_cons_self
    rw [List.foldl_cons, List.foldl_cons, State.endVredg_error hs]
    refine ih _ hr fun e he => ?_
    have hk : contributorOf e ≠ contributorOf a := fun hk => ha (hk ▸ List.mem_map_of_mem he)
    rw [takeTrapAt_status s q v 0 hk]
    exact h e (List.mem_cons_of_mem a he)

theorem foldl_endVredg_ok (v : Msg) (hn : (ks.map contributorOf).Nodup) (h : AwaitResult s ks) :
    OnlyContexts s (ks.foldl (fun t e => t.endVredg (.ok v) e) s)
      ∧ (∀ e ∈ ks, (ks.foldl (fun t e => t.endVredg (.ok v) e) s).ctxAt e.core e.ctx = (s.ctxAt e.core e.ctx).afterWait fun c => c.wv e.dst v)
      ∧ ∀ d y, (d, y) ∉ ks.map contributorOf → (ks.foldl (fun t e => t.endVredg (.ok v) e) s).ctxAt d y = s.ctxAt d y :=
  foldl_contextStep (key := contributorOf) (P := fun _ c => ∃ m p, c.status = .suspended (.vredg m p)) (fin := fun e c => c.afterWait fun c => c.wv e.dst v)
    (fun t e ⟨m, p, ht⟩ => by
      rw [State.endVredg_ok ht]
      exact finishWait_contextStep t e.core e.ctx _) ks s hn h

/-- The contributions to a phase, discarded. -/
def State.withoutContribs (s : State) (g : Fin 256) (phase : BitVec 16) : State :=
  s.modGroup g fun h => { h with contribs := h.contribs.filter fun f => f.1 ≠ phase }

theorem exec_vredgResult_eq (hg : s.groups[g] = some k) (hc : s.contribPending g phase = false)
    (hk : (k.contribs.filter fun f => f.1 = phase).map (·.2) = ks) :
    exec (.vredgResult g phase) s = .next (ks.foldl (fun t e => t.endVredg (vredgOutcome ks) e) (s.withoutContribs g phase)) := by
  have hb : (k.contribs.filter fun e => e.1 == phase) = k.contribs.filter fun f => f.1 = phase := List.filter_congr fun e _ => beq_eq_decide _ _
  have hd : (fun h : Group => { h with contribs := h.contribs.filter fun e => e.1 != phase })
      = fun h : Group => { h with contribs := h.contribs.filter fun f => f.1 ≠ phase } := funext fun h =>
    congrArg (fun l => { h with contribs := l }) (List.filter_congr fun e _ => Bool.eq_iff_iff.mpr (by simp))
  change execVredgResult g phase s = _
  unfold execVredgResult
  rw [State.group?, hg]
  dsimp only
  rw [hc, hb, hk, hd]
  rfl


/-! The completion of a phase (07 R242). -/

/-- A context released by the completion of phase p of slot n. -/
def Ctx.released (n : Fin 4) (p : BitVec 16) (c : Ctx) : Ctx :=
  match c.status with
  | .suspended (.barrier m q again) =>
    if m = n ∧ q = p then (if again then { c with status := .ready } else c.afterWait id) else c
  | _ => c

theorem releasePhase_contextStep (s : State) (c : CoreId) (n : Fin 4) (p : BitVec 16) (x : CtxId) :
    ContextStep c x (Ctx.released n p) s (s.releasePhase c n p x) := by
  have key : ∀ {f : Ctx → Ctx} {t : State}, ContextStep c x f s t → (s.ctxAt c x).released n p = f (s.ctxAt c x) →
      ContextStep c x (Ctx.released n p) s t := fun h he => ⟨h.only, h.self.trans he.symm, h.others⟩
  have stays : ContextStep c x id s s := ⟨OnlyContexts.refl s, rfl, fun _ _ _ => rfl⟩
  unfold State.releasePhase
  split
  next m q again hst =>
    split
    next hm =>
      split
      next ha => exact key (makeReady_contextStep s c x) (by rw [Ctx.released, hst]; simp [hm, ha])
      next ha => exact key (finishWait_contextStep s c x id) (by rw [Ctx.released, hst]; simp [hm, ha])
    next hm => exact key stays (by rw [Ctx.released, hst]; simp [hm])
  next hst => exact key stays (by
    rw [Ctx.released]
    split
    next h => exact absurd h (hst _ _ _)
    next => rfl)

theorem Ctx.released_again {c : Ctx} {n : Fin 4} {p : BitVec 16} (h : c.status = .suspended (.barrier n p true)) :
    c.released n p = { c with status := .ready } := by
  rw [Ctx.released, h]
  simp

theorem Ctx.released_waited {c : Ctx} {n : Fin 4} {p : BitVec 16} (h : c.status = .suspended (.barrier n p false)) :
    c.released n p = c.afterWait id := by
  rw [Ctx.released, h]
  simp

theorem foldl_releasePhase (s : State) (c : CoreId) (n : Fin 4) (p : BitVec 16) :
    OnlyContexts s ((List.finRange 4).foldl (fun t x => t.releasePhase c n p x) s)
      ∧ ∀ x, ((List.finRange 4).foldl (fun t x => t.releasePhase c n p x) s).ctxAt c x = (s.ctxAt c x).released n p := by
  obtain ⟨ho, hs, -⟩ := foldl_contextStep (key := fun x : CtxId => (c, x)) (P := fun _ _ => True) (fin := fun _ => Ctx.released n p)
    (fun t x _ => releasePhase_contextStep t c n p x) (List.finRange 4) s ((List.nodup_finRange 4).map fun _ _ h => (Prod.mk.inj h).2) fun _ _ => trivial
  exact ⟨ho, fun x => hs x (List.mem_finRange x)⟩

end Sys2Proof.Machine
end

section
namespace Sys2Proof.Machine

variable {s : State} {g : Fin 256} {k : Group} {phase : BitVec 16}

theorem State.groups_modGroup (hg : s.groups[g] = some k) (f : Group → Group) : (s.modGroup g f).groups[g] = some (f k) := by
  have h : (s.modGroup g f).groups[g] = s.groups[g].map f := Vector.getElem_set_self _
  rw [h, hg, Option.map_some]

theorem disseminate_groups (s : State) (g : Fin 256) (k : Group) (phase : BitVec 16) (rank lo hi : Nat) :
    (s.disseminate g k phase rank lo hi).groups = s.groups ∧ (s.disseminate g k phase rank lo hi).cores = s.cores
      ∧ (s.disseminate g k phase rank lo hi).mem = s.mem := by
  unfold State.disseminate
  dsimp only
  split
  · split <;> exact ⟨rfl, rfl, rfl⟩
  · exact ⟨rfl, rfl, rfl⟩

theorem exec_barrierNotification_new {round rank : Nat} (hg : s.groups[g] = some k) (hn : (phase, round, rank) ∉ k.heard) :
    Gives (exec (.barrierNotification g phase round rank) s) fun t =>
      (t.groups[g]).map (·.heard) = some (k.heard ++ [(phase, round, rank)]) ∧ t.cores = s.cores ∧ SameBytes s t := by
  have hgroup : ((s.modGroup g fun _ => { k with heard := k.heard ++ [(phase, round, rank)] }).groups[g]).map (·.heard)
      = some (k.heard ++ [(phase, round, rank)]) := by rw [State.groups_modGroup hg, Option.map_some]
  have hc : k.heard.contains (phase, round, rank) = false := by simpa using hn
  change Gives (execBarrierNotification g phase round rank s) _
  unfold execBarrierNotification
  rw [State.group?, hg]
  dsimp only
  rw [hc, if_neg Bool.false_ne_true]
  split
  · obtain ⟨h1, h2, h3⟩ := disseminate_groups (s.modGroup g fun _ => { k with heard := k.heard ++ [(phase, round, rank)] }) g
      { k with heard := k.heard ++ [(phase, round, rank)] } phase rank (k.finished phase rank + 1)
      (Group.finished { k with heard := k.heard ++ [(phase, round, rank)] } phase rank)
    exact ⟨_, rfl, by rw [h1, hgroup], h2, SameBytes.of_eq h3 h2⟩
  · exact ⟨_, rfl, hgroup, rfl, SameBytes.of_eq rfl rfl⟩

theorem mem_completeAll {t : State} {r : Nat} {q : CoreId} (hr : r < k.members.length) (hq : t.memberCore k r = some q) :
    Instr.barrierCompletion g phase q ∈ (t.completeAll g k phase).pending :=
  List.mem_append_right _ (List.mem_filterMap.mpr ⟨r, List.mem_range.mpr hr, by rw [hq]; rfl⟩)

theorem exec_gatherReport_new {rank : Nat} (hg : s.groups[g] = some k) (hn : (phase, 0, rank) ∉ k.heard) :
    Gives (exec (.gatherReport g phase rank) s) fun t =>
      (t.groups[g]).map (·.heard) = some (k.heard ++ [(phase, 0, rank)]) ∧ t.cores = s.cores ∧ SameBytes s t
      ∧ ((∀ r, r < k.members.length → r = rank ∨ (phase, 0, r) ∈ k.heard) → ∀ r q, r < k.members.length → s.memberCore k r = some q →
          Instr.barrierCompletion g phase q ∈ t.pending) := by
  have hgroup : ((s.modGroup g fun _ => { k with heard := k.heard ++ [(phase, 0, rank)] }).groups[g]).map (·.heard)
      = some (k.heard ++ [(phase, 0, rank)]) := by rw [State.groups_modGroup hg, Option.map_some]
  have hc : k.heard.contains (phase, 0, rank) = false := by simpa using hn
  change Gives (execGatherReport g phase rank s) _
  unfold execGatherReport
  rw [State.group?, hg]
  dsimp only
  rw [hc, if_neg Bool.false_ne_true]
  split
  next => exact ⟨_, rfl, hgroup, rfl, SameBytes.of_eq rfl rfl, fun _ r q hr hq => mem_completeAll (k := { k with heard := _ }) hr hq⟩
  next hall =>
    refine ⟨_, rfl, hgroup, rfl, SameBytes.of_eq rfl rfl, fun hr => absurd (List.all_eq_true.mpr fun r hm => ?_) hall⟩
    rcases hr r (List.mem_range.mp hm) with rfl | h
    · simp
    · simp [h]

theorem exec_vredgContribution_adds (hg : s.groups[g] = some k) (e : Contribution) : Gives (exec (.vredgContribution g phase e) s) fun t =>
    (t.groups[g]).map (·.contribs) = some (k.contribs ++ [(phase, e)]) ∧ t.cores = s.cores ∧ SameBytes s t :=
  ⟨_, rfl, by rw [State.groups_modGroup hg, Option.map_some], rfl, SameBytes.of_eq rfl rfl⟩

/-- A core whose phase n is over, before its contexts are released. -/
def Core.nextPhase (k : Core) (n : Fin 4) (p : BitVec 16) : Core := { k with phase := k.phase.set n (p + 1), arrived := k.arrived.set n false }

/-- The records of a core's arrival and of what it has heard in a phase, discarded. -/
def Group.withoutRank (k : Group) (p : BitVec 16) (r : Nat) : Group :=
  { k with arrivedAt := k.arrivedAt.filter (fun e => e != (p, r)), heard := k.heard.filter fun e => !(e.1 == p && e.2.2 == r) }

theorem exec_barrierCompletion_eq {c : CoreId} {n : Fin 4} (hg : s.groups[g] = some k) (hn : s.slotOf c g = some n) (hp : (s.coreAt c).phase[n] = phase)
    (ha : (s.coreAt c).arrived[n] = true) :
    let r := k.rank (s.coreAt c).ident.rel
    let t := (List.finRange 4).foldl (fun t x => t.releasePhase c n phase x)
      ((s.modCore c fun k => k.nextPhase n phase).modGroup g fun k => k.withoutRank phase r)
    exec (.barrierCompletion g phase c) s = .next (if r = 0 then t.post (.vredgResult g phase) else t) := by
  change execBarrierCompletion g phase c s = _
  unfold execBarrierCompletion
  rw [State.group?, hg, hn]
  exact if_pos ⟨hp, ha⟩

theorem exec_barrierCompletion_arrived {c : CoreId} {n : Fin 4} (hg : s.groups[g] = some k) (hn : s.slotOf c g = some n)
    (hp : (s.coreAt c).phase[n] = phase) (ha : (s.coreAt c).arrived[n] = true) :
    Gives (exec (.barrierCompletion g phase c) s) fun t =>
      (t.coreAt c).phase[n] = phase + 1 ∧ (t.coreAt c).arrived[n] = false ∧ SameBytes s t
      ∧ (∀ x again, (s.ctxAt c x).status = .suspended (.barrier n phase again) → (t.ctxAt c x).status = .ready
          ∧ (again = true → (t.ctxAt c x).pc = (s.ctxAt c x).pc) ∧ (again = false → (s.ctxAt c x).lstat = 0 → (t.ctxAt c x).pc = va57 ((s.ctxAt c x).pc + 4)))
      ∧ (k.rank (s.coreAt c).ident.rel = 0 → Instr.vredgResult g phase ∈ t.pending) := by
  have he := exec_barrierCompletion_eq hg hn hp ha
  dsimp only at he
  generalize hr : k.rank (s.coreAt c).ident.rel = r at he ⊢
  generalize hu : (s.modCore c fun k => k.nextPhase n phase).modGroup g (fun k => k.withoutRank phase r) = u at he
  have hcore : u.coreAt c = (s.coreAt c).nextPhase n phase := by
    rw [← hu]
    exact State.coreAt_modCore s c fun k => k.nextPhase n phase
  have hctx : ∀ x, u.ctxAt c x = s.ctxAt c x := fun x => by rw [State.ctxAt, hcore]; rfl
  have hbytes : SameBytes s u := ⟨fun _ => by rw [← hu]; rfl, fun d o => by
    have hd : u.coreAt d = (s.modCore c fun k => k.nextPhase n phase).coreAt d := by rw [← hu]; rfl
    rw [hd, State.coreAt_modCore_eq]
    split
    next h => rw [h]; rfl
    next => rfl⟩
  obtain ⟨ho, hx⟩ := foldl_releasePhase u c n phase
  generalize (List.finRange 4).foldl (fun t x => t.releasePhase c n phase x) u = v at he ho hx
  have hpost : ∀ t : State, (if r = 0 then t.post (.vredgResult g phase) else t).cores = t.cores ∧ (if r = 0 then t.post (.vredgResult g phase) else t).mem = t.mem :=
    fun t => by split <;> exact ⟨rfl, rfl⟩
  obtain ⟨hpc, hpm⟩ := hpost v
  refine ⟨_, he, ?_, ?_, ?_, ?_, ?_⟩
  · rw [State.coreAt_congr hpc, ho.core c, hcore]
    exact Vector.getElem_set_self _
  · rw [State.coreAt_congr hpc, ho.core c, hcore]
    exact Vector.getElem_set_self _
  · exact (hbytes.trans ho.sameBytes).trans (SameBytes.of_eq hpm hpc)
  · intro x again hst
    rw [State.ctxAt_congr hpc, hx, hctx]
    cases again with
    | true =>
      rw [Ctx.released_again hst]
      exact ⟨rfl, fun _ => rfl, fun h => absurd h (by decide)⟩
    | false =>
      rw [Ctx.released_waited hst]
      exact ⟨rfl, fun h => absurd h (by decide), fun _ hl => Ctx.afterWait_pc hl⟩
  · intro h0
    rw [if_pos h0]
    exact List.mem_append_right _ List.mem_cons_self

/-- Settles O17, clause by clause; the traps of a reduction that fails leave the contributors that are still to be answered waiting. -/
theorem barrierProgress : Obligations.BarrierProgress := by
  intro s g k phase round rank c n hg
  refine ⟨exec_barrierNotification_new hg, exec_gatherReport_new hg, exec_barrierCompletion_arrived hg, exec_vredgContribution_adds hg, ?_⟩
  intro ks hc hk hn hw
  dsimp only
  have he := exec_vredgResult_eq hg hc hk
  have hawait : AwaitResult (s.withoutContribs g phase) ks := fun e hm => (hw e hm).imp fun m h => ⟨phase, h⟩
  refine ⟨fun hone hsame => ?_, fun v hv hu => ?_, fun hone hword hfloat => ?_⟩
  · rw [vredgOutcome_ok hone hsame] at he
    obtain ⟨ho, hs, hkept⟩ := foldl_endVredg_ok (ofElems 32 ((List.range 16).map (vredgLane ks))) hn hawait
    have hlane : ∀ i, i < 16 → elem (ofElems 32 ((List.range 16).map (vredgLane ks))) 32 i = vredgLane ks i % 2 ^ 32 := fun i hi => by
      rw [elem_ofElems_range (by decide), if_pos hi]
    refine ⟨_, he, ofElems 32 ((List.range 16).map (vredgLane ks)), fun e hm => ?_, hkept, ho.sameBytes, fun hword i hi => ?_, fun hfloat _ i l hi hl => ?_⟩
    · rw [hs e hm]
      exact Ctx.afterWait_answered _ _ _
    · rw [hlane i hi, vredgLane_word hword, Nat.mod_mod]
    · rw [hlane i hi, vredgLane_float hfloat hl]
      refine (Nat.mod_eq_of_lt (canon_sliceNode_lt (fun j x hx => ?_) l)).trans rfl
      obtain ⟨e, -, rfl⟩ := Option.map_eq_some_iff.mp hx
      exact elem_lt _ _ _
  · rw [vredgOutcome_doubled hv hu] at he
    rw [he, foldl_endVredg_error _ _ ks _ hn hawait]
    rfl
  · rw [vredgOutcome_mixed hone hword hfloat] at he
    rw [he, foldl_endVredg_error _ _ ks _ hn hawait]
    rfl

end Sys2Proof.Machine
end

section
namespace Sys2Proof.Machine

/-! A row stored over two lines of one set of an L1 that lists the first of them twice. -/

/-- MX.STC of a row of two INT8 elements, accumulator words 0 and 1, at address 4,095. -/
def splitRow : Msg :=
  BitVec.ofNat 512 (2 + 3 * 2 ^ 46 + 2 ^ 32 + 4095 * 2 ^ 64 + 2 ^ 160 + 2 ^ 164 + 2 ^ 171 + 2 ^ 204)

/-- Its packet. -/
def splitPacket : Packet := { lid := 0, dst := 0, word := splitRow, src := .core 0 0, kind := .plain }

/-- Pages 0 and 1 of the address space: byte 4,095 lies on line 63, byte 4,096 on line 191, of the same set. -/
def splitGrants : List Grant := [{ pasid := 0, va := 0, log := 12, pa := 0, write := true }, { pasid := 0, va := 4096, log := 12, pa := 64 * 191, write := true }]

/-- The set, full, with line 63 in way 0 as the core's own and in way 4 as a coherent one. -/
def listedTwice63 : L1 :=
  { ways := { line := 63, way := 0, what := .own 0 false } :: { line := 63, way := 4, what := .tracked }
      :: [1, 2, 3, 5, 6, 7].map fun n => { line := 63 + 128 * (n.val + 1), way := n, what := .tracked }
    plru := [] }

/-- Both pages lie in a region owned by core 0, whose matrix engine begins the store. -/
def splitStore : State :=
  { State.reset with
    cores := State.reset.cores.set 0 { Core.reset with
      tlb1 := splitGrants, mx := { Core.reset.mx with inq := [splitPacket] }, matrix := { Core.reset.matrix with acc := [(0, 1)] } }
    spaces := [(0, { Space.reset with table := [BitVec.ofNat 128 (1 + 2 ^ 76)] })]
    l1s := [(0, listedTwice63)] }

/-- The parts of the store. -/
def splitParts : List Span := [.mem (.phys 4095 4095 0) 1, .mem (.phys (64 * 191) 4096 0) 1]

theorem splitStore_goesAhead :
    splitStore.working (.unit 0 1) 3 splitPacket ∧ reservedClear splitRow [(216, 192), (180, 64)] = true
    ∧ splitStore.engAddr (.unit 0 1) .own (Msg.word splitRow 1) = .ok (.mem 4095)
    ∧ (splitStore.begun (.unit 0 1)).engCheck (.unit 0 1) [((EAddr.mem 4095).plus 0, 2)] = .ok splitParts := by decide +kernel

theorem stcElem_one : stcElem true false false 1#4 1 = 1 := by decide +kernel

theorem splitStore_loses : (Outcome.state (exec (.mxStc 0) splitStore)).ownByte 0 4095 = 0 := by decide +kernel

theorem splitStore_tidy : splitStore.tidy 0 := by
  intro e he _ w hw d b hd
  obtain rfl := List.mem_singleton.mp he
  rcases List.mem_cons.mp hw with rfl | hw
  · obtain ⟨rfl, -⟩ := Held1.own.inj hd
    decide +kernel
  · have hcopies : ∀ v ∈ listedTwice63.ways.tail, v.what = .tracked := by decide +kernel
    exact absurd ((hcopies w hw).symm.trans hd) (by simp)

theorem splitStore_armed (l : Nat) : splitStore.armed l = false := by
  have hc : splitStore.cleatAt (64 * l) = [] := by
    unfold State.cleatAt
    split
    · rfl
    · exact congrArg Cluster.cleat (Vector.getElem_replicate _)
  rw [State.armed, hc]
  rfl

theorem splitStore_quiet : splitStore.quiet 0 := ⟨fun _ => rfl, rfl, splitStore_armed, splitStore_tidy, by decide +kernel⟩

theorem splitStore_unmixed (bs : List Byte) : splitStore.unmixed 0 (spanParts splitParts bs) := by
  intro e he howned
  rcases List.mem_cons.mp he with rfl | he
  · cases howned
  · obtain rfl := List.mem_singleton.mp he
    cases howned

/-- The fields of the command that the store reads. -/
theorem splitRow_fields : (splitStore.runOf (.unit 0 1)).progress = 0 ∧ Msg.field splitRow 216 204 = 1 ∧ Msg.field splitRow 170 167 = 0
    ∧ Msg.field splitRow 180 171 = 1 ∧ Msg.field splitRow 203 192 = 0 ∧ Msg.field splitRow 163 160 = 1 ∧ Msg.field splitRow 159 128 = 0
    ∧ (Msg.field splitRow 164 164 == 1) = true ∧ (Msg.field splitRow 165 165 == 1) = false ∧ (Msg.field splitRow 4 4 == 1) = false
    ∧ Sparse.get 0 (splitStore.coreAt 0).matrix.acc 0 = 1 := by decide +kernel

theorem splitRow_stored (b b' : Byte) : (storedMem splitStore.mem (spanParts splitParts [b, b'])).byte 4095 = b := by
  have h : storedMem splitStore.mem (spanParts splitParts [b, b']) = (splitStore.mem.write 4095 [b]).write (64 * 191) [b'] := rfl
  rw [h, Mem.byte_write_of_not _ _ _ _ fun hx => absurd hx.1 (by decide), Mem.byte_write]
  rfl

/-- Refutes O39: in splitStore the L1 of core 0 lists line 63 twice, as the core's own and as a coherent line. The row's first byte is stored into the
former, and the fill for its second byte takes the way of the other, with which line 63 leaves the L1 and the byte is lost. -/
theorem not_matrixLoadsAndStores : ¬ Obligations.MatrixLoadsAndStores := by
  intro h
  obtain ⟨hw, hr, ha, hc⟩ := splitStore_goesAhead
  obtain ⟨hi, h216, h170, h180, h203, h163, h159, h164, h165, h4, hacc⟩ := splitRow_fields
  obtain ⟨-, hstc, -⟩ := h splitStore 0 splitPacket (.mem 4095) (.mem 0) (.mem 0) [] splitStore splitParts
  have hz : formatBits 1#4 = 8 := rfl
  have hword : splitPacket.word = splitRow := rfl
  simp only [hword, hi, h216, h170, h180, h203, h163, h159, h164, h165, h4, hz, Nat.one_ne_zero, if_false, Nat.zero_mul, Nat.zero_add, Nat.cast_zero,
    mul_zero] at hstc
  obtain ⟨bs, hlen, ⟨-, hbytes⟩, hconv, -⟩ := (hstc hw hr (by decide) (by decide) (by decide) rfl ha hc).state
  obtain ⟨hmem, -⟩ := hbytes splitStore_quiet (splitStore_unmixed bs)
  have hreads := hmem.reads 4095
  obtain ⟨b, b', rfl⟩ := List.length_eq_two.mp hlen
  have hfirst := hconv 0 (by decide)
  rw [splitStore_loses, splitRow_stored] at hreads
  rw [hacc, stcElem_one, ← hreads, Nat.zero_mul, Nat.shiftRight_zero] at hfirst
  have heven : ofBytes [0, b'] = 256 * (b'.toNat + 256 * 0) := Nat.zero_add _
  omega

end Sys2Proof.Machine
end

section
namespace Sys2Proof.Machine

/-! What the coherence actions of a read leave of the cores (06 R172, R185, 07 R224). -/

/-- The cores and the number of the device are as before. -/
def Steady (s t : State) : Prop := t.cores = s.cores ∧ t.dev = s.dev

theorem Steady.cores {s t : State} (h : Steady s t) : t.cores = s.cores := h.1

theorem Steady.dev {s t : State} (h : Steady s t) : t.dev = s.dev := h.2

theorem Steady.refl (s : State) : Steady s s := ⟨rfl, rfl⟩

theorem Steady.trans {s t u : State} (h : Steady s t) (g : Steady t u) : Steady s u := ⟨g.cores.trans h.cores, g.dev.trans h.dev⟩

/-- A change that s and r share but for fields that a Steady change may alter. -/
theorem Steady.from {r s t : State} (h : Steady s t) (hc : s.cores = r.cores) (hd : s.dev = r.dev) : Steady r t := ⟨h.cores.trans hc, h.dev.trans hd⟩

theorem OnlyWaiters.steady {s t : State} (h : OnlyWaiters s t) : Steady s t := ⟨h.cores, by rw [h.1]⟩

theorem Steady.foldl {α : Type} {f : State → α → State} (h : ∀ s a, Steady s (f s a)) (l : List α) (s : State) : Steady s (l.foldl f s) := by
  induction l generalizing s with
  | nil => exact .refl s
  | cons a r ih => exact (h s a).trans (ih _)

theorem put_steady (s : State) (pa : Nat) (bs : List Byte) : Steady s (s.put pa bs) :=
  Steady.trans (t := { s with mem := s.mem.write pa bs }) ⟨rfl, rfl⟩ (put_spec s pa bs).steady

theorem wakeOne_steady (s : State) (a : FurlAns) (gang : Option Nat) (r : FurlReq) : Steady s (s.wakeOne a gang r) := by
  unfold State.wakeOne
  split
  · dsimp only
    split
    · exact (put_steady s _ _).trans (recommit_onlyWaiters _ _).steady
    · exact put_steady s _ _
  · split
    · exact (toward_onlyWaiters _ _ _).steady
    · exact (toPeer_onlyWaiters _ _).steady

theorem wakeFurl_steady (s : State) (pa : Nat) (a : FurlAns) : Steady s (s.wakeFurl pa a) :=
  (modCleat_onlyWaiters s pa _).steady.trans (Steady.foldl (fun t (e : Option Nat × FurlReq) => wakeOne_steady t a e.1 e.2) _ _)

theorem store_steady (s : State) (pa : Nat) (bs : List Byte) : Steady s (s.store pa bs) := by
  have htags : ∀ cs : List Nat, Steady s (cs.foldl (fun t c => t.setTag c 0) s) := fun cs =>
    Steady.foldl (f := fun t c => t.setTag c 0) (fun _ _ => ⟨rfl, rfl⟩) cs s
  unfold State.store
  exact ((htags _).trans (put_steady _ pa bs)).trans (Steady.foldl (fun t c => wakeFurl_steady t c _) _ _)

theorem recall_steady (s : State) (l : Nat) : Steady s (s.recall l) := by
  unfold State.recall
  dsimp only
  split
  · exact .refl s
  · exact (store_steady _ _ _).from rfl rfl

theorem writeOwn_steady (s : State) (w : Way) : Steady s (s.writeOwn w) := by
  unfold State.writeOwn
  split
  · exact (makeStale_onlyWaiters s w.line).steady
  · exact .refl s

theorem evict_steady (s : State) (c : CoreId) (w : Way) : Steady s (s.evict c w) := by
  have h := writeOwn_steady s w
  unfold State.evict
  dsimp only
  split
  · exact h
  · split <;> exact h

theorem fillL1_steady (s : State) (c : CoreId) (l : Nat) (what : Held1) : Steady s (s.fillL1 c l what) := by
  have hover : ∀ (b : Bool) (w : Way), Steady s (if b then s else s.writeOwn w) := fun b w => by
    cases b with
    | true => exact .refl s
    | false => exact writeOwn_steady s w
  have hvictim : ∀ o : Option Way, Steady s (match o with
      | some w => s.evict c w
      | none => s) := fun o => by
    cases o with
    | some w => exact evict_steady s c w
    | none => exact .refl s
  unfold State.fillL1
  split
  · exact hover _ _
  · exact hvictim _

theorem touchOwn_steady (s : State) (c : CoreId) (l : Nat) : Steady s (s.touchOwn c l) := by
  unfold State.touchOwn
  split
  · exact ⟨rfl, rfl⟩
  · exact (recall_steady s l).trans (fillL1_steady _ c l _)

theorem shareOwner_steady (s : State) (l : Nat) : Steady s (s.shareOwner l) := by
  unfold State.shareOwner
  dsimp only
  split <;> exact ⟨rfl, rfl⟩

theorem getS_steady (s : State) (l : Nat) (c : CoreId) : Steady s (s.getS l c) := by
  have hr := recall_steady s l
  unfold State.getS
  dsimp only
  refine Steady.trans ?_ (fillL1_steady _ c l _)
  split
  · exact hr
  · exact hr.trans (shareOwner_steady _ l)

theorem touchLoad_steady (s : State) (c : CoreId) (l : Nat) : Steady s (s.touchLoad c l) := by
  unfold State.touchLoad
  split
  · exact recall_steady s l
  · split
    · exact getS_steady s l c
    · exact ⟨rfl, rfl⟩

theorem notify_steady (s : State) (cluster : Nat) (g : Grant) : Steady s (s.notify cluster g) := by
  unfold State.notify
  dsimp only
  split
  · exact .refl s
  · split
    · exact ⟨rfl, rfl⟩
    · exact (store_steady _ _ _).from rfl rfl

theorem countLine_steady (s : State) (c : CoreId) (pa : Nat) (va : Word) : Steady s (s.countLine c pa va) := by
  unfold State.countLine
  split
  · exact .refl s
  · dsimp only
    split
    · exact .refl s
    · split
      · exact (notify_steady _ _ _).from rfl rfl
      · exact ⟨rfl, rfl⟩

theorem askShared_steady (s : State) (c : CoreId) (va : Word) (l : Nat) : Steady s (s.askShared c va l) := by
  unfold State.askShared
  split
  · exact ⟨rfl, rfl⟩
  · split
    · exact fillL1_steady s c l _
    · split
      · exact .refl s
      · exact countLine_steady s c _ va

theorem countHost_steady (s : State) (c : CoreId) (pa : Nat) (va : Word) (write : Bool) : Steady s (s.countHost c pa va write) := by
  unfold State.countHost
  split
  · exact countLine_steady s c pa va
  · exact .refl s

theorem touchPlace_load_steady (s : State) (c : CoreId) (p : Place) (n : Nat) : Steady s (s.touchPlace c false p n) := by
  cases p with
  | sp o => exact .refl s
  | phys pa va attr =>
    have h := countHost_steady s c pa va false
    unfold State.touchPlace
    dsimp only
    split
    · exact h.trans (Steady.foldl (fun t l => touchOwn_steady t c l) _ _)
    · split
      · exact Steady.foldl (fun t l => askShared_steady t c va l) _ _
      · exact h.trans (Steady.foldl (fun t l => touchLoad_steady t c l) _ _)

theorem touchSpan_load_steady (s : State) (c : CoreId) (u : BitVec 3) (p : Span) : Steady s (s.touchSpan (.unit c u) false p) := by
  cases p with
  | sp d o n => exact .refl s
  | mem q n => exact touchPlace_load_steady s c q n

end Sys2Proof.Machine
end

section
namespace Sys2Proof.Machine

/-! Bytes of a number. -/

theorem toBytes_length (n x : Nat) : (toBytes n x).length = n := by
  induction n generalizing x with
  | zero => rfl
  | succ n ih => rw [toBytes, List.length_cons, ih]

theorem toBytes_getD {n i : Nat} (h : i < n) (x : Nat) : (toBytes n x).getD i 0 = BitVec.ofNat 8 (x >>> (8 * i)) := by
  induction n generalizing x i with
  | zero => exact absurd h (Nat.not_lt_zero i)
  | succ n ih =>
    cases i with
    | zero => rfl
    | succ i =>
      rw [toBytes, List.getD_cons_succ, ih (Nat.lt_of_succ_lt_succ h), Nat.mul_succ, Nat.add_comm, Nat.shiftRight_add, Nat.shiftRight_eq_div_pow x 8]

theorem ofBytes_lt (bs : List Byte) : ofBytes bs < 2 ^ (8 * bs.length) := by
  induction bs with
  | nil => decide
  | cons b r ih =>
    have hb : b.toNat < 256 := b.isLt
    have hc : ofBytes (b :: r) = b.toNat + 256 * ofBytes r := rfl
    have hp : 2 ^ (8 * (b :: r).length) = 256 * 2 ^ (8 * r.length) := by rw [List.length_cons, Nat.mul_succ, Nat.pow_add, Nat.mul_comm]
    omega

theorem ofBytes_shiftRight (bs : List Byte) (i : Nat) : BitVec.ofNat 8 (ofBytes bs >>> (8 * i)) = bs.getD i 0 := by
  induction bs generalizing i with
  | nil => simp [ofBytes]
  | cons b r ih =>
    have hb : b.toNat < 256 := b.isLt
    have hc : ofBytes (b :: r) = b.toNat + 256 * ofBytes r := rfl
    cases i with
    | zero =>
      apply BitVec.eq_of_toNat_eq
      rw [hc, Nat.mul_zero, Nat.shiftRight_zero, BitVec.toNat_ofNat, List.getD_cons_zero]
      omega
    | succ i =>
      have hd : (b.toNat + 256 * ofBytes r) / 2 ^ 8 = ofBytes r := by omega
      rw [List.getD_cons_succ, ← ih, hc, Nat.mul_succ, Nat.add_comm (8 * i), Nat.shiftRight_add, Nat.shiftRight_eq_div_pow _ 8, hd]

/-- Byte i of a line's data. -/
theorem State.lineData_byte (s : State) (l : Nat) {i : Nat} (h : i < 64) : BitVec.ofNat 8 ((s.lineData l).toNat >>> (8 * i)) = s.mem.byte (64 * l + i) := by
  have hlt : s.mem.num (64 * l) 64 < 2 ^ 512 := by
    have hb := ofBytes_lt (s.mem.bytes (64 * l) 64)
    rwa [Mem.bytes, List.length_map, List.length_range] at hb
  rw [State.lineData, BitVec.toNat_ofNat, Nat.mod_eq_of_lt hlt, Mem.num, ofBytes_shiftRight, Mem.bytes, List.getD_eq_getElem?_getD]
  simp [h]

/-! What a quiet read of an engine leaves of memory (06 R172, R179). -/

/-- After a part of a read that core c's unit makes from a quiet state s: no partial is out, no byte of memory differs, and core c's own
lines are as memory has them. -/
structure Undisturbed (c : CoreId) (s t : State) : Prop where
  steady : Steady s t
  spaces : t.spaces = s.spaces
  partials : ∀ l, (t.line l).u = []
  byte : ∀ a, t.mem.byte a = s.mem.byte a
  own : ∀ w ∈ (t.l1 c).ways, ∀ d b, w.what = .own d b → d = s.lineData w.line

section
variable {c : CoreId} {s t r : State}

theorem State.tidy.own (h : s.tidy c) : ∀ w ∈ (s.l1 c).ways, ∀ d b, w.what = .own d b → d = s.lineData w.line := by
  have hget : ∀ m : Sparse L1, ∀ w ∈ (Sparse.get L1.empty m c.val).ways, ∃ k, (c.val, k) ∈ m ∧ w ∈ k.ways := fun m => by
    induction m with
    | nil => exact fun _ hw => absurd hw List.not_mem_nil
    | cons e m ih =>
      intro w hw
      rw [Sparse.get_cons] at hw
      split at hw
      next he => exact ⟨e.2, he ▸ List.mem_cons_self, hw⟩
      next =>
        obtain ⟨k, hk, hw⟩ := ih w hw
        exact ⟨k, List.mem_cons_of_mem e hk, hw⟩
  intro w hw d b hd
  obtain ⟨k, hk, hw⟩ := hget s.l1s w hw
  exact h _ hk rfl w hw d b hd

theorem State.quiet.undisturbed (h : s.quiet c) : Undisturbed c s s := by
  obtain ⟨hu, -, -, ht, -⟩ := h
  exact ⟨.refl s, rfl, hu, fun _ => rfl, ht.own⟩

namespace Undisturbed

theorem lineData (h : Undisturbed c s t) (l : Nat) : t.lineData l = s.lineData l := by
  have hb : t.mem.bytes (64 * l) 64 = s.mem.bytes (64 * l) 64 := List.map_congr_left fun i _ => h.byte _
  rw [State.lineData, Mem.num, hb]
  rfl

theorem setL1 (h : Undisturbed c s t) {k : L1} (hk : ∀ w ∈ k.ways, ∀ d b, w.what = .own d b → d = s.lineData w.line) : Undisturbed c s (t.setL1 c k) := by
  have hl : (t.setL1 c k).l1 c = k := (Sparse.get_set _ _ _ _ _).trans (if_pos rfl)
  exact ⟨h.steady, h.spaces, h.partials, h.byte, by rw [hl]; exact hk⟩

theorem useL1 (h : Undisturbed c s t) (l : Nat) : Undisturbed c s (t.useL1 c l) := by
  have hw : ((t.l1 c).use l).ways = (t.l1 c).ways := by
    unfold L1.use
    split <;> rfl
  exact h.setL1 (hw ▸ h.own)

theorem setLine (h : Undisturbed c s t) {l : Nat} {e : Line} (he : e.u = []) : Undisturbed c s (t.setLine l e) := by
  refine ⟨h.steady, h.spaces, fun m => ?_, h.byte, h.own⟩
  rw [State.line, State.setLine, Sparse.get_set]
  split
  · exact he
  · exact h.partials m

theorem recall_eq (h : Undisturbed c s t) (l : Nat) : t.recall l = t := recall_none t l (h.partials l)

theorem writeOwn (h : Undisturbed c s t) {w : Way} (hw : w ∈ (t.l1 c).ways) : Undisturbed c s (t.writeOwn w) ∧ (t.writeOwn w).l1 c = t.l1 c := by
  unfold State.writeOwn
  split
  next d hd =>
    have he := makeStale_onlyWaiters t w.line
    have hs := he.steady
    have hl1 : (t.makeStale w.line).l1 c = t.l1 c := by rw [State.l1, he.1]; rfl
    have hsp : (t.makeStale w.line).spaces = t.spaces := by rw [he.1]
    have hln : ∀ l, (t.makeStale w.line).line l = t.line l := fun l => by rw [State.line, he.lines]; rfl
    refine ⟨⟨h.steady.trans hs, hsp.trans h.spaces, fun l => (congrArg Line.u (hln l)).trans (h.partials l), fun a => ?_, fun v hv => h.own v (hl1 ▸ hv)⟩, hl1⟩
    show (t.mem.write (64 * w.line) (toBytes 64 d.toNat)).byte a = _
    rw [Mem.byte_write, toBytes_length]
    split
    next hr =>
      rw [toBytes_getD (by omega), h.own w hw d true hd, State.lineData_byte s w.line (by omega)]
      exact congrArg s.mem.byte (by omega)
    next => exact h.byte a
  next => exact ⟨h, rfl⟩

theorem evict (h : Undisturbed c s t) {w : Way} (hw : w ∈ (t.l1 c).ways) : Undisturbed c s (t.evict c w) := by
  have g : Undisturbed c s ((t.writeOwn w).setL1 c { t.l1 c with ways := (t.l1 c).ways.filter fun v => v.line != w.line }) :=
    (h.writeOwn hw).1.setL1 fun v hv => h.own v (List.mem_filter.mp hv).1
  unfold State.evict
  dsimp only
  split
  · exact g
  · split
    · exact g.setLine (g.partials w.line)
    · exact g.setLine (g.partials w.line)
    · exact ⟨g.steady, g.spaces, g.partials, g.byte, g.own⟩
    · exact g

theorem fillL1 (h : Undisturbed c s t) (l : Nat) {what : Held1} (hw : ∀ d b, what = .own d b → d = s.lineData l) : Undisturbed c s (t.fillL1 c l what) := by
  unfold State.fillL1
  split
  next w hf =>
    have hover : ∀ b : Bool, Undisturbed c s (if b then t else t.writeOwn w) := fun b => by
      cases b with
      | true => exact h
      | false => exact (h.writeOwn (List.mem_of_find?_eq_some hf)).1
    refine ((hover _).setL1 fun v hv d b hd => ?_).useL1 l
    obtain ⟨v', hv', rfl⟩ := List.mem_map.mp hv
    by_cases hl : v'.line = l
    · rw [if_pos hl] at hd ⊢
      exact (hw d b hd).trans (congrArg s.lineData hl.symm)
    · rw [if_neg hl] at hd ⊢
      exact (hover _).own v' hv' d b hd
  next =>
    have hvictim : ∀ o : Option Way, (∀ w, o = some w → w ∈ (t.l1 c).ways) → Undisturbed c s (match o with
        | some w => t.evict c w
        | none => t) := fun o ho => by
      cases o with
      | some w => exact h.evict (ho w rfl)
      | none => exact h
    have hv := hvictim (((t.l1 c).setWays l).find? fun w => w.way == (t.l1 c).wayFor l) fun w hf => (List.mem_filter.mp (List.mem_of_find?_eq_some hf)).1
    refine (hv.setL1 fun v hm d b hd => ?_).useL1 l
    rcases List.mem_append.mp hm with hm | hm
    · exact hv.own v hm d b hd
    · obtain rfl := List.mem_singleton.mp hm
      exact hw d b hd

theorem touchOwn (h : Undisturbed c s t) (l : Nat) : Undisturbed c s (t.touchOwn c l) := by
  unfold State.touchOwn
  split
  · exact h.useL1 l
  · dsimp only
    rw [h.recall_eq l]
    exact h.fillL1 l fun d b hd => by rw [← (Held1.own.inj hd).1, h.lineData l]

theorem shareOwner (h : Undisturbed c s t) (l : Nat) : Undisturbed c s (t.shareOwner l) := by
  unfold State.shareOwner
  dsimp only
  split
  · exact h.setLine (h.partials l)
  · exact h.setLine (h.partials l)
  · exact h

theorem getS (h : Undisturbed c s t) (l : Nat) : Undisturbed c s (t.getS l c) := by
  have hs := h.shareOwner l
  unfold State.getS
  dsimp only
  rw [h.recall_eq l]
  refine Undisturbed.fillL1 ?_ l fun _ _ hd => nomatch hd
  split
  · exact h.setLine (h.partials l)
  · exact hs.setLine (hs.partials l)

theorem touchLoad (h : Undisturbed c s t) (l : Nat) : Undisturbed c s (t.touchLoad c l) := by
  unfold State.touchLoad
  rw [h.recall_eq l]
  split
  · exact h
  · split
    · exact h.getS l
    · exact h.useL1 l

theorem countLine (h : Undisturbed c s t) (hn : (s.space (s.coreAt c).ident.pasid).notes = none) (pa : Nat) (va : Word) :
    Undisturbed c s (t.countLine c pa va) := by
  have hcore : t.coreAt c = s.coreAt c := State.coreAt_congr h.steady.cores c
  unfold State.countLine
  split
  · exact h
  · dsimp only
    split
    · exact h
    next e he =>
      have hg : e.grant.pasid = (s.coreAt c).ident.pasid := by
        have hc := List.find?_some he
        rw [hcore, grantCovers, Bool.and_eq_true] at hc
        exact eq_of_beq hc.1
      have hnotify : ∀ u : State, Undisturbed c s u → Undisturbed c s (u.notify (clusterOf c).val e.grant) := fun u hu => by
        have hsp : (u.space e.grant.pasid).notes = none := by rw [State.space, hu.spaces, hg]; exact hn
        rw [State.notify, hsp]
        exact hu
      split
      · exact hnotify _ ⟨h.steady, h.spaces, h.partials, h.byte, h.own⟩
      · exact ⟨h.steady, h.spaces, h.partials, h.byte, h.own⟩

theorem askShared (h : Undisturbed c s t) (hn : (s.space (s.coreAt c).ident.pasid).notes = none) (va : Word) (l : Nat) :
    Undisturbed c s (t.askShared c va l) := by
  have hc := h.countLine hn (64 * l) va
  unfold State.askShared
  split
  · exact h.useL1 l
  · split
    · exact h.fillL1 l fun _ _ hd => nomatch hd
    · split
      · exact h
      · exact ⟨hc.steady, hc.spaces, hc.partials, hc.byte, hc.own⟩

theorem foldl {α : Type} {f : State → α → State} (hf : ∀ t a, Undisturbed c s t → Undisturbed c s (f t a)) (l : List α) (h : Undisturbed c s t) :
    Undisturbed c s (l.foldl f t) := by
  induction l generalizing t with
  | nil => exact h
  | cons a r ih => exact ih (hf t a h)

theorem touchPlace (h : Undisturbed c s t) (hn : (s.space (s.coreAt c).ident.pasid).notes = none) (p : Place) (n : Nat) :
    Undisturbed c s (t.touchPlace c false p n) := by
  cases p with
  | sp o => exact h
  | phys pa va attr =>
    have hc : Undisturbed c s (t.countHost c pa va false) := by
      unfold State.countHost
      split
      · exact h.countLine hn pa va
      · exact h
    unfold State.touchPlace
    dsimp only
    split
    · exact hc.foldl (fun _ l g => g.touchOwn l) _
    · split
      · exact h.foldl (fun _ l g => g.askShared hn va l) _
      · exact hc.foldl (fun _ l g => g.touchLoad l) _

theorem touchSpan (h : Undisturbed c s t) (hn : (s.space (s.coreAt c).ident.pasid).notes = none) (u : BitVec 3) (p : Span) :
    Undisturbed c s (t.touchSpan (.unit c u) false p) := by
  cases p with
  | sp d o n => exact h
  | mem q n => exact h.touchPlace hn q n

theorem ownByte (h : Undisturbed c s t) (a : Nat) : t.ownByte c a = s.mem.byte a := by
  unfold State.ownByte
  split
  next d hd =>
    obtain ⟨w, hw, hd⟩ := Option.bind_eq_some_iff.mp hd
    have hwhat : ∃ b, w.what = .own d b := by
      split at hd
      next d' b hwhat =>
        obtain rfl := Option.some.inj hd
        exact ⟨b, hwhat⟩
      next => exact nomatch hd
    obtain ⟨b, hwhat⟩ := hwhat
    have hline : w.line = a / 64 := eq_of_beq (List.find?_some (p := fun v : Way => v.line == a / 64) hw)
    rw [h.own w (List.mem_of_find?_eq_some hw) d b hwhat, hline, State.lineData_byte s _ (Nat.mod_lt a (by decide)), Nat.div_add_mod]
  next => exact h.byte a

end Undisturbed

end

end Sys2Proof.Machine
end

section
namespace Sys2Proof.Machine

/-! Completion elements (10 R318). -/

theorem field_lt (w : Msg) (hi lo : Nat) : Msg.field w hi lo < 2 ^ (hi + 1 - lo) := Nat.mod_lt _ (Nat.two_pow_pos _)

/-- The number of an element's bits. -/
theorem element_toNat (w : Msg) (u : BitVec 3) (result progress : BitVec 32) (cause : BitVec 9) {status : Nat} (h : status < 16) :
    (element w u result progress cause status).toNat = result.toNat * 2 ^ 96 + tagOf w * 2 ^ 80 + Msg.field w 31 16 * 2 ^ 64 + progress.toNat * 2 ^ 32
      + cause.toNat * 2 ^ 23 + u.toNat * 2 ^ 20 + hidOf w * 2 ^ 8 + status := by
  have htag : tagOf w < 2 ^ 16 := field_lt w 511 496
  have hmid : Msg.field w 31 16 < 2 ^ 16 := field_lt w 31 16
  have hhid : hidOf w < 2 ^ 12 := field_lt w 57 46
  have hr := result.isLt
  have hp := progress.isLt
  have hc := cause.isLt
  have hu := u.isLt
  rw [element, BitVec.toNat_ofNat]
  exact Nat.mod_eq_of_lt (by omega)

theorem elementOf_element (p : Packet) (u : BitVec 3) (result progress : BitVec 32) (cause : BitVec 9) {status : Nat} (h : status < 16) :
    ElementOf p u status cause (some progress) (some result) (element p.word u result progress cause status) := by
  have he := element_toNat p.word u result progress cause h
  have htag : tagOf p.word < 2 ^ 16 := field_lt p.word 511 496
  have hmid : Msg.field p.word 31 16 < 2 ^ 16 := field_lt p.word 31 16
  have hhid : hidOf p.word < 2 ^ 12 := field_lt p.word 57 46
  have hr := result.isLt
  have hp := progress.isLt
  have hc := cause.isLt
  have hu := u.isLt
  generalize element p.word u result progress cause status = e at he
  constructor
  · rw [BitVec.extractLsb'_toNat, Nat.shiftRight_eq_div_pow, he]
    omega
  · rw [BitVec.extractLsb'_toNat, Nat.shiftRight_eq_div_pow, he]
    omega
  · apply BitVec.eq_of_toNat_eq
    rw [BitVec.extractLsb'_toNat, Nat.shiftRight_eq_div_pow, he]
    omega
  · apply BitVec.eq_of_toNat_eq
    rw [BitVec.extractLsb'_toNat, Nat.shiftRight_eq_div_pow, he]
    omega
  · rintro n hn
    obtain rfl := Option.some.inj hn
    apply BitVec.eq_of_toNat_eq
    rw [BitVec.extractLsb'_toNat, Nat.shiftRight_eq_div_pow, he]
    omega
  · rw [BitVec.extractLsb'_toNat, Nat.shiftRight_eq_div_pow, he]
    omega
  · rw [BitVec.extractLsb'_toNat, Nat.shiftRight_eq_div_pow, he]
    change _ = tagOf p.word
    omega
  · rintro n hn
    obtain rfl := Option.some.inj hn
    apply BitVec.eq_of_toNat_eq
    rw [BitVec.extractLsb'_toNat, Nat.shiftRight_eq_div_pow, he]
    omega

end Sys2Proof.Machine
end

section
namespace Sys2Proof.Machine

/-! Units of a core. -/

theorem Core.unit_setUnit (k : Core) (u : BitVec 3) (q : EngineQ) : (k.setUnit u q).unit u = q := by
  unfold Core.setUnit Core.unit
  match u.toNat with
  | 0 | 1 | 2 | 3 | 4 | _ + 5 => rfl

theorem State.unitAt_modUnit (s : State) (c : CoreId) (u : BitVec 3) (f : EngineQ → EngineQ) : (s.modUnit c u f).unitAt c u = f (s.unitAt c u) := by
  rw [State.unitAt, State.modUnit, State.coreAt_modCore, Core.unit_setUnit]
  rfl

theorem State.unitAt_congr {s t : State} (h : t.cores = s.cores) (c : CoreId) (u : BitVec 3) : t.unitAt c u = s.unitAt c u :=
  congrArg (Core.unit · u) (State.coreAt_congr h c)

/-- Memory, the L1s and the number of the device are as before, and so is of each core all but its units. -/
structure UnitsOnly (s t : State) : Prop where
  mem : t.mem = s.mem
  l1s : t.l1s = s.l1s
  dev : t.dev = s.dev
  core : ∀ d, t.coreAt d = { s.coreAt d with mx := (t.coreAt d).mx, cp := (t.coreAt d).cp, td := (t.coreAt d).td, gm := (t.coreAt d).gm, sl := (t.coreAt d).sl }

theorem UnitsOnly.refl (s : State) : UnitsOnly s s := ⟨rfl, rfl, rfl, fun _ => rfl⟩

theorem UnitsOnly.trans {s t v : State} (h : UnitsOnly s t) (g : UnitsOnly t v) : UnitsOnly s v :=
  ⟨g.mem.trans h.mem, g.l1s.trans h.l1s, g.dev.trans h.dev, fun d => by rw [g.core d, h.core d]⟩

theorem UnitsOnly.of_cores {s t : State} (hm : t.mem = s.mem) (hl : t.l1s = s.l1s) (hd : t.dev = s.dev) (hc : t.cores = s.cores) : UnitsOnly s t :=
  ⟨hm, hl, hd, fun d => by rw [State.coreAt_congr hc d]⟩

theorem OnlyWaiters.unitsOnly {s t : State} (h : OnlyWaiters s t) : UnitsOnly s t := .of_cores h.mem (by rw [h.1]) (by rw [h.1]) h.cores

theorem Core.setUnit_eq (k : Core) (u : BitVec 3) (q : EngineQ) : k.setUnit u q
    = { k with mx := (k.setUnit u q).mx, cp := (k.setUnit u q).cp, td := (k.setUnit u q).td, gm := (k.setUnit u q).gm, sl := (k.setUnit u q).sl } := by
  unfold Core.setUnit
  split <;> rfl

theorem modUnit_unitsOnly (s : State) (c : CoreId) (u : BitVec 3) (f : EngineQ → EngineQ) : UnitsOnly s (s.modUnit c u f) :=
  ⟨rfl, rfl, rfl, fun d => by
    rw [State.modUnit, State.coreAt_modCore_eq]
    split
    next h => rw [h]; exact Core.setUnit_eq _ u _
    next => rfl⟩

theorem UnitsOnly.ctxAt {s t : State} (h : UnitsOnly s t) (d : CoreId) (y : CtxId) : t.ctxAt d y = s.ctxAt d y := by rw [State.ctxAt, h.core d]; rfl

theorem UnitsOnly.sp {s t : State} (h : UnitsOnly s t) (d : CoreId) : (t.coreAt d).sp = (s.coreAt d).sp := by rw [h.core d]

theorem UnitsOnly.ident {s t : State} (h : UnitsOnly s t) (d : CoreId) : (t.coreAt d).ident = (s.coreAt d).ident := by rw [h.core d]

theorem UnitsOnly.matrix {s t : State} (h : UnitsOnly s t) (d : CoreId) : (t.coreAt d).matrix = (s.coreAt d).matrix := by rw [h.core d]

theorem UnitsOnly.sameBytes {s t : State} (h : UnitsOnly s t) : SameBytes s t := ⟨fun _ => by rw [h.mem], fun d _ => by rw [h.sp d]⟩

theorem UnitsOnly.ownByte {s t : State} (h : UnitsOnly s t) (c : CoreId) (a : Nat) : t.ownByte c a = s.ownByte c a := by
  rw [State.ownByte, State.ownData, State.l1, h.l1s, h.mem]
  rfl

/-! The end of a command (10 R319, R324). -/

theorem answer_onlyWaiters (s : State) (src : Party) (i : Instr) : OnlyWaiters s (s.answer src i) := by
  unfold State.answer
  split
  · split
    · exact post_onlyWaiters s i
    · exact toPeer_onlyWaiters s i
  · exact post_onlyWaiters s i

theorem sendElement_onlyWaiters (s : State) (p : Packet) (u : BitVec 3) (rel : BitVec 10) (e : BitVec 128) : OnlyWaiters s (s.sendElement p u rel e) := by
  unfold State.sendElement
  split
  · exact post_onlyWaiters s _
  · dsimp only
    split
    · exact answer_onlyWaiters s _ _
    · exact .refl s

theorem mem_pending_answer {s : State} {i j : Instr} (src : Party) (h : i ∈ s.pending) : i ∈ (s.answer src j).pending := by
  unfold State.answer
  split
  · split
    · exact List.mem_append_left _ h
    · unfold State.toPeer
      split <;> exact h
  · exact List.mem_append_left _ h

theorem mem_pending_sendElement {s : State} {i : Instr} (p : Packet) (u : BitVec 3) (rel : BitVec 10) (e : BitVec 128) (h : i ∈ s.pending) :
    i ∈ (s.sendElement p u rel e).pending := by
  unfold State.sendElement
  split
  · exact List.mem_append_left _ h
  · dsimp only
    split
    · exact mem_pending_answer _ h
    · exact h

/-- The element of a command leaves. -/
theorem sendElement_sent (s : State) (p : Packet) (u : BitVec 3) (rel : BitVec 10) (e : BitVec 128) : Sent s (s.sendElement p u rel e) p u rel e := by
  refine ⟨fun c n hk => ?_, fun hk hr r hsrc => ?_⟩
  · rw [State.sendElement, hk]
    exact List.mem_append_right _ List.mem_cons_self
  · have hsends : (Msg.field p.word 1 1 == 1 || elemCause e != 0) = true := by simpa using hr
    unfold State.sendElement
    split
    next c n h => exact absurd h (hk c n)
    next =>
      dsimp only
      rw [if_pos hsends, hsrc, State.answer, if_pos rfl]
      exact List.mem_append_right _ List.mem_cons_self

/-- What the beginning of further commands leaves: no command before them comes back and no event in flight goes. -/
structure Kicked (c : CoreId) (u : BitVec 3) (s t : State) : Prop where
  units : UnitsOnly s t
  inq : (t.unitAt c u).inq <:+ (s.unitAt c u).inq
  pending : ∀ i ∈ s.pending, i ∈ t.pending

theorem Kicked.trans {c : CoreId} {u : BitVec 3} {s t v : State} (h : Kicked c u s t) (g : Kicked c u t v) : Kicked c u s v :=
  ⟨h.units.trans g.units, g.inq.trans h.inq, fun i hi => g.pending i (h.pending i hi)⟩

theorem kickUnit_kicked (s : State) (c : CoreId) (u : BitVec 3) (fuel : Nat) : Kicked c u s (s.kickUnit c u fuel) := by
  have stays : ∀ s, Kicked c u s s := fun s => ⟨.refl s, List.suffix_rfl, fun _ h => h⟩
  induction fuel generalizing s with
  | zero => exact stays s
  | succ f ih =>
    unfold State.kickUnit
    split
    next => exact stays s
    next p r hq =>
      split
      next i hi => exact ⟨.of_cores rfl rfl rfl rfl, List.suffix_rfl, fun _ h => List.mem_append_left _ h⟩
      next hi =>
        refine Kicked.trans ?_ (ih _)
        have hstep : ∀ v : State, UnitsOnly s v → (v.unitAt c u).inq = r → (∀ i ∈ s.pending, i ∈ v.pending) →
            ∀ rel e, Kicked c u s (v.sendElement p u rel e) :=
          fun v hu hv hp rel e => by
            have hsend := sendElement_onlyWaiters v p u rel e
            refine ⟨hu.trans hsend.unitsOnly, ?_, fun i h => mem_pending_sendElement p u rel e (hp i h)⟩
            rw [State.unitAt_congr hsend.cores, hv, hq]
            exact List.suffix_cons p r
        refine hstep _ ?_ ?_ ?_ _ _
        · refine (modUnit_unitsOnly s c u fun q => { q with inq := r, run := Run.start }).trans ?_
          exact UnitsOnly.of_cores rfl rfl rfl rfl
        · exact congrArg EngineQ.inq (State.unitAt_modUnit s c u fun q => { q with inq := r, run := Run.start })
        · exact fun _ h => h

/-- What the end of a command leaves, with its element. -/
theorem finishCmd_ended {s : State} {c : CoreId} {u : BitVec 3} {p : Packet} (h : s.running (.unit c u) = some p) (result progress : BitVec 32)
    (cause : BitVec 9) {status : Nat} (hs : status < 16) :
    UnitsOnly s (s.finishCmd (.unit c u) result progress cause status)
      ∧ Ended s (s.finishCmd (.unit c u) result progress cause status) c u p status cause (some progress) (some result) := by
  have hmod := modUnit_unitsOnly s c u fun q => { q with inq := q.inq.drop 1, run := Run.start }
  have hunit := State.unitAt_modUnit s c u fun q => { q with inq := q.inq.drop 1, run := Run.start }
  have hnumber : (Eng.unit c u).number = u := rfl
  unfold State.finishCmd
  rw [h]
  dsimp only
  rw [hnumber]
  generalize (s.modUnit c u fun q => { q with inq := q.inq.drop 1, run := Run.start }) = t at hmod hunit
  generalize hrel : (s.coreAt c).ident.rel = rel
  have hsend := sendElement_onlyWaiters t p u rel (element p.word u result progress cause status)
  have hsent := sendElement_sent t p u rel (element p.word u result progress cause status)
  generalize t.sendElement p u rel (element p.word u result progress cause status) = v at hsend hsent
  generalize (t.unitAt c u).inq.length = fuel
  obtain ⟨hunits, hinq, hpending⟩ := kickUnit_kicked v c u fuel
  refine ⟨(hmod.trans hsend.unitsOnly).trans hunits, ?_, _, elementOf_element p u result progress cause hs, ?_, ?_⟩
  · rw [State.unitAt_congr hsend.cores, hunit] at hinq
    rwa [← List.drop_one]
  · exact fun d n hk => hpending _ (hsent.1 d n hk)
  · rw [← hmod.dev, hrel]
    exact fun hk hr r hsrc => hpending _ (hsent.2 hk hr r hsrc)

/-- A command that ends from a state v that the engine's step has made of s ends from s. -/
theorem Ended.from {s v t : State} {c : CoreId} {u : BitVec 3} {p : Packet} {status : Nat} {cause : BitVec 9} {progress result : Option (BitVec 32)}
    (h : Ended v t c u p status cause progress result) (hu : (v.unitAt c u).inq = (s.unitAt c u).inq) (hi : (v.coreAt c).ident = (s.coreAt c).ident)
    (hd : v.dev = s.dev) : Ended s t c u p status cause progress result := by
  obtain ⟨hinq, e, he, hsent⟩ := h
  refine ⟨hu ▸ hinq, e, he, hsent.1, ?_⟩
  rw [← hi, ← hd]
  exact hsent.2

/-- RESULT of the element need not be stated. -/
theorem Ended.unstated {s t : State} {c : CoreId} {u : BitVec 3} {p : Packet} {status : Nat} {cause : BitVec 9} {progress result : Option (BitVec 32)}
    (h : Ended s t c u p status cause progress result) : Ended s t c u p status cause progress none := by
  obtain ⟨hinq, e, he, hsent⟩ := h
  exact ⟨hinq, e, { he with result := fun _ hn => nomatch hn }, hsent⟩

/-! The matrix engine's steps. -/

theorem engStep_of_working {s : State} {w : Eng} {code : Nat} {p : Packet} (h : s.working w code p) (go : Packet → State → Except EngStop State) :
    engStep w code go s = match go p (s.begun w) with
      | .ok t => .next t
      | .error st => .next (s.engStop w st) := by
  obtain ⟨hrun, hcode, hready, hfree⟩ := h
  unfold engStep
  rw [hrun]
  dsimp only
  rw [hready, hfree, if_neg (by simp [hcode]), if_neg (by simp)]
  rfl

theorem engStop_cause (s : State) (w : Eng) (q : BitVec 9) : s.engStop w (.cause q) = s.failCmd w q := by
  unfold State.engStop
  split <;> rfl

theorem failCmd_mx {s : State} {c : CoreId} {p : Packet} (h : s.running (.unit c 1) = some p) (q : BitVec 9) :
    FailsWith s c 1 p q (some (BitVec.ofNat 32 (s.runOf (.unit c 1)).progress)) none (.next (s.failCmd (.unit c 1) q)) := by
  obtain ⟨hunits, hended⟩ := finishCmd_ended (s := s.tock) h (Config.unstated s.tick) (BitVec.ofNat 32 (s.runOf (.unit c 1)).progress) q (status := 1) (by decide)
  have htock : UnitsOnly s s.tock := .of_cores rfl rfl rfl rfl
  exact ⟨_, rfl, (hended.from rfl rfl rfl).unstated, (htock.trans hunits).sameBytes, (htock.trans hunits).ctxAt⟩

/-- An engine goes on: its next event is in flight. -/
theorem engMore_goesOn {s : State} {c : CoreId} {p : Packet} {i : Instr} (h : s.running (.unit c 1) = some p) (hi : unitEvent c 1 (hidOf p.word) = some i) (n : Nat) :
    UnitsOnly s (s.engMore (.unit c 1) n) ∧ GoesOn (s.engMore (.unit c 1) n) (.unit c 1) p n i := by
  have hmod := modUnit_unitsOnly s c 1 fun q => { q with run := { q.run with progress := n, answers := [], words := [] } }
  have hunit := State.unitAt_modUnit s c 1 fun q => { q with run := { q.run with progress := n, answers := [], words := [] } }
  have hrun : (s.modRun (.unit c 1) fun r => { r with progress := n, answers := [], words := [] })
      = s.modUnit c 1 fun q => { q with run := { q.run with progress := n, answers := [], words := [] } } := rfl
  unfold State.engMore
  rw [hrun]
  generalize (s.modUnit c 1 fun q => { q with run := { q.run with progress := n, answers := [], words := [] } }) = t at hmod hunit
  have htr : t.running (.unit c 1) = some p := by
    rw [State.running, hunit]
    exact h
  have hev : t.engEvent (.unit c 1) = some i := by
    rw [State.engEvent, htr]
    exact hi
  rw [State.engNext, hev]
  refine ⟨hmod.trans (.of_cores rfl rfl rfl rfl), htr, ?_, ?_, List.mem_append_right _ List.mem_cons_self⟩
  · exact congrArg (fun q => q.run.progress) hunit
  · exact congrArg (fun q => q.run.answers) hunit

end Sys2Proof.Machine
end

section
namespace Sys2Proof.Machine

/-! Reads of an engine (10 R324, R325). -/

/-- A read of an engine that goes ahead: its parts, that nothing stops them, and what it reads. -/
theorem engRead_eq_ok {s t : State} {w : Eng} {as : List (EAddr × Nat)} {bs : List (List Byte)} (h : s.engRead w as = .ok (bs, t)) :
    ∃ pss, s.allOf w false as = .ok pss ∧ bs = (pss.map fun l => l.flatMap (s.spanBytes w))
      ∧ (t = pss.flatten.foldl (fun t p => t.touchSpan w false p) s ∨ t = (pss.flatten.foldl (fun t p => t.touchSpan w false p) s).tock) := by
  unfold State.engRead at h
  split at h
  next => exact nomatch h
  next pss hp =>
    dsimp only at h
    split at h
    next => exact nomatch h
    next =>
      split at h
      next => exact nomatch h
      next =>
        split at h
        next => exact nomatch h
        next =>
          obtain ⟨rfl, rfl⟩ := Prod.mk.inj (Except.ok.inj h)
          refine ⟨pss, hp, rfl, ?_⟩
          split
          · exact .inl rfl
          · exact .inr rfl

theorem engRead_steady {s t : State} {c : CoreId} {u : BitVec 3} {as : List (EAddr × Nat)} {bs : List (List Byte)}
    (h : s.engRead (.unit c u) as = .ok (bs, t)) : Steady s t := by
  obtain ⟨pss, -, -, ht⟩ := engRead_eq_ok h
  have hs : Steady s (pss.flatten.foldl (fun t p => t.touchSpan (.unit c u) false p) s) := Steady.foldl (fun t p => touchSpan_load_steady t c u p) _ s
  rcases ht with rfl | rfl <;> exact hs

theorem engRead_undisturbed {s t : State} {c : CoreId} {u : BitVec 3} {as : List (EAddr × Nat)} {bs : List (List Byte)}
    (h : s.engRead (.unit c u) as = .ok (bs, t)) (hq : s.quiet c) : Undisturbed c s t := by
  obtain ⟨pss, -, -, ht⟩ := engRead_eq_ok h
  have hn : (s.space (s.coreAt c).ident.pasid).notes = none := hq.2.2.2.2
  have hs : Undisturbed c s (pss.flatten.foldl (fun t p => t.touchSpan (.unit c u) false p) s) :=
    hq.undisturbed.foldl (fun _ p g => g.touchSpan hn u p) _
  rcases ht with rfl | rfl
  · exact hs
  · exact ⟨hs.steady, hs.spaces, hs.partials, hs.byte, hs.own⟩

/-! The state of the Reef governor has no part in a read (10 R337). -/

/-- The state with another state of the Reef governor. -/
def State.withReef (s : State) (r : Vector Reef 4) : State := { s with reef := r }

/-- A change of the state that neither sees nor changes the Reef governor. -/
def ReefBlind (f : State → State) : Prop := ∀ s r, f (s.withReef r) = (f s).withReef r

namespace ReefBlind

theorem comp {f g : State → State} (hg : ReefBlind g) (hf : ReefBlind f) : ReefBlind fun s => g (f s) := fun s r => by
  dsimp only
  rw [hf s r, hg (f s) r]

theorem ite {p : State → Prop} [∀ s, Decidable (p s)] {f g : State → State} (hp : ∀ s r, p (s.withReef r) ↔ p s) (hf : ReefBlind f) (hg : ReefBlind g) :
    ReefBlind fun s => if p s then f s else g s := fun s r => by
  dsimp only
  by_cases h : p s
  · rw [if_pos h, if_pos ((hp s r).mpr h), hf]
  · rw [if_neg h, if_neg (mt (hp s r).mp h), hg]

theorem foldl {α : Type} {f : State → α → State} (hf : ∀ a, ReefBlind fun s => f s a) (l : List α) : ReefBlind fun s => l.foldl f s := fun s r => by
  induction l generalizing s with
  | nil => rfl
  | cons a l ih =>
    have h := hf a s r
    dsimp only at h ih ⊢
    rw [List.foldl_cons, List.foldl_cons, h, ih]

theorem id : ReefBlind fun s => s := fun _ _ => rfl

theorem makeStale (l : Nat) : ReefBlind fun s => s.makeStale l := ite (fun _ _ => .rfl) (fun _ _ => rfl) id

theorem toPeer (i : Instr) : ReefBlind fun s => s.toPeer i := ite (fun _ _ => .rfl) (fun _ _ => rfl) id

theorem answerTo (d : BitVec 1) (i : Instr) : ReefBlind fun s => s.answerTo d i := ite (fun _ _ => .rfl) (fun _ _ => rfl) (toPeer i)

theorem wakeAll (ws : List (CoreId × CtxId × WaitaOp)) : ReefBlind fun s => s.wakeAll ws :=
  foldl (fun _ => ite (fun _ _ => .rfl) ((answerTo _ _).comp fun _ _ => rfl) id) ws

theorem put (pa : Nat) (bs : List Byte) : ReefBlind fun s => s.put pa bs := fun s r => by
  have hmark : ReefBlind fun s => (linesOf pa bs.length).foldl State.makeStale { s with mem := s.mem.write pa bs } :=
    (foldl makeStale (linesOf pa bs.length)).comp fun _ _ => rfl
  have hm := hmark s r
  dsimp only at hm ⊢
  unfold State.put
  rw [hm]
  exact comp (g := fun s => s.wakeKept pa bs.length) (fun _ _ => rfl) (wakeAll _) _ r

theorem toward (gang : Option Nat) (i : Instr) : ReefBlind fun s => s.toward gang i := by
  cases gang <;> exact fun _ _ => rfl

theorem wakeOne (a : FurlAns) (gang : Option Nat) (q : FurlReq) : ReefBlind fun s => s.wakeOne a gang q := fun s r => by
  have hput : ∀ bs, ReefBlind fun s => if q.dev = s.dev then (s.put q.pa bs).recommit q.core else s.put q.pa bs := fun bs =>
    ite (fun _ _ => .rfl) (comp (g := fun s => s.recommit q.core) (fun _ _ => rfl) (put _ _)) (put _ _)
  have hsend : ReefBlind fun s => if q.dev = s.dev then s.toward gang (.furledWake q a) else s.toPeer (.furledWake q a) :=
    ite (fun _ _ => .rfl) (toward _ _) (toPeer _)
  dsimp only
  unfold State.wakeOne
  split
  · exact hput _ s r
  · exact hsend s r

theorem modCleat (pa : Nat) (f : List Cleat → List Cleat) : ReefBlind fun s => s.modCleat pa f :=
  ite (p := fun s => s.peerMem pa = true) (fun _ _ => .rfl) (fun _ _ => rfl) fun _ _ => rfl

theorem wakeFurl (pa : Nat) (a : FurlAns) : ReefBlind fun s => s.wakeFurl pa a := fun s r =>
  comp (g := fun t => (wakeOrder (s.furlEntries pa)).foldl (fun t (e : Option Nat × FurlReq) => t.wakeOne a e.1 e.2) t)
    (foldl (f := fun t (e : Option Nat × FurlReq) => t.wakeOne a e.1 e.2) (fun e => wakeOne a e.1 e.2) (wakeOrder (s.furlEntries pa)))
    (modCleat pa fun ks => ks.filter fun k => !k.onCell pa) s r

theorem store (pa : Nat) (bs : List Byte) : ReefBlind fun s => s.store pa bs := fun s r =>
  comp (g := fun t => ((s.openCells pa bs.length).filter fun c => s.tag c == 2).foldl (fun t c => t.wakeFurl c (.word (BitVec.ofNat 64 (t.mem.num c 8)))) t)
    (foldl (fun c t r => wakeFurl c _ t r) _)
    ((put pa bs).comp (foldl (f := fun t c => t.setTag c 0) (fun _ _ _ => rfl) (s.openCells pa bs.length))) s r

theorem store_eq (s : State) (r : Vector Reef 4) (pa : Nat) (bs : List Byte) : (s.withReef r).store pa bs = (s.store pa bs).withReef r := store pa bs s r

theorem recallLine (l : Nat) : ReefBlind fun s => s.recall l := fun s r => by
  have hline : (s.withReef r).line l = s.line l := rfl
  dsimp only
  unfold State.recall
  dsimp only
  rw [hline]
  by_cases h : (s.line l).u.isEmpty = true
  · rw [if_pos h, if_pos h]
  · rw [if_neg h, if_neg h]
    symm
    rw [← store_eq]
    rfl

theorem settle (ls : List Nat) : ReefBlind fun s => s.settle ls := foldl recallLine ls

end ReefBlind

section
variable (s : State) (r : Vector Reef 4) (w : Eng)

theorem spans_withReef (write : Bool) (a : EAddr) (n : Nat) : (s.withReef r).spans w write a n = s.spans w write a n := rfl

theorem allOf_withReef (write : Bool) (as : List (EAddr × Nat)) : (s.withReef r).allOf w write as = s.allOf w write as := by
  induction as with
  | nil => rfl
  | cons e l ih => rw [State.allOf, State.allOf, spans_withReef, ih]

theorem settle_withReef (ls : List Nat) : (s.withReef r).settle ls = (s.settle ls).withReef r := ReefBlind.settle ls s r

theorem readPlace_withReef (c : CoreId) (q : Place) (n : Nat) : (s.withReef r).readPlace c q n = s.readPlace c q n := by
  unfold State.readPlace
  split
  · rfl
  · rw [settle_withReef]
    rfl

theorem spanBytes_withReef (p : Span) : (s.withReef r).spanBytes w p = s.spanBytes w p := by
  cases p with
  | sp c o n => rfl
  | mem q n =>
    change (s.withReef r).readAnswered (s.engCore w) (s.runOf w).answers q n = s.readAnswered (s.engCore w) (s.runOf w).answers q n
    unfold State.readAnswered
    split
    · rw [settle_withReef]
      rfl
    · exact readPlace_withReef s r _ q n

/-- A read is what it is under any state of the governor. -/
theorem engRead_withReef {as : List (EAddr × Nat)} {bs : List (List Byte)} {t : State} (h : s.engRead w as = .ok (bs, t)) :
    ∃ t', (s.withReef r).engRead w as = .ok (bs, t') := by
  have hrun : (s.withReef r).runOf w = s.runOf w := rfl
  have hbusy : (s.withReef r).spanBusy w = s.spanBusy w := rfl
  have htag : (s.withReef r).tag = s.tag := rfl
  have hbytes : (s.withReef r).spanBytes w = s.spanBytes w := funext (spanBytes_withReef s r w)
  unfold State.engRead at h ⊢
  rw [allOf_withReef, hrun, hbusy, htag, hbytes]
  split at h
  next => exact nomatch h
  next pss hp =>
    dsimp only at h ⊢
    split at h
    next => exact nomatch h
    next h1 =>
      split at h
      next => exact nomatch h
      next h2 =>
        rw [if_neg h1, if_neg h2]
        split at h
        next => exact nomatch h
        next => exact ⟨_, congrArg (fun bs => Except.ok (bs, _)) (Prod.mk.inj (Except.ok.inj h)).1⟩

end

end Sys2Proof.Machine
end

section
namespace Sys2Proof.Machine

/-! The arithmetic of the matrix engine (10 R332, 03 R87). -/

theorem satInt_eq {lo hi : Int} (h : lo ≤ hi) (x : Int) : satInt x lo hi = max lo (min hi x) := by
  unfold satInt
  split
  · omega
  · split <;> omega

theorem toInt_ofInt_sat (x : Int) : (BitVec.ofInt 32 (satInt x (-(2 ^ 31)) (2 ^ 31 - 1))).toInt = max (-(2 ^ 31)) (min (2 ^ 31 - 1) x) := by
  rw [satInt_eq (by decide), BitVec.toInt_ofInt]
  exact Int.bmod_eq_of_le (by omega) (by omega)

section
variable {b : Bank} {wa k : Nat} {ea q : Int} {nan : Bool} {old : BitVec 32}

theorem accumulate_int (h : b.float = false) : accumulate b wa ea nan k q old = BitVec.ofInt 32 (satInt (old.toInt + q) (-(2 ^ 31)) (2 ^ 31 - 1)) := by
  rw [accumulate, h]
  rfl

/-- A NaN is met in A's segment, in the bank's column or in the accumulator word. -/
def Spoiled (b : Bank) (k : Nat) (nan : Bool) (old : BitVec 32) : Prop := nan = true ∨ k ∈ b.nanCols ∨ (fp32.value old.toNat).isNan = true

theorem spoiled_iff : (nan || b.nanCols.contains k || (fp32.value old.toNat).isNan) = true ↔ Spoiled b k nan old := by
  rw [Bool.or_eq_true, Bool.or_eq_true, List.contains_iff_mem, or_assoc, Spoiled]

theorem accumulate_spoiled (h : b.float = true) (hs : Spoiled b k nan old) : accumulate b wa ea nan k q old = 0x7FC00000 := by
  rw [accumulate, h, if_neg (by decide), if_pos (spoiled_iff.mpr hs)]

theorem accumulate_float (h : b.float = true) (hs : ¬ Spoiled b k nan old) : accumulate b wa ea nan k q old
    = BitVec.ofNat 32 (addF32ne old.toNat (fp32.ofVal 0 ((FVal.ofInt q).scale (ea - wa + 2 + Sparse.get 0 b.eb k - 6))).1) := by
  rw [accumulate, h, if_neg (by decide), if_neg (mt spoiled_iff.mp hs)]

end

/-- Words j0 to j0 + n - 1 of a map changed one after the other. -/
theorem get_foldl_set {α : Type} [DecidableEq α] (d : α) (j0 n : Nat) (f : Nat → α → α) (m : Sparse α) (j : Nat) :
    Sparse.get d ((List.range n).foldl (fun m c => Sparse.set d m (j0 + c) (f c (Sparse.get d m (j0 + c)))) m) j
      = if j0 ≤ j ∧ j < j0 + n then f (j - j0) (Sparse.get d m j) else Sparse.get d m j := by
  induction n with
  | zero => rw [List.range_zero, List.foldl_nil, if_neg (by omega)]
  | succ n ih =>
    rw [List.range_succ, List.foldl_append, List.foldl_cons, List.foldl_nil, Sparse.get_set]
    by_cases hj : j = j0 + n
    · subst hj
      rw [if_pos rfl, if_pos (by omega), ih, if_neg (by omega), Nat.add_sub_cancel_left]
    · rw [if_neg hj, ih]
      exact if_congr (by omega) rfl rfl

/-- The positions of a list with its elements. -/
theorem range_zip {α : Type} (d : α) (xs : List α) : (List.range xs.length).zip xs = (List.range xs.length).map fun i => (i, xs.getD i d) := by
  refine List.ext_getElem (by simp) fun i h1 h2 => ?_
  have hi : i < xs.length := by simpa using h2
  simp [hi]

theorem dot_eq (qa : List Int) (b : Bank) (c : Nat) : dot qa b c = ((List.range qa.length).map fun i => qa.getD i 0 * b.cell i c).sum := by
  rw [dot, foldl_add_eq fun e : Nat × Int => e.2 * b.cell e.1 c, zero_add, range_zip 0, List.map_map]
  rfl

/-- The rows of A's segment that a macro multiplies, its exponent and its NaN mark. -/
def macroSegment (b : Bank) (wa : Nat) (k0 : Nat) (vs : List FVal) (is : List Int) : List Int × Int × Bool :=
  if b.float then alignSegment wa (b.rows.map fun k => vs.getD (k0 + k) (.fin false 0 0)) else (b.rows.map fun k => is.getD (k0 + k) 0, 0, false)

theorem get_macroRow (config m row0 : Nat) (b : Bank) (wa : Nat) (vs : List FVal) (is : List Int) (acc : Sparse (BitVec 32)) (j : Nat) :
    let first := row0 + nseg config m * b.nm
    let q := macroSegment b wa (kseg config m * b.km) vs is
    Sparse.get 0 (macroRow config m row0 b wa vs is acc) j
      = if first ≤ j ∧ j < first + b.nm then accumulate b wa q.2.1 q.2.2 (j - first) (dot q.1 b (j - first)) (Sparse.get 0 acc j) else Sparse.get 0 acc j :=
  get_foldl_set 0 _ b.nm (fun c old => accumulate b wa _ _ c (dot _ b c) old) acc j

/-! The stored rows of a sparse bank (10 R327). -/

theorem mem_maskBits {m : BitVec 16} {i : Nat} : i ∈ maskBits m ↔ i < 16 ∧ m.getLsbD i = true := by rw [maskBits, List.mem_filter, List.mem_range]

theorem rows_sparse {b : Bank} (h : b.sparse ≠ 0) :
    b.rows = (List.range b.masks.length).flatMap fun g => (maskBits (b.masks.getD g 0)).map fun i => 16 * g + i := by
  rw [Bank.rows, if_neg h, range_zip 0, List.flatMap_map]

theorem pairwise_rows {b : Bank} (h : b.sparse ≠ 0) : b.rows.Pairwise (· < ·) := by
  rw [rows_sparse h, List.pairwise_flatMap]
  refine ⟨fun g _ => ?_, List.pairwise_lt_range.imp fun hab x hx y hy => ?_⟩
  · rw [List.pairwise_map]
    exact (List.pairwise_lt_range.filter _).imp fun h => Nat.add_lt_add_left h _
  · obtain ⟨i, hi, rfl⟩ := List.mem_map.mp hx
    obtain ⟨j, hj, rfl⟩ := List.mem_map.mp hy
    have := (mem_maskBits.mp hi).1
    omega

theorem mem_rows {b : Bank} (h : b.sparse ≠ 0) (k : Nat) : k ∈ b.rows ↔ k / 16 < b.masks.length ∧ (b.masks.getD (k / 16) 0).getLsbD (k % 16) = true := by
  rw [rows_sparse h, List.mem_flatMap]
  constructor
  · rintro ⟨g, hg, hk⟩
    obtain ⟨i, hi, rfl⟩ := List.mem_map.mp hk
    obtain ⟨hi, hbit⟩ := mem_maskBits.mp hi
    have hd : (16 * g + i) / 16 = g := by omega
    have hm : (16 * g + i) % 16 = i := by omega
    rw [hd, hm]
    exact ⟨List.mem_range.mp hg, hbit⟩
  · rintro ⟨hg, hbit⟩
    exact ⟨k / 16, List.mem_range.mpr hg, List.mem_map.mpr ⟨k % 16, mem_maskBits.mpr ⟨Nat.mod_lt k (by decide), hbit⟩, Nat.div_add_mod k 16⟩⟩

/-! The exponent of a segment (03 R87). -/

theorem finite_iff (v : FVal) : (!v.special && !v.isZero) = true ↔ ∃ g m x, v = .fin g m x ∧ m ≠ 0 := by
  cases v with
  | fin g m x => simp [FVal.special, FVal.isZero]
  | inf n => simp [FVal.special]
  | nan s => simp [FVal.special]

theorem mem_exponents {vs : List FVal} {e : Int} :
    e ∈ (vs.filter fun v => !v.special && !v.isZero).map FVal.exponent ↔ ∃ v ∈ vs, (∃ g m x, v = .fin g m x ∧ m ≠ 0) ∧ v.exponent = e := by
  simp only [List.mem_map, List.mem_filter, finite_iff, and_assoc]

theorem alignSegment_spec (wa : Nat) (vs : List FVal) :
    let r := alignSegment wa vs
    let finite := fun (v : FVal) => ∃ g m x, v = .fin g m x ∧ m ≠ 0
    r.1 = vs.map (blockFixed wa r.2.1) ∧ -127 ≤ r.2.1 ∧ (∀ v ∈ vs, finite v → v.exponent ≤ r.2.1)
    ∧ (r.2.1 = -127 ∨ ∃ v ∈ vs, finite v ∧ v.exponent = r.2.1) ∧ (r.2.2 = true ↔ ∃ v ∈ vs, v.special = true) := by
  have hmax : ∃ o, (blockExponent vs).1 = o ∧ ((vs.filter fun v => !v.special && !v.isZero).map FVal.exponent).max? = o := ⟨_, rfl, rfl⟩
  obtain ⟨o, ho, hm⟩ := hmax
  have hexp : (alignSegment wa vs).2.1 = max (-127) (o.getD (-127)) := by rw [← ho]; rfl
  dsimp only
  refine ⟨rfl, by rw [hexp]; exact le_max_left _ _, ?_, ?_, List.any_eq_true⟩
  · intro v hv hf
    have hin := mem_exponents.mpr ⟨v, hv, hf, rfl⟩
    cases o with
    | none => exact absurd hin (List.max?_eq_none_iff.mp hm ▸ List.not_mem_nil)
    | some e =>
      rw [hexp]
      exact ((List.max?_eq_some_iff.mp hm).2 _ hin).trans (le_max_right _ _)
  · rw [hexp]
    cases o with
    | none => exact .inl (max_self _)
    | some e =>
      rcases le_total e (-127) with h | h
      · exact .inl (max_eq_left h)
      · rw [Option.getD_some, max_eq_right h]
        exact .inr (mem_exponents.mp (List.max?_eq_some_iff.mp hm).1)

/-! Words set to 0. -/

theorem get_filter {α : Type} (d : α) (p : Nat → Bool) (m : Sparse α) (j : Nat) :
    Sparse.get d (m.filter fun e => p e.1) j = if p j then Sparse.get d m j else d := by
  induction m with
  | nil => exact (ite_self d).symm
  | cons e r ih =>
    rw [List.filter_cons, Sparse.get_cons]
    by_cases he : e.1 = j
    · rw [he, if_pos rfl]
      by_cases hp : p j = true
      · rw [if_pos hp, if_pos hp, Sparse.get_cons, if_pos he]
      · rw [if_neg hp, if_neg hp, ih, if_neg hp]
    · rw [if_neg he]
      split
      · rw [Sparse.get_cons, if_neg he, ih]
      · exact ih

theorem get_zeroWords (acc : Sparse (BitVec 32)) (lo n j : Nat) :
    Sparse.get 0 (zeroWords acc lo n) j = if lo ≤ j ∧ j < lo + n then 0 else Sparse.get 0 acc j := by
  rw [zeroWords, get_filter 0 (fun i => !decide (lo ≤ i ∧ i < lo + n))]
  by_cases h : lo ≤ j ∧ j < lo + n <;> simp [h]

end Sys2Proof.Machine
end

section
namespace Sys2Proof.Machine

/-! A row of MX.MMA (10 R331 to R334). -/

/-- The accumulator after row r of a command, from the bytes of its row of A and of its scales. -/
def mmaAcc (w : Msg) (banks : Vector Bank 4) (r : Nat) (bss : List (List Byte)) (acc : Sparse (BitVec 32)) : Sparse (BitVec 32) :=
  let f := BitVec.ofNat 4 (Msg.field w 163 160)
  let n := rowLength (Msg.field w 166 165) banks[0]
  let row := bss.headD []
  let vs := if floatFmt f.toNat then rowElems f (Msg.field w 4 4 == 1) (r * Msg.field w 159 128) n row (if Msg.word w 3 = 0 then none else some (bss.getD 1 [])) else []
  let is := if floatFmt f.toNat then [] else (List.range n).map fun i => intElem f ((ofBytes row >>> (i * formatBits f)) % 2 ^ formatBits f)
  mmaRow (Msg.field w 166 165) (Msg.field w 184 173 + r * totalColumns (Msg.field w 166 165) banks[0]) (Msg.field w 168 168 == 1) banks
    (widthA f (Msg.field w 164 164 == 1)) vs is acc

/-- A core after a row: its banks exchanged or not, and its accumulator. -/
def Core.afterRow (k : Core) (w : Msg) (swap : Bool) (banks : Vector Bank 4) (r : Nat) (bss : List (List Byte)) : Core :=
  let m := if swap then k.matrix.exchange else k.matrix
  { k with matrix := { m with acc := mmaAcc w banks r bss m.acc } }

/-- The state after a row of core c's matrix engine, its macro-cycles counted. -/
def State.afterRow (t : State) (c : CoreId) (w : Msg) (swap : Bool) (banks : Vector Bank 4) (r : Nat) (bss : List (List Byte)) : State :=
  (t.modCore c fun k => k.afterRow w swap banks r bss).reefUse c (4 * widthA (BitVec.ofNat 4 (Msg.field w 163 160)) (Msg.field w 164 164 == 1))

/-- The bytes of a row of A. -/
def mmaLen (w : Msg) (banks : Vector Bank 4) : Nat :=
  rowLength (Msg.field w 166 165) banks[0] * formatBits (BitVec.ofNat 4 (Msg.field w 163 160)) / 8

/-- The rows of A of a command. -/
def mmaRows (w : Msg) (banks : Vector Bank 4) (a : EAddr) : List (EAddr × Nat) :=
  (List.range (Msg.field w 172 169 + 1)).map fun i => (a.plus (i * Msg.field w 159 128), mmaLen w banks)

/-- What row r of a command reads: its row of A, and the scale bytes of it. -/
def mmaReads (w : Msg) (banks : Vector Bank 4) (r : Nat) (a sa : EAddr) : List (EAddr × Nat) :=
  let sr := scaleRange (BitVec.ofNat 4 (Msg.field w 163 160)) (r * Msg.field w 159 128) (mmaLen w banks)
  (a.plus (r * Msg.field w 159 128), mmaLen w banks) :: (if Msg.word w 3 = 0 then [] else [(sa.plus sr.1, sr.2)])

theorem mmaGo_ok {v t : State} {c : CoreId} {p : Packet} {a sa : EAddr} {bss : List (List Byte)} {r : Nat} {swap : Bool} {banks : Vector Bank 4}
    (hr : (v.runOf (.unit c 1)).progress = r) (hswap : (r == 0 && Msg.field p.word 167 167 == 1) = swap)
    (hbanks : (v.coreAt c).matrix.banksFor swap = banks) (hbad : r = 0 → mmaBad p.word banks = false)
    (ha : v.engAddr (.unit c 1) .own (Msg.word p.word 1) = .ok a) (hsa : v.engAddr (.unit c 1) .own (Msg.word p.word 3) = .ok sa)
    (hall : r = 0 → ∀ d o, a = .sp d o → ∃ l, v.allOf (.unit c 1) false (mmaRows p.word banks a) = .ok l)
    (halign : Msg.word p.word 3 ≠ 0 → a.num % blockBytes (BitVec.ofNat 4 (Msg.field p.word 163 160)) = 0
      ∧ Msg.field p.word 159 128 % blockBytes (BitVec.ofNat 4 (Msg.field p.word 163 160)) = 0)
    (hread : v.engRead (.unit c 1) (mmaReads p.word banks r a sa) = .ok (bss, t)) :
    mmaGo c p v = .ok (if r + 1 = Msg.field p.word 172 169 + 1 then
        (t.afterRow c p.word swap banks r bss).finishCmd (.unit c 1) 0 (BitVec.ofNat 32 (Msg.field p.word 172 169 + 1)) 0 0
      else (t.afterRow c p.word swap banks r bss).engMore (.unit c 1) (r + 1)) := by
  have hmap : ∀ x : EAddr, (Except.ok x : Except (BitVec 9) EAddr).mapError EngStop.cause = .ok x := fun _ => rfl
  have hbind : ∀ {α : Type} (x : α) (g : α → Except EngStop State), (Except.ok x >>= g) = g x := fun _ _ => rfl
  have hscale : ¬ (Msg.word p.word 3 ≠ 0 ∧ (a.num % blockBytes (BitVec.ofNat 4 (Msg.field p.word 163 160)) ≠ 0
      ∨ Msg.field p.word 159 128 % blockBytes (BitVec.ofNat 4 (Msg.field p.word 163 160)) ≠ 0)) := fun ⟨h, hn⟩ =>
    hn.elim (fun hn => hn (halign h).1) fun hn => hn (halign h).2
  unfold mmaReads mmaLen at hread
  unfold mmaRows mmaLen at hall
  unfold mmaGo
  dsimp only at hread ⊢
  rw [hr, hswap, hbanks, if_neg fun ⟨h0, hb⟩ => absurd (hb.symm.trans (hbad h0)) (by decide), ha, hsa]
  simp only [hmap, hbind, if_neg hscale, hread]
  split
  next h0 =>
    split
    next d o =>
      obtain ⟨l, hl⟩ := hall h0 d o rfl
      rw [hl]
      split <;> rfl
    next => split <;> rfl
  next => split <;> rfl

theorem mmaGo_bad {v : State} {c : CoreId} {p : Packet} (hr : (v.runOf (.unit c 1)).progress = 0)
    (hbad : mmaBad p.word ((v.coreAt c).matrix.banksFor (Msg.field p.word 167 167 == 1)) = true) : mmaGo c p v = .error (.cause 0x083) := by
  unfold mmaGo
  dsimp only
  rw [hr]
  exact if_pos ⟨rfl, hbad⟩

/-! What a row leaves. -/

/-- The number of the device is as before, and of each core all but its matrix registers. -/
structure MatrixOnly (s t : State) : Prop where
  dev : t.dev = s.dev
  core : ∀ d, t.coreAt d = { s.coreAt d with matrix := (t.coreAt d).matrix }

theorem Steady.matrixOnly_trans {s t u : State} (h : Steady s t) (g : MatrixOnly t u) : MatrixOnly s u :=
  ⟨g.dev.trans h.dev, fun d => by rw [← State.coreAt_congr h.cores d]; exact g.core d⟩

theorem MatrixOnly.ctxAt {s t : State} (h : MatrixOnly s t) (d : CoreId) (y : CtxId) : t.ctxAt d y = s.ctxAt d y := by rw [State.ctxAt, h.core d]; rfl

theorem MatrixOnly.sp {s t : State} (h : MatrixOnly s t) (d : CoreId) : (t.coreAt d).sp = (s.coreAt d).sp := by rw [h.core d]

theorem MatrixOnly.ident {s t : State} (h : MatrixOnly s t) (d : CoreId) : (t.coreAt d).ident = (s.coreAt d).ident := by rw [h.core d]

theorem MatrixOnly.unitAt {s t : State} (h : MatrixOnly s t) (c : CoreId) : t.unitAt c 1 = s.unitAt c 1 := by
  rw [State.unitAt, h.core c]
  rfl

theorem MatrixOnly.running {s t : State} (h : MatrixOnly s t) (c : CoreId) : t.running (.unit c 1) = s.running (.unit c 1) :=
  congrArg (fun q : EngineQ => q.inq.head?) (h.unitAt c)

section
variable (t : State) (c : CoreId) (w : Msg) (swap : Bool) (banks : Vector Bank 4) (r : Nat) (bss : List (List Byte))

theorem coreAt_afterRow : (t.afterRow c w swap banks r bss).coreAt c = (t.coreAt c).afterRow w swap banks r bss :=
  State.coreAt_modCore t c fun k => k.afterRow w swap banks r bss

theorem afterRow_matrixOnly : MatrixOnly t (t.afterRow c w swap banks r bss) :=
  ⟨rfl, fun d => by
    have hd : (t.afterRow c w swap banks r bss).coreAt d = (t.modCore c fun k => k.afterRow w swap banks r bss).coreAt d := rfl
    rw [hd, State.coreAt_modCore_eq]
    split <;> rfl⟩

theorem Core.afterRow_matrix (k : Core) : (k.afterRow w swap banks r bss).matrix.active = (if swap then k.matrix.shadow else k.matrix.active)
    ∧ (k.afterRow w swap banks r bss).matrix.shadow = (if swap then k.matrix.active else k.matrix.shadow)
    ∧ (k.afterRow w swap banks r bss).matrix.acc = mmaAcc w banks r bss k.matrix.acc := by
  cases swap <;> exact ⟨rfl, rfl, rfl⟩

end

/-- An engine that has written nothing. -/
theorem engineWrote_nil {s t : State} {c : CoreId} (hc : ∀ d y, t.ctxAt d y = s.ctxAt d y) (hs : ∀ d, (t.coreAt d).sp = (s.coreAt d).sp)
    (hq : s.quiet c → (∀ a, t.ownByte c a = s.mem.byte a) ∧ ∀ a, t.mem.byte a = s.mem.byte a) : EngineWrote s t c [] [] := by
  refine ⟨hc, fun h _ => ?_⟩
  obtain ⟨hown, hbyte⟩ := hq h
  exact ⟨⟨hown, fun _ _ he => absurd he List.not_mem_nil, fun a _ => hbyte a⟩, fun d o => by rw [hs d]; rfl⟩

end Sys2Proof.Machine
end

section
namespace Sys2Proof.Machine

variable {s : State} {c : CoreId} {p : Packet}

/-! MX_MMA (10 R332, R334, R337). -/

/-- The state in which a row is worked that the governor does not hold. -/
def State.unheld (s : State) (c : CoreId) : State := s.modReef (s.dieOf c) fun r => { r with held := r.held.filter fun e => e.1 != c }

theorem exec_mxMma_held (hw : s.working (.unit c 1) 2 p) (hh : s.reefHolds c = true) : exec (.mxMma c) s = .next ((s.holdRow c).park (.mxMma c)) := by
  obtain ⟨hrun, hcode, hready, -⟩ := hw
  change execMxMma c s = _
  unfold execMxMma
  rw [hrun, hready, hh]
  exact if_pos (by simp [hcode])

theorem exec_mxMma_unheld (hh : s.reefHolds c = false) : exec (.mxMma c) s = engStep (.unit c 1) 2 (mmaGo c) (s.unheld c) := by
  change execMxMma c s = _
  unfold execMxMma
  rw [hh, Bool.and_false]
  rfl

theorem mem_held_holdRow (s : State) (c : CoreId) : ∃ e ∈ ((s.holdRow c).reef[s.dieOf c]).held, e.1 = c := by
  have hr : (s.holdRow c).reef[s.dieOf c] = if (s.reef[s.dieOf c]).held.any (·.1 == c) then s.reef[s.dieOf c]
      else { s.reef[s.dieOf c] with held := (s.reef[s.dieOf c]).held ++ [(c, s.cyc)] } := Vector.getElem_set_self _
  rw [hr]
  split
  next h =>
    obtain ⟨e, he, hc⟩ := List.any_eq_true.mp h
    exact ⟨e, he, eq_of_beq hc⟩
  next => exact ⟨_, List.mem_append_right _ List.mem_cons_self, rfl⟩

theorem unitAt_begun (s : State) (c : CoreId) : (s.begun (.unit c 1)).unitAt c 1 = { s.unitAt c 1 with run := { (s.unitAt c 1).run with lines := [] } } :=
  State.unitAt_modUnit s c 1 fun q => { q with run := { q.run with lines := [] } }

theorem begun_unitsOnly (s : State) (c : CoreId) : UnitsOnly s (s.begun (.unit c 1)) := modUnit_unitsOnly s c 1 fun q => { q with run := { q.run with lines := [] } }

theorem progress_begun (s : State) (c : CoreId) : ((s.begun (.unit c 1)).runOf (.unit c 1)).progress = (s.runOf (.unit c 1)).progress :=
  (congrArg (fun q : EngineQ => q.run.progress) (unitAt_begun s c)).trans rfl

theorem running_begun (s : State) (c : CoreId) : (s.begun (.unit c 1)).running (.unit c 1) = s.running (.unit c 1) :=
  (congrArg (fun q : EngineQ => q.inq.head?) (unitAt_begun s c)).trans rfl

theorem quiet_begun (h : s.quiet c) : (s.begun (.unit c 1)).quiet c := by
  obtain ⟨hu, ht, ha, htidy, hn⟩ := h
  refine ⟨hu, ht, ha, htidy, ?_⟩
  rw [(begun_unitsOnly s c).ident c]
  exact hn

theorem engAddr_begun (s : State) (c : CoreId) (x : Word) : (s.begun (.unit c 1)).engAddr (.unit c 1) .own x = s.engAddr (.unit c 1) .own x := by
  unfold State.engAddr
  dsimp only
  rw [(begun_unitsOnly s c).ident c]

theorem mxMma_bad (hw : s.working (.unit c 1) 2 p) (hh : s.reefHolds c = false) (hr : (s.runOf (.unit c 1)).progress = 0)
    (hbad : mmaBad p.word ((s.coreAt c).matrix.banksFor (Msg.field p.word 167 167 == 1)) = true) :
    FailsWith s c 1 p 0x083 (some 0) none (exec (.mxMma c) s) := by
  have hw' : (s.unheld c).working (.unit c 1) 2 p := hw
  have hmatrix : (((s.unheld c).begun (.unit c 1)).coreAt c).matrix = (s.coreAt c).matrix := (begun_unitsOnly (s.unheld c) c).matrix c
  have hgo := mmaGo_bad (v := (s.unheld c).begun (.unit c 1)) (c := c) (p := p) ((progress_begun (s.unheld c) c).trans hr) (by rw [hmatrix]; exact hbad)
  have hprogress : ((s.unheld c).runOf (.unit c 1)).progress = 0 := hr
  obtain ⟨t, he, hended, hbytes, hctx⟩ := failCmd_mx hw'.1 0x083
  rw [hprogress] at hended
  rw [exec_mxMma_unheld hh, engStep_of_working hw', hgo]
  dsimp only
  rw [engStop_cause]
  exact ⟨t, he, hended.from rfl rfl rfl, hbytes, hctx⟩

end Sys2Proof.Machine
end

section
namespace Sys2Proof.Machine

variable {s : State} {c : CoreId} {p : Packet} {a sa : EAddr} {bss : List (List Byte)} {t1 : State}

/-- Whether a row exchanges the banks, and the banks that it multiplies by. -/
def swaps (s : State) (c : CoreId) (p : Packet) : Bool := decide ((s.runOf (.unit c 1)).progress = 0 ∧ Msg.field p.word 167 167 = 1)

def rowBanks (s : State) (c : CoreId) (p : Packet) : Vector Bank 4 := (s.coreAt c).matrix.banksFor (swaps s c p)

theorem swaps_eq (s : State) (c : CoreId) (p : Packet) :
    ((s.runOf (.unit c 1)).progress == 0 && Msg.field p.word 167 167 == 1) = swaps s c p := by
  rw [swaps, Bool.decide_and]
  rfl

/-- What a row that is read leaves: nothing of memory, the matrix registers of the row, and the command over or its next row in flight. -/
theorem mxMma_row (hw : s.working (.unit c 1) 2 p) (hh : s.reefHolds c = false)
    (hbad : (s.runOf (.unit c 1)).progress = 0 → mmaBad p.word (rowBanks s c p) = false)
    (ha : s.engAddr (.unit c 1) .own (Msg.word p.word 1) = .ok a) (hsa : s.engAddr (.unit c 1) .own (Msg.word p.word 3) = .ok sa)
    (hall : (s.runOf (.unit c 1)).progress = 0 → ∀ d o, a = .sp d o →
      ∃ l, (s.begun (.unit c 1)).allOf (.unit c 1) false (mmaRows p.word (rowBanks s c p) a) = .ok l)
    (halign : Msg.word p.word 3 ≠ 0 → a.num % blockBytes (BitVec.ofNat 4 (Msg.field p.word 163 160)) = 0
      ∧ Msg.field p.word 159 128 % blockBytes (BitVec.ofNat 4 (Msg.field p.word 163 160)) = 0)
    (hread : (s.begun (.unit c 1)).engRead (.unit c 1) (mmaReads p.word (rowBanks s c p) (s.runOf (.unit c 1)).progress a sa) = .ok (bss, t1)) :
    let r := (s.runOf (.unit c 1)).progress
    let rows := Msg.field p.word 172 169 + 1
    let m := (s.coreAt c).matrix
    Gives (exec (.mxMma c) s) fun t => EngineWrote s t c [] []
      ∧ (t.coreAt c).matrix.active = (if swaps s c p then m.shadow else m.active) ∧ (t.coreAt c).matrix.shadow = (if swaps s c p then m.active else m.shadow)
      ∧ (t.coreAt c).matrix.acc = mmaAcc p.word (rowBanks s c p) r bss m.acc
      ∧ (r + 1 = rows → Ended s t c 1 p 0 0 (some (BitVec.ofNat 32 rows)) (some 0)) ∧ (r + 1 ≠ rows → GoesOn t (.unit c 1) p (r + 1) (.mxMma c)) := by
  intro r rows m
  have hw' : (s.unheld c).working (.unit c 1) 2 p := hw
  obtain ⟨hrun, hcode, -, -⟩ := hw
  have hbegun := begun_unitsOnly (s.unheld c) c
  obtain ⟨t', ht'⟩ := engRead_withReef _ (s.unheld c).reef _ hread
  have hv : (s.begun (.unit c 1)).withReef (s.unheld c).reef = (s.unheld c).begun (.unit c 1) := rfl
  rw [hv] at ht'
  have hsteady := engRead_steady ht'
  have hgo := mmaGo_ok (v := (s.unheld c).begun (.unit c 1)) (r := r) (swap := swaps s c p) (banks := rowBanks s c p) (progress_begun (s.unheld c) c) (swaps_eq s c p)
    (congrArg (Matrix.banksFor · (swaps s c p)) (hbegun.matrix c)) hbad ((engAddr_begun (s.unheld c) c _).trans ha) ((engAddr_begun (s.unheld c) c _).trans hsa)
    (fun h0 d o hd => (hall h0 d o hd).imp fun l hl => (allOf_withReef (s.begun (.unit c 1)) (s.unheld c).reef _ _ _).trans hl) halign ht'
  -- the state u in which the row has been added
  have hrow := hsteady.matrixOnly_trans (afterRow_matrixOnly t' c p.word (swaps s c p) (rowBanks s c p) r bss)
  have hmatrix := Core.afterRow_matrix p.word (swaps s c p) (rowBanks s c p) r bss (t'.coreAt c)
  have hcore := coreAt_afterRow t' c p.word (swaps s c p) (rowBanks s c p) r bss
  have hm : (t'.coreAt c).matrix = m := (congrArg Core.matrix (State.coreAt_congr hsteady.cores c)).trans (hbegun.matrix c)
  rw [← hcore, hm] at hmatrix
  have hbytes : s.quiet c → ∀ x : State, UnitsOnly (t'.afterRow c p.word (swaps s c p) (rowBanks s c p) r bss) x →
      (∀ a, x.ownByte c a = s.mem.byte a) ∧ ∀ a, x.mem.byte a = s.mem.byte a := fun hq x hx => by
    have hu := engRead_undisturbed ht' (quiet_begun (s := s.unheld c) hq)
    exact ⟨fun a => (hx.ownByte c a).trans (hu.ownByte a), fun a => (congrArg (Mem.byte · a) hx.mem).trans (hu.byte a)⟩
  have hurun := (hrow.running c).trans ((running_begun (s.unheld c) c).trans hw'.1)
  generalize t'.afterRow c p.word (swaps s c p) (rowBanks s c p) r bss = u at hgo hrow hmatrix hbytes hurun
  have hwrote : ∀ x : State, UnitsOnly u x → EngineWrote s x c [] [] := fun x hx =>
    engineWrote_nil (fun d y => ((hx.ctxAt d y).trans (hrow.ctxAt d y)).trans (hbegun.ctxAt d y))
      (fun d => ((hx.sp d).trans (hrow.sp d)).trans (hbegun.sp d)) fun hq => hbytes hq x hx
  rw [exec_mxMma_unheld hh, engStep_of_working hw', hgo]
  refine ⟨_, rfl, ?_⟩
  by_cases hlast : r + 1 = rows
  · obtain ⟨hunits, hended⟩ := finishCmd_ended hurun 0 (BitVec.ofNat 32 rows) 0 (status := 0) (by decide)
    rw [if_pos hlast, hunits.matrix c]
    exact ⟨hwrote _ hunits, hmatrix.1, hmatrix.2.1, hmatrix.2.2,
      fun _ => hended.from ((congrArg EngineQ.inq ((hrow.unitAt c).trans (unitAt_begun (s.unheld c) c))).trans rfl)
        ((hrow.ident c).trans (hbegun.ident c)) hrow.dev,
      fun h => absurd hlast h⟩
  · obtain ⟨hunits, hgoes⟩ := engMore_goesOn hurun (i := .mxMma c) (by rw [hcode]; rfl) (r + 1)
    rw [if_neg hlast, hunits.matrix c]
    exact ⟨hwrote _ hunits, hmatrix.1, hmatrix.2.1, hmatrix.2.2, fun h => absurd h hlast, fun _ => hgoes⟩

section
variable {config m row0 wa j k : Nat} {b : Bank} {vs : List FVal} {is : List Int} {acc : Sparse (BitVec 32)}

theorem macroRow_column (hk : k < b.nm) :
    let first := row0 + nseg config m * b.nm
    let seg := alignSegment wa (b.rows.map fun k => vs.getD (kseg config m * b.km + k) (.fin false 0 0))
    let qa := if b.float then seg.1 else b.rows.map fun k => is.getD (kseg config m * b.km + k) 0
    Sparse.get 0 (macroRow config m row0 b wa vs is acc) (first + k) = accumulate b wa seg.2.1 seg.2.2 k
      (((List.range qa.length).map fun i => qa.getD i 0 * b.cell i k).sum) (Sparse.get 0 acc (first + k)) := by
  have hget := get_macroRow config m row0 b wa vs is acc (row0 + nseg config m * b.nm + k)
  dsimp only at hget ⊢
  rw [if_pos ⟨Nat.le_add_right _ _, Nat.add_lt_add_left hk _⟩, Nat.add_sub_cancel_left, dot_eq] at hget
  rw [hget]
  cases hf : b.float with
  | true => rw [macroSegment, if_pos hf, if_pos rfl]
  | false =>
    rw [accumulate_int hf, accumulate_int hf, macroSegment, hf]
    rfl

theorem macroRow_elsewhere (hj : j < row0 + nseg config m * b.nm ∨ row0 + nseg config m * b.nm + b.nm ≤ j) :
    Sparse.get 0 (macroRow config m row0 b wa vs is acc) j = Sparse.get 0 acc j :=
  (get_macroRow config m row0 b wa vs is acc j).trans (if_neg (by omega))

end

/-- Settles O40: the steps of MX_MMA, and its arithmetic. -/
theorem matrixMultiply : Obligations.MatrixMultiply := by
  intro s c p a sa bss t1
  dsimp only
  intro hw
  refine ⟨fun hh => ?_, fun hh hr hbad => ?_, fun hh hbad ha hsa hall halign hread => ?_, ?_, ?_, alignSegment_spec, ?_⟩
  · exact ⟨_, exec_mxMma_held hw hh, List.mem_append_right _ List.mem_cons_self, rfl, SameBytes.of_eq rfl rfl, mem_held_holdRow s c⟩
  · refine mxMma_bad hw hh hr ?_
    have hswap := swaps_eq s c p
    rw [hr, beq_self_eq_true, Bool.true_and] at hswap
    rw [hswap]
    exact hbad
  · simp only [ne_eq, ite_not] at hread ⊢
    exact mxMma_row hw hh hbad ha hsa hall halign hread
  · intro b wa k ea q nan old
    refine ⟨fun h => ?_, fun h hs => ?_, fun h hs => ?_⟩
    · rw [accumulate_int h, toInt_ofInt_sat]
    · exact accumulate_spoiled h hs
    · exact accumulate_float h hs
  · intro config m row0 wa j b vs is acc
    exact ⟨fun k hk => macroRow_column hk, fun hj => macroRow_elsewhere hj, fun h => if_pos h, fun h => ⟨pairwise_rows h, mem_rows h⟩⟩
  · intro config row0 wa fresh bs vs is acc
    refine ⟨if fresh then zeroWords acc row0 (totalColumns config bs[0]) else acc, fun j => ?_, rfl⟩
    cases fresh with
    | true =>
      rw [if_pos rfl, get_zeroWords]
      exact if_congr ⟨fun h => ⟨rfl, h⟩, And.right⟩ rfl rfl
    | false => exact (if_neg fun h => Bool.false_ne_true h.1).symm

end Sys2Proof.Machine
end

section
namespace Sys2Proof.Machine

/-! The fields of an instruction word (02 R50, R51) and the words that decode. -/

section
variable {m : BitVec 7} {d a b : BitVec 5} {i : BitVec 15} {u : BitVec 20} {n : BitVec 10} {t : BitVec 3} {h : BitVec 12} {p l : Nat}

theorem major_formatU : (m ++ d ++ u).extractLsb' 25 6 = m.extractLsb' 0 6 :=
  (BitVec.extractLsb'_append_eq_of_le (by decide)).trans (BitVec.extractLsb'_append_eq_of_le (by decide))

theorem fieldD_formatU : (m ++ d ++ u).extractLsb' 20 5 = d :=
  (BitVec.extractLsb'_append_eq_of_le (by decide)).trans BitVec.extractLsb'_append_eq_right

theorem low_formatU (hl : p + l ≤ 20) : (m ++ d ++ u).extractLsb' p l = u.extractLsb' p l := BitVec.extractLsb'_append_eq_of_add_le hl

theorem formatI_eq : m ++ d ++ a ++ i = m ++ d ++ (a ++ i) := by rw [BitVec.append_assoc]; rfl

theorem major_formatI : (m ++ d ++ a ++ i).extractLsb' 25 6 = m.extractLsb' 0 6 := by rw [formatI_eq, major_formatU]

theorem fieldA_formatI : (m ++ d ++ a ++ i).extractLsb' 15 5 = a := by
  rw [formatI_eq, low_formatU (by decide)]
  exact BitVec.extractLsb'_append_eq_left

theorem low_formatI (hl : p + l ≤ 15) : (m ++ d ++ a ++ i).extractLsb' p l = i.extractLsb' p l := BitVec.extractLsb'_append_eq_of_add_le hl

/-! Format A, and format I with a 3-bit selector: format I with its 15 bits in two parts. -/

theorem formatA_eq : m ++ d ++ a ++ b ++ n = m ++ d ++ a ++ (b ++ n) := by rw [BitVec.append_assoc]; rfl

theorem formatS_eq : m ++ d ++ a ++ t ++ h = m ++ d ++ a ++ (t ++ h) := by rw [BitVec.append_assoc]; rfl

theorem selector_formatA : (m ++ d ++ a ++ b ++ n).extractLsb' 0 10 = n := BitVec.extractLsb'_append_eq_right

theorem selector_formatS : (m ++ d ++ a ++ t ++ h).extractLsb' 12 3 = t := by
  rw [formatS_eq, low_formatI (by decide)]
  exact BitVec.extractLsb'_append_eq_left

theorem decodeWord_ok {w : BitVec 32} {x : Instr} (hf : decodeForm w = .ok x) (hc : x.check = none) : decodeWord w = .ok x := by
  rw [decodeWord, hf, checked, hc]

theorem need_of {c : Prop} [Decidable c] {x : Instr} (h : c) : need c x = .ok x := if_pos h

/-- Format U: a major opcode, a register and 20 bits. -/
theorem decodeWord_formatU {c : BitVec 5 → BitVec 20 → Instr} (hc : ∀ d u, (c d u).check = none)
    (hf : ∀ w, w.extractLsb' 25 6 = m.extractLsb' 0 6 → decodeForm w = .ok (c (w.extractLsb' 20 5) (w.extractLsb' 0 20))) :
    decodeWord (m ++ d ++ u) = .ok (c d u) := by
  refine decodeWord_ok ((hf _ major_formatU).trans ?_) (hc d u)
  rw [fieldD_formatU, low_formatU (by decide), BitVec.extractLsb'_eq_self]

/-- A word of two registers and 15 bits, whatever the 15 bits are made of. -/
theorem decodeWord_low {c : BitVec 5 → BitVec 5 → Instr} (hc : ∀ d a, (c d a).check = none)
    (hf : ∀ w, w.extractLsb' 25 6 = m.extractLsb' 0 6 → (∀ p l, p + l ≤ 15 → w.extractLsb' p l = i.extractLsb' p l) →
      decodeForm w = .ok (c (w.extractLsb' 20 5) (w.extractLsb' 15 5))) :
    decodeWord (m ++ d ++ a ++ i) = .ok (c d a) := by
  refine decodeWord_ok ((hf _ major_formatI fun p l => low_formatI).trans ?_) (hc d a)
  rw [fieldA_formatI, formatI_eq, fieldD_formatU]

/-- Formats I and B: two registers and 15 bits. -/
theorem decodeWord_formatI {c : BitVec 5 → BitVec 5 → BitVec 15 → Instr} (hc : ∀ d a i, (c d a i).check = none)
    (hf : ∀ w, w.extractLsb' 25 6 = m.extractLsb' 0 6 →
      decodeForm w = .ok (c (w.extractLsb' 20 5) (w.extractLsb' 15 5) (w.extractLsb' 0 15))) :
    decodeWord (m ++ d ++ a ++ i) = .ok (c d a i) :=
  decodeWord_low (c := fun d a => c d a i) (fun d a => hc d a i) fun w hm hl => by
    rw [hf w hm, hl 0 15 (by decide), BitVec.extractLsb'_eq_self]

/-- Format A: three registers and a selector of 10 bits. -/
theorem decodeWord_formatA {c : BitVec 5 → BitVec 5 → BitVec 5 → Instr} (hc : ∀ d a b, (c d a b).check = none)
    (hf : ∀ w, w.extractLsb' 25 6 = m.extractLsb' 0 6 → w.extractLsb' 0 10 = n →
      decodeForm w = .ok (c (w.extractLsb' 20 5) (w.extractLsb' 15 5) (w.extractLsb' 10 5))) :
    decodeWord (m ++ d ++ a ++ b ++ n) = .ok (c d a b) := by
  rw [formatA_eq]
  refine decodeWord_low (c := fun d a => c d a b) (fun d a => hc d a b) fun w hm hl => ?_
  rw [hf w hm ((hl 0 10 (by decide)).trans BitVec.extractLsb'_append_eq_right), (hl 10 5 (by decide)).trans BitVec.extractLsb'_append_eq_left]

/-- Format I with a selector in its upper 3 bits. -/
theorem decodeWord_formatS {c : BitVec 5 → BitVec 5 → BitVec 12 → Instr} (hc : ∀ d a h, (c d a h).check = none)
    (hf : ∀ w, w.extractLsb' 25 6 = m.extractLsb' 0 6 → w.extractLsb' 12 3 = t →
      decodeForm w = .ok (c (w.extractLsb' 20 5) (w.extractLsb' 15 5) (w.extractLsb' 0 12))) :
    decodeWord (m ++ d ++ a ++ t ++ h) = .ok (c d a h) := by
  rw [formatS_eq]
  refine decodeWord_low (c := fun d a => c d a h) (fun d a => hc d a h) fun w hm hl => ?_
  rw [hf w hm ((hl 12 3 (by decide)).trans BitVec.extractLsb'_append_eq_left), (hl 0 12 (by decide)).trans BitVec.extractLsb'_append_eq_right]

/-- A format A word whose selector decodes to nothing. -/
theorem decodeWord_formatA_ne {e : DecodeError}
    (hf : ∀ w, w.extractLsb' 25 6 = m.extractLsb' 0 6 → w.extractLsb' 0 10 = n → decodeForm w = .error e) (x : Instr) :
    decodeWord (m ++ d ++ a ++ b ++ n) ≠ .ok x := by
  rw [decodeWord, hf _ (by rw [formatA_eq, major_formatI]) selector_formatA]
  exact nofun

/-- A format I word whose 3-bit selector decodes to nothing. -/
theorem decodeWord_formatS_ne {e : DecodeError}
    (hf : ∀ w, w.extractLsb' 25 6 = m.extractLsb' 0 6 → w.extractLsb' 12 3 = t → decodeForm w = .error e) (x : Instr) :
    decodeWord (m ++ d ++ a ++ t ++ h) ≠ .ok x := by
  rw [decodeWord, hf _ (by rw [formatS_eq, major_formatI]) selector_formatS]
  exact nofun

end

end Sys2Proof.Machine
end

section
namespace Sys2Proof.Machine

/-! Branches and jumps (04 R136 to R139). -/

theorem bne_eq_decide_ne (x y : Word) : (x != y) = decide (x ≠ y) := (decide_not (p := x = y)).symm

theorem not_slt_eq_decide (x y : Word) : (!x.slt y) = decide (y.toInt ≤ x.toInt) := by
  rw [BitVec.slt_eq_decide, ← decide_not]
  simp only [Int.not_lt]

theorem not_ult_eq_decide (x y : Word) : (!x.ult y) = decide (y.toNat ≤ x.toNat) := by
  rw [BitVec.ult_eq_decide, ← decide_not]
  simp only [Nat.not_lt]

/-- No register changes, and next is the next address. -/
theorem registersTo_jumpStep_id (s : State) (len issue : Nat) (next : Word) :
    RegistersTo s len next s.ctx.rx s.ctx.rv s.ctx.rk s.ctx.fmt (jumpStep len issue id next s) :=
  registersTo_jumpStep (fun _ => Ctx.wrote_refl _) (fun _ _ => rfl) (fun _ _ => rfl) (fun _ _ => rfl) fun _ => rfl

/-- A branch whose condition is q. -/
theorem registersTo_branchStep {s : State} {len : Nat} {p : Word → Word → Bool} {a b : BitVec 5} {o : Word} {q : Bool}
    (hq : p (s.ctx.rx a) (s.ctx.rx b) = q) :
    RegistersTo s len (va57 (s.ctx.pc + if q then 2 * o else BitVec.ofNat 64 len)) s.ctx.rx s.ctx.rv s.ctx.rk s.ctx.fmt
      (branchStep len p a b o s) := by
  rw [branchStep, hq]
  cases q with
  | true => exact registersTo_jumpStep_id s len 2 _
  | false => exact noneWritten_ctxStep s len 1

/-- A jump to next that links the address after it. -/
theorem registersTo_link (s : State) (issue : Nat) (d : BitVec 5) (next : Word) :
    RegistersTo s 4 next (s.ctx.withX d (va57 (s.ctx.pc + 4))) s.ctx.rv s.ctx.rk s.ctx.fmt (jumpStep 4 issue (fun c => c.wx d (c.seq 4)) next s) :=
  registersTo_jumpStep (fun _ => Ctx.wrote_wx _ _ _) (fun _ _ => Ctx.rx_wx _ _ _ _) (fun _ _ => Ctx.rv_wx _ _ _ _) (fun _ _ => Ctx.rk_wx _ _ _ _)
    fun _ => Ctx.fmt_wx _ _ _

theorem execJalr_even {s : State} {d a : BitVec 5} {i : BitVec 15} (h : (va57 (s.ctx.rx a + i.signExtend 64)).getLsbD 0 = false) :
    execJalr d a i s = jumpStep 4 3 (fun c => c.wx d (c.seq 4)) (va57 (s.ctx.rx a + i.signExtend 64)) s :=
  if_neg (h.symm ▸ Bool.false_ne_true)

theorem execJalr_odd {s : State} {d a : BitVec 5} {i : BitVec 15} (h : (va57 (s.ctx.rx a + i.signExtend 64)).getLsbD 0 = true) :
    execJalr d a i s = trapStep 0x004 (va57 (s.ctx.rx a + i.signExtend 64)) s := if_pos h

/-- Settles O4: a branch is a jump or nothing as its condition says, JAL and JALR are jumps that link, and each word has one form. -/
theorem branchesAndJumps : Obligations.BranchesAndJumps := by
  refine ⟨fun s a b o c h => ?_, fun s d a o i j => ?_, fun s d a b o j => ?_⟩
  · dsimp only [exec_beq, exec_bne, exec_blt, exec_bge, exec_bltu, exec_bgeu, exec_beqz16, exec_bnez16]
    exact ⟨registersTo_branchStep rfl, registersTo_branchStep (bne_eq_decide_ne _ _), registersTo_branchStep rfl,
      registersTo_branchStep (not_slt_eq_decide _ _), registersTo_branchStep rfl, registersTo_branchStep (not_ult_eq_decide _ _),
      registersTo_branchStep rfl, registersTo_branchStep (bne_eq_decide_ne _ _)⟩
  · refine ⟨registersTo_link s 2 d _, fun even => ?_, registersTo_jumpStep_id s 2 2 _⟩
    rw [exec_jalr, execJalr_even even]
    exact registersTo_link s 3 d _
  · iterate 6 refine ⟨decodeWord_formatI (fun _ _ _ => rfl) fun w hm => by rw [decodeForm, hm]; rfl, ?_⟩
    refine ⟨decodeWord_formatU (fun _ _ => rfl) fun w hm => by rw [decodeForm, hm]; rfl,
      decodeWord_formatI (fun _ _ _ => rfl) fun w hm => by rw [decodeForm, hm]; rfl, rfl, rfl, execJalr_odd⟩

end Sys2Proof.Machine
end

section
namespace Sys2Proof.Machine

/-! The values of the integer instructions (04 R122 to R125), and their words (02 R59). -/

section
variable (x y : Word)

theorem shamt_setWidth (n : BitVec 6) : shamt (n.setWidth 64) = n.toNat := by
  rw [shamt, BitVec.toNat_setWidth_of_le (by decide)]
  exact Nat.mod_eq_of_lt n.isLt

/-- A rotation is two shifts, also by 0, where the second one leaves nothing. -/
theorem rolOp_eq : rolOp x y = x <<< (y.toNat % 64) ||| x >>> (64 - y.toNat % 64) := by
  rw [rolOp, shamt, BitVec.rotateLeft_def, Nat.mod_mod]

theorem rorOp_eq : rorOp x y = x >>> (y.toNat % 64) ||| x <<< (64 - y.toNat % 64) := by
  rw [rorOp, shamt, BitVec.rotateRight_def, Nat.mod_mod]

theorem minOp_eq : minOp x y = if x.toInt < y.toInt then x else y := by
  rw [minOp, BitVec.slt_eq_decide]
  simp only [decide_eq_true_eq]
  rcases Int.lt_trichotomy x.toInt y.toInt with h | h | h
  · rw [if_pos h, if_neg (by omega)]
  · rw [BitVec.toInt_inj.mp h, ite_self]
  · rw [if_pos h, if_neg (by omega)]

theorem minuOp_eq : minuOp x y = if x.toNat < y.toNat then x else y := by
  simp only [minuOp, BitVec.lt_def]
  rcases Nat.lt_trichotomy x.toNat y.toNat with h | h | h
  · rw [if_pos h, if_neg (by omega)]
  · rw [BitVec.eq_of_toNat_eq h, ite_self]
  · rw [if_pos h, if_neg (by omega)]

theorem maxOp_eq : maxOp x y = if x.toInt < y.toInt then y else x := by simp only [maxOp, BitVec.slt_eq_decide, decide_eq_true_eq]

theorem sltOp_eq : sltOp x y = if x.toInt < y.toInt then 1 else 0 := by
  simp only [sltOp, boolWord, BitVec.slt_eq_decide, decide_eq_true_eq]

theorem sltuOp_eq : sltuOp x y = if x.toNat < y.toNat then 1 else 0 := by
  simp only [sltuOp, boolWord, BitVec.ult_eq_decide, decide_eq_true_eq]

theorem seqOp_eq : seqOp x y = if x = y then 1 else 0 := by simp only [seqOp, boolWord, beq_iff_eq]

theorem sneOp_eq : sneOp x y = if x = y then 0 else 1 := by
  rw [sneOp, boolWord, bne_eq_decide_ne]
  simp only [decide_eq_true_eq, ne_eq, ite_not]

end

theorem imm20_eq (u : BitVec 20) : imm20 u = u.signExtend 64 * 4096 := BitVec.shiftLeft_eq_mul_twoPow _ 12

/-- The shifts by an immediate, whose bits [11:6] are reserved (04 R124). -/
theorem decodeWord_shiftImm {d a : BitVec 5} {t : BitVec 3} {n : BitVec 6} {c : BitVec 5 → BitVec 5 → BitVec 6 → Instr}
    (hc : ∀ d a n, (c d a n).check = none)
    (hf : ∀ w, w.extractLsb' 12 3 = t →
      decodeShiftImm w = need (w.extractLsb' 6 6 = 0#6) (c (w.extractLsb' 20 5) (w.extractLsb' 15 5) (w.extractLsb' 0 6))) :
    decodeWord (70#7 ++ d ++ a ++ t ++ 0#6 ++ n) = .ok (c d a n) := by
  have hw : 70#7 ++ d ++ a ++ t ++ 0#6 ++ n = 70#7 ++ d ++ a ++ (t ++ (0#6 ++ n)) := by rw [BitVec.append_assoc, ← formatS_eq]; rfl
  rw [hw]
  refine decodeWord_low (c := fun d a => c d a n) (fun d a => hc d a n) fun w hm hl => ?_
  have hlow : ∀ p l, p + l ≤ 12 → w.extractLsb' p l = (0#6 ++ n).extractLsb' p l := fun p l h =>
    (hl p l (by omega)).trans (BitVec.extractLsb'_append_eq_of_add_le h)
  rw [decodeForm, hm]
  refine (hf w ((hl 12 3 (by decide)).trans BitVec.extractLsb'_append_eq_left)).trans ?_
  rw [need_of ((hlow 6 6 (by decide)).trans BitVec.extractLsb'_append_eq_left), (hlow 0 6 (by decide)).trans BitVec.extractLsb'_append_eq_right]

theorem decodeShiftImm_unlisted {w : BitVec 32} (h : 4 ≤ (w.extractLsb' 12 3).toNat) : decodeShiftImm w = .error .unlistedSelector := by
  unfold decodeShiftImm
  split
  case h_5 => rfl
  all_goals omega

theorem decodeSetImm_unlisted {w : BitVec 32} (h : 4 ≤ (w.extractLsb' 12 3).toNat) : decodeSetImm w = .error .unlistedSelector := by
  unfold decodeSetImm
  split
  case h_5 => rfl
  all_goals omega

/-- Settles O1: each instruction writes x[d] once, with the value of its row, and each word has one form. -/
theorem integerInstructions : Obligations.IntegerInstructions := by
  refine ⟨fun s d a b => ?_, fun s d a i h n u => ?_, fun s d a i n => ?_, fun d a b i h n u sel j => ?_⟩
  · dsimp only [exec_add, exec_sub, exec_and, exec_or, exec_xor, exec_andn, exec_sll, exec_srl, exec_sra, exec_rol, exec_ror, exec_min, exec_max,
      exec_minu, exec_maxu, exec_slt, exec_sltu, exec_seq, exec_sne, exec_csel]
    exact ⟨xWritten_aluRR rfl, xWritten_aluRR rfl, xWritten_aluRR rfl, xWritten_aluRR rfl, xWritten_aluRR rfl, xWritten_aluRR rfl,
      xWritten_aluRR rfl, xWritten_aluRR rfl, xWritten_aluRR rfl, xWritten_aluRR (rolOp_eq _ _), xWritten_aluRR (rorOp_eq _ _),
      xWritten_aluRR (minOp_eq _ _), xWritten_aluRR (maxOp_eq _ _), xWritten_aluRR (minuOp_eq _ _), xWritten_aluRR rfl,
      xWritten_aluRR (sltOp_eq _ _), xWritten_aluRR (sltuOp_eq _ _), xWritten_aluRR (seqOp_eq _ _), xWritten_aluRR (sneOp_eq _ _),
      xWritten_ctxStep fun _ => rfl⟩
  · simp only [← shamt_setWidth, exec_addi, exec_andi, exec_ori, exec_xori, exec_slli, exec_srli, exec_srai, exec_rori, exec_slti, exec_sltiu,
      exec_seqi, exec_snei, exec_liu, exec_adrp]
    exact ⟨xWritten_aluR rfl, xWritten_aluR rfl, xWritten_aluR rfl, xWritten_aluR rfl, xWritten_aluR rfl, xWritten_aluR rfl, xWritten_aluR rfl,
      xWritten_aluR (rorOp_eq _ _), xWritten_aluR (sltOp_eq _ _), xWritten_aluR (sltuOp_eq _ _), xWritten_aluR (seqOp_eq _ _),
      xWritten_aluR (sneOp_eq _ _), xWritten_ctxStep fun _ => imm20_eq u, xWritten_ctxStep fun _ => congrArg _ (imm20_eq u)⟩
  · simp only [← shamt_setWidth, exec_mv16, exec_li16, exec_addi16, exec_add16, exec_sub16, exec_and16, exec_andi16, exec_slli16, exec_srli16,
      exec_srai16, exec_nop, exec_nop16]
    exact ⟨xWritten_aluR rfl, xWritten_aluR (BitVec.zero_add _), xWritten_aluR rfl, xWritten_aluRR rfl, xWritten_aluRR rfl, xWritten_aluRR rfl,
      xWritten_aluR rfl, xWritten_aluR rfl, xWritten_aluR rfl, xWritten_aluR rfl, noneWritten_ctxStep s 4 1, noneWritten_ctxStep s 2 1⟩
  · iterate 20 refine ⟨decodeWord_formatA (fun _ _ _ => rfl) fun w hm hn => by rw [decodeForm, hm]; unfold decodeAlu; rw [hn]; rfl, ?_⟩
    iterate 4 refine ⟨decodeWord_formatI (fun _ _ _ => rfl) fun w hm => by rw [decodeForm, hm]; rfl, ?_⟩
    iterate 4 refine ⟨decodeWord_shiftImm (fun _ _ _ => rfl) fun w ht => by rw [decodeShiftImm, ht]; rfl, ?_⟩
    iterate 4 refine ⟨decodeWord_formatS (fun _ _ _ => rfl) fun w hm ht => by rw [decodeForm, hm]; unfold decodeSetImm; rw [ht]; rfl, ?_⟩
    iterate 2 refine ⟨decodeWord_formatU (fun _ _ => rfl) fun w hm => by rw [decodeForm, hm]; rfl, ?_⟩
    exact ⟨fun h4 => decodeWord_formatS_ne (fun w hm ht => by rw [decodeForm, hm]; exact decodeShiftImm_unlisted (ht ▸ h4)) j,
      fun h4 => decodeWord_formatS_ne (fun w hm ht => by rw [decodeForm, hm]; exact decodeSetImm_unlisted (ht ▸ h4)) j⟩

end Sys2Proof.Machine
end

section
namespace Sys2Proof.Machine

/-! Products by their 128 bits, quotients and remainders as integers (04 R126). -/

section
variable (x y : Word)

/-- The upper half of a 128-bit product is the integer product over 2^64. -/
theorem extractLsb'_ofInt (z : Int) : (BitVec.ofInt 128 z).extractLsb' 64 64 = BitVec.ofInt 64 (z / 2 ^ 64) := by
  refine BitVec.eq_of_toNat_eq ?_
  rw [BitVec.extractLsb'_toNat, BitVec.toNat_ofInt, BitVec.toNat_ofInt, Nat.shiftRight_eq_div_pow]
  omega

theorem ofInt_toNat_eq (w : Nat) : BitVec.ofInt w x.toNat = x.setWidth w := by rw [BitVec.ofInt_natCast, BitVec.ofNat_toNat]

theorem mulhuOp_eq : mulhuOp x y = (x.setWidth 128 * y.setWidth 128).extractLsb' 64 64 := by
  rw [← ofInt_toNat_eq, ← ofInt_toNat_eq, ← BitVec.ofInt_mul, extractLsb'_ofInt, mulhuOp, ← BitVec.ofInt_natCast]
  rfl

theorem mulhOp_eq : mulhOp x y = (x.signExtend 128 * y.signExtend 128).extractLsb' 64 64 := by
  rw [BitVec.signExtend, BitVec.signExtend, ← BitVec.ofInt_mul, extractLsb'_ofInt, mulhOp]

theorem mulhusOp_eq : mulhusOp x y = (x.setWidth 128 * y.signExtend 128).extractLsb' 64 64 := by
  rw [← ofInt_toNat_eq, BitVec.signExtend, ← BitVec.ofInt_mul, extractLsb'_ofInt, mulhusOp]

theorem divuOp_eq : divuOp x y = if y = 0 then 0xFFFFFFFFFFFFFFFF else x / y := by rw [divuOp, BitVec.udiv_def]

theorem divOp_eq : divOp x y = if y = 0 then 0xFFFFFFFFFFFFFFFF else x.sdiv y := by
  rw [divOp, BitVec.eq_of_toInt_eq ((BitVec.toInt_ofInt _).trans (BitVec.toInt_sdiv x y).symm)]

theorem remuOp_eq : remuOp x y = if y = 0 then x else x % y := by rw [remuOp, BitVec.umod_def]

theorem remOp_eq : remOp x y = if y = 0 then x else x.srem y := by rw [remOp, ← BitVec.toInt_srem, BitVec.ofInt_toInt]

theorem modOp_eq : modOp x y = if y = 0 then x else BitVec.ofInt 64 (x.toInt - x.toInt.fdiv y.toInt * y.toInt) := by
  rw [modOp, Int.fmod_def, Int.mul_comm]

end

/-! Bit counts and bit fields (04 R127, R128). -/

section
variable (x y old : Word)

theorem leadingZeros_eq : BitVec.ofNat 64 (leadingZeros x) = x.clz := by
  rw [leadingZeros]
  by_cases hx : x = 0
  · rw [if_pos hx]
    exact (BitVec.clz_eq_iff_eq_zero.mpr hx).symm
  have hlt : x.clz.toNat < 64 := by simpa [BitVec.lt_def] using BitVec.clz_lt_iff_ne_zero.mpr hx
  have hlog : Nat.log2 x.toNat = 63 - x.clz.toNat := by
    refine (Nat.log2_eq_iff fun h0 => hx (BitVec.eq_of_toNat_eq h0)).mpr ⟨BitVec.two_pow_sub_clz_le_toNat_of_ne_zero (by decide) hx, ?_⟩
    rw [show 63 - x.clz.toNat + 1 = 64 - x.clz.toNat by omega]
    exact BitVec.toNat_lt_two_pow_sub_clz
  rw [if_neg hx, hlog, show 63 - (63 - x.clz.toNat) = x.clz.toNat by omega, BitVec.ofNat_toNat, BitVec.setWidth_eq]

theorem reverseBits_eq : reverseBits x = x.reverse := by
  refine BitVec.eq_of_getLsbD_eq fun i hi => ?_
  rw [reverseBits, getLsbD_maskOf (by decide), BitVec.getLsbD_reverse, BitVec.getMsbD_eq_getLsbD]

theorem fieldPos_eq : fieldPos y = (y.extractLsb' 0 6).toNat := by rw [fieldPos, BitVec.extractLsb'_toNat]; rfl

theorem fieldLen_eq : fieldLen y = if y.extractLsb' 8 6 = 0 then 64 else (y.extractLsb' 8 6).toNat := by
  simp only [fieldLen, ← BitVec.toNat_inj, BitVec.extractLsb'_toNat]
  rfl

theorem bfxOp_eq : bfxOp x y = ((x.sshiftRight (y.extractLsb' 0 6).toNat).setWidth
    (if y.extractLsb' 8 6 = 0 then 64 else (y.extractLsb' 8 6).toNat)).signExtend 64 := by
  rw [bfxOp, fieldPos_eq, fieldLen_eq, sext]

theorem bfxuOp_eq : bfxuOp x y = ((x >>> (y.extractLsb' 0 6).toNat).setWidth
    (if y.extractLsb' 8 6 = 0 then 64 else (y.extractLsb' 8 6).toNat)).setWidth 64 := by
  rw [bfxuOp, fieldPos_eq, fieldLen_eq, zext]

/-- The mask of len bits from position pos on. -/
theorem getLsbD_fieldMask (len pos i : Nat) :
    (BitVec.ofNat 64 ((2 ^ len - 1) * 2 ^ pos)).getLsbD i = (decide (i < 64) && (decide (pos ≤ i) && decide (i - pos < len))) := by
  rw [BitVec.getLsbD_ofNat, Nat.testBit_mul_two_pow, Nat.testBit_two_pow_sub_one]

/-- Cutting the field to its length changes nothing under the mask. -/
theorem bfiOp_eq : bfiOp old x y = (old &&& ~~~BitVec.ofNat 64 ((2 ^ fieldLen y - 1) * 2 ^ fieldPos y))
    ||| ((x <<< fieldPos y) &&& BitVec.ofNat 64 ((2 ^ fieldLen y - 1) * 2 ^ fieldPos y)) := by
  rw [bfiOp, Nat.shiftLeft_eq]
  refine congrArg _ (BitVec.eq_of_getLsbD_eq fun i hi => ?_)
  rw [BitVec.getLsbD_and, BitVec.getLsbD_and, getLsbD_fieldMask, BitVec.getLsbD_shiftLeft, BitVec.getLsbD_shiftLeft, zext, BitVec.getLsbD_setWidth,
    BitVec.getLsbD_setWidth]
  by_cases hlen : i - fieldPos y < fieldLen y
  · simp only [hlen, decide_true, Bool.true_and, show i - fieldPos y < 64 by omega]
  · simp only [hlen, decide_false, Bool.and_false]

end

/-! Pointers (03 R96, R98, 04 R129 to R131). -/

section
variable (p : Word)

/-- Upper bits beside the lower bits of a word. -/
theorem append_low_eq {h l : Nat} (f : BitVec h) (hw : h + l = 64) {mask : Word} (hm : ∀ i < 64, mask.getLsbD i = decide (i < l)) :
    (f ++ p.extractLsb' 0 l).cast hw = f.setWidth 64 <<< l ||| (p &&& mask) := by
  refine BitVec.eq_of_getLsbD_eq fun i hi => ?_
  rw [BitVec.getLsbD_cast, BitVec.getLsbD_append, BitVec.getLsbD_or, BitVec.getLsbD_and, hm i hi, BitVec.getLsbD_shiftLeft, BitVec.getLsbD_setWidth,
    BitVec.getLsbD_extractLsb', Nat.zero_add]
  by_cases hl : i < l
  · simp [hl]
  · simp [hl, hi]
    omega

/-- The format code and the block log, side by side. -/
theorem setWidth_append_tag (f : BitVec 4) (l : BitVec 3) : (f ++ l).setWidth 64 <<< 57 = f.setWidth 64 <<< 60 ||| l.setWidth 64 <<< 57 := by
  refine BitVec.eq_of_getLsbD_eq fun i hi => ?_
  simp only [BitVec.getLsbD_or, BitVec.getLsbD_shiftLeft, BitVec.getLsbD_setWidth, BitVec.getLsbD_append]
  by_cases h57 : i < 57
  · simp [h57, show i < 60 by omega]
  by_cases h60 : i < 60
  · simp [h57, h60, hi, show i - 57 < 3 by omega]
  · simp [h57, h60, hi, show ¬i - 57 < 3 by omega, show i - 57 - 3 = i - 60 by omega, BitVec.getLsbD_of_ge l (i - 57) (by omega),
      show i - 57 < 64 by omega, show i - 60 < 64 by omega]

/-- The upper bits of a word beside a number below 2^19. -/
theorem offset_append {t : Int} (h0 : 0 ≤ t) (ht : t < 2 ^ 19) : (p &&& ~~~0x7FFFF) ||| BitVec.ofInt 64 t = p.extractLsb' 19 45 ++ BitVec.ofInt 19 t := by
  have hmask : ∀ i < 64, (~~~0x7FFFF : Word).getLsbD i = decide (19 ≤ i) := by decide
  obtain ⟨n, rfl⟩ := Int.eq_ofNat_of_zero_le h0
  refine BitVec.eq_of_getLsbD_eq fun i hi => ?_
  rw [BitVec.ofInt_natCast, BitVec.ofInt_natCast, BitVec.getLsbD_or, BitVec.getLsbD_and, hmask i hi, BitVec.getLsbD_append, BitVec.getLsbD_extractLsb',
    BitVec.getLsbD_ofNat, BitVec.getLsbD_ofNat]
  by_cases hl : i < 19
  · simp [hl, hi]
  · have hn : n.testBit i = false := Nat.testBit_lt_two_pow (lt_of_lt_of_le (by omega) (Nat.pow_le_pow_right Nat.two_pos (Nat.le_of_not_lt hl)))
    simp [hl, hn, show i - 19 < 45 by omega, show 19 + (i - 19) = i by omega, Nat.le_of_not_lt hl]

theorem toInt_va57 : (va57 p).toInt = (p.extractLsb' 0 57).toInt := by
  rw [va57, sext, BitVec.toInt_signExtend_of_le (by decide), BitVec.setWidth_eq_extractLsb' (by decide)]

theorem offset_eq : bitsOf p.toNat 18 0 = (p.extractLsb' 0 19).toNat := by rw [BitVec.extractLsb'_toNat]; rfl

theorem paddSum_scratch {n : Word} (hf : p.extractLsb' 60 4 = 15) (h0 : 0 ≤ ((p.extractLsb' 0 19).toNat : Int) + n.toInt)
    (h1 : ((p.extractLsb' 0 19).toNat : Int) + n.toInt < 393216) :
    paddSum p n = some (p.extractLsb' 19 45 ++ BitVec.ofInt 19 (((p.extractLsb' 0 19).toNat : Int) + n.toInt)) := by
  rw [paddSum, if_pos hf, offset_eq]
  exact (if_neg (not_or.mpr ⟨Int.not_lt.mpr h0, Int.not_le.mpr h1⟩)).trans (congrArg some (offset_append p h0 (h1.trans (by decide))))

theorem paddSum_address {n : Word} (hf : p.extractLsb' 60 4 ≠ 15) (h0 : -(2 ^ 56) ≤ (p.extractLsb' 0 57).toInt + n.toInt)
    (h1 : (p.extractLsb' 0 57).toInt + n.toInt < 2 ^ 56) :
    paddSum p n = some (p.extractLsb' 57 7 ++ BitVec.ofInt 57 ((p.extractLsb' 0 57).toInt + n.toInt)) := by
  rw [paddSum, if_neg hf, toInt_va57]
  exact if_neg (not_or.mpr ⟨Int.not_lt.mpr h0, Int.not_le.mpr h1⟩)

variable {p}

/-- PADD whose sum stays in range. -/
theorem xWritten_execPadd {s : State} {d a b : BitVec 5} {r : Word} (h : paddSum (s.ctx.rx a) (s.ctx.rx b) = some r) :
    XWritten s 4 d r (execPadd d a b s) := by
  rw [execPadd, h]
  exact xWritten_ctxStep fun _ => rfl

theorem inLaunch_iff (s : State) (c : CoreId) (rel : Nat) : s.inLaunch c rel = true ↔ ∃ l, s.launchOf c = some l ∧ rel < l.cores.length := by
  rw [State.inLaunch]
  cases s.launchOf c with
  | none => exact iff_of_false Bool.false_ne_true fun ⟨_, h, _⟩ => Option.some_ne_none _ h.symm
  | some l => exact decide_eq_true_iff.trans ⟨fun h => ⟨l, rfl, h⟩, fun ⟨_, h, hl⟩ => Option.some.inj h ▸ hl⟩

/-- PCHK of a scratchpad pointer (03 R98). -/
theorem pchkWord_scratch (s : State) (hf : p.extractLsb' 60 4 = 15) :
    s.pchkWord p = if p.extractLsb' 19 30 = 0 ∧ (p.extractLsb' 0 19).toNat < 393216
      ∧ (p.getLsbD 49 = true ∨ ∃ l, s.launchOf s.cur = some l ∧ (p.extractLsb' 50 10).toNat < l.cores.length) then 2 else 0 := by
  have hreserved : bitsOf p.toNat 48 19 = 0 ↔ p.extractLsb' 19 30 = 0 := by rw [← BitVec.toNat_inj, BitVec.extractLsb'_toNat]; rfl
  have hcore : bitsOf p.toNat 59 50 = (p.extractLsb' 50 10).toNat := by rw [BitVec.extractLsb'_toNat]; rfl
  rw [State.pchkWord]
  simp only [if_pos hf, hreserved, offset_eq, hcore, inLaunch_iff]
  rfl

theorem pchkWord_fok (hf : p.extractLsb' 60 4 ≠ 15) :
    (if p.extractLsb' 60 4 ∈ [0, 11, 12, 14, 15] then 0 else 1) = if p.extractLsb' 60 4 ∈ [0, 11, 12, 14] then 0 else 1 := by
  simp only [List.mem_cons, hf, List.not_mem_nil, or_false]

section
variable {s : State} {w : Nat} (hf : p.extractLsb' 60 4 ≠ 15) (hw : w = if p.extractLsb' 60 4 ∈ [0, 11, 12, 14] then 0 else 1)
include hf hw

/-- PCHK of an address that an entry of the region table covers. -/
theorem pchkWord_region {i : Nat} (hi : (s.region s.core.ident.pasid p).index = some i) :
    s.pchkWord p = BitVec.ofNat 64 (w + 4 + 8 * (s.region s.core.ident.pasid p).attr.toNat + 32 * i) := by
  unfold State.pchkWord
  simp only [if_neg hf, pchkWord_fok hf, ← hw]
  split
  case h_1 hr =>
    rw [hr] at hi ⊢
    cases hi
    rw [Nat.mul_comm, Nat.mul_comm 32]
  case h_2 hr =>
    rw [hr] at hi
    exact absurd hi.symm (Option.some_ne_none i)

theorem pchkWord_noRegion (hi : (s.region s.core.ident.pasid p).index = none) : s.pchkWord p = BitVec.ofNat 64 w := by
  unfold State.pchkWord
  simp only [if_neg hf, pchkWord_fok hf, ← hw]
  split
  case h_1 hr =>
    rw [hr] at hi
    exact absurd hi (Option.some_ne_none _)
  case h_2 => rfl

end

end

/-- The unary operations, whose field b is reserved (04 R127). -/
theorem decodeWord_bitUnary {d a : BitVec 5} {i : BitVec 15} {c : BitVec 5 → BitVec 5 → Instr} (hc : ∀ d a, (c d a).check = none)
    (hb : i.extractLsb' 10 5 = 0)
    (hf : ∀ w, w.extractLsb' 0 10 = i.extractLsb' 0 10 → decodeBit w = need (w.extractLsb' 10 5 = 0) (c (w.extractLsb' 20 5) (w.extractLsb' 15 5))) :
    decodeWord (75#7 ++ d ++ a ++ i) = .ok (c d a) :=
  decodeWord_low hc fun w hm hl => by
    rw [decodeForm, hm]
    exact (hf w (hl 0 10 (by decide))).trans (need_of ((hl 10 5 (by decide)).trans hb))

theorem decodeMulDiv_unlisted {w : BitVec 32}
    (h : (4 ≤ (w.extractLsb' 0 10).toNat ∧ (w.extractLsb' 0 10).toNat ≤ 7) ∨ 13 ≤ (w.extractLsb' 0 10).toNat) :
    decodeMulDiv w = .error .unlistedSelector := by
  unfold decodeMulDiv
  split
  case h_10 => rfl
  all_goals omega

theorem decodeWord_pchk (d a : BitVec 5) : decodeWord (76#7 ++ d ++ a ++ 2#3 ++ 0#12) = .ok (.pchk d a) := by
  rw [formatS_eq]
  refine decodeWord_low (fun _ _ => rfl) fun w hm hl => ?_
  have hp : decodePointer w = .ok (.pchk (w.extractLsb' 20 5) (w.extractLsb' 15 5)) := by
    unfold decodePointer
    rw [hl 12 3 (by decide)]
    exact need_of (hl 0 12 (by decide))
  rw [decodeForm, hm]
  exact hp

/-- Settles O2: each instruction writes x[d] once, with the value of its row, and each word has one form. -/
theorem multiplyDivideBitsPointers : Obligations.MultiplyDivideBitsPointers := by
  refine ⟨fun s d a b => ?_, fun s d a b f l => ?_, fun s d a b => ?_, fun d a b n j => ?_⟩
  · simp only [exec_mul, exec_mulhu, exec_mulh, exec_mulhus, exec_divu, exec_div, exec_remu, exec_rem, exec_mod]
    exact ⟨xWritten_aluRR rfl, xWritten_aluRR (mulhuOp_eq _ _), xWritten_aluRR (mulhOp_eq _ _), xWritten_aluRR (mulhusOp_eq _ _),
      xWritten_aluRR (divuOp_eq _ _), xWritten_aluRR (divOp_eq _ _), xWritten_aluRR (remuOp_eq _ _), xWritten_aluRR (remOp_eq _ _),
      xWritten_aluRR (modOp_eq _ _)⟩
  · simp only [exec_clz, exec_ctz, exec_popc, exec_brev, exec_extB, exec_extH, exec_extW, exec_extBu, exec_extHu,
      exec_extWu, exec_bfx, exec_bfxu, exec_bfi, exec_ptag]
    refine ⟨xWritten_aluR (leadingZeros_eq _), xWritten_aluR (trailingZeros_eq _), xWritten_aluR (popCount_eq _), xWritten_aluR (reverseBits_eq _),
      xWritten_aluR rfl, xWritten_aluR rfl, xWritten_aluR rfl, xWritten_aluR rfl, xWritten_aluR rfl, xWritten_aluR rfl,
      xWritten_aluRR (bfxOp_eq _ _), xWritten_aluRR (bfxuOp_eq _ _),
      xWritten_ctxStep fun _ => (bfiOp_eq _ _ _).trans (by rw [fieldPos_eq, fieldLen_eq]; rfl), fun hf hl => xWritten_aluR ?_, fun hf _ => xWritten_aluR ?_⟩
    · subst hf
      exact (if_pos rfl).trans (append_low_eq _ _ rfl (by decide))
    · exact (if_neg hf).trans ((append_low_eq _ (f ++ l) rfl (mask := 0x01FFFFFFFFFFFFFF) (by decide)).trans (by rw [setWidth_append_tag]))
  · simp only [exec_padd, exec_pchk]
    exact ⟨fun hf h0 h1 => xWritten_execPadd (paddSum_scratch _ hf h0 h1), fun hf h0 h1 => xWritten_execPadd (paddSum_address _ hf h0 h1),
      fun hf => xWritten_ctxStep fun _ => pchkWord_scratch s hf, fun hf w hw => ⟨fun i hi => xWritten_ctxStep fun _ => pchkWord_region hf hw hi,
      fun hi => xWritten_ctxStep fun _ => pchkWord_noRegion hf hw hi⟩⟩
  · iterate 9 refine ⟨decodeWord_formatA (fun _ _ _ => rfl) fun w hm hn => by rw [decodeForm, hm]; unfold decodeMulDiv; rw [hn]; rfl, ?_⟩
    refine ⟨fun h4 => decodeWord_formatA_ne (fun w hm hn => by rw [decodeForm, hm]; exact decodeMulDiv_unlisted (hn ▸ h4)) j, ?_⟩
    iterate 10 refine ⟨decodeWord_bitUnary (fun _ _ => rfl) rfl fun w hn => by unfold decodeBit; rw [hn]; rfl, ?_⟩
    iterate 3 refine ⟨decodeWord_formatA (fun _ _ _ => rfl) fun w hm hn => by rw [decodeForm, hm]; unfold decodeBit; rw [hn]; rfl, ?_⟩
    exact decodeWord_pchk d a

end Sys2Proof.Machine
end

section
namespace Sys2Proof.Machine

/-! Integers of w bits: what the vector operations compute from the numbers of two elements is, modulo 2^w, the operation of the elements
(05 R155 to R157). -/

section
variable {w : Nat} (x y : BitVec w)

@[simp] theorem toSigned_toNat : toSigned w x.toNat = x.toInt := by rw [toSigned_eq, BitVec.ofNat_toNat, BitVec.setWidth_eq]

theorem modEq_toNat_iff {n : Nat} : n ≡ x.toNat [MOD 2 ^ w] ↔ BitVec.ofNat w n = x := by
  rw [Nat.ModEq, Nat.mod_eq_of_lt x.isLt, ← BitVec.toNat_inj, BitVec.toNat_ofNat]

theorem add_modEq : x.toNat + y.toNat ≡ (x + y).toNat [MOD 2 ^ w] := by
  rw [BitVec.toNat_add]
  exact (Nat.mod_modEq _ _).symm

theorem sub_modEq : x.toNat + 2 ^ w - y.toNat ≡ (x - y).toNat [MOD 2 ^ w] := by
  rw [BitVec.toNat_sub, Nat.add_comm, Nat.sub_add_comm y.isLt.le]
  exact (Nat.mod_modEq _ _).symm

theorem mul_modEq : x.toNat * y.toNat ≡ (x * y).toNat [MOD 2 ^ w] := by
  rw [BitVec.toNat_mul]
  exact (Nat.mod_modEq _ _).symm

theorem shiftLeft_modEq (h : Nat) : x.toNat <<< h ≡ (x <<< h).toNat [MOD 2 ^ w] := by
  rw [BitVec.toNat_shiftLeft]
  exact (Nat.mod_modEq _ _).symm

theorem satS_eq (v : Int) : satS w v
    = (BitVec.ofInt w (if v < -(2 ^ (w - 1)) then -(2 ^ (w - 1)) else if 2 ^ (w - 1) - 1 < v then 2 ^ (w - 1) - 1 else v)).toNat :=
  ofSigned_eq _ _

theorem satU_eq (v : Int) : satU w v = (BitVec.ofInt w (if v < 0 then 0 else if 2 ^ w - 1 < v then 2 ^ w - 1 else v)).toNat :=
  ofSigned_eq _ _

theorem vmulhOp_toNat : vmulhOp w x.toNat y.toNat = (BitVec.ofInt w (x.toInt * y.toInt / 2 ^ w)).toNat := by
  rw [vmulhOp, ofSigned_eq, toSigned_toNat, toSigned_toNat]

theorem vminOp_toNat : vminOp w x.toNat y.toNat = if x.toInt ≤ y.toInt then x.toNat else y.toNat := by
  simp only [vminOp, toSigned_toNat, ← not_lt, ite_not]

/-- Where the two are equal it does not matter which one is taken. -/
theorem vmaxOp_toNat : vmaxOp w x.toNat y.toNat = if x.toInt ≤ y.toInt then y.toNat else x.toNat := by
  rw [vmaxOp, toSigned_toNat, toSigned_toNat]
  rcases lt_trichotomy x.toInt y.toInt with h | h | h
  · rw [if_pos h, if_pos h.le]
  · rw [BitVec.toInt_inj.mp h, ite_self, ite_self]
  · rw [if_neg h.asymm, if_neg h.not_ge]

/-- The magnitude of the least number is that number again. -/
theorem natAbs_modEq : (toSigned w x.toNat).natAbs ≡ (if x.toInt < 0 then 0 - x else x).toNat [MOD 2 ^ w] := by
  rw [modEq_toNat_iff, toSigned_toNat, ← BitVec.ofInt_natCast, zero_sub]
  split
  next h => rw [Int.ofNat_natAbs_of_nonpos h.le, BitVec.ofInt_neg, BitVec.ofInt_toInt]
  next h => rw [Int.natAbs_of_nonneg (not_lt.mp h), BitVec.ofInt_toInt]

theorem notBits_toNat : notBits w x.toNat = (~~~x).toNat := BitVec.toNat_not.symm

theorem andNot_toNat : x.toNat &&& notBits w y.toNat = (x &&& ~~~y).toNat := by rw [notBits_toNat, BitVec.toNat_and]

/-- A division by a power of two that rounds down is an arithmetic shift. -/
theorem vsraOp_toNat (n : Nat) : vsraOp w x.toNat n = (x.sshiftRight (n % w)).toNat := by
  rw [vsraOp, ofSigned_eq, toSigned_toNat, ← BitVec.ofInt_toInt (x := x.sshiftRight (n % w)), BitVec.toInt_sshiftRight, Int.shiftRight_eq_div_pow]
  push_cast
  rfl

end

/-! Integer vector instructions (05 R155 to R157). -/

/-- Element i of a register as a word of its width. -/
def wordElem (v : Msg) (w : BitVec 2) (i : Nat) : BitVec (widthOf w) := BitVec.ofNat (widthOf w) (elem v (widthOf w) i)

@[simp] theorem toNat_wordElem (v : Msg) (w : BitVec 2) (i : Nat) : (wordElem v w i).toNat = elem v (widthOf w) i := toNat_ofNat_elem _ _ _

section
variable {s : State} {d a b : BitVec 5} {k : BitVec 3} {w : BitVec 2} {f : Nat → Nat → Nat → Nat} {g : Nat → Nat}

theorem elements_widthOf {e : Ctx → Nat → Nat} (h : ∀ u j, e (s.ctx.issuing u) j ≡ g j [MOD 2 ^ widthOf w]) :
    Elements s d (widthOf w) (512 / widthOf w) k g 0 (vecElems (widthOf w) (lanesOf w) d k e s) := by
  rw [widthOf, ← lanesOf_eq]
  exact elements_vecElems (widthOf_mul_lanesOf w).le fun u j _ => h u j

theorem elements_vecRR
    (h : ∀ j, f (widthOf w) (wordElem (s.ctx.rv a) w j).toNat (wordElem (s.ctx.rv b) w j).toNat ≡ g j [MOD 2 ^ widthOf w]) :
    Elements s d (widthOf w) (512 / widthOf w) k g 0 (vecRR f d a b k w s) := by
  simp only [toNat_wordElem] at h
  exact elements_widthOf fun _ j => h j

theorem elements_vecRI {imm : Nat} (h : ∀ j, f (widthOf w) (wordElem (s.ctx.rv a) w j).toNat imm ≡ g j [MOD 2 ^ widthOf w]) :
    Elements s d (widthOf w) (512 / widthOf w) k g 0 (vecRI f imm d a k w s) := by
  simp only [toNat_wordElem] at h
  exact elements_widthOf fun _ j => h j

/-- The sign-extended immediate is the same element everywhere. -/
theorem elements_vecRI_imm5 {i : BitVec 5}
    (h : ∀ j, f (widthOf w) (wordElem (s.ctx.rv a) w j).toNat (BitVec.ofInt (widthOf w) i.toInt).toNat ≡ g j [MOD 2 ^ widthOf w]) :
    Elements s d (widthOf w) (512 / widthOf w) k g 0 (vecRI f (imm5 i w) d a k w s) := by
  rw [imm5_eq]
  exact elements_vecRI h

end

/-- VSEL is a register of masked elements whose inactive elements are those of v[b]. -/
theorem vWritten_execVsel (s : State) (d a b : BitVec 5) (k : BitVec 3) (w : BitVec 2) :
    ∃ r, VWritten s d r (execVsel d a b k w s) ∧ ∀ j, j < lanesOf w → elem r (widthOf w) j
      = if (s.ctx.rk k).getLsbD j then elem (s.ctx.rv a) (widthOf w) j else elem (s.ctx.rv b) (widthOf w) j :=
  ⟨_, vWritten_ctxStep fun _ => rfl, fun j hj => by rw [elem_maskedElems (widthOf_mul_lanesOf w).le _ _ _ hj, elem_mod]⟩

/-- Settles O24: each instruction is one register of masked elements, and each element its operation on numbers of w bits. -/
theorem vectorIntegerOps : Obligations.VectorIntegerOps := by
  intro s d a b i k w W n x y im clip sat satu op
  have rr : ∀ {f : Nat → Nat → Nat → Nat} {g : Nat → Nat}, (∀ j, f W (x j).toNat (y j).toNat = g j) → op g (vecRR f d a b k w s) :=
    fun h => elements_vecRR fun j => congrArg (· % 2 ^ W) (h j)
  have ri : ∀ {f : Nat → Nat → Nat → Nat} {imm : Nat} {g : Nat → Nat}, (∀ j, f W (x j).toNat imm = g j) → op g (vecRI f imm d a k w s) :=
    fun h => elements_vecRI fun j => congrArg (· % 2 ^ W) (h j)
  have hsel : ∃ r, VWritten s d r (execVsel d a b k w s) ∧ ∀ j, j < n → elem r W j = if (s.ctx.rk k).getLsbD j then (x j).toNat else (y j).toNat := by
    simp only [n, W, x, y, toNat_ofNat_elem, ← lanesOf_eq]
    exact vWritten_execVsel s d a b k w
  simp only [exec_vadd, exec_vsub, exec_vaddSat, exec_vsubSat, exec_vadduSat, exec_vsubuSat, exec_vmul, exec_vmulh, exec_vmulhu, exec_vmin, exec_vmax,
    exec_vminu, exec_vmaxu, exec_vabs, exec_vand, exec_vor, exec_vxor, exec_vandn, exec_vnot, exec_vsll, exec_vsrl, exec_vsra, exec_vaddi, exec_vandi,
    exec_vori, exec_vxori, exec_vslli, exec_vsrli, exec_vsrai, exec_vmovi, exec_vsel]
  exact ⟨-- R155
    elements_vecRR fun _ => add_modEq _ _, elements_vecRR fun _ => sub_modEq _ _,
    rr fun _ => by rw [toSigned_toNat, toSigned_toNat]; exact satS_eq _, rr fun _ => by rw [toSigned_toNat, toSigned_toNat]; exact satS_eq _,
    rr fun _ => satU_eq _, rr fun _ => satU_eq _, elements_vecRR fun _ => mul_modEq _ _, rr fun _ => vmulhOp_toNat _ _, rr fun _ => rfl,
    rr fun _ => vminOp_toNat _ _, rr fun _ => vmaxOp_toNat _ _, rr fun _ => rfl, rr fun _ => rfl, elements_vecRI fun _ => natAbs_modEq _,
    -- R156
    rr fun _ => rfl, rr fun _ => rfl, rr fun _ => rfl, rr fun _ => andNot_toNat _ _, ri fun _ => notBits_toNat _,
    elements_vecRR fun _ => shiftLeft_modEq _ _, rr fun _ => rfl, rr fun _ => vsraOp_toNat _ _,
    -- R157
    elements_vecRI_imm5 fun _ => add_modEq _ _, elements_vecRI_imm5 fun _ => rfl, elements_vecRI_imm5 fun _ => rfl, elements_vecRI_imm5 fun _ => rfl,
    elements_vecRI fun _ => shiftLeft_modEq _ _, ri fun _ => rfl, ri fun _ => vsraOp_toNat _ _,
    elements_widthOf fun _ _ => congrArg (· % 2 ^ W) (imm5_eq i w),
    -- VSEL
    hsel⟩

end Sys2Proof.Machine
end

section
namespace Sys2Proof.Machine

/-! A region table: an L1 of no core. -/

/-- The stray cache holds a line of a page that the host has granted to address space 0. -/
def strayGranted : State := { strayCache with hostPages := [grantAt 0 false] }

theorem strayGranted_noCommand (c : CoreId) : strayGranted.gmWriting 0 c = false := by
  have hc : strayGranted.coreAt c = Core.reset := Vector.getElem_replicate _
  rw [State.gmWriting, hc]
  rfl

theorem strayGranted_drain : strayGranted.tableOk 0 [] = true ∧ strayGranted.mem.byte 0 = 0
    ∧ (strayGranted.drainLines (strayGranted.inSpace 0)).mem.byte 0 = 7 := by decide +kernel

/-- Once no access of its space is in flight, a region table leaves memory as the drain does. -/
theorem regionTableDrain_mem {s : State} {pasid : BitVec 20} {table : List (BitVec 128)} (htable : s.tableOk pasid table = true)
    (hquiet : ∀ i ∈ s.pending ++ s.parked, s.accessOf pasid i = false) (hidle : ∀ d, s.gmWriting pasid d = false) :
    (Outcome.state (exec (.regionTableDrain pasid table) s)).mem = (s.drainLines (s.inSpace pasid)).mem := by
  have hevents : (s.pending ++ s.parked).any (s.accessOf pasid) = false := List.any_eq_false.mpr fun i hi => by simp [hquiet i hi]
  have hcores : (List.finRange 1152).any (s.gmWriting pasid) = false := List.any_eq_false.mpr fun d _ => by simp [hidle d]
  show (Outcome.state (execRegionTableDrain pasid table s)).mem = _
  simp only [execRegionTableDrain, htable, hevents, hcores, Bool.not_true, Bool.or_self, Bool.false_eq_true, if_false]
  rfl

/-- Refutes O37: in strayGranted the drain before a region table changes a byte of memory, for it writes back the lines of the space from every L1
that is listed, and calmAll speaks of the L1s of cores alone. -/
theorem not_translations : ¬ Obligations.Translations := by
  intro h
  obtain ⟨htable, hold, hnew⟩ := strayGranted_drain
  obtain ⟨-, -, -, -, -, hdrain, -⟩ := h strayGranted 0 0 0 0 false (grantAt 0 false) 0
  have hquiet : ∀ i ∈ strayGranted.pending ++ strayGranted.parked, strayGranted.accessOf 0 i = false := fun _ hi => nomatch hi
  have hclosed : ¬ ((∃ i ∈ strayGranted.pending ++ strayGranted.parked, strayGranted.accessOf 0 i = true)
      ∨ ∃ d, strayGranted.gmWriting 0 d = true) := by
    rintro (⟨i, hi, _⟩ | ⟨d, hd⟩)
    · exact nomatch hi
    · exact absurd ((strayGranted_noCommand d).symm.trans hd) nofun
  obtain ⟨-, -, -, -, hbytes⟩ := ((hdrain [] htable).1 hclosed).state
  have hb := (hbytes strayCache_calmAll).1 0
  rw [regionTableDrain_mem htable hquiet strayGranted_noCommand, hnew, hold] at hb
  exact absurd hb (by decide)

end Sys2Proof.Machine
end

section
namespace Sys2Proof.Machine

/-! What a home sends (11 R351, 10 R341). -/

/-- An event has left for a device: in flight in this package, or over the trained link to the peer. -/
def SentTo (s t : State) (d : BitVec 1) (i : Instr) : Prop := (d = s.dev → i ∈ t.pending) ∧ (d ≠ s.dev → s.peerTrained = true → i ∈ t.peerOut)

/-- Events have been sent, to cores of this package, to the peer and to saved gangs, and nothing else has changed. -/
structure OnlySends (s t : State) : Prop where
  eq : t = { s with pending := t.pending, peerOut := t.peerOut, launches := t.launches }
  pending : s.pending ⊆ t.pending
  peerOut : s.peerOut ⊆ t.peerOut

theorem OnlySends.refl (s : State) : OnlySends s s := ⟨rfl, List.Subset.refl _, List.Subset.refl _⟩

theorem OnlySends.trans {s t u : State} (h : OnlySends s t) (g : OnlySends t u) : OnlySends s u :=
  ⟨by rw [g.eq, h.eq], List.Subset.trans h.pending g.pending, List.Subset.trans h.peerOut g.peerOut⟩

theorem OnlySends.cores {s t : State} (h : OnlySends s t) : t.cores = s.cores := by rw [h.eq]
theorem OnlySends.dev {s t : State} (h : OnlySends s t) : t.dev = s.dev := by rw [h.eq]
theorem OnlySends.peerTrained {s t : State} (h : OnlySends s t) : t.peerTrained = s.peerTrained := by rw [h.eq]
theorem OnlySends.refused {s t : State} (h : OnlySends s t) : t.refused = s.refused := by rw [h.eq]
theorem OnlySends.tag {s t : State} (h : OnlySends s t) (pa : Nat) : t.tag pa = s.tag pa := by rw [h.eq]; rfl
theorem OnlySends.cleatAt {s t : State} (h : OnlySends s t) (pa : Nat) : t.cleatAt pa = s.cleatAt pa := by rw [h.eq]; rfl
theorem OnlySends.sameBytes {s t : State} (h : OnlySends s t) : SameBytes s t := .of_eq (by rw [h.eq]) h.cores

theorem OnlySends.furlEntries {s t : State} (h : OnlySends s t) (pa : Nat) : t.furlEntries pa = s.furlEntries pa := by
  rw [State.furlEntries, h.cleatAt, State.furlEntries]

/-- What has been sent stays sent. -/
theorem SentTo.later {s t u : State} {d : BitVec 1} {i : Instr} (h : SentTo s t d i) (g : OnlySends t u) : SentTo s u d i :=
  ⟨fun hd => g.pending (h.1 hd), fun hd hp => g.peerOut (h.2 hd hp)⟩

/-- What is sent after a change that keeps the device and the link is sent. -/
theorem SentTo.from {r s t : State} {d : BitVec 1} {i : Instr} (h : SentTo s t d i) (hd : s.dev = r.dev) (hp : s.peerTrained = r.peerTrained) :
    SentTo r t d i :=
  ⟨fun e => h.1 (e.trans hd.symm), fun e p => h.2 (fun n => e (n.trans hd)) (hp.trans p)⟩

theorem post_onlySends (s : State) (i : Instr) : OnlySends s (s.post i) := ⟨rfl, List.subset_append_left _ _, List.Subset.refl _⟩

theorem toPeer_onlySends (s : State) (i : Instr) : OnlySends s (s.toPeer i) := by
  unfold State.toPeer
  split
  · exact ⟨rfl, List.Subset.refl _, List.subset_append_left _ _⟩
  · exact .refl s

theorem toward_onlySends (s : State) (gang : Option Nat) (i : Instr) : OnlySends s (s.toward gang i) := by
  cases gang with
  | none => exact post_onlySends s i
  | some lid => exact ⟨rfl, List.Subset.refl _, List.Subset.refl _⟩

theorem answerTo_onlySends (s : State) (d : BitVec 1) (i : Instr) : OnlySends s (s.answerTo d i) := by
  unfold State.answerTo
  split
  · exact post_onlySends s i
  · exact toPeer_onlySends s i

/-- An answer leaves for its device. -/
theorem answerTo_sentTo (s : State) (d : BitVec 1) (i : Instr) : SentTo s (s.answerTo d i) d i := by
  refine ⟨fun hd => ?_, fun hd hp => ?_⟩
  · rw [State.answerTo, if_pos hd]
    exact List.mem_append_right _ (List.mem_singleton_self i)
  · rw [State.answerTo, if_neg hd, State.toPeer, if_pos hp]
    exact List.mem_append_right _ (List.mem_singleton_self i)

/-! Wakes (11 R351, R354). -/

/-- A wake that applies no reduction at the home sends its answer. -/
theorem wakeOne_of_no_reduction (s : State) {a : FurlAns} {r : FurlReq} (h : ∀ f wd o, r.what = .red f wd o → ∃ q, a = .cause q) (gang : Option Nat) :
    s.wakeOne a gang r = if r.dev = s.dev then s.toward gang (.furledWake r a) else s.toPeer (.furledWake r a) := by
  unfold State.wakeOne
  split
  next f wd o w hr =>
    obtain ⟨q, hq⟩ := h f wd o hr
    cases hq
  next => rfl

theorem wakeOne_answer (s : State) {a : FurlAns} {r : FurlReq} (h : ∀ f wd o, r.what = .red f wd o → ∃ q, a = .cause q) :
    s.wakeOne a none r = s.answerTo r.dev (.furledWake r a) := wakeOne_of_no_reduction s h none

theorem wakeOne_cause (s : State) (q : BitVec 9) (r : FurlReq) : s.wakeOne (.cause q) none r = s.answerTo r.dev (.furledWake r (.cause q)) :=
  wakeOne_answer s fun _ _ _ _ => ⟨q, rfl⟩

theorem wakeOne_cause_onlySends (s : State) (q : BitVec 9) (gang : Option Nat) (r : FurlReq) : OnlySends s (s.wakeOne (.cause q) gang r) := by
  rw [wakeOne_of_no_reduction s fun _ _ _ _ => ⟨q, rfl⟩]
  split
  · exact toward_onlySends s gang _
  · exact toPeer_onlySends s _

/-- Waiters that wake with a cause are told it, those of a saved gang when it resumes. -/
theorem foldl_wakeOne_cause (q : BitVec 9) (es : List (Option Nat × FurlReq)) (s : State) :
    OnlySends s (es.foldl (fun t e => t.wakeOne (.cause q) e.1 e.2) s)
      ∧ ∀ f, (none, f) ∈ es → SentTo s (es.foldl (fun t e => t.wakeOne (.cause q) e.1 e.2) s) f.dev (.furledWake f (.cause q)) := by
  induction es generalizing s with
  | nil => exact ⟨.refl s, fun _ hf => absurd hf List.not_mem_nil⟩
  | cons e r ih =>
    have hfirst := wakeOne_cause_onlySends s q e.1 e.2
    obtain ⟨hrest, htold⟩ := ih (s.wakeOne (.cause q) e.1 e.2)
    refine ⟨hfirst.trans hrest, fun f hf => ?_⟩
    rcases List.mem_cons.mp hf with rfl | hf
    · refine SentTo.later ?_ hrest
      rw [wakeOne_cause]
      exact answerTo_sentTo s _ _
    · exact (htold f hf).from hfirst.dev hfirst.peerTrained

/-! Cleat tables and tags. -/

@[simp] theorem State.tag_setTag (s : State) (pa : Nat) (v : BitVec 2) : (s.setTag pa v).tag pa = v := (Sparse.get_set _ _ _ _ _).trans (if_pos rfl)

/-- A change of a home's cleat table changes it and no other part of the state that cells know. -/
theorem cleatAt_modCleat (s : State) (pa : Nat) (f : List Cleat → List Cleat) : (s.modCleat pa f).cleatAt pa = f (s.cleatAt pa) := by
  unfold State.modCleat
  dsimp only
  split
  next h => exact (if_pos h).trans (((Sparse.get_set _ _ _ _ _).trans (if_pos rfl)).trans (congrArg f (if_pos h).symm))
  next h => exact (if_neg h).trans ((congrArg Cluster.cleat (Vector.getElem_set_self _)).trans (congrArg f (if_neg h).symm))

theorem modCleat_eq (s : State) (pa : Nat) (f : List Cleat → List Cleat) :
    s.modCleat pa f = { s with clusters := (s.modCleat pa f).clusters, peerCleat := (s.modCleat pa f).peerCleat } := by
  unfold State.modCleat
  dsimp only
  split <;> rfl

theorem modCleat_dev (s : State) (pa : Nat) (f : List Cleat → List Cleat) : (s.modCleat pa f).dev = s.dev := State.dev_modCleat s pa f

theorem modCleat_peerTrained (s : State) (pa : Nat) (f : List Cleat → List Cleat) : (s.modCleat pa f).peerTrained = s.peerTrained := by
  rw [modCleat_eq]

theorem modCleat_tag (s : State) (pa : Nat) (f : List Cleat → List Cleat) (a : Nat) : (s.modCleat pa f).tag a = s.tag a := by
  rw [modCleat_eq]; rfl

theorem modCleat_sameBytes (s : State) (pa : Nat) (f : List Cleat → List Cleat) : SameBytes s (s.modCleat pa f) :=
  .of_eq (State.mem_modCleat s pa f) (State.cores_modCleat s pa f)

theorem furlEntries_modCleat (s : State) (pa : Nat) (f : List Cleat → List Cleat) :
    (s.modCleat pa f).furlEntries pa = (f (s.cleatAt pa)).filter (Cleat.onCell pa) := by rw [State.furlEntries, cleatAt_modCleat]

/-- With no partial of a cell's line out, a change of its tag drops the copies of the line and does nothing else. -/
theorem retag_eq {s : State} {pa : Nat} (h : (s.line (pa / 64)).u = []) (v : BitVec 2) :
    s.retag pa v = { s with l1s := (s.retag pa v).l1s, lines := (s.retag pa v).lines, tags := Sparse.set 0 s.tags (pa / 8) v } := by
  simp only [State.retag, State.claimHome, recall_none s _ h]
  rfl

theorem claimHome_mem {s : State} {l : Nat} (h : (s.line l).u = []) : (s.claimHome l).mem = s.mem := by
  simp only [State.claimHome, recall_none s l h]
  rfl

theorem retag_sameBytes {s : State} {pa : Nat} (h : (s.line (pa / 64)).u = []) (v : BitVec 2) : SameBytes s (s.retag pa v) :=
  .of_eq (claimHome_mem h) (claimHome_cores s _)

theorem retag_tag (s : State) (pa : Nat) (v : BitVec 2) : (s.retag pa v).tag pa = v := State.tag_setTag _ pa v

theorem retag_cleatAt {s : State} {pa : Nat} (h : (s.line (pa / 64)).u = []) (v : BitVec 2) (a : Nat) : (s.retag pa v).cleatAt a = s.cleatAt a := by
  rw [retag_eq h]; rfl

end Sys2Proof.Machine
end

section
namespace Sys2Proof.Machine

/-- A request no longer among the refused ones. -/
def State.withdraw (s : State) (r : FurlReq) : State := { s with refused := s.refused.filter fun e => !(e.1 == r) }

theorem not_mem_withdraw (s : State) (r : FurlReq) : ∀ e ∈ (s.withdraw r).refused, e.1 ≠ r := fun e he => by
  simpa using (List.mem_filter.mp he).2

/-! The rows of 11 R350 for a request, once the host holds no exclusive copy of the line. -/

section
variable {s : State} {r : FurlReq}

theorem request_held (h : s.hostHolds (r.pa / 64) = true) :
    execFurledRequestAtHome r s = .next ((s.snoopHost (r.pa / 64)).park (.furledRequestAtHome r)) := if_pos h

theorem request_value (h : s.hostHolds (r.pa / 64) = false) (ht : s.tag r.pa = 0) :
    execFurledRequestAtHome r s = .next ((s.serveCell r).wakeOne (.word ((s.serveCell r).cellWord r.pa)) none r) := by
  simp [execFurledRequestAtHome, h, ht]

theorem request_error (h : s.hostHolds (r.pa / 64) = false) (ht : s.tag r.pa = 3) :
    execFurledRequestAtHome r s = .next (s.answerTo r.dev (.furledWake r (.cause 0x102))) := by
  simp [execFurledRequestAtHome, h, ht, wakeOne_cause]

theorem request_chained (h : s.hostHolds (r.pa / 64) = false) (ht : s.tag r.pa = 1 ∨ s.tag r.pa = 2) (hc : r.chain = true) :
    execFurledRequestAtHome r s = .next (s.answerTo r.dev (.furledWake r (.cause 0x100))) := by
  rcases ht with ht | ht <;> simp [execFurledRequestAtHome, h, ht, hc, wakeOne_cause]

theorem request_first (h : s.hostHolds (r.pa / 64) = false) (ht : s.tag r.pa = 1) (hc : r.chain = false) (hroom : ¬ 64 ≤ (s.cleatAt r.pa).length) :
    execFurledRequestAtHome r s = .next (((s.retag r.pa 2).modCleat r.pa (· ++ [.furl r true true 0])).answerTo r.dev
      (.evaluationMessage r (s.cellWord r.pa))) := by
  simp [execFurledRequestAtHome, h, ht, hc, hroom]

theorem request_joins (h : s.hostHolds (r.pa / 64) = false) (ht : s.tag r.pa = 2) (hc : r.chain = false) (hroom : ¬ 64 ≤ (s.cleatAt r.pa).length)
    (hw : ((s.furlEntries r.pa).filterMap Cleat.waiter).length < 8) :
    execFurledRequestAtHome r s = .next (s.modCleat r.pa (· ++ [.furl r false true (nextOrd (s.furlEntries r.pa))])) := by
  simp [execFurledRequestAtHome, h, ht, hc, hroom, Nat.not_le.mpr hw]

theorem request_refused (h : s.hostHolds (r.pa / 64) = false) (hc : r.chain = false)
    (hfull : (s.tag r.pa = 1 ∧ 64 ≤ (s.cleatAt r.pa).length)
      ∨ (s.tag r.pa = 2 ∧ (64 ≤ (s.cleatAt r.pa).length ∨ 8 ≤ ((s.furlEntries r.pa).filterMap Cleat.waiter).length))) :
    execFurledRequestAtHome r s = .next (s.refuseFurl r) := by
  rcases hfull with ⟨ht, hf⟩ | ⟨ht, hf⟩
  · simp [execFurledRequestAtHome, h, ht, hc, hf]
  · have hb : (decide (64 ≤ (s.cleatAt r.pa).length) || decide (8 ≤ ((s.furlEntries r.pa).filterMap Cleat.waiter).length)) = true := by
      simpa using hf
    simp [execFurledRequestAtHome, h, ht, hc, hb]

theorem serveCell_of_not_red (hu : (s.line (r.pa / 64)).u = []) (hr : ∀ f wd o, r.what ≠ .red f wd o) : s.serveCell r = s := by
  unfold State.serveCell
  split
  next f wd o hw => exact absurd hw (hr f wd o)
  next => exact recall_none s _ hu

/-- A VALUE cell answers with its word. -/
theorem request_word (h : s.hostHolds (r.pa / 64) = false) (hu : (s.line (r.pa / 64)).u = []) (ht : s.tag r.pa = 0) (hr : ∀ f wd o, r.what ≠ .red f wd o) :
    execFurledRequestAtHome r s = .next (s.answerTo r.dev (.furledWake r (.word (s.cellWord r.pa)))) := by
  rw [request_value h ht, serveCell_of_not_red hu hr, wakeOne_answer s fun f wd o hw => absurd hw (hr f wd o)]

/-- A reduction that wakes with a word is applied to memory as it stands. -/
theorem wakeOne_reduction_mem (s : State) {r : FurlReq} {f : BitVec 4} {wd : BitVec 5} {o w : Word} {gang : Option Nat} (hr : r.what = .red f wd o) :
    (s.wakeOne (.word w) gang r).mem
      = s.mem.write r.pa (toBytes (redSize wd) (redFn f wd (s.mem.num r.pa (redSize wd)) (o.toNat % 2 ^ (8 * redSize wd)))) := by
  simp only [State.wakeOne, hr]
  split <;> exact put_mem _ _ _

/-- A reduction is applied to a VALUE cell at the home. -/
theorem request_reduction {f : BitVec 4} {wd : BitVec 5} {o : Word} (h : s.hostHolds (r.pa / 64) = false) (hu : (s.line (r.pa / 64)).u = [])
    (ht : s.tag r.pa = 0) (hr : r.what = .red f wd o) : Gives (execFurledRequestAtHome r s) fun t => t.cores = s.cores
      ∧ t.mem = s.mem.write r.pa (toBytes (redSize wd) (redFn f wd (s.mem.num r.pa (redSize wd)) (o.toNat % 2 ^ (8 * redSize wd)))) := by
  refine ⟨_, request_value h ht, (wakeOne_cores _ _ _ _).trans ?_, ?_⟩
  · rw [State.serveCell, hr]
    exact claimHome_cores s _
  · have hserve : s.serveCell r = s.claimHome (r.pa / 64) := by rw [State.serveCell, hr]
    rw [wakeOne_reduction_mem _ hr, hserve, claimHome_mem hu]

/-! Failures (11 R358, R362) and withdrawals (11 R354, R355). -/

/-- A failure makes an UNFURLING cell ERROR, wakes its waiters with the cause and frees its entries. -/
theorem failCell_spec {pa : Nat} (q : BitVec 9) (ht : s.tag pa = 2) (hu : (s.line (pa / 64)).u = []) :
    (s.failCell pa q).tag pa = 3 ∧ (s.failCell pa q).furlEntries pa = [] ∧ (s.failCell pa q).cores = s.cores ∧ SameBytes s (s.failCell pa q)
      ∧ ∀ k ∈ s.furlEntries pa, ∀ f, k.waiter = some (none, f) → SentTo s (s.failCell pa q) f.dev (.furledWake f (.cause q)) := by
  have hentries : (s.retag pa 3).furlEntries pa = s.furlEntries pa := by rw [State.furlEntries, retag_cleatAt hu]; rfl
  have hfail : s.failCell pa q = (wakeOrder (s.furlEntries pa)).foldl (fun t e => t.wakeOne (.cause q) e.1 e.2)
      ((s.retag pa 3).modCleat pa fun ks => ks.filter fun k => !k.onCell pa) := by
    rw [State.failCell, if_pos ht, State.wakeFurl, hentries]
  obtain ⟨hsends, htold⟩ := foldl_wakeOne_cause q (wakeOrder (s.furlEntries pa)) ((s.retag pa 3).modCleat pa fun ks => ks.filter fun k => !k.onCell pa)
  rw [← hfail] at hsends htold
  have hbytes := (retag_sameBytes hu 3).trans (modCleat_sameBytes (s.retag pa 3) pa fun ks => ks.filter fun k => !k.onCell pa)
  refine ⟨?_, ?_, ?_, hbytes.trans hsends.sameBytes, fun k hk f hf => (htold f ?_).from ?_ ?_⟩
  · rw [hsends.tag, modCleat_tag, retag_tag]
  · rw [hsends.furlEntries, furlEntries_modCleat, List.filter_filter]
    exact List.filter_eq_nil_iff.mpr fun k _ => by simp
  · exact hsends.cores.trans ((State.cores_modCleat _ _ _).trans (claimHome_cores s _))
  · exact (List.mem_insertionSort _).mpr (List.mem_filterMap.mpr ⟨k, hk, hf⟩)
  · rw [modCleat_dev, retag_eq hu]
  · rw [modCleat_peerTrained, retag_eq hu]

/-- No entry waits for a request that has stopped waiting. -/
theorem isFurl_stopWaiting {k k' : Cleat} (h : stopWaiting r k = some k') : isFurl r k' = false := by
  unfold stopWaiting at h
  split at h
  next hn =>
    obtain rfl := Option.some.inj h
    simpa using hn
  next =>
    split at h
    · obtain rfl := Option.some.inj h
      rfl
    · obtain rfl := Option.some.inj h
      rfl
    · exact nomatch h

/-- A waiting request that reaches its limit is told 0x101 and its entry waits no more. -/
theorem furlWaitLimit_waiting {f : Bool} {n : Nat} (hdue : r.issued + 2 ^ s.rigging 148 144 22 ≤ s.cyc) (hr : ∀ e ∈ s.refused, e.1 ≠ r)
    (hk : (s.furlEntries r.pa).find? (isFurl r) = some (.furl r f true n)) :
    execFurlWaitLimit r s = .next ((s.modCleat r.pa (·.filterMap (stopWaiting r))).answerTo r.dev (.furledWake r (.cause 0x101))) := by
  have hrefused : (s.refused.any fun e => e.1 == r) = false := List.any_eq_false.mpr fun e he => by simpa using hr e he
  simp [execFurlWaitLimit, Nat.not_lt.mpr hdue, hrefused, hk, wakeOne_cause]

theorem furlWaitLimit_refused (hdue : r.issued + 2 ^ s.rigging 148 144 22 ≤ s.cyc) (hr : ∃ e ∈ s.refused, e.1 = r) :
    execFurlWaitLimit r s = .next ((s.withdraw r).answerTo r.dev (.furledWake r (.cause 0x101))) := by
  have hrefused : (s.refused.any fun e => e.1 == r) = true := List.any_eq_true.mpr (by simpa using hr)
  simp [execFurlWaitLimit, Nat.not_lt.mpr hdue, hrefused, wakeOne_cause, State.withdraw]

/-- A refused request that is no reduction of this package is sent again as it is. -/
theorem furlWaiterResend_plain (hr : ∃ e ∈ s.refused, e.1 = r) (hplain : ¬ (r.dev = s.dev ∧ ∃ f wd o, r.what = .red f wd o)) :
    execFurlWaiterResend r s = .next ((s.withdraw r).post (.furledRequestAtHome r)) := by
  have hrefused : (s.refused.any fun e => e.1 == r) = true := List.any_eq_true.mpr (by simpa using hr)
  unfold execFurlWaiterResend
  rw [if_pos hrefused]
  dsimp only
  split
  next f wd o hw => exact if_pos fun hd => hplain ⟨hd, f, wd, o, hw⟩
  next => rfl

/-- A refused reduction is sent again to where its address is now translated, and waits on without a translation. -/
theorem furlWaiterResend_reduction {f : BitVec 4} {wd : BitVec 5} {o : Word} (hr : ∃ e ∈ s.refused, e.1 = r) (hd : r.dev = s.dev) (hw : r.what = .red f wd o) :
    execFurlWaiterResend r s = .next (match s.hostPhys (s.coreAt r.core).ident.pasid r.va true with
      | some pa => (s.withdraw r).post (.furledRequestAtHome { r with pa := pa })
      | none => { s with refused := (s.withdraw r).refused ++ [(r, s.cyc)] }) := by
  have hrefused : (s.refused.any fun e => e.1 == r) = true := List.any_eq_true.mpr (by simpa using hr)
  unfold execFurlWaiterResend
  rw [if_pos hrefused]
  dsimp only
  rw [hw]
  dsimp only
  rw [if_neg (not_not_intro hd)]
  cases s.hostPhys (s.coreAt r.core).ident.pasid r.va true <;> rfl

end

/-- Settles O48, row by row: each request is one answer, one new entry or one refusal, and each failure or limit one round of wakes. -/
theorem furledRequests : Obligations.FurledRequests := by
  intro s r pa
  dsimp only
  simp only [exec_furledRequestAtHome, exec_recordFailureReport, exec_evaluationFailureReport, exec_furlWaitLimit, exec_furlWaiterResend]
  have hanswer : ∀ (u : State) (i : Instr), u.cores = s.cores → SameBytes s u → u.dev = s.dev → u.peerTrained = s.peerTrained →
      (u.answerTo r.dev i).cores = s.cores ∧ SameBytes s (u.answerTo r.dev i) ∧ SentTo s (u.answerTo r.dev i) r.dev i := fun u i hc hb hd hp =>
    ⟨(answerTo_onlySends u r.dev i).cores.trans hc, hb.trans (answerTo_onlySends u r.dev i).sameBytes, (answerTo_sentTo u r.dev i).from hd hp⟩
  have hhere : ∀ i : Instr, (s.answerTo r.dev i).cores = s.cores ∧ SameBytes s (s.answerTo r.dev i) ∧ SentTo s (s.answerTo r.dev i) r.dev i :=
    fun i => hanswer s i rfl (.refl s) rfl rfl
  refine ⟨fun h => ?held, fun h hu ht hr => ?word, fun f wd o h hu ht hr => ?red, fun h ht => ?error, fun h ht hc => ?chain, fun h hu ht hc hroom => ?first,
    fun h ht hc hroom hw => ?joins, fun h hc hfull => ?refused, ⟨fun ht hu => ?record, fun ht => ?noRecord⟩, ⟨fun ht hu => ?eval, fun ht => ?noEval⟩,
    ⟨fun hdue => ?early, fun hdue hr => ?limitRefused, fun f n hdue hr hk => ?limit⟩, fun hr => ⟨fun hplain => ?plain, fun p hred hnow => ?moved, fun hred hnow => ?away⟩⟩
  case held =>
    refine ⟨_, request_held (by simpa using h), rfl, .of_eq rfl rfl, List.mem_append_right _ (List.mem_singleton_self _), ?_⟩
    exact congrArg Line.snooping ((Sparse.get_set _ _ _ _ _).trans (if_pos rfl))
  case word =>
    obtain ⟨hc, hb, hs⟩ := hhere (.furledWake r (.word (s.cellWord r.pa)))
    exact ⟨_, request_word h hu ht hr, hc, hb, hs, ((answerTo_onlySends s _ _).tag _).trans ht⟩
  case red =>
    obtain ⟨t, hexec, hc, hm⟩ := request_reduction h hu ht hr
    exact ⟨t, hexec, hc, fun a => by rw [hm]⟩
  case error => exact ⟨_, request_error h ht, hhere _⟩
  case chain => exact ⟨_, request_chained h ht hc, hhere _⟩
  case first =>
    obtain ⟨hcores, hb, hs⟩ := hanswer ((s.retag r.pa 2).modCleat r.pa (· ++ [.furl r true true 0])) (.evaluationMessage r (s.cellWord r.pa))
      ((State.cores_modCleat _ _ _).trans (claimHome_cores s _)) ((retag_sameBytes hu 2).trans (modCleat_sameBytes _ _ _))
      (by rw [modCleat_dev, retag_eq hu]) (by rw [modCleat_peerTrained, retag_eq hu])
    refine ⟨_, request_first h ht hc hroom, hcores, hb, ?_, ?_, hs⟩
    · rw [(answerTo_onlySends _ _ _).tag, modCleat_tag, retag_tag]
    · rw [(answerTo_onlySends _ _ _).cleatAt, cleatAt_modCleat, retag_cleatAt hu]
  case joins =>
    exact ⟨_, request_joins h ht hc hroom hw, State.cores_modCleat _ _ _, modCleat_sameBytes _ _ _, (modCleat_tag _ _ _ _).trans ht, _, cleatAt_modCleat _ _ _⟩
  case refused => exact ⟨_, request_refused h hc hfull, rfl, .of_eq rfl rfl, rfl⟩
  case record => exact ⟨_, rfl, failCell_spec 0x103 ht hu⟩
  case noRecord => exact congrArg _ (if_neg ht)
  case eval => exact ⟨_, rfl, failCell_spec 0x102 ht hu⟩
  case noEval => exact congrArg _ (if_neg ht)
  case early => exact if_pos (Nat.lt_of_not_le hdue)
  case limitRefused =>
    obtain ⟨hc, hb, hs⟩ := hanswer (s.withdraw r) (.furledWake r (.cause 0x101)) rfl (.of_eq rfl rfl) rfl rfl
    refine ⟨_, furlWaitLimit_refused hdue hr, hc, hb, hs, ?_⟩
    rw [(answerTo_onlySends _ _ _).refused]
    exact not_mem_withdraw s r
  case limit =>
    obtain ⟨hc, hb, hs⟩ := hanswer (s.modCleat r.pa (·.filterMap (stopWaiting r))) (.furledWake r (.cause 0x101)) (State.cores_modCleat _ _ _)
      (modCleat_sameBytes _ _ _) (modCleat_dev _ _ _) (modCleat_peerTrained _ _ _)
    refine ⟨_, furlWaitLimit_waiting hdue hr hk, hc, hb, hs, fun k hk => ?_⟩
    rw [(answerTo_onlySends _ _ _).furlEntries, furlEntries_modCleat] at hk
    obtain ⟨k', -, hstop⟩ := List.mem_filterMap.mp (List.mem_filter.mp hk).1
    exact isFurl_stopWaiting hstop
  case plain =>
    exact ⟨_, furlWaiterResend_plain hr hplain, rfl, .of_eq rfl rfl, List.mem_append_right _ (List.mem_singleton_self _), not_mem_withdraw s r⟩
  case moved =>
    obtain ⟨hd, f, wd, o, hw⟩ := hred
    refine ⟨_, furlWaiterResend_reduction hr hd hw, ?_⟩
    rw [hnow]
    exact ⟨rfl, .of_eq rfl rfl, List.mem_append_right _ (List.mem_singleton_self _), not_mem_withdraw s r⟩
  case away =>
    obtain ⟨hd, f, wd, o, hw⟩ := hred
    refine ⟨_, furlWaiterResend_reduction hr hd hw, ?_⟩
    rw [hnow]
    exact ⟨rfl, .of_eq rfl rfl, List.mem_append_right _ (List.mem_singleton_self _)⟩

end Sys2Proof.Machine
end

section
namespace Sys2Proof.Machine

/-! Words of a message (08 R246). -/

theorem words_lt (ws : List Word) : ws.foldr (fun w acc => w.toNat + 2 ^ 64 * acc) 0 < 2 ^ (64 * ws.length) := by
  induction ws with
  | nil => decide
  | cons w r ih =>
    have hw : w.toNat < 2 ^ 64 := w.isLt
    have hp : 2 ^ (64 * (w :: r).length) = 2 ^ 64 * 2 ^ (64 * r.length) := by rw [List.length_cons, Nat.mul_succ, Nat.pow_add, Nat.mul_comm]
    rw [List.foldr_cons, hp]
    omega

theorem words_digit (ws : List Word) (j : Nat) : ws.foldr (fun w acc => w.toNat + 2 ^ 64 * acc) 0 / 2 ^ (64 * j) % 2 ^ 64 = (ws.getD j 0).toNat := by
  induction ws generalizing j with
  | nil => simp
  | cons w r ih =>
    have hw : w.toNat < 2 ^ 64 := w.isLt
    rw [List.foldr_cons]
    cases j with
    | zero =>
      rw [List.getD_cons_zero, Nat.mul_zero, Nat.pow_zero, Nat.div_one]
      omega
    | succ j =>
      have hd : (w.toNat + 2 ^ 64 * r.foldr (fun w acc => w.toNat + 2 ^ 64 * acc) 0) / 2 ^ 64 = r.foldr (fun w acc => w.toNat + 2 ^ 64 * acc) 0 := by omega
      rw [List.getD_cons_succ, ← ih, Nat.mul_succ, Nat.pow_add, Nat.mul_comm (2 ^ (64 * j)), ← Nat.div_div_eq_div_mul, hd]

/-- A message made of eight words reads them. -/
theorem word_ofWords {ws : List Word} (h : ws.length ≤ 8) (j : Nat) : Msg.word (Msg.ofWords ws) j = ws.getD j 0 := by
  have hlt : ws.foldr (fun w acc => w.toNat + 2 ^ 64 * acc) 0 < 2 ^ 512 :=
    lt_of_lt_of_le (words_lt ws) (Nat.pow_le_pow_right (by decide) (by omega))
  apply BitVec.eq_of_toNat_eq
  rw [Msg.word, BitVec.extractLsb'_toNat, Msg.ofWords, BitVec.toNat_ofNat, Nat.mod_eq_of_lt hlt, Nat.shiftRight_eq_div_pow, words_digit]

/-- A message with a word replaced reads it there and the old words elsewhere. -/
theorem word_setWord (m : Msg) (i : Nat) (w : Word) {j : Nat} (h : j < 8) : Msg.word (Msg.setWord m i w) j = if j = i then w else Msg.word m j := by
  rw [Msg.setWord, word_ofWords (by simp), List.getD_eq_getElem?_getD]
  simp [h]

/-! The header of a message (08 R246, R275). -/

/-- CLASS and HID of a header. -/
def topOf (h : Word) : BitVec 18 := h.extractLsb' 46 18

theorem topOf_mkHeader {cl hid dcore : Nat} (hc : cl < 2 ^ 6) (hh : hid < 2 ^ 12) (hd : dcore < 2 ^ 10) (ddev : BitVec 1) :
    (topOf (mkHeader cl hid ddev dcore 0 0 0 0 false 0 0)).toNat = cl * 2 ^ 12 + hid := by
  have hb : ddev.toNat < 2 := ddev.isLt
  have h16 : (0 : BitVec 16).toNat = 0 := rfl
  have h1 : (0 : BitVec 1).toNat = 0 := rfl
  rw [topOf, BitVec.extractLsb'_toNat, mkHeader, BitVec.toNat_ofNat, Nat.shiftRight_eq_div_pow, h16, h1, if_neg Bool.false_ne_true]
  omega

/-- Words joined below bit 46 keep CLASS and HID. -/
theorem topOf_masked (h : Word) {m : Word} (hm : topOf m = BitVec.allOnes 18) {n : Nat} (hn : n < 2 ^ 46) : topOf ((h &&& m) ||| BitVec.ofNat 64 n) = topOf h := by
  have hz : topOf (BitVec.ofNat 64 n) = 0 := by
    apply BitVec.eq_of_toNat_eq
    rw [topOf, BitVec.extractLsb'_toNat, BitVec.toNat_ofNat, Nat.shiftRight_eq_div_pow]
    show _ = 0
    omega
  unfold topOf at *
  rw [BitVec.extractLsb'_or, BitVec.extractLsb'_and, hm, hz, BitVec.and_allOnes]
  exact BitVec.or_zero

theorem topOf_withXt (m : Msg) (xt : Bool) : topOf (Msg.word (withXt m xt) 0) = topOf (Msg.word m 0) := by
  rw [withXt, word_setWord _ _ _ (by decide), if_pos rfl]
  have hx : (if xt then (16 : Word) else 0) = BitVec.ofNat 64 (if xt then 16 else 0) := by cases xt <;> rfl
  rw [hx]
  exact topOf_masked _ (by decide) (by split <;> decide)

theorem topOf_withHw (m : Msg) (mid : BitVec 16) (score : BitVec 10) (sdev : BitVec 1) :
    topOf (Msg.word (withHw m mid score sdev) 0) = topOf (Msg.word m 0) := by
  have h1 := mid.isLt
  have h2 := score.isLt
  have h3 := sdev.isLt
  rw [withHw, word_setWord _ _ _ (by decide), if_pos rfl]
  exact topOf_masked _ (by decide) (by omega)

/-- The header that the hardware completes carries its MID. -/
theorem mid_withHw (m : Msg) (mid : BitVec 16) (score : BitVec 10) (sdev : BitVec 1) : (Msg.word (withHw m mid score sdev) 0).extractLsb' 16 16 = mid := by
  have h1 := mid.isLt
  have h2 := score.isLt
  have h3 := sdev.isLt
  have hz : (0xFFFFFFFF0000001F : Word).extractLsb' 16 16 = 0 := by decide
  have hm : (BitVec.ofNat 64 (mid.toNat * 2 ^ 16 + score.toNat * 2 ^ 6 + sdev.toNat * 2 ^ 5)).extractLsb' 16 16 = mid := by
    apply BitVec.eq_of_toNat_eq
    rw [BitVec.extractLsb'_toNat, BitVec.toNat_ofNat, Nat.shiftRight_eq_div_pow]
    omega
  rw [withHw, word_setWord _ _ _ (by decide), if_pos rfl, BitVec.extractLsb'_or, BitVec.extractLsb'_and, hz, hm]
  simp

/-- The hardware's part of a header is in word 0. -/
theorem word_withHw (m : Msg) (mid : BitVec 16) (score : BitVec 10) (sdev : BitVec 1) {j : Nat} (h0 : 0 < j) (h : j < 8) :
    Msg.word (withHw m mid score sdev) j = Msg.word m j := by
  rw [withHw, word_setWord _ _ _ h, if_neg (Nat.ne_of_gt h0)]

theorem word_withXt (m : Msg) (xt : Bool) {j : Nat} (h0 : 0 < j) (h : j < 8) : Msg.word (withXt m xt) j = Msg.word m j := by
  rw [withXt, word_setWord _ _ _ h, if_neg (Nat.ne_of_gt h0)]

/-! Trap records (14 R420). -/

/-- The cause in the summary of a report. -/
theorem cause_of_report (origin unit : Nat) (cause : BitVec 9) (mid : Nat) :
    (Summary.word { Summary.report origin unit cause with mid := mid }).extractLsb' 0 9 = cause := by
  have hc := cause.isLt
  apply BitVec.eq_of_toNat_eq
  rw [BitVec.extractLsb'_toNat, Summary.word, BitVec.toNat_ofNat, Nat.shiftRight_zero]
  simp only [Summary.report, Bool.false_eq_true, if_false]
  omega

end Sys2Proof.Machine
end

section
namespace Sys2Proof.Machine

/-! What the network interface changes of a core. -/

/-- Memory is as before, and so is every core but for its network interface. -/
structure OnlyNets (s t : State) : Prop where
  mem : t.mem = s.mem
  core : ∀ d, t.coreAt d = { s.coreAt d with net := (t.coreAt d).net }

theorem OnlyNets.of_eq {s t : State} (hm : t.mem = s.mem) (hc : t.cores = s.cores) : OnlyNets s t := ⟨hm, fun d => by rw [State.coreAt_congr hc]⟩

theorem OnlyNets.trans {s t u : State} (h : OnlyNets s t) (g : OnlyNets t u) : OnlyNets s u :=
  ⟨g.mem.trans h.mem, fun d => by rw [g.core d, h.core d]⟩

theorem OnlyNets.sameBytes {s t : State} (h : OnlyNets s t) : SameBytes s t := ⟨fun _ => by rw [h.mem], fun d _ => by rw [h.core d]⟩

theorem OnlyNets.ctxAt {s t : State} (h : OnlyNets s t) (d : CoreId) (y : CtxId) : t.ctxAt d y = s.ctxAt d y := by rw [State.ctxAt, h.core d]; rfl

theorem modNet_onlyNets (s : State) (c : CoreId) (f : Core → Core) (h : ∀ k, f k = { k with net := (f k).net }) : OnlyNets s (s.modCore c f) :=
  ⟨rfl, fun d => by
    rw [State.coreAt_modCore_eq]
    split
    · exact h _
    · rfl⟩

/-- A packet injected is an event. -/
theorem inject_onlySends (s : State) (p : Packet) : OnlySends s (s.inject p) := by
  unfold State.inject
  split
  · exact .refl s
  · split
    · exact post_onlySends s _
    · exact toPeer_onlySends s _

theorem OnlySends.onlyNets {s t : State} (h : OnlySends s t) : OnlyNets s t := .of_eq (by rw [h.eq]) h.cores

theorem sendFrom_onlyNets (s : State) (c : CoreId) (p : Packet) : OnlyNets s (s.sendFrom c p) :=
  OnlyNets.trans (t := s.modCore c fun k => { k with net := { k.net with retryBuf := k.net.retryBuf ++ [RetryEntry.new p (s.stopped p.lid)] } })
    (modNet_onlyNets s c _ fun _ => rfl) (inject_onlySends _ p).onlyNets

theorem sendFrom_retryBuf (s : State) (c : CoreId) (p : Packet) :
    ∃ e, ((s.sendFrom c p).coreAt c).net.retryBuf = (s.coreAt c).net.retryBuf ++ [e] ∧ e.pkt = p := by
  refine ⟨RetryEntry.new p (s.stopped p.lid), ?_, rfl⟩
  rw [State.sendFrom, State.coreAt_congr (inject_onlySends _ p).cores, State.coreAt_modCore]

/-! Evaluations (11 R356 to R358). -/

/-- Core c's placement register steps once. -/
def State.drawn (s : State) (c : CoreId) : State := s.modCore c fun k => { k with net := { k.net with lfsr := lfsrNext k.net.lfsr } }

/-- Placement 3 draws from the core's register; the others change nothing. -/
theorem evalCore_state (s : State) (r : FurlReq) {place : Nat} (h : place < 4) (rec0 : Msg) :
    (s.evalCore r place rec0).2 = if place = 3 then s.drawn r.core else s := by
  unfold State.evalCore
  dsimp only
  split
  case h_1 =>
    split
    · split <;> rfl
    · rfl
  case h_2 => rfl
  case h_3 => rfl
  case h_4 h0 h1 h2 =>
    have hne : place ≠ 0 ∧ place ≠ 1 ∧ place ≠ 2 := ⟨h0, h1, h2⟩
    have h3 : place = 3 := by omega
    rw [if_pos h3]
    split <;> rfl

/-- An evaluation goes to a launch-relative core of 10 bits. -/
theorem evalCore_lt (s : State) (r : FurlReq) (place : Nat) (rec0 : Msg) (h : ∀ l, s.launchOf r.core = some l → l.cores.length ≤ 1024) :
    (s.evalCore r place rec0).1 < 2 ^ 10 := by
  have hrel : ∀ b : BitVec 10, b.toNat < 2 ^ 10 := fun b => b.isLt
  unfold State.evalCore
  dsimp only
  split
  · split
    next i hi =>
      obtain ⟨l, hl, hi⟩ := Option.bind_eq_some_iff.mp hi
      split
      · exact lt_of_lt_of_le (List.findIdx?_eq_some_iff_findIdx_eq.mp hi).1 (h l hl)
      · exact hrel _
    next => exact hrel _
  · exact hrel _
  · exact Nat.mod_lt _ (by decide)
  · split <;> exact hrel _

section
variable (s : State) (r : FurlReq) (rec0 : Msg) {dcore : Nat}

/-- The message of an evaluation keeps CLASS and HID of its record. -/
theorem topOf_evalWord (h : dcore < 2 ^ 10) : topOf (Msg.word (s.evalWord r rec0 dcore) 0) = topOf (Msg.word rec0 0) := by
  have hn := rec0.isLt
  have hc : Msg.field rec0 63 58 < 2 ^ 6 := Nat.mod_lt _ (by decide)
  have hh : Msg.field rec0 57 46 < 2 ^ 12 := Nat.mod_lt _ (by decide)
  rw [State.evalWord, topOf_withXt, word_ofWords (by simp)]
  apply BitVec.eq_of_toNat_eq
  refine (topOf_mkHeader hc hh h s.dev).trans ?_
  rw [topOf, BitVec.extractLsb'_toNat, Msg.word, BitVec.extractLsb'_toNat, Msg.field, Msg.field, bitsOf, bitsOf]
  simp only [Nat.shiftRight_eq_div_pow]
  omega

/-- It carries the record's words 1 to 6. -/
theorem word_evalWord (dcore : Nat) {j : Nat} (h0 : 0 < j) (h : j < 7) : Msg.word (s.evalWord r rec0 dcore) j = Msg.word rec0 j := by
  rw [State.evalWord, word_withXt _ _ h0 (by omega), word_ofWords (by simp)]
  obtain ⟨i, rfl⟩ := Nat.exists_eq_succ_of_ne_zero (Nat.ne_of_gt h0)
  have hi : i < 6 := Nat.lt_of_succ_lt_succ h
  rw [List.cons_append, List.getD_cons_succ, List.getD_append _ _ _ _ (by simpa using hi), List.getD_eq_getElem?_getD]
  simp [hi]

/-- Its word 7 is the cell. -/
theorem word7_evalWord (dcore : Nat) : Msg.word (s.evalWord r rec0 dcore) 7 = r.va &&& 0x1FFFFFFFFFFFFF8 := by
  rw [State.evalWord, word_withXt _ _ (by decide) (by decide), word_ofWords (by simp)]
  rfl

end

end Sys2Proof.Machine
end

section
namespace Sys2Proof.Machine

section
variable {s : State} {r : FurlReq} {w : Word} {lid : Nat}

/-- Where the record of an evaluation lies. -/
def recordVa (w : Word) : Word := va57 (w &&& 0x1FFFFFFFFFFFFC0)

/-- A record that the first waiter's core may not read. -/
def State.recordBarred (s : State) (r : FurlReq) (w : Word) : Prop :=
  let i := (s.coreAt r.core).ident
  let g := s.region i.pasid (recordVa w)
  (s.space i.pasid).stopped = true ∨ (g.attr = 0 ∧ (g.owner ≠ r.core.val ∨ g.odev ≠ s.dev)) ∨ s.vaRefused i.pasid (recordVa w) = true

/-- What the first waiter's core reads of the record. -/
def State.recordRead (s : State) (r : FurlReq) (w : Word) : Option Nat :=
  s.readRecord r (recordVa w) (s.region (s.coreAt r.core).ident.pasid (recordVa w)).attr

/-- The packet of an evaluation message. -/
def State.evalPacket (s : State) (r : FurlReq) (lid : Nat) (m : Msg) (dcore : Nat) (mid : BitVec 16) : Packet :=
  { lid := lid, dst := BitVec.ofNat 10 dcore, word := withHw m mid (s.coreAt r.core).ident.rel s.dev, src := .core s.dev (s.coreAt r.core).ident.rel
    kind := .eval (r.va &&& 0x1FFFFFFFFFFFFF8) r.anc.1 r.anc.2.1 r.anc.2.2 r.pa }

theorem evaluation_barred (hl : (s.coreAt r.core).ident.lid = some lid) (hb : s.recordBarred r w) :
    execEvaluationMessage r w s = .next (s.post (.recordFailureReport r.pa)) := by
  unfold execEvaluationMessage
  simp only [hl]
  exact if_pos hb

theorem evaluation_held (hl : (s.coreAt r.core).ident.lid = some lid) (hb : ¬ s.recordBarred r w)
    (hh : s.vaHeld (s.coreAt r.core).ident.pasid (recordVa w) 64 = true) :
    execEvaluationMessage r w s = .next ((s.snoopVa (s.coreAt r.core).ident.pasid (recordVa w) 64).park (.evaluationMessage r w)) := by
  unfold execEvaluationMessage
  simp only [hl]
  exact (if_neg hb).trans (if_pos hh)

/-- An evaluation whose record may be read, line and all. -/
theorem evaluation_open (hl : (s.coreAt r.core).ident.lid = some lid) (hb : ¬ s.recordBarred r w)
    (hh : s.vaHeld (s.coreAt r.core).ident.pasid (recordVa w) 64 = false) :
    execEvaluationMessage r w s = match s.recordRead r w with
      | none => .next (s.park (.evaluationMessage r w))
      | some n =>
        let rec0 := BitVec.ofNat 512 n
        let d := s.evalCore r (bitsOf w.toNat 5 4) rec0
        let m := s.evalWord r rec0 d.1
        if !s.recordOk (bitsOf w.toNat 5 4) rec0 || !s.sendOk r.core m then .next (d.2.post (.recordFailureReport r.pa))
        else if 64 ≤ (s.coreAt r.core).net.retryBuf.length then .next (s.park (.evaluationMessage r w))
        else
          let t := d.2.takeMid r.core
          .next (t.2.sendFrom r.core (s.evalPacket r lid m d.1 t.1)) := by
  unfold execEvaluationMessage
  simp only [hl]
  exact (if_neg hb).trans (if_neg fun h => Bool.false_ne_true (hh.symm.trans h))

/-- PLACE of a furled word is a number of two bits. -/
theorem place_lt (w : Word) : bitsOf w.toNat 5 4 < 4 := Nat.mod_lt _ (by decide)

theorem drawn_onlyNets (s : State) (c : CoreId) : OnlyNets s (s.drawn c) := modNet_onlyNets s c _ fun _ => rfl

theorem evalCore_onlyNets (s : State) (r : FurlReq) (rec0 : Msg) : OnlyNets s (s.evalCore r (bitsOf w.toNat 5 4) rec0).2 := by
  rw [evalCore_state s r (place_lt w) rec0]
  split
  · exact drawn_onlyNets s r.core
  · exact .of_eq rfl rfl

/-- A draw changes the placement register alone. -/
theorem evalCore_net (s : State) (r : FurlReq) (rec0 : Msg) : ((s.evalCore r (bitsOf w.toNat 5 4) rec0).2.coreAt r.core).net
    = { (s.coreAt r.core).net with lfsr := if bitsOf w.toNat 5 4 = 3 then lfsrNext (s.coreAt r.core).net.lfsr else (s.coreAt r.core).net.lfsr } := by
  rw [evalCore_state s r (place_lt w) rec0]
  split
  · rw [State.drawn, State.coreAt_modCore]
  · rfl

theorem takeMid_onlyNets (s : State) (c : CoreId) : OnlyNets s (s.takeMid c).2 := modNet_onlyNets s c (fun k => { k with net := { k.net with mid := k.net.mid + 1 } }) fun _ => rfl

theorem foldl_snoopHost_only (ls : List Nat) (s : State) : ∃ lines, ls.foldl State.snoopHost s = { s with lines := lines } := by
  induction ls generalizing s with
  | nil => exact ⟨s.lines, rfl⟩
  | cons l r ih =>
    obtain ⟨lines, h⟩ := ih (s.snoopHost l)
    exact ⟨lines, h⟩

/-- A snoop for lines of a record asks the host for them and changes nothing else. -/
theorem snoopVa_only (s : State) (pasid : BitVec 20) (va : Word) (n : Nat) : ∃ lines, s.snoopVa pasid va n = { s with lines := lines } :=
  foldl_snoopHost_only _ s

/-! Wakes of engines (11 R351). -/

/-- An engine with no command has asked for nothing. -/
theorem runOf_modRun {w : Eng} (f : Run → Run) (hw : (∃ c u, w = .unit c u) ∨ (∃ n, w = .link n ∧ n < 4)) (h : (s.runOf w).asked ≠ []) :
    (s.modRun w f).runOf w = f (s.runOf w) := by
  rcases hw with ⟨c, u, rfl⟩ | ⟨n, rfl, hn⟩
  · unfold State.modRun State.runOf
    dsimp only
    split
    · rw [State.coreAt_modCore]
    · rw [State.unitAt_modUnit]
  · have hlane : ∀ k, (s.setLane n k).lane? n = k := fun k => by
      unfold State.setLane State.lane?
      simp [hn]
    show (((s.setLane n ((s.lane? n).map fun k => { k with run := f k.run })).lane? n).map (·.run)).getD Run.start = f (((s.lane? n).map (·.run)).getD Run.start)
    rw [hlane]
    cases hk : s.lane? n with
    | none => exact absurd (by rw [State.runOf, hk]; rfl) h
    | some k => rfl

/-- What an engine runs stays what it runs. -/
theorem engEvent_modRun (s : State) (w : Eng) (f : Run → Run) : (s.modRun w f).engEvent w = s.engEvent w := by
  have hrun : (s.modRun w f).running w = s.running w := by
    cases w with
    | unit c u =>
      unfold State.modRun State.running
      dsimp only
      split
      · rw [State.unitAt, State.coreAt_modCore]
        rfl
      · rw [State.unitAt_modUnit]
    | link n =>
      show ((s.setLane n ((s.lane? n).map fun k => { k with run := f k.run })).lane? n).map (·.pkt) = (s.lane? n).map (·.pkt)
      unfold State.setLane State.lane?
      split
      · simp only [Vector.getElem_set_self]
        cases s.lanes[n] <;> rfl
      · rfl
  rw [State.engEvent, hrun]
  rfl

end

section
variable {s : State} {r : FurlReq} {a : FurlAns}

/-- The answer of a cell reaches a context that asked for it. -/
def State.answerCell (s : State) (r : FurlReq) (a : FurlAns) : State :=
  s.modCtx r.core r.ctx fun k => { k with asked := k.asked.filter (· != r.pa), answers := k.answers ++ [(r.pa, a)] }

/-- A load goes on once every cell has answered. -/
theorem wake_load (hd : r.dev = s.dev) (hw : r.what = .load) (hst : (s.ctxAt r.core r.ctx).status = .suspended .furled)
    (ha : r.pa ∈ (s.ctxAt r.core r.ctx).asked) :
    execFurledWake r a s = .next (if ((s.ctxAt r.core r.ctx).asked.filter (· != r.pa)).isEmpty then (s.answerCell r a).makeReady r.core r.ctx
      else s.answerCell r a) := by
  simp [execFurledWake, hd, hw, hst, ha, State.answerCell]

/-- An atomic whose last cell has answered is sent again, or issues again where its page is another one. -/
theorem wake_atomic {op : HomeOp} {v : Word} (hd : r.dev = s.dev) (hw : r.what = .atomic) (hst : (s.ctxAt r.core r.ctx).status = .suspended (.atomic op))
    (ha : (s.ctxAt r.core r.ctx).asked = [r.pa]) :
    execFurledWake r (.word v) s = .next (if s.hostPhys (s.coreAt r.core).ident.pasid op.va true = some op.pa
      then (s.answerCell r (.word v)).post (.homeOperation op) else (s.answerCell r (.word v)).makeReady r.core r.ctx) := by
  simp [execFurledWake, hd, hw, hst, ha, State.answerCell]

theorem wake_atomic_cause {op : HomeOp} {q : BitVec 9} (hd : r.dev = s.dev) (hw : r.what = .atomic)
    (hst : (s.ctxAt r.core r.ctx).status = .suspended (.atomic op)) (ha : (s.ctxAt r.core r.ctx).asked = [r.pa]) :
    execFurledWake r (.cause q) s = .next (s.takeTrapAt r.core r.ctx q r.va 0) := by
  simp [execFurledWake, hd, hw, hst, ha]

theorem answerCell_contextStep (s : State) (r : FurlReq) (a : FurlAns) :
    ContextStep r.core r.ctx (fun k => { k with asked := k.asked.filter (· != r.pa), answers := k.answers ++ [(r.pa, a)] }) s (s.answerCell r a) :=
  ContextStep.modCtx s r.core r.ctx _

/-- An engine whose last cell has answered goes on. -/
theorem wake_engine {u : BitVec 3} {i : Instr} (hd : r.dev = s.dev) (hw : r.what = .engine u) (ha : (s.runOf (FurlReq.eng r u)).asked = [r.pa])
    (hu : u ≠ 5) (hi : s.engEvent (FurlReq.eng r u) = some i) :
    execFurledWake r a s = .next ((s.modRun (FurlReq.eng r u) fun k =>
      { k with asked := k.asked.filter (· != r.pa), answers := k.answers ++ [(r.pa, a)] }).post i)
    ∧ ((s.modRun (FurlReq.eng r u) fun k => { k with asked := k.asked.filter (· != r.pa), answers := k.answers ++ [(r.pa, a)] }).runOf (FurlReq.eng r u))
      = { s.runOf (FurlReq.eng r u) with asked := [], answers := (s.runOf (FurlReq.eng r u)).answers ++ [(r.pa, a)] } := by
  have hform : (∃ c u', FurlReq.eng r u = .unit c u') ∨ ∃ n, FurlReq.eng r u = .link n ∧ n < 4 := by
    unfold FurlReq.eng
    split
    · exact .inr ⟨_, rfl, r.ctx.isLt⟩
    · exact .inl ⟨_, _, rfl⟩
  have hrun := runOf_modRun (fun k => { k with asked := k.asked.filter (· != r.pa), answers := k.answers ++ [(r.pa, a)] }) hform (by rw [ha]; exact List.cons_ne_nil _ _)
  have hnone : (s.runOf (FurlReq.eng r u)).asked.filter (· != r.pa) = [] := by simp [ha]
  refine ⟨?_, hrun.trans (by rw [hnone])⟩
  simp [execFurledWake, hd, hw, ha, hrun, State.engNext, engEvent_modRun, hi]
  exact fun h => absurd h hu

/-- A change of where an engine stands is no change of memory or of a context. -/
theorem modRun_keeps (s : State) (w : Eng) (f : Run → Run) : SameBytes s (s.modRun w f) ∧ ∀ d y, (s.modRun w f).ctxAt d y = s.ctxAt d y := by
  cases w with
  | unit c u =>
    unfold State.modRun
    dsimp only
    split
    · refine ⟨⟨fun _ => rfl, fun d o => ?_⟩, fun d y => ?_⟩
      · rw [State.coreAt_modCore_eq]
        split <;> rfl
      · rw [State.ctxAt, State.coreAt_modCore_eq]
        split <;> rfl
    · exact ⟨(modUnit_unitsOnly s c u _).sameBytes, (modUnit_unitsOnly s c u _).ctxAt⟩
  | link n =>
    unfold State.modRun State.setLane
    dsimp only
    split <;> exact ⟨.of_eq rfl rfl, fun _ _ => rfl⟩

/-- A report of a home is a trap record with its cause and value. -/
theorem reportFrom_home (s : State) (lid : Nat) (c : CoreId) (q : BitVec 9) (val : Word) :
    ∃ m, s.reportFrom lid c 3 0 q val = s.post (.trapRecordArrival c lid m) ∧ (Msg.word m 1).extractLsb' 0 9 = q ∧ Msg.word m 3 = val := by
  refine ⟨_, rfl, ?_, ?_⟩
  · rw [word_setWord _ _ _ (by decide), if_neg (by decide), State.trapWord, word_ofWords (by simp)]
    exact cause_of_report 3 0 q _
  · rw [word_setWord _ _ _ (by decide), if_neg (by decide), State.trapWord, word_ofWords (by simp)]
    rfl

/-- The contexts of a core that wait for a commit try again. -/
theorem mem_recommit (s : State) {c : CoreId} {x : CtxId} (h : (s.ctxAt c x).status = .ending ∨ (s.ctxAt c x).status = .flushing) :
    Instr.sendCommit c x ∈ (s.recommit c).pending := by
  refine List.mem_append_right _ (List.mem_filterMap.mpr ⟨x, List.mem_finRange x, if_pos ?_⟩)
  rcases h with h | h <;> simp [h]

end

/-- What comes of an evaluation whose record could be read. -/
theorem evaluation_read {s : State} {r : FurlReq} {w : Word} {lid n : Nat} (hl : (s.coreAt r.core).ident.lid = some lid) (hb : ¬ s.recordBarred r w)
    (hh : s.vaHeld (s.coreAt r.core).ident.pasid (recordVa w) 64 = false) (hr : s.recordRead r w = some n) :
    let rec0 := BitVec.ofNat 512 n
    let d := s.evalCore r (bitsOf w.toNat 5 4) rec0
    let m := s.evalWord r rec0 d.1
    (s.recordOk (bitsOf w.toNat 5 4) rec0 = false ∨ s.sendOk r.core m = false →
      execEvaluationMessage r w s = .next (d.2.post (.recordFailureReport r.pa)))
    ∧ (s.recordOk (bitsOf w.toNat 5 4) rec0 = true → s.sendOk r.core m = true → (s.coreAt r.core).net.retryBuf.length < 64 →
      execEvaluationMessage r w s = .next ((d.2.takeMid r.core).2.sendFrom r.core (s.evalPacket r lid m d.1 (d.2.takeMid r.core).1))) := by
  intro rec0 d m
  rw [evaluation_open hl hb hh, hr]
  refine ⟨fun hbad => if_pos ?_, fun hok hsend hroom => (if_neg ?_).trans (if_neg (Nat.not_le.mpr hroom))⟩
  · rcases hbad with h | h
    · exact Bool.or_eq_true_iff.mpr (.inl (by rw [h]; rfl))
    · exact Bool.or_eq_true_iff.mpr (.inr (by rw [h]; rfl))
  · rw [hok, hsend]
    exact Bool.false_ne_true

/-- Settles O49: an evaluation is the packet of its record, a failure report or a wait, and a wake is what it gives its waiter. -/
theorem furledWakes : Obligations.FurledWakes := by
  intro s r w lid n op q v
  dsimp only
  simp only [exec_evaluationMessage, exec_furledWake]
  refine ⟨fun hl ⟨hb, hh⟩ hr hcores => ⟨fun hok hsend hroom => ?sent, fun hbad => ?badRecord⟩, fun hl hb => ?barred, fun hl hb hw => ?waits,
    fun a hd => if_pos hd, fun hd hwhat hst => ⟨fun a ha => ?last, fun a p ha hp => ?oneOfTwo⟩, fun hd hwhat hst ha => ⟨?atomic, ?atomicCause⟩,
    fun u a hd hwhat ha hu i hi => ?engine, fun f wd o hd hwhat hl => ?reduction⟩
  case sent =>
    have hexec := (evaluation_read hl hb hh hr).2 hok hsend hroom
    have hdraw := evalCore_onlyNets (w := w) s r (BitVec.ofNat 512 n)
    have hnet := evalCore_net (w := w) s r (BitVec.ofNat 512 n)
    have hlt := evalCore_lt s r (bitsOf w.toNat 5 4) (BitVec.ofNat 512 n) hcores
    let d := s.evalCore r (bitsOf w.toNat 5 4) (BitVec.ofNat 512 n)
    let p := s.evalPacket r lid (s.evalWord r (BitVec.ofNat 512 n) d.1) d.1 (d.2.takeMid r.core).1
    have honly := (hdraw.trans (takeMid_onlyNets _ r.core)).trans (sendFrom_onlyNets _ r.core p)
    obtain ⟨e, he, hpkt⟩ := sendFrom_retryBuf (d.2.takeMid r.core).2 r.core p
    refine ⟨_, hexec, ⟨honly.sameBytes, honly.ctxAt⟩, e, he.trans ?_, ?_⟩
    · rw [State.takeMid, State.coreAt_modCore, hnet]
    · rw [hpkt]
      refine ⟨rfl, rfl, rfl, fun j h0 hj => ?_, ?_, ?_, ?_⟩
      · exact (word_withHw _ _ _ _ h0 (by omega)).trans (word_evalWord s r _ _ h0 hj)
      · exact (word_withHw _ _ _ _ (by decide) (by decide)).trans (word7_evalWord s r _ _)
      · exact (topOf_withHw _ _ _ _).trans (topOf_evalWord s r _ hlt)
      · refine (mid_withHw _ _ _ _).trans ?_
        rw [State.takeMid, hnet]
  case badRecord =>
    have hexec := (evaluation_read hl hb hh hr).1 hbad
    have hdraw := evalCore_onlyNets (w := w) s r (BitVec.ofNat 512 n)
    have honly := hdraw.trans (post_onlySends _ (.recordFailureReport r.pa)).onlyNets
    refine ⟨_, hexec, ⟨honly.sameBytes, honly.ctxAt⟩, List.mem_append_right _ (List.mem_singleton_self _), ?_⟩
    exact congrArg Net.lfsr (evalCore_net (w := w) s r (BitVec.ofNat 512 n))
  case barred => exact ⟨_, evaluation_barred hl hb, ⟨.of_eq rfl rfl, fun _ _ => rfl⟩, List.mem_append_right _ (List.mem_singleton_self _), rfl⟩
  case waits =>
    by_cases hheld : s.vaHeld (s.coreAt r.core).ident.pasid (recordVa w) 64 = true
    · obtain ⟨lines, hsnoop⟩ := snoopVa_only s (s.coreAt r.core).ident.pasid (recordVa w) 64
      refine ⟨_, evaluation_held hl hb hheld, ?_⟩
      rw [hsnoop]
      exact ⟨⟨.of_eq rfl rfl, fun _ _ => rfl⟩, List.mem_append_right _ (List.mem_singleton_self _), rfl⟩
    · have hread : s.recordRead r w = none := hw.resolve_left hheld
      have hexec : execEvaluationMessage r w s = .next (s.park (.evaluationMessage r w)) := by
        rw [evaluation_open hl hb (by simpa using hheld), hread]
      refine ⟨_, hexec, ⟨.of_eq rfl rfl, fun _ _ => rfl⟩,
        List.mem_append_right _ (List.mem_singleton_self _), rfl⟩
  case last =>
    have hnone : (s.ctxAt r.core r.ctx).asked.filter (· != r.pa) = [] := by simp [ha]
    have hstep := (answerCell_contextStep s r a).comp (makeReady_contextStep _ r.core r.ctx)
    refine ⟨_, wake_load hd hwhat hst (by rw [ha]; exact List.mem_singleton_self _), ?_⟩
    rw [hnone]
    exact ⟨hstep.only.sameBytes, hstep.others, hstep.self.trans (by rw [hnone])⟩
  case oneOfTwo =>
    have hone : (s.ctxAt r.core r.ctx).asked.filter (· != r.pa) = [p] := by simp [ha, hp]
    have hstep := answerCell_contextStep s r a
    refine ⟨_, wake_load hd hwhat hst (by rw [ha]; exact List.mem_cons_self), ?_⟩
    rw [hone]
    exact ⟨hstep.only.sameBytes, hstep.others, hstep.self.trans (by rw [hone])⟩
  case atomic =>
    have hstep := answerCell_contextStep s r (.word v)
    have hready := hstep.comp (makeReady_contextStep _ r.core r.ctx)
    refine ⟨_, wake_atomic hd hwhat hst ha, ?_⟩
    split
    next hpage =>
      refine ⟨hstep.only.sameBytes, hstep.others, fun _ => ⟨List.mem_append_right _ (List.mem_singleton_self _), ?_⟩, fun h => absurd hpage h⟩
      show ((s.answerCell r (.word v)).ctxAt r.core r.ctx).status = _
      rw [hstep.self]
    next hpage => exact ⟨hready.only.sameBytes, hready.others, fun h => absurd h hpage, fun _ => congrArg Ctx.status hready.self⟩
  case atomicCause => exact wake_atomic_cause hd hwhat hst ha
  case engine =>
    obtain ⟨hexec, hrun⟩ := wake_engine (a := a) hd hwhat ha hu hi
    obtain ⟨hbytes, hctx⟩ := modRun_keeps s (FurlReq.eng r u) fun k => { k with asked := k.asked.filter (· != r.pa), answers := k.answers ++ [(r.pa, a)] }
    exact ⟨_, hexec, ⟨hbytes, hctx⟩, List.mem_append_right _ (List.mem_singleton_self _), congrArg Run.asked hrun, congrArg Run.answers hrun⟩
  case reduction =>
    obtain ⟨m, hreport, hcause, hval⟩ := reportFrom_home s lid r.core q (va57 (r.va &&& ~~~7))
    have hexec : execFurledWake r (.cause q) s = .next ((s.post (.trapRecordArrival r.core lid m)).recommit r.core) := by
      rw [execFurledWake, if_neg (not_not_intro hd), hwhat]
      simp only [State.redCause, State.reqLid, hl, hreport]
    refine ⟨_, hexec, ⟨.of_eq rfl rfl, fun _ _ => rfl⟩, fun c hc => mem_recommit (s.post (.trapRecordArrival r.core lid m)) hc, m, ?_, hcause, hval⟩
    exact List.mem_append_left _ (List.mem_append_right _ (List.mem_singleton_self _))

end Sys2Proof.Machine
end

section
namespace Sys2Proof.Machine

/-! What the actions of the memory system can change (06 R172 to R179, R185, 07 R224 to R228). -/

/-- Everything but memory with its tags, lines, caches and counts, what waits at homes, and the events in flight is as before. -/
def OnlyMemory (s t : State) : Prop :=
  t = { s with clusters := t.clusters, peerCleat := t.peerCleat, peerOut := t.peerOut, stale := t.stale, waits := t.waits, pending := t.pending
               launches := t.launches, mem := t.mem, tags := t.tags, l1s := t.l1s, lines := t.lines, spaces := t.spaces, tick := t.tick }

section
variable {s t u : State}

theorem OnlyMemory.refl (s : State) : OnlyMemory s s := rfl

theorem OnlyMemory.trans (h : OnlyMemory s t) (g : OnlyMemory t u) : OnlyMemory s u := by
  unfold OnlyMemory at *
  rw [g, h]

theorem OnlyMemory.cores (h : OnlyMemory s t) : t.cores = s.cores := by rw [h]
theorem OnlyMemory.cur (h : OnlyMemory s t) : t.cur = s.cur := by rw [h]
theorem OnlyMemory.hot (h : OnlyMemory s t) : t.hot = s.hot := by rw [h]
theorem OnlyMemory.dev (h : OnlyMemory s t) : t.dev = s.dev := by rw [h]
theorem OnlyMemory.cyc (h : OnlyMemory s t) : t.cyc = s.cyc := by rw [h]
theorem OnlyMemory.hostMem (h : OnlyMemory s t) (pa : Nat) : t.hostMem pa = s.hostMem pa := by rw [h]; rfl

theorem OnlyMemory.coreAt (h : OnlyMemory s t) (c : CoreId) : t.coreAt c = s.coreAt c := State.coreAt_congr h.cores c

theorem OnlyMemory.ctx (h : OnlyMemory s t) : t.ctx = s.ctx := by rw [State.ctx, State.ctxAt_congr h.cores, h.cur, h.hot]; rfl

theorem OnlyWaiters.onlyMemory (h : OnlyWaiters s t) : OnlyMemory s t := by
  unfold OnlyMemory
  rw [h.1]

theorem OnlySends.onlyMemory (h : OnlySends s t) : OnlyMemory s t := by
  unfold OnlyMemory
  rw [h.eq]

theorem OnlyMemory.foldl {α : Type} {f : State → α → State} (h : ∀ s a, OnlyMemory s (f s a)) (l : List α) (s : State) : OnlyMemory s (l.foldl f s) := by
  induction l generalizing s with
  | nil => exact .refl s
  | cons a r ih => exact (h s a).trans (ih _)

/-- A choice between two changes of memory. -/
theorem OnlyMemory.ite {p : Prop} [Decidable p] (h : OnlyMemory s t) (g : OnlyMemory s u) : OnlyMemory s (if p then t else u) := by
  split
  · exact h
  · exact g

end

theorem setLine_onlyMemory (s : State) (l : Nat) (e : Line) : OnlyMemory s (s.setLine l e) := rfl

theorem put_onlyMemory (s : State) (pa : Nat) (bs : List Byte) : OnlyMemory s (s.put pa bs) :=
  OnlyMemory.trans (t := { s with mem := s.mem.write pa bs }) rfl (put_spec s pa bs).onlyMemory

theorem wakeOne_onlyMemory (s : State) (a : FurlAns) (gang : Option Nat) (r : FurlReq) : OnlyMemory s (s.wakeOne a gang r) := by
  unfold State.wakeOne
  split
  · exact OnlyMemory.ite ((put_onlyMemory s _ _).trans (recommit_onlyWaiters _ _).onlyMemory) (put_onlyMemory s _ _)
  · exact OnlyMemory.ite (toward_onlySends _ _ _).onlyMemory (toPeer_onlySends _ _).onlyMemory

theorem wakeFurl_onlyMemory (s : State) (pa : Nat) (a : FurlAns) : OnlyMemory s (s.wakeFurl pa a) :=
  (modCleat_onlyWaiters s pa _).onlyMemory.trans (OnlyMemory.foldl (fun t (e : Option Nat × FurlReq) => wakeOne_onlyMemory t a e.1 e.2) _ _)

theorem store_onlyMemory (s : State) (pa : Nat) (bs : List Byte) : OnlyMemory s (s.store pa bs) := by
  have htags := OnlyMemory.foldl (f := fun t c => t.setTag c 0) (fun _ _ => rfl) (s.openCells pa bs.length) s
  exact (htags.trans (put_onlyMemory _ pa bs)).trans (OnlyMemory.foldl (fun t c => wakeFurl_onlyMemory t c _) _ _)

theorem recall_onlyMemory (s : State) (l : Nat) : OnlyMemory s (s.recall l) := by
  unfold State.recall
  dsimp only
  refine OnlyMemory.ite (.refl s) (OnlyMemory.trans ?_ (store_onlyMemory _ _ _))
  rfl

theorem writeOwn_onlyMemory (s : State) (w : Way) : OnlyMemory s (s.writeOwn w) := by
  unfold State.writeOwn
  split
  · exact (makeStale_onlyWaiters s w.line).onlyMemory.trans rfl
  · exact .refl s

theorem evict_onlyMemory (s : State) (c : CoreId) (w : Way) : OnlyMemory s (s.evict c w) := by
  have h := writeOwn_onlyMemory s w
  unfold State.evict
  dsimp only
  refine OnlyMemory.ite (h.trans rfl) ?_
  split <;> exact h.trans rfl

theorem fillL1_onlyMemory (s : State) (c : CoreId) (l : Nat) (what : Held1) : OnlyMemory s (s.fillL1 c l what) := by
  have hvictim : ∀ o : Option Way, OnlyMemory s (match o with
      | some w => s.evict c w
      | none => s) := fun o => by
    cases o with
    | some w => exact evict_onlyMemory s c w
    | none => exact .refl s
  unfold State.fillL1
  split
  next w _ =>
    have hover : OnlyMemory s (if w.what == .tracked || w.what == what then s else s.writeOwn w) := OnlyMemory.ite (.refl s) (writeOwn_onlyMemory s w)
    exact hover.trans rfl
  · exact (hvictim _).trans rfl

theorem touchOwn_onlyMemory (s : State) (c : CoreId) (l : Nat) : OnlyMemory s (s.touchOwn c l) := by
  unfold State.touchOwn
  split
  · rfl
  · exact (recall_onlyMemory s l).trans (fillL1_onlyMemory _ c l _)

theorem claimHome_onlyMemory (s : State) (l : Nat) : OnlyMemory s (s.claimHome l) := (recall_onlyMemory s l).trans rfl

theorem shareOwner_onlyMemory (s : State) (l : Nat) : OnlyMemory s (s.shareOwner l) := by
  unfold State.shareOwner
  dsimp only
  split <;> rfl

theorem getS_onlyMemory (s : State) (l : Nat) (c : CoreId) : OnlyMemory s (s.getS l c) := by
  have hr := recall_onlyMemory s l
  unfold State.getS
  dsimp only
  refine OnlyMemory.trans (OnlyMemory.ite ?_ ?_) (fillL1_onlyMemory _ c l _)
  · exact hr.trans (setLine_onlyMemory _ l _)
  · exact (hr.trans (shareOwner_onlyMemory _ l)).trans (setLine_onlyMemory _ l _)

theorem getM_onlyMemory (s : State) (l : Nat) (c : CoreId) : OnlyMemory s (s.getM l c) := by
  have h := claimHome_onlyMemory s l
  unfold State.getM
  refine OnlyMemory.ite h (OnlyMemory.trans ?_ (fillL1_onlyMemory _ c l _))
  exact h.trans rfl

theorem touchLoad_onlyMemory (s : State) (c : CoreId) (l : Nat) : OnlyMemory s (s.touchLoad c l) :=
  OnlyMemory.ite (recall_onlyMemory s l) (OnlyMemory.ite (getS_onlyMemory s l c) rfl)

theorem touchStore_onlyMemory (s : State) (c : CoreId) (l : Nat) : OnlyMemory s (s.touchStore c l) := by
  unfold State.touchStore
  refine OnlyMemory.ite (claimHome_onlyMemory s l) ?_
  split
  · rfl
  · rfl
  · exact getM_onlyMemory s l c

theorem notify_onlyMemory (s : State) (cluster : Nat) (g : Grant) : OnlyMemory s (s.notify cluster g) := by
  unfold State.notify
  dsimp only
  split
  · exact .refl s
  · refine OnlyMemory.ite rfl (OnlyMemory.trans ?_ (store_onlyMemory _ _ _))
    rfl

theorem countLine_onlyMemory (s : State) (c : CoreId) (pa : Nat) (va : Word) : OnlyMemory s (s.countLine c pa va) := by
  unfold State.countLine
  refine OnlyMemory.ite (.refl s) ?_
  dsimp only
  split
  · exact .refl s
  · refine OnlyMemory.ite (OnlyMemory.trans ?_ (notify_onlyMemory _ _ _)) rfl
    rfl

theorem countHost_onlyMemory (s : State) (c : CoreId) (pa : Nat) (va : Word) (write : Bool) : OnlyMemory s (s.countHost c pa va write) :=
  OnlyMemory.ite (countLine_onlyMemory s c pa va) (.refl s)

theorem askShared_onlyMemory (s : State) (c : CoreId) (va : Word) (l : Nat) : OnlyMemory s (s.askShared c va l) :=
  OnlyMemory.ite rfl (OnlyMemory.ite (fillL1_onlyMemory s c l _) (OnlyMemory.ite (.refl s) ((countLine_onlyMemory s c _ va).trans rfl)))

theorem touchPlace_onlyMemory (s : State) (c : CoreId) (write : Bool) (p : Place) (n : Nat) : OnlyMemory s (s.touchPlace c write p n) := by
  cases p with
  | sp o => exact .refl s
  | phys pa va attr =>
    have h := countHost_onlyMemory s c pa va write
    refine OnlyMemory.ite (h.trans (OnlyMemory.foldl (fun t l => touchOwn_onlyMemory t c l) _ _))
      (OnlyMemory.ite (OnlyMemory.foldl (fun t l => askShared_onlyMemory t c va l) _ _) (h.trans (OnlyMemory.foldl (fun t l => ?_) _ _)))
    exact OnlyMemory.ite (touchStore_onlyMemory t c l) (touchLoad_onlyMemory t c l)

theorem cleanOwn_onlyMemory (s : State) (c : CoreId) : OnlyMemory s (s.cleanOwn c) :=
  OnlyMemory.ite (.refl s) (OnlyMemory.trans (OnlyMemory.foldl writeOwn_onlyMemory _ s) rfl)

theorem releaseAt_onlyMemory (s : State) (scope : BitVec 4) : OnlyMemory s (s.releaseAt scope) :=
  OnlyMemory.ite (cleanOwn_onlyMemory s s.cur) (.refl s)

theorem touchAll_onlyMemory (s : State) (c : CoreId) (write : Bool) (ps : List Piece) (qs : List Place) : OnlyMemory s (s.touchAll c write ps qs) := by
  have h := OnlyMemory.foldl (fun t (e : Place × Piece) => touchPlace_onlyMemory t c write e.1 e.2.len) (qs.zip ps) s
  exact OnlyMemory.ite h (h.trans rfl)

end Sys2Proof.Machine
end

section
namespace Sys2Proof.Machine

/-! What a core's own lines leave when they go home (06 R179). -/

theorem ofBytes_toBytes (n x : Nat) : ofBytes (toBytes n x) = x % 2 ^ (8 * n) := by
  induction n generalizing x with
  | zero => rw [Nat.mul_zero, Nat.pow_zero, Nat.mod_one]; rfl
  | succ n ih =>
    have hb : (BitVec.ofNat 8 x).toNat = x % 256 := BitVec.toNat_ofNat x 8
    have hp : 2 ^ (8 * (n + 1)) = 256 * 2 ^ (8 * n) := by rw [Nat.mul_succ, Nat.pow_add, Nat.mul_comm]
    have hc : ofBytes (toBytes (n + 1) x) = (BitVec.ofNat 8 x).toNat + 256 * ofBytes (toBytes n (x / 256)) := by
      rw [toBytes]
      rfl
    rw [hc, hb, ih, hp, Nat.mod_mul]

/-- A line is d where each of its bytes is that of d. -/
theorem State.lineData_of_bytes {s : State} {l : Nat} {d : Msg} (h : ∀ i, i < 64 → s.mem.byte (64 * l + i) = BitVec.ofNat 8 (d.toNat >>> (8 * i))) :
    s.lineData l = d := by
  have hb : s.mem.bytes (64 * l) 64 = toBytes 64 d.toNat := by
    refine List.ext_getElem (by rw [Mem.bytes, List.length_map, List.length_range, toBytes_length]) fun i hi hj => ?_
    have h64 : i < 64 := toBytes_length 64 d.toNat ▸ hj
    have hget := toBytes_getD h64 d.toNat
    rw [List.getD_eq_getElem _ _ hj] at hget
    rw [hget, ← h i h64]
    simp [Mem.bytes]
  rw [State.lineData, Mem.num, hb, ofBytes_toBytes, Nat.mod_eq_of_lt d.isLt]
  exact BitVec.eq_of_toNat_eq (by rw [BitVec.toNat_ofNat, Nat.mod_eq_of_lt d.isLt])

/-- Memory after a line of an L1, if it is a changed one of a core-owned region, went home. -/
def Way.home (m : Mem) (w : Way) : Mem :=
  match w.what with
  | .own d true => m.write (64 * w.line) (toBytes 64 d.toNat)
  | _ => m

theorem Way.home_own {w : Way} {d : Msg} (h : w.what = .own d true) (m : Mem) : w.home m = m.write (64 * w.line) (toBytes 64 d.toNat) := by
  rw [Way.home, h]

/-- Bytes of other lines stay. -/
theorem Way.home_other (w : Way) (m : Mem) {a : Nat} (h : a / 64 ≠ w.line) : (w.home m).byte a = m.byte a := by
  unfold Way.home
  split
  · exact Mem.byte_write_of_not _ _ _ _ (by rw [toBytes_length]; omega)
  · rfl

theorem foldl_home_other {ws : List Way} {a : Nat} (h : ∀ w ∈ ws, a / 64 ≠ w.line) (m : Mem) : (ws.foldl Way.home m).byte a = m.byte a := by
  induction ws generalizing m with
  | nil => rfl
  | cons w r ih => exact (ih (fun v hv => h v (List.mem_cons_of_mem w hv)) _).trans (w.home_other m (h w List.mem_cons_self))

/-- Of ways of different lines, each changed one stands in memory afterwards. -/
theorem foldl_home_mem {ws : List Way} (hn : (ws.map (·.line)).Nodup) {w : Way} (hw : w ∈ ws) {d : Msg} (hd : w.what = .own d true) {i : Nat} (hi : i < 64) (m : Mem) :
    (ws.foldl Way.home m).byte (64 * w.line + i) = BitVec.ofNat 8 (d.toNat >>> (8 * i)) := by
  induction ws generalizing m with
  | nil => exact absurd hw List.not_mem_nil
  | cons v r ih =>
    obtain ⟨hv, hr⟩ := List.nodup_cons.mp hn
    rcases List.mem_cons.mp hw with rfl | hw
    · have hrest : ∀ u ∈ r, (64 * w.line + i) / 64 ≠ u.line := fun u hu he => hv (List.mem_map.mpr ⟨u, hu, show u.line = w.line by omega⟩)
      rw [List.foldl_cons, foldl_home_other hrest, Way.home_own hd, Mem.byte_write, toBytes_length, if_pos (by omega), Nat.add_sub_cancel_left, toBytes_getD hi]
    · exact ih hr hw _

/-- Ways whose lines are as memory has them change nothing. -/
theorem foldl_home_same {ws : List Way} {m₀ m : Mem}
    (h : ∀ w ∈ ws, ∀ d, w.what = .own d true → ∀ i, i < 64 → m₀.byte (64 * w.line + i) = BitVec.ofNat 8 (d.toNat >>> (8 * i)))
    (hm : ∀ a, m.byte a = m₀.byte a) (a : Nat) : (ws.foldl Way.home m).byte a = m₀.byte a := by
  induction ws generalizing m with
  | nil => exact hm a
  | cons w r ih =>
    refine ih (fun v hv => h v (List.mem_cons_of_mem w hv)) fun x => ?_
    unfold Way.home
    split
    next d hd =>
      rw [Mem.byte_write, toBytes_length]
      split
      next hx =>
        have hbyte := h w List.mem_cons_self d hd (x - 64 * w.line) (by omega)
        rw [Nat.add_sub_cancel' hx.1] at hbyte
        rw [toBytes_getD (by omega), hbyte]
      next => exact hm x
    next => exact hm x

theorem makeStale_eq (s : State) (l : Nat) : s.makeStale l = { s with stale := (s.makeStale l).stale } := by
  unfold State.makeStale
  split <;> rfl

theorem writeOwn_eq (s : State) (w : Way) : ∃ st, s.writeOwn w = { s with mem := w.home s.mem, stale := st } := by
  unfold State.writeOwn
  split
  next d hd =>
    rw [Way.home_own hd, makeStale_eq]
    exact ⟨_, rfl⟩
  next hd =>
    have hmem : w.home s.mem = s.mem := by
      unfold Way.home
      split
      next d hd' => exact absurd hd' (hd d)
      next => rfl
    exact ⟨s.stale, by rw [hmem]⟩

theorem foldl_writeOwn_eq (ws : List Way) (s : State) : ∃ st, ws.foldl State.writeOwn s = { s with mem := ws.foldl Way.home s.mem, stale := st } := by
  induction ws generalizing s with
  | nil => exact ⟨s.stale, rfl⟩
  | cons w r ih =>
    obtain ⟨st, h⟩ := writeOwn_eq s w
    obtain ⟨st', h'⟩ := ih (s.writeOwn w)
    exact ⟨st', by rw [List.foldl_cons, h', h]; rfl⟩

/-- Whether a way holds a changed line of a core-owned region. -/
def Way.dirty (w : Way) : Bool :=
  match w.what with
  | .own _ true => true
  | _ => false

/-- A way whose line, if core-owned, is as memory has it. -/
def Way.cleaned (w : Way) : Way :=
  match w.what with
  | .own d _ => { w with what := .own d false }
  | _ => w

theorem Way.line_cleaned (w : Way) : w.cleaned.line = w.line := by
  unfold Way.cleaned
  split <;> rfl

theorem Way.cleaned_of_not_dirty {w : Way} (h : w.dirty = false) : w.cleaned = w := by
  obtain ⟨line, way, what⟩ := w
  match what, h with
  | .own _ false, _ => rfl
  | .tracked, _ => rfl
  | .shared, _ => rfl

/-- The lines that a release writes home, and what its L1 keeps of them. -/
theorem cleanOwn_eq (s : State) (c : CoreId) : ∃ st k,
    s.cleanOwn c = { s with mem := ((s.l1 c).ways.filter Way.dirty).foldl Way.home s.mem, stale := st, l1s := k }
      ∧ ((s.cleanOwn c).l1 c).ways = (s.l1 c).ways.map Way.cleaned := by
  have hdef : s.cleanOwn c = if ((s.l1 c).ways.filter Way.dirty).isEmpty then s
      else (((s.l1 c).ways.filter Way.dirty).foldl State.writeOwn s).setL1 c { s.l1 c with ways := (s.l1 c).ways.map Way.cleaned } := rfl
  rw [hdef]
  split
  next he =>
    have hnil : (s.l1 c).ways.filter Way.dirty = [] := List.isEmpty_iff.mp he
    have hclean : (s.l1 c).ways.map Way.cleaned = (s.l1 c).ways :=
      (List.map_congr_left fun w hw => Way.cleaned_of_not_dirty (Bool.not_eq_true _ ▸ List.filter_eq_nil_iff.mp hnil w hw)).trans (List.map_id _)
    exact ⟨s.stale, s.l1s, by rw [hnil]; rfl, hclean.symm⟩
  next =>
    obtain ⟨st, h⟩ := foldl_writeOwn_eq ((s.l1 c).ways.filter Way.dirty) s
    rw [h]
    exact ⟨st, _, rfl, congrArg L1.ways ((Sparse.get_set _ _ _ _ _).trans (if_pos rfl))⟩

/-- After a release at .device or wider every line that was changed stands in memory. -/
theorem cleanOwn_lineData {s : State} {c : CoreId} (hn : ((s.l1 c).ways.map (·.line)).Nodup) {w : Way} (hw : w ∈ (s.l1 c).ways) {d : Msg}
    (hd : w.what = .own d true) : (s.cleanOwn c).lineData w.line = d := by
  obtain ⟨st, k, h, -⟩ := cleanOwn_eq s c
  have hdirty : w ∈ (s.l1 c).ways.filter Way.dirty := List.mem_filter.mpr ⟨hw, by rw [Way.dirty, hd]⟩
  refine State.lineData_of_bytes fun i hi => ?_
  rw [h]
  exact foldl_home_mem (hn.sublist (List.filter_sublist.map _)) hdirty hd hi s.mem

/-- An L1 holds of a core-owned region after a release what it held before. -/
theorem ownData_cleanOwn (s : State) (c : CoreId) (l : Nat) : (s.cleanOwn c).ownData c l = s.ownData c l := by
  have hfind : ∀ ws : List Way, (ws.map Way.cleaned).find? (fun w => w.line == l) = (ws.find? fun w => w.line == l).map Way.cleaned := fun ws => by
    rw [List.find?_map]
    exact congrArg (Option.map Way.cleaned) (congrArg (List.find? · ws) (funext fun w => congrArg (· == l) w.line_cleaned))
  obtain ⟨-, -, -, hw⟩ := cleanOwn_eq s c
  unfold State.ownData L1.find?
  rw [hw, hfind]
  cases (s.l1 c).ways.find? fun w => w.line == l with
  | none => rfl
  | some w =>
    obtain ⟨line, way, what⟩ := w
    cases what <;> rfl

/-- A release of a core whose own lines are as memory has them changes no byte. -/
theorem State.tidy.cleanOwn {s : State} {c : CoreId} (h : s.tidy c) : SameBytes s (s.cleanOwn c) := by
  have honly := cleanOwn_onlyMemory s c
  obtain ⟨st, k, he, -⟩ := cleanOwn_eq s c
  refine ⟨fun a => ?_, fun d o => by rw [honly.coreAt]⟩
  rw [he]
  refine foldl_home_same (fun w hw d hd i hi => ?_) (fun _ => rfl) a
  rw [h.own w (List.mem_filter.mp hw).1 d true hd, State.lineData_byte s w.line hi]

theorem State.tidy.releaseAt {s : State} (h : s.tidy s.cur) (scope : BitVec 4) : SameBytes s (s.releaseAt scope) := by
  unfold State.releaseAt
  split
  · exact h.cleanOwn
  · exact .refl s

end Sys2Proof.Machine
end


section
namespace Sys2Proof.Machine

/-! What an instruction leaves that has acted on the package before its context goes on. -/

/-- No context, and no core but the issuing one, is changed. -/
structure CtxsKept (s u : State) : Prop where
  cur : u.cur = s.cur
  hot : u.hot = s.hot
  core : ∀ c, c ≠ s.cur → u.coreAt c = s.coreAt c
  ctx : ∀ x, u.ctxAt s.cur x = s.ctxAt s.cur x

section
variable {s t u : State}

theorem CtxsKept.of_cores (hc : u.cores = s.cores) (hcur : u.cur = s.cur) (hhot : u.hot = s.hot) : CtxsKept s u :=
  ⟨hcur, hhot, fun c _ => State.coreAt_congr hc c, fun x => State.ctxAt_congr hc s.cur x⟩

theorem CtxsKept.trans (h : CtxsKept s t) (g : CtxsKept t u) : CtxsKept s u :=
  ⟨g.cur.trans h.cur, g.hot.trans h.hot, fun c hc => (g.core c (h.cur ▸ hc)).trans (h.core c hc), fun x => (h.cur ▸ g.ctx x).trans (h.ctx x)⟩

theorem CtxsKept.issuing (h : CtxsKept s u) : u.ctx = s.ctx := by rw [State.ctx, h.cur, h.hot, h.ctx]; rfl

theorem OnlyMemory.ctxsKept (h : OnlyMemory s u) : CtxsKept s u := .of_cores h.cores h.cur h.hot

/-- A change of the issuing core that leaves its contexts alone. -/
theorem modCore_ctxsKept (s : State) (f : Core → Core) (hf : ∀ k, (f k).ctxs = k.ctxs) : CtxsKept s (s.modCore s.cur f) :=
  ⟨rfl, rfl, fun _ hc => State.coreAt_modCore_of_ne s f hc, fun x => by rw [State.ctxAt, State.coreAt_modCore, hf]; rfl⟩

theorem OnlyHot.others (h : OnlyHot s t) : Others s t := ⟨fun _ hc => h.coreAt_of_ne hc, fun _ hx => h.ctxAt_of_ne hx⟩

theorem OnlyHot.cur (h : OnlyHot s t) : t.cur = s.cur := by rw [h]; rfl
theorem OnlyHot.hot (h : OnlyHot s t) : t.hot = s.hot := by rw [h]; rfl

theorem CtxsKept.others (h : CtxsKept s u) (g : Others u t) : Others s t :=
  ⟨fun c hc => (g.1 c (h.cur ▸ hc)).trans (h.core c hc), fun x hx => (h.cur ▸ g.2 x (h.hot ▸ hx)).trans (h.ctx x)⟩

/-- Memory changes, then the issuing context does. -/
theorem OnlyMemory.onlyCtx (h : OnlyMemory s u) (g : OnlyHot u t) : OnlyCtx s t := by
  have hcores : t.cores = (u.withHot t.ctx t.core.next).cores := (congrArg State.cores g :)
  have hwith : (u.withHot t.ctx t.core.next).cores = (s.withHot t.ctx t.core.next).cores := by
    simp only [State.withHot, State.modCore, h.cores, h.cur, h.hot]
  exact ⟨g.cur.trans h.cur, g.hot.trans h.hot, hcores.trans hwith⟩

/-- An instruction that acts on the package, and whose context then writes registers alone. -/
theorem CtxsKept.registerOnly (h : CtxsKept s u) {len : Nat} {x : BitVec 5 → Word} {v : BitVec 5 → Msg} {k : BitVec 3 → Word} {fmt : Word} {o : Out}
    (g : RegisterOnly u len x v k fmt o) :
    Gives o fun t => OnlyHot u t ∧ SameBytes u t ∧ Others s t ∧ Registers s.ctx len (va57 (s.ctx.pc + BitVec.ofNat 64 len)) x v k fmt t.ctx := by
  obtain ⟨t, ht, hot, hbytes, hregs⟩ := g
  exact ⟨t, ht, hot, hbytes, h.others hot.others, h.issuing ▸ hregs⟩

/-- An instruction that acts on the package and writes no register. -/
theorem CtxsKept.done (h : CtxsKept s u) (len issue : Nat) :
    Gives (u.done len issue id) fun t => OnlyHot u t ∧ SameBytes u t ∧ Others s t ∧ Plain s len t.ctx := by
  have hnone := h.registerOnly (noneWritten_ctxStep u len issue)
  rwa [h.issuing] at hnone

end

theorem State.spend_onlyHot (s : State) (n : Nat) : OnlyHot s (s.spend n) := by
  unfold OnlyHot
  rw [State.ctx_spend]
  simp [State.spend_eq, State.withHot, State.modCore, Core.modCtx, State.core, State.coreAt]

theorem State.spend_sameBytes (s : State) (n : Nat) : SameBytes s (s.spend n) :=
  ⟨fun _ => rfl, fun c o => congrArg (Mem.byte · o) (s.withHot_sp _ _ c)⟩

/-- A context that waits passes its cycle. -/
theorem waits_spend (s : State) : Waits s (.next (s.spend 1)) :=
  ⟨_, rfl, s.spend_onlyHot 1, s.spend_sameBytes 1, by rw [State.ctx_spend]⟩

/-- A release waits while an operation of its context is not performed (07 R215). -/
theorem releasing_waits {s : State} {scope : BitVec 4} {go : State → Out} (h : s.unperformed s.cur s.hot = true) : releasing true scope go s = .next (s.spend 1) := if_pos h

/-- A release goes ahead when every operation of its context is performed. -/
theorem releasing_goes {s : State} {scope : BitVec 4} {go : State → Out} (h : s.unperformed s.cur s.hot = false) : releasing true scope go s = go (s.releaseAt scope) := by
  rw [releasing, h]
  rfl

end Sys2Proof.Machine
end

section
namespace Sys2Proof.Machine

/-! TLBINV, ICLEAN, IFENCE, FENCE and PREF (06 R193, R199, 07 R235, 14 R431, R432). -/

section
variable {s : State}

theorem icacheLine_filter_self (ic : List (Nat × List Byte)) (l : Nat) : icacheLine (ic.filter fun e => e.1 != l) l = none := by
  rw [icacheLine, List.find?_eq_none.mpr, Option.map_none]
  intro e he
  simpa using (List.mem_filter.mp he).2

theorem icacheLine_filter_of_ne (ic : List (Nat × List Byte)) {l m : Nat} (h : m ≠ l) : icacheLine (ic.filter fun e => e.1 != l) m = icacheLine ic m := by
  rw [icacheLine, icacheLine, List.find?_filter]
  refine congrArg (Option.map _) (congrArg (List.find? · ic) (funext fun e => ?_))
  by_cases he : e.1 = m
  · simp [he, h]
  · simp [he]

/-- A change of what the issuing core and its cluster hold of translations and code, and the end of the instruction. -/
theorem done_modCore (f : Core → Core) (k : Vector Cluster 288) (hc : ∀ k, (f k).ctxs = k.ctxs) (hsp : ∀ k, (f k).sp = k.sp) :
    Gives (({ s.modCore s.cur f with clusters := k } : State).done 4 1 id) fun t => Others s t ∧ SameBytes s t ∧ Plain s 4 t.ctx
      ∧ t.coreAt s.cur = { (f s.core).modCtx s.hot (fun _ => t.ctx) with next := t.core.next } ∧ t.clusters = k := by
  have hkept : CtxsKept s { s.modCore s.cur f with clusters := k } := (modCore_ctxsKept s f hc).trans (.of_cores rfl rfl rfl)
  obtain ⟨t, ht, hot, hbytes, hothers, hplain⟩ := hkept.done 4 1
  have hsame : SameBytes s { s.modCore s.cur f with clusters := k } := ⟨fun _ => rfl, fun c o => by
    show ((s.modCore s.cur f).coreAt c).sp.byte o = _
    rw [State.coreAt_modCore_eq]
    split
    · rw [hsp]
    · rfl⟩
  have hcore : ({ s.modCore s.cur f with clusters := k } : State).core = f s.core := State.coreAt_modCore s s.cur f
  refine ⟨t, ht, hothers, hsame.trans hbytes, hplain, hcore ▸ hot.coreAt_cur, ?_⟩
  rw [hot]
  rfl

end

theorem prefetch_onlyMemory (s : State) (c : CoreId) (p : Word) (rep : Bool) : OnlyMemory s (s.prefetch c p rep) := by
  unfold State.prefetch
  split
  next va _ =>
    split
    · exact (post_onlySends s _).onlyMemory
    next pa v attr _ =>
      have hline : ∀ t, OnlyMemory s t → OnlyMemory s (if attr = 3 ∧ !t.lineValue (pa / 64) then t
          else if t.hostHolds (pa / 64) ∧ attr ≠ 1 then (if attr = 0 then t.snoopHost (pa / 64) else t.post (.gets c (pa / 64)))
          else t.touchPlace c false (.phys pa v attr) 1) := fun t ht => by
        refine OnlyMemory.ite ht (OnlyMemory.ite ?_ (ht.trans (touchPlace_onlyMemory t c false _ 1)))
        exact OnlyMemory.ite (ht.trans (setLine_onlyMemory t _ _)) (ht.trans (post_onlySends t _).onlyMemory)
      cases (s.coreAt c).ident.lid with
      | none => exact hline s (.refl s)
      | some lid => exact hline _ (OnlyMemory.ite rfl (.refl s))
    · exact .refl s
  · exact .refl s

/-- The end of an instruction that has changed memory alone. -/
theorem done_onlyMemory {s u : State} (h : OnlyMemory s u) (len : Nat) :
    Gives (u.done len 1 id) fun t => Plain s len t.ctx ∧ OnlyCtx s t ∧ SameBytes u t ∧ t.mem = u.mem := by
  obtain ⟨t, ht, hot, hbytes, -, hplain⟩ := h.ctxsKept.done len 1
  exact ⟨t, ht, hplain, h.onlyCtx hot, hbytes, by rw [hot]; rfl⟩

theorem execTlbinv_spec (s : State) (a : BitVec 5) :
    (s.ctx.rx a).extractLsb' 60 4 ≠ 15 → Gives (execTlbinv a s) fun t => Others s t ∧ SameBytes s t ∧ Plain s 4 t.ctx
        ∧ (t.coreAt s.cur).tlb1 = s.core.tlb1.filter (fun g => !grantCovers g s.core.ident.pasid (s.ctx.rx a))
        ∧ (t.clusters[clusterOf s.cur]).tlb2 = (s.clusters[clusterOf s.cur]).tlb2.filter fun e => !grantCovers e.grant s.core.ident.pasid (s.ctx.rx a) := by
  intro h
  unfold execTlbinv
  dsimp only
  rw [if_neg h]
  obtain ⟨t, ht, hothers, hbytes, hplain, hcore, hclusters⟩ := done_modCore (s := s)
    (fun k => { k with tlb1 := k.tlb1.filter fun g => !grantCovers g s.core.ident.pasid (s.ctx.rx a) }) _ (fun _ => rfl) fun _ => rfl
  exact ⟨t, ht, hothers, hbytes, hplain, by rw [hcore]; rfl, by rw [hclusters]; simp⟩

/-- No entry maps an address whose entries have gone. -/
theorem findGrant_filtered (gs : List Grant) (es : List Tlb2) (pasid : BitVec 20) (va : Word) :
    findGrant (gs.filter (fun g => !grantCovers g pasid va) ++ (es.filter fun e => !grantCovers e.grant pasid va).map (·.grant)) pasid va false = none := by
  refine List.find?_eq_none.mpr fun g hg => ?_
  rcases List.mem_append.mp hg with hg | hg
  · simpa using (List.mem_filter.mp hg).2
  · obtain ⟨e, he, rfl⟩ := List.mem_map.mp hg
    simpa using (List.mem_filter.mp he).2

/-- FENCE with a group scope and no group. -/
theorem execFence_alone {s : State} {sc : BitVec 4} (o : BitVec 3) (h : sc = 2 ∧ s.slotGroup s.cur 0 = none) : execFence sc o s = trapStep 0x0C8 0 s :=
  if_pos ⟨h.1, by rw [h.2]; rfl⟩

theorem execFence_eq {s : State} {sc : BitVec 4} (o : BitVec 3) (h : ¬ (sc = 2 ∧ s.slotGroup s.cur 0 = none)) :
    execFence sc o s = if s.homeBusy s.cur s.hot then .next (s.spend 1) else releasing (o != 0) sc (ctxStep 4 1 id) s :=
  if_neg fun g => h ⟨g.1, Option.isNone_iff_eq_none.mp g.2⟩

/-- A fence whose earlier operations are performed. -/
theorem execFence_goes {s : State} {sc : BitVec 4} {o : BitVec 3} (h : ¬ (sc = 2 ∧ s.slotGroup s.cur 0 = none)) (hb : s.homeBusy s.cur s.hot = false)
    (hu : o ≠ 0 → s.unperformed s.cur s.hot = false) : execFence sc o s = (if o = 0 then s else s.releaseAt sc).done 4 1 id := by
  rw [execFence_eq o h, hb, if_neg Bool.false_ne_true]
  split
  next ho => rw [ho]; rfl
  next ho =>
    have hne : (o != 0) = true := bne_iff_ne.mpr ho
    rw [hne]
    exact releasing_goes (hu ho)

theorem execFence_waits {s : State} {sc : BitVec 4} {o : BitVec 3} (h : ¬ (sc = 2 ∧ s.slotGroup s.cur 0 = none))
    (hb : s.homeBusy s.cur s.hot = true ∨ (o ≠ 0 ∧ s.unperformed s.cur s.hot = true)) : execFence sc o s = .next (s.spend 1) := by
  rw [execFence_eq o h]
  split
  · rfl
  next hnot =>
    obtain ⟨ho, hu⟩ := hb.resolve_left hnot
    have hne : (o != 0) = true := bne_iff_ne.mpr ho
    rw [hne]
    exact releasing_waits hu

/-- Settles O9: the caches lose what the instruction names, and a fence ends once nothing of its context is open, its own lines written home. -/
theorem cacheAndFence : Obligations.CacheAndFence := by
  refine ⟨fun s a => ?_, fun s sc o b r => ?_⟩
  · dsimp only [exec_tlbinv, exec_iclean, exec_ifence]
    refine ⟨fun h => ?_, fun h => ?_, ?_, ?_⟩
    · rw [execTlbinv, if_pos h]
      exact noneWritten_ctxStep s 4 1
    · obtain ⟨t, ht, hothers, hbytes, hplain, htlb1, htlb2⟩ := execTlbinv_spec s a h
      exact ⟨t, ht, hothers, hbytes, hplain, htlb1, htlb2, by rw [htlb1, htlb2]; exact findGrant_filtered _ _ _ _⟩
    · obtain ⟨t, ht, hothers, hbytes, hplain, hcore, -⟩ := done_modCore (s := s)
        (fun k => { k with icache := k.icache.filter fun e => e.1 != lineVa (s.ctx.rx a) }) s.clusters (fun _ => rfl) fun _ => rfl
      have hic : (t.coreAt s.cur).icache = s.core.icache.filter fun e => e.1 != lineVa (s.ctx.rx a) := by rw [hcore]; rfl
      exact ⟨t, ht, hothers, hbytes, hplain, by rw [hic]; exact icacheLine_filter_self _ _, fun l hl => by rw [hic]; exact icacheLine_filter_of_ne _ hl⟩
    · obtain ⟨t, ht, hothers, hbytes, hplain, hcore, -⟩ := done_modCore (s := s) (fun k => { k with icache := [] }) s.clusters (fun _ => rfl) fun _ => rfl
      exact ⟨t, ht, hothers, hbytes, hplain, by rw [hcore]; rfl⟩
  · dsimp only [exec_fence, exec_pref]
    refine ⟨execFence_alone o, fun h hb hu => ?_, fun h hb => ?_, ?_⟩
    · rw [execFence_goes h hb hu]
      obtain ⟨t, ht, hplain, honly, hbytes, hmem⟩ := done_onlyMemory (OnlyMemory.ite (p := o = 0) (.refl s) (releaseAt_onlyMemory s sc)) 4
      refine ⟨t, ht, hplain, honly, fun hsame => SameBytes.trans ?_ hbytes, fun ho h5 hn w hw d hd => ?_⟩
      · split
        · exact .refl s
        next ho => exact (hsame.resolve_left ho).releaseAt sc
      · rw [if_neg ho, State.releaseAt, if_pos h5] at hmem
        rw [State.lineData, hmem]
        exact cleanOwn_lineData hn hw hd
    · rw [execFence_waits h hb]
      exact waits_spend s
    · obtain ⟨t, ht, hplain, honly, -, -⟩ := done_onlyMemory (prefetch_onlyMemory s s.cur (s.ctx.rx b) (r == 1)) 4
      exact ⟨t, ht, hplain, honly⟩

end Sys2Proof.Machine
end


section
namespace Sys2Proof.Machine

/-! The effective address of an access, and where an access goes (06 R167, R168, R196). -/

section
variable {p : Word} {rel : BitVec 10} {off : Int}

theorem va57_add_ofInt (p : Word) (off : Int) : va57 (p + BitVec.ofInt 64 off) = (p.extractLsb' 0 57 + BitVec.ofInt 57 off).signExtend 64 := by
  have hoff : (BitVec.ofInt 64 off).setWidth 57 = BitVec.ofInt 57 off := BitVec.eq_of_toNat_eq (by
    rw [BitVec.toNat_setWidth, BitVec.toNat_ofInt, BitVec.toNat_ofInt]
    omega)
  rw [va57, sext, BitVec.setWidth_add _ _ (by decide), hoff, BitVec.setWidth_eq_extractLsb' (by decide)]

theorem reserved_iff (p : Word) : bitsOf p.toNat 48 19 = 0 ↔ p.extractLsb' 19 30 = 0 := by
  rw [← BitVec.toNat_inj, BitVec.extractLsb'_toNat]
  rfl

/-- The pointers of a scratchpad that the core may use at an offset. -/
def Reaches (rel : BitVec 10) (p : Word) (off : Int) : Prop :=
  p.extractLsb' 19 30 = 0 ∧ 0 ≤ ((p.extractLsb' 0 19).toNat : Int) + off ∧ ((p.extractLsb' 0 19).toNat : Int) + off < 393216
    ∧ (p.getLsbD 49 = true ∨ p.extractLsb' 50 10 = rel)

theorem eff_scratchpad (hf : p.extractLsb' 60 4 = 15) (h : Reaches rel p off) : eff rel p off = .ok (.sp (((p.extractLsb' 0 19).toNat : Int) + off).toNat) := by
  obtain ⟨hres, h0, hlt, hcore⟩ := h
  rw [eff, if_pos hf, offset_eq]
  rw [if_neg, if_neg]
  · rintro ⟨hself, hne⟩
    exact hcore.elim (fun hs => by rw [hself] at hs; exact nomatch hs) hne
  · rintro (h | h | h)
    · exact h ((reserved_iff p).mpr hres)
    · exact absurd h0 (Int.not_le.mpr h)
    · exact absurd hlt (Int.not_lt.mpr h)

theorem eff_scratchpad_bad (hf : p.extractLsb' 60 4 = 15) (h : ¬ Reaches rel p off) : eff rel p off = .error (.trap 0x047 p) := by
  rw [eff, if_pos hf, offset_eq]
  dsimp only
  split
  · rfl
  next hrange =>
    obtain ⟨hres, h0, hlt⟩ : bitsOf p.toNat 48 19 = 0 ∧ 0 ≤ ((p.extractLsb' 0 19).toNat : Int) + off ∧ ((p.extractLsb' 0 19).toNat : Int) + off < (spSize : Int) := by
      simpa [not_or] using hrange
    refine if_pos ?_
    by_contra hcore
    refine h ⟨(reserved_iff p).mp hres, h0, hlt, ?_⟩
    by_contra hor
    obtain ⟨hself, hne⟩ := not_or.mp hor
    exact hcore ⟨Bool.eq_false_iff.mpr hself, hne⟩

theorem eff_token (hf : p.extractLsb' 60 4 = 11 ∨ p.extractLsb' 60 4 = 12 ∨ p.extractLsb' 60 4 = 14) : eff rel p off = .error (.trap 0x046 p) := by
  have h15 : p.extractLsb' 60 4 ≠ 15 := by rcases hf with h | h | h <;> rw [h] <;> decide
  rw [eff, if_neg h15, if_pos hf]

theorem eff_memory (hf : p.extractLsb' 60 4 ∉ [11, 12, 14, 15]) :
    eff rel p off = .ok (.mem ((p.extractLsb' 0 57 + BitVec.ofInt 57 off).signExtend 64)) := by
  simp only [List.mem_cons, List.not_mem_nil, or_false, not_or] at hf
  obtain ⟨h11, h12, h14, h15⟩ := hf
  rw [eff, if_neg h15, if_neg (by rintro (h | h | h); exacts [h11 h, h12 h, h14 h]), va57_add_ofInt]

end

section
variable {s : State} {c : CoreId} {x : CtxId} {w : Bool} {p : Piece}

/-- The checks of one element, in their order. -/
theorem resolve_one (s : State) (c : CoreId) (w : Bool) (p : Piece) : s.resolve c w [p] =
    match p.aligned with
    | .error e => .error e
    | .ok _ => match p.translated s c w with
      | .error e => .error e
      | .ok q => match p.permitted s c w with
        | .error e => .error e
        | .ok _ => .ok [q] := by
  unfold State.resolve
  cases h : p.aligned with
  | error e => simp [h, firstError, bind, Except.bind]
  | ok u =>
    cases ht : p.translated s c w with
    | error e => simp [h, ht, firstError, allOk, bind, Except.bind]
    | ok q => cases hp : p.permitted s c w <;> simp [h, ht, hp, firstError, allOk, bind, Except.bind, pure, Except.pure]

theorem access_of_resolve_error {ps : List Piece} {e : Stop} (h : s.resolve c w ps = .error e) : s.access c x w ps = .error e := by
  rw [State.access, State.reach, h]
  rfl

/-- An access whose places are known goes ahead or waits. -/
theorem access_of_resolve_ok {ps : List Piece} {qs : List Place} (h : s.resolve c w ps = .ok qs) : s.access c x w ps =
    if s.scoreboard c w ps || s.homeBusy c x then .error (.busy [])
    else if (s.hostLines c ps qs).isEmpty then .ok qs else .error (.busy (s.hostLines c ps qs)) := by
  rw [State.access, State.reach, h]
  rfl

theorem hostLines_one (s : State) (c : CoreId) (p : Piece) (q : Place) : s.hostLines c [p] [q] = (q.lines p.len ++ s.ownLines c q p.len).filter s.hostHolds := by
  rw [State.hostLines, List.zip_cons_cons, List.zip_nil_left, List.flatMap_singleton]

theorem access_one (h : s.resolve c w [p] = .ok [q]) (hfree : s.scoreboard c w [p] = false ∧ s.homeBusy c x = false)
    (hhost : ∀ l ∈ q.lines p.len ++ s.ownLines c q p.len, s.hostHolds l = false) : s.access c x w [p] = .ok [q] := by
  have hnone : s.hostLines c [p] [q] = [] := by
    rw [hostLines_one, List.filter_eq_nil_iff]
    exact fun l hl => by rw [hhost l hl]; exact Bool.false_ne_true
  rw [access_of_resolve_ok h, hfree.1, hfree.2, hnone]
  rfl

theorem access_misaligned (h : p.loc.num % p.align ≠ 0) : s.access c x w [p] = .error (.trap 0x042 p.loc.addr) :=
  access_of_resolve_error (by rw [resolve_one, Piece.aligned, if_neg h])

theorem resolve_sp {o : Nat} (hl : p.loc = .sp o) (ha : o % p.align = 0) : s.resolve c w [p] = .ok [.sp o] := by
  have haligned : p.aligned = .ok () := if_pos (by rw [hl]; exact ha)
  rw [resolve_one, haligned, Piece.translated, hl, Piece.permitted, hl]

section
variable {va : Word} (hl : p.loc = .mem va) (ha : low57 va % p.align = 0)
include hl ha

theorem resolve_mem : s.resolve c w [p] =
    match p.translated s c w with
    | .error e => .error e
    | .ok q => match p.permitted s c w with
      | .error e => .error e
      | .ok _ => .ok [q] := by
  have haligned : p.aligned = .ok () := if_pos (by rw [hl]; exact ha)
  rw [resolve_one, haligned]

theorem access_untranslated (ht : s.translate c va w = none) : s.access c x w [p] = .error (.miss va w) :=
  access_of_resolve_error (by rw [resolve_mem hl ha, Piece.translated, hl]; simp only [ht])

variable {pa : Nat} (ht : s.translate c va w = some pa)
include ht

theorem access_unlinked (hn : s.noPeer pa = true) : s.access c x w [p] = .error (.trap 0x041 va) :=
  access_of_resolve_error (by rw [resolve_mem hl ha, Piece.translated, hl]; simp only [ht, hn, if_true])

theorem resolve_translated (hn : s.noPeer pa = false) : s.resolve c w [p] =
    match p.permitted s c w with
    | .error e => .error e
    | .ok _ => .ok [.phys pa va (if s.firmwareCore c then 2 else (s.region (s.coreAt c).ident.pasid va).attr)] := by
  rw [resolve_mem hl ha, Piece.translated, hl]
  simp only [ht, hn, Bool.false_eq_true, if_false]

end

end

end Sys2Proof.Machine
end

section
namespace Sys2Proof.Machine

/-! Scalar loads and stores that do not go ahead (06 R184, R189, R195, R196). -/

section
variable {s : State} {st : Stop} {len z : Nat} {sg : Bool} {d b : BitVec 5} {off : Int} {sc : BitVec 4}

/-- What stops a scalar access: its pointer, or its place. -/
def State.Stopped (s : State) (b : BitVec 5) (off : Int) (z : Nat) (wr : Bool) (st : Stop) : Prop :=
  s.scalar b off z = .error st ∨ ∃ p, s.scalar b off z = .ok p ∧ s.access s.cur s.hot wr [p] = .error st

theorem ldStep_stop (h : s.Stopped b off z false st) : ldStep len z sg d b off s = s.stopStep st := by
  rcases h with h | ⟨p, hp, h⟩
  · rw [ldStep, h]
  · rw [ldStep, hp]
    dsimp only
    rw [loadStep, State.load, h]
    rfl

theorem stStep_stop (h : s.Stopped b off z true st) : stStep len z d b off s = s.stopStep st := by
  rcases h with h | ⟨p, hp, h⟩
  · rw [stStep, h]
  · rw [stStep, hp]
    dsimp only
    rw [storeStep, h]

theorem scopeStop_none {p : Piece} (h : ¬ (sc = 2 ∧ s.slotGroup s.cur 0 = none ∧ ∃ va, p.loc = .mem va)) : s.scopeStop sc p = none := by
  unfold State.scopeStop
  split
  · rfl
  next va hl => exact if_neg fun hg => h ⟨hg.1, Option.isNone_iff_eq_none.mp hg.2, va, hl⟩

/-- An access that only waits passes its checks. -/
theorem access_error {x : CtxId} {c : CoreId} {wr : Bool} {ps : List Piece} (h : s.access c x wr ps = .error st) :
    s.resolve c wr ps = .error st ∨ (∃ qs, s.resolve c wr ps = .ok qs) ∧ ∃ ls, st = .busy ls := by
  cases hr : s.resolve c wr ps with
  | error e => exact .inl ((access_of_resolve_error hr).symm.trans h)
  | ok qs =>
    rw [access_of_resolve_ok hr] at h
    refine .inr ⟨⟨qs, rfl⟩, ?_⟩
    split at h
    · exact ⟨[], (Except.error.inj h).symm⟩
    · split at h
      · exact nomatch h
      · exact ⟨_, (Except.error.inj h).symm⟩

/-- An ordered access that does not go ahead stops, or waits as the access itself does. -/
theorem orderedStep_stop {wr : Bool} {p : Except Stop Piece} {go : State → Out}
    (h : p = .error st ∨ ∃ q, p = .ok q ∧ ¬ (sc = 2 ∧ s.slotGroup s.cur 0 = none ∧ ∃ va, q.loc = .mem va) ∧ s.access s.cur s.hot wr [q] = .error st) :
    orderedStep wr sc p go s = s.stopStep st ∨ (∃ ls, st = .busy ls) ∧ orderedStep wr sc p go s = go s := by
  rcases h with rfl | ⟨q, rfl, hg, ha⟩
  · exact .inl rfl
  · rcases access_error ha with hr | ⟨⟨qs, hr⟩, hbusy⟩
    · exact .inl (by rw [orderedStep]; simp only [hr])
    · exact .inr ⟨hbusy, by rw [orderedStep]; simp only [hr, scopeStop_none hg]⟩

/-- A release leaves an access as it was. -/
theorem access_cleanOwn (s : State) (c : CoreId) (x : CtxId) (wr : Bool) (ps : List Piece) : (s.cleanOwn c).access c x wr ps = s.access c x wr ps := by
  have hown : ∀ q n, (s.cleanOwn c).ownLines c q n = s.ownLines c q n := fun q n => by
    unfold State.ownLines
    split
    · exact congrArg (List.filter · _) (funext fun l => congrArg Option.isNone (ownData_cleanOwn s c l))
    · rfl
  obtain ⟨m, k, h, -⟩ := cleanOwn_eq s c
  have hres : (s.cleanOwn c).resolve c wr ps = s.resolve c wr ps := by rw [h]; rfl
  have hboard : (s.cleanOwn c).scoreboard c wr ps = s.scoreboard c wr ps := by rw [h]; rfl
  have hhome : (s.cleanOwn c).homeBusy c x = s.homeBusy c x := by rw [h]; rfl
  have hholds : (s.cleanOwn c).hostHolds = s.hostHolds := by rw [h]; rfl
  have hhost : ∀ qs, (s.cleanOwn c).hostLines c ps qs = s.hostLines c ps qs := fun qs => by
    unfold State.hostLines
    rw [hholds]
    simp only [hown]
  cases hr : s.resolve c wr ps with
  | error e => rw [access_of_resolve_error (hres.trans hr), access_of_resolve_error hr]
  | ok qs => rw [access_of_resolve_ok (hres.trans hr), access_of_resolve_ok hr, hboard, hhome, hhost]

theorem stopped_cleanOwn {wr : Bool} (h : s.Stopped b off z wr st) : (s.cleanOwn s.cur).Stopped b off z wr st := by
  have honly := cleanOwn_onlyMemory s s.cur
  have hscalar : (s.cleanOwn s.cur).scalar b off z = s.scalar b off z := by
    rw [State.scalar, State.core, honly.coreAt, honly.cur, honly.ctx]
    rfl
  unfold State.Stopped
  rw [hscalar, honly.cur, honly.hot]
  simp only [access_cleanOwn]
  exact h

theorem scopeOf_releaseAt (s : State) (ptr : Word) (sc : BitVec 4) :
    s.releaseAt (scopeOf ptr sc) = if ptr.extractLsb' 60 4 != 15 && decide (5 ≤ sc.toNat) then s.cleanOwn s.cur else s := by
  unfold State.releaseAt scopeOf
  by_cases hf : ptr.extractLsb' 60 4 = 15
  · rw [if_pos hf, hf]
    rfl
  · rw [if_neg hf, bne_iff_ne.mpr hf, Bool.true_and]
    simp only [decide_eq_true_eq]

/-- ST_REL that only waits: it does so after its release. -/
theorem execStRel_busy {zc : BitVec 3} (hu : s.unperformed s.cur s.hot = false) (h : s.Stopped b 0 (sizeBytes zc) true st) :
    releasing true (scopeOf (s.ctx.rx b) sc) (stStep 4 (sizeBytes zc) d b 0) s
      = (if s.writesBack (.stRel d b sc zc) then s.cleanOwn s.cur else s).stopStep st := by
  rw [releasing_goes hu, scopeOf_releaseAt]
  refine stStep_stop ?_
  show State.Stopped (if s.writesBack (.stRel d b sc zc) then s.cleanOwn s.cur else s) _ _ _ _ _
  split
  · exact stopped_cleanOwn h
  · exact h

/-- What a load that does not go ahead does. -/
theorem scalarLoad_stop {i : Instr} (hi : scalarLoad i = some (len, z, sg, d, b, off))
    (h : s.scalar b off z = .error st ∨ ∃ p, s.scalar b off z = .ok p ∧ ¬ s.noGroup i p ∧ s.access s.cur s.hot false [p] = .error st) :
    exec i s = s.stopStep st := by
  have hstop : s.Stopped b off z false st := h.imp_right fun ⟨p, hp, _, ha⟩ => ⟨p, hp, ha⟩
  unfold scalarLoad at hi
  split at hi
  case h_9 d' b' sc zc =>
    obtain ⟨rfl, rfl, -, rfl, rfl, rfl⟩ := by simpa only [Option.some.injEq, Prod.mk.injEq] using hi
    rw [exec_ldAcq, execLdAcq]
    rcases orderedStep_stop (wr := false) (go := ldStep 4 (sizeBytes zc) (decide (zc.toNat < 3)) d' b' 0) h with he | ⟨-, he⟩
    · exact he
    · exact he.trans (ldStep_stop hstop)
  case h_10 => exact nomatch hi
  all_goals
    obtain ⟨rfl, rfl, -, rfl, rfl, rfl⟩ := by simpa only [Option.some.injEq, Prod.mk.injEq] using hi
    exact ldStep_stop hstop

/-- What a store that does not go ahead does: an ordered one that waits has released. -/
theorem scalarStore_stop {i : Instr} (hi : scalarStore i = some (len, z, d, b, off))
    (h : s.scalar b off z = .error st ∨ ∃ p, s.scalar b off z = .ok p ∧ ¬ s.noGroup i p ∧ s.access s.cur s.hot true [p] = .error st) :
    exec i s = s.stopStep st ∨ isRelease i = true ∧ (∃ ls, st = .busy ls)
      ∧ (s.unperformed s.cur s.hot = false → exec i s = (if s.writesBack i then s.cleanOwn s.cur else s).stopStep st) := by
  have hstop : s.Stopped b off z true st := h.imp_right fun ⟨p, hp, _, ha⟩ => ⟨p, hp, ha⟩
  unfold scalarStore at hi
  split at hi
  case h_6 d' b' sc zc =>
    obtain ⟨rfl, rfl, rfl, rfl, rfl⟩ := by simpa only [Option.some.injEq, Prod.mk.injEq] using hi
    rw [exec_stRel, execStRel]
    rcases orderedStep_stop (wr := true) (go := releasing true (scopeOf (s.ctx.rx b') sc) (stStep 4 (sizeBytes zc) d' b' 0)) h with he | ⟨hbusy, he⟩
    · exact .inl he
    · exact .inr ⟨rfl, hbusy, fun hu => he.trans (execStRel_busy hu hstop)⟩
  case h_7 => exact nomatch hi
  all_goals
    obtain ⟨rfl, rfl, rfl, rfl, rfl⟩ := by simpa only [Option.some.injEq, Prod.mk.injEq] using hi
    exact .inl (stStep_stop hstop)

theorem scalar_stop {i : Instr} {wr : Bool} (hi : (wr = false ∧ scalarLoad i = some (len, z, sg, d, b, off)) ∨ (wr = true ∧ scalarStore i = some (len, z, d, b, off)))
    (h : s.scalar b off z = .error st ∨ ∃ p, s.scalar b off z = .ok p ∧ ¬ s.noGroup i p ∧ s.access s.cur s.hot wr [p] = .error st) :
    exec i s = s.stopStep st ∨ isRelease i = true ∧ (∃ ls, st = .busy ls)
      ∧ (s.unperformed s.cur s.hot = false → exec i s = (if s.writesBack i then s.cleanOwn s.cur else s).stopStep st) := by
  rcases hi with ⟨rfl, hi⟩ | ⟨rfl, hi⟩
  · exact .inl (scalarLoad_stop hi h)
  · exact scalarStore_stop hi h

theorem onCtx_spend_onlyHot (s : State) (n : Nat) (f : Ctx → Ctx) : OnlyHot s ((s.spend n).onCtx f) := by
  unfold OnlyHot
  rw [State.ctx_onCtx, State.ctx_spend]
  simp [State.spend_eq, State.withHot, State.onCtx, State.modCtx, State.modCore, Core.modCtx, State.ctx, State.core, State.ctxAt, State.coreAt]

theorem onCtx_spend_sameBytes (s : State) (n : Nat) (f : Ctx → Ctx) : SameBytes s ((s.spend n).onCtx f) :=
  ⟨fun _ => rfl, fun c o => by rw [State.onCtx_sp]; exact (s.spend_sameBytes n).2 c o⟩

/-- Memory changes after the issuing context did. -/
theorem OnlyCtx.onlyMemory {t u : State} (h : OnlyCtx s t) (g : OnlyMemory t u) : OnlyCtx s u := by
  obtain ⟨hcur, hhot, hcores⟩ := h
  have hcore : u.core = t.core := by rw [State.core, g.coreAt, g.cur]; rfl
  exact ⟨g.cur.trans hcur, g.hot.trans hhot, by rw [g.ctx, hcore, g.cores, hcores]⟩

/-- A context that stalls on a translation asks for it (06 R184). -/
theorem stopStep_miss (s : State) (va : Word) (w : Bool) : Gives (s.stopStep (.miss va w)) fun t =>
    t.ctx = { s.ctx with busy := t.ctx.busy, status := .stalled } ∧ OnlyCtx s t ∧ SameBytes s t
      ∧ Instr.atsResponse (.ctx s.cur s.hot) s.core.ident.pasid va w ∈ t.pending := by
  have hstall : (s.spend 1).stall s.cur s.hot = (s.spend 1).onCtx fun k => { k with status := .stalled } := rfl
  have hpost := (post_onlySends ((s.spend 1).stall s.cur s.hot) (.atsResponse (.ctx s.cur s.hot) s.core.ident.pasid va w)).onlyMemory
  refine ⟨_, rfl, ?_, ((OnlyMemory.refl s).onlyCtx (hstall ▸ onCtx_spend_onlyHot s 1 _)).onlyMemory hpost, onCtx_spend_sameBytes s 1 _,
    List.mem_append_right _ List.mem_cons_self⟩
  rw [hpost.ctx, hstall, State.ctx_onCtx, State.ctx_spend]

theorem foldl_snoopHost_snooping {ls : List Nat} {l : Nat} (h : l ∈ ls ∨ (s.line l).snooping = true) : ((ls.foldl State.snoopHost s).line l).snooping = true := by
  induction ls generalizing s with
  | nil => exact h.resolve_left List.not_mem_nil
  | cons m r ih =>
    refine ih ?_
    rw [State.line, State.snoopHost, State.setLine, Sparse.get_set]
    by_cases hlm : l = m
    · exact .inr (by rw [if_pos hlm])
    · rw [if_neg hlm]
      exact h.imp_left fun hm => (List.mem_cons.mp hm).resolve_left hlm

/-- A context that waits for lines of the host asks for them (07 R225). -/
theorem stopStep_busy {u : State} (hu : OnlyMemory s u) (ls : List Nat) : Gives (u.stopStep (.busy ls)) fun t =>
    t.ctx = { s.ctx with busy := t.ctx.busy } ∧ OnlyCtx s t ∧ SameBytes u t ∧ ∀ l ∈ ls, (t.line l).snooping = true := by
  obtain ⟨lines, hlines⟩ := foldl_snoopHost_only ls (u.spend 1)
  have hsnoop : OnlyMemory (u.spend 1) (ls.foldl State.snoopHost (u.spend 1)) := hlines ▸ rfl
  refine ⟨_, rfl, ?_, (hu.onlyCtx (u.spend_onlyHot 1)).onlyMemory hsnoop, ?_, fun l hl => foldl_snoopHost_snooping (.inl hl)⟩
  · rw [hsnoop.ctx, State.ctx_spend, hu.ctx]
  · exact (u.spend_sameBytes 1).trans (.of_eq (by rw [hlines]) hsnoop.cores)

end

/-- Settles O10: an address and an access by their cases, and an access that does not go ahead stops, stalls or waits, an ordered store after its release. -/
theorem addressesAndAccessCauses : Obligations.AddressesAndAccessCauses := by
  refine ⟨fun rel p off => ⟨eff_scratchpad, eff_scratchpad_bad, eff_token, eff_memory⟩, fun s c x w p => ⟨access_misaligned, fun o hl ha hfree => ?_, fun va hl ha =>
    ⟨access_untranslated hl ha, fun pa ht => ⟨access_unlinked hl ha ht, fun hn => ⟨fun halien => ?_, fun hshared => ?_, fun halien hshared hfree hhost => ?_⟩⟩⟩⟩,
    fun s i len z sg wr d b off st hi h => ⟨fun cause v hst => ?_, fun va w hst => ?_, fun ls hst hu => ?_⟩⟩
  · exact access_one (resolve_sp hl ha) hfree fun l hm => absurd hm List.not_mem_nil
  · refine access_of_resolve_error ?_
    obtain ⟨hf, ha0, howner⟩ := halien
    rw [resolve_translated hl ha ht hn, Piece.permitted, hl]
    simp only [hf, Bool.false_eq_true, if_false]
    rw [if_pos ⟨ha0, howner⟩]
  · refine access_of_resolve_error ?_
    obtain ⟨hf, ha1, rfl⟩ := hshared
    rw [resolve_translated hl ha ht hn, Piece.permitted, hl]
    simp only [hf, Bool.false_eq_true, if_false]
    rw [if_neg (fun h => absurd (h.1.symm.trans ha1) (by decide)), if_pos ⟨ha1, trivial⟩]
  · refine access_one ?_ hfree hhost
    rw [resolve_translated hl ha ht hn, Piece.permitted, hl]
    cases hf : s.firmwareCore c with
    | true => simp
    | false =>
      simp only [Bool.false_eq_true, if_false]
      rw [if_neg fun g => halien ⟨hf, g⟩, if_neg fun g => hshared ⟨hf, g⟩]
  · subst hst
    rcases scalar_stop hi h with he | ⟨-, ⟨ls, hls⟩, -⟩
    · exact he
    · exact nomatch hls
  · subst hst
    rcases scalar_stop hi h with he | ⟨-, ⟨ls, hls⟩, -⟩
    · exact he ▸ stopStep_miss s va w
    · exact nomatch hls
  · subst hst
    rcases scalar_stop hi h with he | ⟨hrel, -, he⟩
    · obtain ⟨t, ht, hctx, honly, hbytes, hsnoop⟩ := stopStep_busy (.refl s) ls
      exact ⟨t, he.trans ht, hctx, honly, fun _ => hbytes, hsnoop⟩
    · have hclean : OnlyMemory s (if s.writesBack i then s.cleanOwn s.cur else s) := .ite (cleanOwn_onlyMemory s s.cur) (.refl s)
      obtain ⟨t, ht, hctx, honly, hbytes, hsnoop⟩ := stopStep_busy hclean ls
      refine ⟨t, (he (hu hrel)).trans ht, hctx, honly, fun hsame => SameBytes.trans ?_ hbytes, hsnoop⟩
      split
      next hw => exact (hsame.resolve_left (by rw [hw]; exact Bool.noConfusion)).cleanOwn
      next => exact .refl s

end Sys2Proof.Machine
end


section
namespace Sys2Proof.Machine

/-! Reads of a read-shared region (06 R181, R185): device memory that begins inside a line. -/

/-- The byte of a notification record that holds its count of 256 requests. -/
theorem noteRecord_count (phase : Bool) (pasid : BitVec 20) (cluster : Nat) (dev : BitVec 1) {g : Grant} (hv : g.va = 0) :
    BitVec.ofNat 8 (noteRecord phase pasid cluster dev g >>> (8 * 1)) = BitVec.ofNat 8 (1 + pageSize g.log * 2 ^ 77) := by
  have hva : (va57 (BitVec.ofNat 64 g.va)).toNat = 0 := by rw [hv]; rfl
  refine BitVec.eq_of_toNat_eq ?_
  rw [noteRecord, hva, BitVec.toNat_ofNat, BitVec.toNat_ofNat, Nat.shiftRight_eq_div_pow]
  cases phase <;> simp only [Bool.false_eq_true, if_true, if_false] <;> omega

/-- A record written to a ring that has room. -/
theorem notify_mem {s : State} {g : Grant} {r : NoteRing} (cluster : Nat) (hr : (s.space g.pasid).notes = some r)
    (hroom : ¬ 2 ^ r.log ≤ (r.written + 2 ^ 32 - s.mem.num r.indexAt 4) % 2 ^ 32) (ht : s.tags = []) :
    (s.notify cluster g).mem = s.mem.write (r.base + 16 * (r.written % 2 ^ r.log))
      (toBytes 16 (noteRecord (Config.firstPhase != (r.written / 2 ^ r.log % 2 == 1)) g.pasid cluster s.dev g)) := by
  rw [State.notify, hr]
  dsimp only
  rw [if_neg hroom]
  refine (store_spec _ _ _ ?_).mem
  rw [State.openCells, State.setSpace, ht]
  exact if_pos (.inr rfl)

/-- The 256th request to a page over the host port. -/
theorem countLine_full {s : State} {c : CoreId} {pa : Nat} {va : Word} {e : Tlb2} (hhost : s.hostMem pa = true)
    (hfind : (s.clusters[clusterOf c]).tlb2.find? (fun e => grantCovers e.grant (s.coreAt c).ident.pasid va) = some e) (hcount : e.count = 255) :
    ∃ k, s.countLine c pa va = ({ s with clusters := k } : State).notify (clusterOf c).val e.grant := by
  rw [State.countLine, hhost]
  simp only [hfind, hcount, Bool.not_true, Bool.false_eq_true, if_false]
  exact ⟨_, if_pos trivial⟩

/-- A read of a read-shared line that no cache near core c has. -/
theorem askShared_miss {s : State} {c : CoreId} {l : Nat} {va : Word} (hh : s.holds c l = false) (hr : (s.clusters[clusterOf c]).replica l = false)
    (ha : s.readAsked c l = false) : s.askShared c va l = (s.countLine c (64 * l) va).post (.mergeRead (s.routerOf (clusterOf c)) l (.core c)) := by
  rw [State.askShared, hh, hr, ha]
  rfl

theorem touchPlace_shared (s : State) (c : CoreId) (write : Bool) (pa : Nat) (va : Word) (n : Nat) :
    s.touchPlace c write (.phys pa va 1) n = (linesOf pa n).foldl (fun t l => t.askShared c va l) s := by
  unfold State.touchPlace
  dsimp only
  rw [if_neg (by decide), if_pos rfl]

/-- Address space 0 at the base of device memory. -/
def lineGrant : Grant := { pasid := 0, va := 0, log := 57, pa := 8, write := true }

/-- A ring of notification records at address 0x1000. -/
def noteRing : NoteRing := { base := 0x1000, indexAt := 0x2000, log := 4, written := 0, overflow := 0 }

/-- Device memory begins at address 8: the first doubleword of line 0 is host memory. Address space 0 is read-shared, its pages are counted in a ring of
notification records, and cluster 0 has counted 255 requests to the one page it knows. The splice unit of core 0 has spilled a pair to address 0. -/
def splitLine : State :=
  { State.reset.modCore 0 fun k => { k with splice := { k.splice with spilled := 1 } } with
    hdmBase := 8
    clusters := State.reset.clusters.set 0 { Cluster.reset with tlb2 := [{ grant := lineGrant, count := 255 }] }
    spaces := [(0, { Space.reset with table := [BitVec.ofNat 128 (1 + 2 ^ 74 + (2 ^ 45 - 1) * 2 ^ 76)], notes := some noteRing })] }

/-- The place of address 0. -/
def splitPlace : Place := .phys 8 0 1

theorem splitLine_calm (n : Nat) : splitLine.calm 0 splitPlace n := by
  have hnone : splitLine.openCells 8 n = [] := if_pos (.inr rfl)
  unfold State.calm splitPlace
  refine ⟨fun _ _ => rfl, fun c hc => ?_, .inl (by decide +kernel)⟩
  rw [hnone] at hc
  exact nomatch hc

theorem splitLine_request : splitLine.hostMem 0 = true
    ∧ (splitLine.clusters[clusterOf 0]).tlb2.find? (fun e => grantCovers e.grant (splitLine.coreAt 0).ident.pasid 0) = some { grant := lineGrant, count := 255 }
    ∧ splitLine.holds 0 0 = false ∧ (splitLine.clusters[clusterOf 0]).replica 0 = false ∧ splitLine.readAsked 0 0 = false := by decide +kernel

theorem splitLine_room : ¬ 2 ^ noteRing.log ≤ (noteRing.written + 2 ^ 32 - splitLine.mem.num noteRing.indexAt 4) % 2 ^ 32 := by decide +kernel

/-- The request for line 0 is one to host memory, the 256th, and its record changes the byte at 0x1001. -/
theorem splitLine_countLine : (splitLine.countLine 0 0 0).mem.byte 0x1001 = 1 := by
  obtain ⟨hhost, hfind, -⟩ := splitLine_request
  obtain ⟨k, hcount⟩ := countLine_full hhost hfind rfl
  rw [hcount, notify_mem (s := { splitLine with clusters := k }) (g := lineGrant) (r := noteRing) _ rfl splitLine_room rfl, Mem.byte_write, toBytes_length, if_pos (by decide)]
  exact (toBytes_getD (by decide) _).trans (noteRecord_count _ _ _ _ rfl)

/-- A read of at most 56 bytes at address 0 makes that request. -/
theorem splitLine_touchPlace {n : Nat} (h : linesOf 8 n = [0]) : (splitLine.touchPlace 0 false splitPlace n).mem.byte 0x1001 = 1 := by
  obtain ⟨-, -, hholds, hreplica, hasked⟩ := splitLine_request
  rw [splitPlace, touchPlace_shared, h, List.foldl_cons, List.foldl_nil, askShared_miss hholds hreplica hasked, State.mem_post]
  exact splitLine_countLine

theorem splitLine_reads : splitLine.scalar 0 0 8 = .ok { loc := .mem 0, len := 8, align := 8 }
    ∧ splitLine.reach 0 0 false false [{ loc := .mem 0, len := 8, align := 8 }] = .ok [splitPlace]
    ∧ splitLine.load [{ loc := .mem 0, len := 16, align := 1 }] = .bytes [List.replicate 16 0] [splitPlace]
    ∧ splitLine.mem.byte 0x1001 = 0 := by decide +kernel

/-- An access whose place is known and whose scope has no cause goes ahead. -/
theorem withPlace_goes {s : State} {scope : BitVec 4} {write board : Bool} {p : Piece} {q : Place} {go : Place → State → Out}
    (hr : s.reach s.cur s.hot write board [p] = .ok [q]) (hs : s.scopeStop scope p = none) : withPlace scope write board (.ok p) go s = go q s := by
  rw [withPlace]
  cases hres : s.resolve s.cur write [p] with
  | error e =>
    rw [State.reach, hres] at hr
    exact nomatch hr
  | ok qs => simp only [hs, hr]

/-- FPEEK of a place ends after the coherence actions of its read. -/
theorem execFpeek_mem {s : State} {d a : BitVec 5} {p : Piece} {q : Place} (hp : s.scalar a 0 8 = .ok p) (hr : s.reach s.cur s.hot false false [p] = .ok [q]) :
    (Outcome.state (exec (.fpeek d a) s)).mem = (s.touchPlace s.cur false q 8).mem := by
  rw [exec_fpeek, execFpeek, peekStep, hp, withPlace_goes hr (scopeStop_none fun h => absurd h.1 (by decide))]
  dsimp only
  split <;> rfl

/-- Refutes O29: in splitLine FPEEK reads the line of its cell by a request that counts as one to host memory, for it names the line by its first byte; a
record of 256 requests is written. The address of the cell is no host address, which is all that calm asks. -/
theorem not_homeRequests : ¬ Obligations.HomeRequests := by
  intro h
  obtain ⟨hscalar, hreach, -, hold⟩ := splitLine_reads
  obtain ⟨-, -, -, hread⟩ := h splitLine 0 0 0 0 0 0 { loc := .mem 0, len := 8, align := 8 } splitPlace
  obtain ⟨hpeek, -⟩ := hread hscalar hreach
  obtain ⟨-, -, hbytes⟩ := hpeek.state
  have hb := (hbytes (fun _ he => nomatch he) fun e he => List.mem_singleton.mp he ▸ splitLine_calm 8).1 0x1001
  have hnew : (splitLine.touchPlace splitLine.cur false splitPlace 8).mem.byte 0x1001 = 1 := splitLine_touchPlace (by decide)
  rw [execFpeek_mem hscalar hreach, hnew, hold] at hb
  exact absurd hb (by decide)

theorem slNext_mem {s : State} {c : CoreId} (h : (s.spliceAt c).pend = []) : (s.slNext c).mem = s.mem := by
  have hrecycle : (if s.engReady (.unit c 5) then s.recycle c else s) = s := by
    rw [State.recycle, h]
    exact ite_self s
  have hpost : ∀ (b : Bool) (o : Option Instr) (all : List Instr), (if b then s else match o with
      | some i => if all.contains i then s else s.post i
      | none => s).mem = s.mem := fun b o all => by
    cases b with
    | true => rfl
    | false =>
      cases o with
      | none => rfl
      | some i =>
        rw [if_neg Bool.false_ne_true]
        dsimp only
        split <;> rfl
  unfold State.slNext
  dsimp only
  rw [hrecycle]
  split
  · exact hpost _ _ _
  · split
    · exact hpost _ _ _
    · split
      · exact hpost _ _ _
      · exact hpost _ _ _

theorem touchAll_one_mem (s : State) (c : CoreId) (write : Bool) (p : Piece) (q : Place) : (s.touchAll c write [p] [q]).mem = (s.touchPlace c write q p.len).mem := by
  unfold State.touchAll
  dsimp only
  split <;> rfl

/-- SPOP of a spilled pair ends after the coherence actions of its read. -/
theorem execSpop_spilled_mem {s : State} {d : BitVec 5} {bs : List (List Byte)} {qs : List Place} {ps : List Piece} {m : Nat} {p : Word × Word}
    (hbag : s.core.splice.bag = []) (hspilled : s.core.splice.spilled ≠ 0) (hpend : s.core.splice.pend = []) (hm : m = min 32 s.core.splice.spilled)
    (hps : ps = (List.range m).map fun i => { loc := .mem (spillEntry s.core.splice.spill (s.core.splice.spilled - m + i)), len := 16, align := 1 })
    (hload : s.load ps = .bytes bs qs) (hp : (pairsOf bs.flatten m).getLast? = some p) :
    (Outcome.state (exec (.spop d) s)).mem = (s.touchAll s.cur false ps qs).mem := by
  have hbranch : ¬ ((!s.core.splice.bag.isEmpty) = true ∨ s.core.splice.spilled = 0) := by
    rw [hbag]
    exact fun h => h.elim Bool.false_ne_true hspilled
  have hkept := touchAll_onlyMemory s s.cur false ps qs
  have hunit : s.spliceAt s.cur = s.core.splice := rfl
  subst hps hm
  rw [exec_spop]
  unfold execSpop
  dsimp only
  rw [hunit, if_neg hbranch, hload]
  dsimp only
  rw [hp, hkept.cur]
  refine (slNext_mem ?_).trans rfl
  rw [State.spliceAt, State.modSplice, State.coreAt_modCore, hkept.coreAt]
  exact hpend

/-- Refutes O32: in splitLine SPOP reads the spilled pair back as FPEEK reads its cell in not_homeRequests, and a record of 256 requests is written. -/
theorem not_spliceInstructions : ¬ Obligations.SpliceInstructions := by
  intro h
  obtain ⟨-, -, hload, hold⟩ := splitLine_reads
  obtain ⟨-, -, hpop, -⟩ := h splitLine 0 0 0
  obtain ⟨-, -, -, -, hbytes⟩ := (hpop [List.replicate 16 0] [splitPlace] (0, 0) rfl (by decide) rfl hload (by decide)).state
  have hb := (hbytes (fun _ he => nomatch he) fun e he => List.mem_singleton.mp he ▸ splitLine_calm 16).1 0x1001
  have hnew : (splitLine.touchPlace splitLine.cur false splitPlace 16).mem.byte 0x1001 = 1 := splitLine_touchPlace (by decide)
  rw [execSpop_spilled_mem (ps := [{ loc := .mem 0, len := 16, align := 1 }]) (p := (0, 0)) rfl (by decide) rfl rfl (by decide) hload (by decide), touchAll_one_mem, hnew, hold] at hb
  exact absurd hb (by decide)

end Sys2Proof.Machine
end
